-- ==== Sys2Proof/Word.lean ====
section
/-! DEFINITION. Word types shared by the whole model (00_scope.md, "Numbers, bits and units"). -/

namespace Sys2Proof

/-- One byte. -/
abbrev Byte := BitVec 8

/-- One 64-bit word: a register, an entry word, an instruction (R7). -/
abbrev W64 := BitVec 64

/-- A channel number 0-63 (R16). On a J4 the channels 32-63 are absent (R2). -/
abbrev Chan := BitVec 6

/-- A thread of a channel engine, 0-7 (R88). -/
abbrev Thr := BitVec 3

/-- A die context of a channel, `j = 32 × chip enable + 4 × volume + LUN` (R201). -/
abbrev Ctx := BitVec 6

/-- A queue number, 0-131,071 (R314). -/
abbrev QNum := BitVec 17

end Sys2Proof
end

