-- ==== Sys2Proof/Syntax.lean ====
section
/-! DEFINITION. The commands of the block: one constructor per row of spec/opcode_table.json, in the
table's order, each with the operands the outside world supplies with that step. Where a row is an
issue step of a Trowel thread, its operands stand in the instruction word at the thread's pc, so the
constructor names the channel and the thread. -/

namespace Sys2Proof

/-- The form of a register port access (R59): a 64-bit access, a 32-bit access of the low or the high
half, a 64 B burst, or any other width or alignment (`other`), which is refused. -/
inductive Acc where
  | full
  | low
  | high
  | burst
  | other
  deriving DecidableEq, Repr

/-- What a fabric read brings back: its words, or a fabric error response. A beat that carries the
poison attribute counts as an error on a control read (R435). -/
inductive MemResp where
  | words (ws : List W64)
  | error
  | poisoned
  deriving DecidableEq, Repr

/-- The response of one data transaction: a write response or the bytes read, with one poison mark for
each 64 B beat (R66), or a fabric error response. -/
inductive DataResp where
  | wrote
  | read (bytes : List Byte) (poison : List Bool)
  | error
  deriving DecidableEq, Repr

/-- The response of a write: of which of the unanswered writes of its kind, the oldest being 0, and whether it is a
fabric error (R63: the fabric answers in any order). -/
structure WriteResp where
  nth : Nat
  err : Bool
  deriving DecidableEq, Repr

/-- An index block write leaves the block, or its response returns (R316). -/
inductive IndexStep where
  | issue
  | response (err : Bool)
  deriving DecidableEq, Repr

/-- Whose transfer a DMA response belongs to: an entry, by its number in the entry store, or the stream
list of an engine (R355). -/
inductive XferRef where
  | entry (id : Nat)
  | stream (e : BitVec 2)
  deriving DecidableEq, Repr

/-- A Lath frame as it stands at a port (R476), with the outcome of its CRC check. `hop` is MODE 0. -/
structure Frame where
  typ     : BitVec 4
  cls     : Bool
  laneB   : Bool
  pathMode : Bool
  chunks  : BitVec 7
  src     : BitVec 16
  route   : BitVec 32
  word1   : W64
  mask    : W64
  payload : List Byte
  seq     : BitVec 16
  crc     : BitVec 32
  deriving DecidableEq, Repr

/-- The commands (spec/opcode_table.json). -/
inductive Instr where
  /-- SQ_TAIL_DOORBELL (R314). A write of a new tail to an SQ doorbell is latched by the queue engine intake, or ignored with BAD_DOORBELL set. -/
  | sqTailDoorbell (n : QNum) (a : Acc) (v : W64)
  /-- CQ_HEAD_DOORBELL (R314). A write of a new head to a CQ doorbell frees ring space, or is ignored with BAD_DOORBELL set. -/
  | cqHeadDoorbell (n : QNum) (a : Acc) (v : W64)
  /-- REGISTER_WRITE (R8). A register port write to a register with no row of its own stores, sets or clears fields according to their access types. -/
  | registerWrite (off : Nat) (a : Acc) (v : W64)
  /-- CAL_RECORD_WRITE (R49). A register port write to a calibration record stores its RW fields and leaves the record STALE, or is rejected with WRITE_REJECT set. -/
  | calRecordWrite (w : Nat) (a : Acc) (v : W64)
  /-- IC_MSG_WRITE (R408). A write to IC_MSG posts the named message source, or is refused with BAD_MSG set. -/
  | icMsgWrite (a : Acc) (v : W64)
  /-- IC_MASK_SYNC_READ (R420). The read waits until every masked selected or presented vector is taken or withdrawn, then returns ESCAPED and clears it. -/
  | icMaskSyncRead (a : Acc)
  /-- IC_EOI_WRITE (R416). An EOI removes the named level, recomputes RUNPRIO, re-samples the level sources and places eligible sources, or is refused with BAD_EOI set. -/
  | icEoiWrite (p : BitVec 4) (a : Acc) (v : W64)
  /-- HAWK_ALLOC_READ (R383). A read of HAWK_ALLOC pops a buffer of its pool, without fallback, and returns its handle, or returns 0. -/
  | hawkAllocRead (k : Nat) (a : Acc)
  /-- HAWK_FREE_WRITE (R379). A write to HAWK_FREE appends the handle's buffer to its pool's list, or ignores it with BAD_HANDLE set. -/
  | hawkFreeWrite (k : Nat) (a : Acc) (v : W64)
  /-- HAWK_POOL_CFG_WRITE (R376). A write of HAWK_POOL_CFG enables a pool and builds its free list, disables it, changes LOW, or is refused with CFG_REJECT set. -/
  | hawkPoolCfgWrite (k : Nat) (a : Acc) (v : W64)
  /-- STREAM_DATA_WINDOW_READ (R394). A 64-bit read of a stream data window pops the head word and returns it, or waits while the FIFO is empty. -/
  | streamDataWindowRead (s : BitVec 2) (o : BitVec 16) (a : Acc)
  /-- RD_WAIT_EXPIRY (R395). A waiting window read reaches RD_WAIT and ends with a fabric error response and RD_EXPIRED set. -/
  | rdWaitExpiry
  /-- FLUSH (R397). STR_CTRL.FLUSH discards the unreserved held words, grants credits, ends waiting pops and may put the stream into trim. -/
  | flush (s : BitVec 2) (a : Acc) (v : W64)
  /-- STREAM_ENABLE_WRITE (R389). A write of STR_CTRL.ENABLE starts or stops the granting of credits to the stream's producer. -/
  | streamEnableWrite (s : BitVec 2) (a : Acc) (v : W64)
  /-- DMA_SDOOR_WRITE (R367). A write to DMA_SDOOR makes a stalled stream list read its current descriptor again. -/
  | dmaSdoorWrite (e : BitVec 2) (a : Acc) (v : W64)
  /-- SENABLE_WRITE (R367). A write of DMA_CTRL.SENABLE starts the stream list, is refused with SREFUSED set, or stops the list after the transfers in flight. -/
  | senableWrite (e : BitVec 2) (a : Acc) (v : W64)
  /-- QE_QCTL_ENABLE (R321). QE_QCTL ENABLE reads and checks a queue context and enables the queue, or refuses it with a reason. -/
  | qeQctlEnable (cq : Bool) (q : QNum) (a : Acc)
  /-- QE_QCTL_DISABLE (R341). QE_QCTL DISABLE stops fetching from an SQ, or disables a CQ, or refuses it with a reason. -/
  | qeQctlDisable (cq : Bool) (q : QNum) (a : Acc)
  /-- QE_QCTL_RESERVED (R351). QE_QCTL command 3 is refused with reason 7. -/
  | qeQctlReserved (cq : Bool) (q : QNum) (a : Acc)
  /-- REGISTER_COLD_RESET (R508). A GCTL_RESET write with COLD and KEY 0xA5 isolates every domain other than CTL at once and cold-resets the block. -/
  | registerColdReset (warmToo : Bool) (a : Acc)
  /-- REGISTER_WARM_RESET (R506). A GCTL_RESET write with WARM and KEY 0xA5 ends all work in flight and warm-resets the block. -/
  | registerWarmReset (a : Acc)
  /-- HALT_EVIDENCE_CLEAR (R347). Writing EVIDENCE = 1 while the block is not halted clears the halt evidence, GCTL_HALT_TIME and GCTL_HALT_ENTRY. -/
  | haltEvidenceClear (a : Acc)
  /-- CH_PATCH_GO (R174). A CH_PATCH write with GO starts a patch, which is refused at once or waits for no routine to be running. -/
  | chPatchGo (c : Chan) (a : Acc) (v : W64)
  /-- PATCH_COPY (R174). Once no routine is running, the patch copies Primer words into the control store or dispatch table, ending DONE or FAULT. -/
  | patchCopy (c : Chan)
  /-- FENCE_FILL (R216). A CH_FENCE_CFG write with FILL starts writing FILL_VALUE into every fence entry of the channel's region. -/
  | fenceFill (c : Chan) (a : Acc) (v : W64)
  /-- FENCE_FILL_END (R216). The fence fill finishes its region, FILLING clears, and waiting class 1 and class 2 DOPs proceed. -/
  | fenceFillEnd (c : Chan)
  /-- CH_FENCE_DATA_READ (R217). A read of CH_FENCE_DATA returns the fence entry named by CH_FENCE_ADDR, as one fence access. -/
  | chFenceDataRead (c : Chan) (a : Acc)
  /-- CH_FENCE_DATA_WRITE (R217). A write of CH_FENCE_DATA stores the fence entry named by CH_FENCE_ADDR, as one fence access. -/
  | chFenceDataWrite (c : Chan) (a : Acc) (v : W64)
  /-- CH_DIE_WRITE (R203). A write of CH_DIE stores DSTATE and the fence fields; a change from FOREIGN to ACTIVE admits the die and resets its Plumb state. -/
  | chDieWrite (c : Chan) (j : Ctx) (a : Acc) (v : W64)
  /-- CH_PINCTL_WRITE (R200). A write of WP_LEVEL sets WP_PEND until the level takes force at a qualifying channel boundary. -/
  | chPinctlWrite (c : Chan) (a : Acc) (v : W64)
  /-- PWR_DOMAIN_ON (R512). Setting ON[d] requests power-up of the domain, which is a wake if the domain is asleep. -/
  | pwrDomainOn (a : Acc) (v : W64)
  /-- PWR_DOMAIN_SLEEP (R516). Clearing ON[d] requests that the domain drain to quiescence and then power down. -/
  | pwrDomainSleep (a : Acc) (v : W64)
  /-- PWR_RETENTION_REQUEST (R512). Setting RET requests STG retention; the request is refused with REFUSED_DEP while a quad or bank is not OFF. -/
  | pwrRetentionRequest (a : Acc) (v : W64)
  /-- INT_BANK_RETIRE_WRITE (R446). A write of RETIRED retires staging banks, logs BANK_RETIRED and makes the pools withhold the buffers that touch those banks. -/
  | intBankRetireWrite (a : Acc) (v : W64)
  /-- POOL_WITHHOLD_END (R386). A pool finishes removing its withheld buffers from its list and serves requests again. -/
  | poolWithholdEnd (k : Nat)
  /-- SPLIT_WINDOW_READ (R438). A read of the split-access test window returns staging data, raw data, or parity and mark bits, according to VIEW. -/
  | splitWindowRead (o : BitVec 21) (a : Acc)
  /-- SPLIT_WINDOW_WRITE (R438). A write through the split-access test window stores staging data, raw data, or parity and mark bits, according to VIEW. -/
  | splitWindowWrite (o : BitVec 21) (a : Acc) (v : W64)
  /-- PRIMER_WINDOW_READ (R452). A read of the Primer read window returns checked word data, or a fabric error for a parity failure or a busy array. -/
  | primerWindowRead (w : BitVec 20) (a : Acc)
  /-- PRM_NOP (R454). Primer command NOP does nothing and leaves RESULT unchanged. -/
  | prmNop (a : Acc)
  /-- PRM_READ (R454). Primer command READ places the data of the word at PRM_ADDR in PRM_DATA. -/
  | prmRead (a : Acc)
  /-- PRM_PROGRAM (R456). Primer command PROGRAM checks that the target word is blank and programs DATA into it with verify. -/
  | prmProgram (a : Acc)
  /-- PRM_ERASE (R457). Primer command ERASE journals an intent and erases the sector holding the word at PRM_ADDR, with verify. -/
  | prmErase (a : Acc)
  /-- PRM_SUSPEND (R462). Primer command SUSPEND suspends the running erase or program at the end of its current pulse. -/
  | prmSuspend (a : Acc)
  /-- PRM_RESUME (R462). Primer command RESUME resumes the innermost suspended Primer operation. -/
  | prmResume (a : Acc)
  /-- PRM_READ_FACTORY (R467). Primer command READ_FACTORY places a word of the factory row in PRM_DATA. -/
  | prmReadFactory (a : Acc)
  /-- PRM_ROTATE (R466). Primer command ROTATE checks that the entering sector is blank, writes a ROTATE record and advances HEAD. -/
  | prmRotate (a : Acc)
  /-- PRM_ERASE_VERIFY (R454). Primer command ERASE_VERIFY places the count of zero bits of the sector in PRM_DATA. -/
  | prmEraseVerify (a : Acc)
  /-- PRM_RESERVED_CMD (R454). A reserved Primer command code ends with RESULT BAD_CMD. -/
  | prmReservedCmd (code : BitVec 4) (a : Acc)
  /-- PRM_PULSE_END (R457). A Primer pulse with its verify ends, and the command advances, finishes, or takes a pending suspend. -/
  | prmPulseEnd (good : Bool)
  /-- PRM_WINDOW_ENABLE (R465). A PRM_WINDOW_BASE write that sets ENABLE stores BASE, sets HEAD to 0 and writes a ROTATE record. -/
  | prmWindowEnable (a : Acc) (v : W64)
  /-- LATH_PROBE_GO (R499). A LATH_PROBE write with GO sends a PROBE frame along the given route. -/
  | lathProbeGo (a : Acc) (v : W64)
  /-- PROBE_TIMEOUT (R499). A probe without a reply ends TIMED_OUT after TIMEOUT. -/
  | probeTimeout
  /-- LATH_SELF_WRITE (R492). A write of LATH_SELF.NODE numbers or withdraws the node, or is ignored with CFG_REJECT set while remote entries are in flight. -/
  | lathSelfWrite (a : Acc) (v : W64)
  /-- LATH_NODE_WRITE (R502). A write of LATH_NODE admits a peer with its route, or is refused with CFG_REJECT set. -/
  | lathNodeWrite (i : BitVec 12) (a : Acc) (v : W64)
  /-- LATH_PORT_ENABLE (R475). Setting ENABLE in LATH_PORT_CTL starts link training at 800 MT/s; clearing it makes the port inert and discards its frames. -/
  | lathPortEnable (x : BitVec 2) (a : Acc) (v : W64)
  /-- SRV_FAULT_INFO_READ (R75). A read of SRV_FAULT_INFO returns the servo fault record and clears it. -/
  | srvFaultInfoRead (a : Acc)
  /-- PLB_FAULT_INFO_READ (R269). A read of PLB_FAULT_INFO returns the first following-error fault record and clears it. -/
  | plbFaultInfoRead (a : Acc)
  /-- LATH_EVENT_READ (R498). A read of LATH_EVENT returns the first Lath event record and clears it. -/
  | lathEventRead (a : Acc)
  /-- INT_ERRLOG_READ (R441). A read of INT_ERRLOG returns the integrity log summary and clears it. -/
  | intErrlogRead (a : Acc)
  /-- CH_LDPC_STAT_READ (R256). A read of CH_LDPC_STAT returns the decode counts of the channel and clears them. -/
  | chLdpcStatRead (c : Chan) (a : Acc)
  /-- STR_STATUS_READ (R405). A read of STR_STATUS returns the stream status and clears DISCARDED. -/
  | strStatusRead (s : BitVec 2) (a : Acc)
  /-- GCTL_SOFT_STATE_READ (R257). A read of GCTL_SOFT_STATE returns the soft decoder pool state and clears MAXWAIT. -/
  | gctlSoftStateRead (a : Acc)
  /-- PWR_TOKEN_STATE_READ (R223). A read of PWR_TOKEN_STATE returns the token state and clears MAXWAIT. -/
  | pwrTokenStateRead (a : Acc)
  /-- INT_BANK_RETIRE_READ (R445). A read of INT_BANK_RETIRE returns the register and clears HITS. -/
  | intBankRetireRead (a : Acc)
  /-- LATH_PORT_STATE_READ (R501). A read of LATH_PORT_STATE returns the port state and clears CRC_ERRORS and DOWNS. -/
  | lathPortStateRead (x : BitVec 2) (a : Acc)
  /-- ADD (R122). RD := RA + RB. -/
  | add (c : Chan) (t : Thr)
  /-- ADDI (R122). RD := RA + imm. -/
  | addi (c : Chan) (t : Thr)
  /-- SUB (R122). RD := RA − RB. -/
  | sub (c : Chan) (t : Thr)
  /-- SUBI (R122). RD := RA − imm. -/
  | subi (c : Chan) (t : Thr)
  /-- AND (R122). RD := RA and RB. -/
  | and (c : Chan) (t : Thr)
  /-- ANDI (R122). RD := RA and imm. -/
  | andi (c : Chan) (t : Thr)
  /-- OR (R122). RD := RA or RB. -/
  | or (c : Chan) (t : Thr)
  /-- ORI (R122). RD := RA or imm. -/
  | ori (c : Chan) (t : Thr)
  /-- XOR (R122). RD := RA xor RB. -/
  | xor (c : Chan) (t : Thr)
  /-- XORI (R122). RD := RA xor imm. -/
  | xori (c : Chan) (t : Thr)
  /-- SHL (R123). RD := RA shifted left by RB[5:0]. -/
  | shl (c : Chan) (t : Thr)
  /-- SHLI (R123). RD := RA shifted left by IMM32[5:0]. -/
  | shli (c : Chan) (t : Thr)
  /-- SHR (R123). RD := RA shifted right by RB[5:0], with zero fill. -/
  | shr (c : Chan) (t : Thr)
  /-- SHRI (R123). RD := RA shifted right by IMM32[5:0], with zero fill. -/
  | shri (c : Chan) (t : Thr)
  /-- SAR (R123). RD := RA shifted right by RB[5:0], with sign fill. -/
  | sar (c : Chan) (t : Thr)
  /-- SARI (R123). RD := RA shifted right by IMM32[5:0], with sign fill. -/
  | sari (c : Chan) (t : Thr)
  /-- ROR (R123). RD := RA rotated right by RB[5:0]. -/
  | ror (c : Chan) (t : Thr)
  /-- RORI (R123). RD := RA rotated right by IMM32[5:0]. -/
  | rori (c : Chan) (t : Thr)
  /-- MINU (R122). RD := the unsigned lesser of RA and RB. -/
  | minu (c : Chan) (t : Thr)
  /-- MAXU (R122). RD := the unsigned greater of RA and RB. -/
  | maxu (c : Chan) (t : Thr)
  /-- POPC (R122). RD := the count of one bits in RA. -/
  | popc (c : Chan) (t : Thr)
  /-- CLZ (R122). RD := the leading zero bits of RA, 64 if RA is 0. -/
  | clz (c : Chan) (t : Thr)
  /-- CTZ (R122). RD := the trailing zero bits of RA, 64 if RA is 0. -/
  | ctz (c : Chan) (t : Thr)
  /-- EXTR (R123). RD := the W-bit field of RA at bit LO. -/
  | extr (c : Chan) (t : Thr)
  /-- INSR (R123). The W-bit field of RD at bit LO := RA[W−1:0], other bits of RD kept. -/
  | insr (c : Chan) (t : Thr)
  /-- MUL (R122). RD := the low 64 bits of RA × RB. -/
  | mul (c : Chan) (t : Thr)
  /-- MULHU (R122). RD := the unsigned high 64 bits of RA × RB. -/
  | mulhu (c : Chan) (t : Thr)
  /-- MULI (R122). RD := the low 64 bits of RA × imm. -/
  | muli (c : Chan) (t : Thr)
  /-- MOV (R122). RD := RA. -/
  | mov (c : Chan) (t : Thr)
  /-- LIMM (R123). RD := IMM48 zero-extended, or RD[63:48] := IMM48[15:0] when HIGH is set. -/
  | limm (c : Chan) (t : Thr)
  /-- SEQ (R124). RD := 1 if RA = RB, else 0. -/
  | seq (c : Chan) (t : Thr)
  /-- SEQI (R124). RD := 1 if RA = imm, else 0. -/
  | seqi (c : Chan) (t : Thr)
  /-- SNE (R124). RD := 1 if RA ≠ RB, else 0. -/
  | sne (c : Chan) (t : Thr)
  /-- SNEI (R124). RD := 1 if RA ≠ imm, else 0. -/
  | snei (c : Chan) (t : Thr)
  /-- SLT (R124). RD := 1 if RA < RB signed, else 0. -/
  | slt (c : Chan) (t : Thr)
  /-- SLTI (R124). RD := 1 if RA < imm signed, else 0. -/
  | slti (c : Chan) (t : Thr)
  /-- SLTU (R124). RD := 1 if RA < RB unsigned, else 0. -/
  | sltu (c : Chan) (t : Thr)
  /-- SLTUI (R124). RD := 1 if RA < imm unsigned, else 0. -/
  | sltui (c : Chan) (t : Thr)
  /-- SLE (R124). RD := 1 if RA ≤ RB signed, else 0. -/
  | sle (c : Chan) (t : Thr)
  /-- SLEI (R124). RD := 1 if RA ≤ imm signed, else 0. -/
  | slei (c : Chan) (t : Thr)
  /-- SLEU (R124). RD := 1 if RA ≤ RB unsigned, else 0. -/
  | sleu (c : Chan) (t : Thr)
  /-- SLEUI (R124). RD := 1 if RA ≤ imm unsigned, else 0. -/
  | sleui (c : Chan) (t : Thr)
  /-- BR (R125). Executes the delay slot, then branches to TARGET if COND holds on RA. -/
  | br (c : Chan) (t : Thr)
  /-- CB (R125). Compares RA with RB in two issue steps, executes the delay slot, and branches to TARGET if COND holds. -/
  | cb (c : Chan) (t : Thr)
  /-- CALL (R125). Sets g31 := b + 2, executes the delay slot and continues at TARGET. -/
  | call (c : Chan) (t : Thr)
  /-- CALLR (R125). Sets g31 := b + 2, executes the delay slot and continues at RA[14:0]. -/
  | callr (c : Chan) (t : Thr)
  /-- RET (R125). Executes the delay slot and continues at RA[14:0]. -/
  | ret (c : Chan) (t : Thr)
  /-- EVRET (R127). Leaves the event handler and resumes at the event pc word of the frame, or raises a pending ABORT. -/
  | evret (c : Chan) (t : Thr)
  /-- LD (R128). RD := the zero-extended scratch value at RA + OFFSET. -/
  | ld (c : Chan) (t : Thr)
  /-- LDS (R128). RD := the sign-extended scratch value at RA + OFFSET. -/
  | lds (c : Chan) (t : Thr)
  /-- ST (R128). Stores RD into scratch at RA + OFFSET with fresh parity. -/
  | st (c : Chan) (t : Thr)
  /-- SWAP (R128). Indivisibly exchanges RD with the scratch value at RA + OFFSET. -/
  | swap (c : Chan) (t : Thr)
  /-- FADD (R128). Indivisibly adds RD to the scratch value at RA + OFFSET and returns the old value. -/
  | fadd (c : Chan) (t : Thr)
  /-- DOP (R153). Judges a die operation by the five checks and makes its micro-routine ready, or ends it with an outcome or CAL_INVALID. -/
  | dop (c : Chan) (t : Thr)
  /-- DOPW (R132). Waits for the thread's outstanding DOP and writes its outcome word, or raises DIE_TIMEOUT. -/
  | dopw (c : Chan) (t : Thr)
  /-- DOPT (R131). RD := 1 if no DOP is outstanding or it has ended, else 0, without waiting. -/
  | dopt (c : Chan) (t : Thr)
  /-- PRGR (R164). RD := PRG. -/
  | prgr (c : Chan) (t : Thr)
  /-- CALCOMMIT_CHANGE (R48). Commits a record image as CHANGE, counting the commit if it alters an RW field. -/
  | calcommitChange (c : Chan) (t : Thr)
  /-- CALCOMMIT_REVALIDATE (R48). Commits a record as REVALIDATE, making it VALID without storing any value or counting. -/
  | calcommitRevalidate (c : Chan) (t : Thr)
  /-- MOVE (R134). Copies RD bytes between scratch, codeword buffers, Hawk buffers and streams, carrying poison marks. -/
  | move (c : Chan) (t : Thr)
  /-- HALLOC (R137). Allocates a buffer from a pool, with optional fallback and optional waiting, and returns its handle or 0. -/
  | halloc (c : Chan) (t : Thr)
  /-- HFREE (R137). Returns the buffer of a handle to its pool. -/
  | hfree (c : Chan) (t : Thr)
  /-- OPEN (R289). Render command OPEN finds or takes a stripe context in WRITE or READ mode, allocating parity buffers for WRITE. -/
  | openCtx (c : Chan) (t : Thr)
  /-- ACCUMULATE (R291). Render command ACCUMULATE adds a member's buffer to the context's syndromes. -/
  | accumulate (c : Chan) (t : Thr)
  /-- PARITY_OUT (R292). Render command PARITY_OUT solves the parity at its first call and returns a parity buffer handle. -/
  | parityOut (c : Chan) (t : Thr)
  /-- REBUILD (R294). Render command REBUILD fetches missing members, solves and writes the target member into the destination buffer. -/
  | rebuild (c : Chan) (t : Thr)
  /-- RELEASE (R293). Render command RELEASE records a member position as reported OK or FAILED. -/
  | release (c : Chan) (t : Thr)
  /-- CLOSE (R293). Render command CLOSE frees a stripe context and returns its parity buffers, or reports NOT_READY. -/
  | closeCtx (c : Chan) (t : Thr)
  /-- RENDER_FETCH_END (R298). A member fetch for a rebuild ends, and its page is accumulated or its position becomes an erasure. -/
  | renderFetchEnd (id : BitVec 10) (pos : Ctx) (pg : BitVec 4)
  /-- RENDER_FETCH_TIMEOUT (R298). A fetch reaches FETCH_TMO; its position becomes an erasure, FETCH_TMO is set and the fetch is aborted. -/
  | renderFetchTimeout (id : BitVec 10) (pos : Ctx) (pg : BitVec 4)
  /-- PLBRD (R139). RD := the Plumb read offset of the selected die, zone and level. -/
  | plbrd (c : Chan) (t : Thr)
  /-- PLBWR (R263). Sets the Plumb read offset of the selection, clamped, with ACC := OFS × 4096. -/
  | plbwr (c : Chan) (t : Thr)
  /-- PLBRST (R263). Resets all Plumb state of a die context. -/
  | plbrst (c : Chan) (t : Thr)
  /-- PLBFRZ_FREEZE (R139). Stops Plumb loop updates for a die context. -/
  | plbfrzFreeze (c : Chan) (t : Thr)
  /-- PLBFRZ_RESUME (R139). Resumes Plumb loop updates for a die context. -/
  | plbfrzResume (c : Chan) (t : Thr)
  /-- QPOST (R141). Posts an extra completion from a scratch image to a CQ, waiting for room in the completion buffer. -/
  | qpost (c : Chan) (t : Thr)
  /-- END (R101). Ends the program, waits for a place in the completion buffer and hands the entry's completion to the queue engine. -/
  | endProg (c : Chan) (t : Thr)
  /-- FEAT (R116). RD := a feature word or the thread's local word. -/
  | feat (c : Chan) (t : Thr)
  /-- TIME (R70). RD := a TIME sample. -/
  | time (c : Chan) (t : Thr)
  /-- WAITT (R143). Waits until a TIME sample reaches RA, then writes that sample. -/
  | waitt (c : Chan) (t : Thr)
  /-- WAITT_EXPIRY (R144). A waiting WAITT finds a TIME sample at or above RA and completes. -/
  | waittExpiry (c : Chan) (t : Thr)
  /-- WAITE (R144). Waits until a signal flag of its mask is set and consumes the set flags. -/
  | waite (c : Chan) (t : Thr)
  /-- SIGSET (R144). Sets signal flags, each releasing the earliest WAITE waiting on it. -/
  | sigset (c : Chan) (t : Thr)
  /-- NOP (R143). Does nothing. -/
  | nop (c : Chan) (t : Thr)
  /-- DADD (R147). RD := the n-digit BCD sum of RA and RB, with carry. -/
  | dadd (c : Chan) (t : Thr)
  /-- DSUB (R147). RD := the n-digit BCD difference RA − RB, with borrow. -/
  | dsub (c : Chan) (t : Thr)
  /-- DADJ (R148). RD := the decimal adjustment of RA over n digits. -/
  | dadj (c : Chan) (t : Thr)
  /-- BCD2BIN (R146). RD := the binary value of the low n BCD digits of RA. -/
  | bcd2bin (c : Chan) (t : Thr)
  /-- BIN2BCD (R146). RD := RA as n BCD digits. -/
  | bin2bcd (c : Chan) (t : Thr)
  /-- MSFADD (R149). RD := the MSF sum of RA and RB. -/
  | msfadd (c : Chan) (t : Thr)
  /-- MSFSUB (R149). RD := the MSF difference RA − RB. -/
  | msfsub (c : Chan) (t : Thr)
  /-- MSF2N (R146). RD := the frame count of the MSF value RA. -/
  | msf2n (c : Chan) (t : Thr)
  /-- N2MSF (R146). RD := the MSF value of the frame count RA. -/
  | n2msf (c : Chan) (t : Thr)
  /-- DSLT (R146). RD := 1 if the n-digit RA is numerically below the n-digit RB. -/
  | dslt (c : Chan) (t : Thr)
  /-- ABORT (R322). Admin command ABORT finds the named entry and races it against its END, completing OK or ABORT_LATE. -/
  | abort
  /-- ENTRY_TAKEN_BY_THREAD (R100). The lowest-numbered idle thread takes the entry in the dispatch slot, copies it to its frame and starts the named program. -/
  | entryTakenByThread (c : Chan)
  /-- CALIBRATION_START (R52). The block starts the CH_CAL_ENTRY program on a free thread, ahead of the dispatch slot, for a STALE record. -/
  | calibrationStart (c : Chan)
  /-- ROUTINE_START (R90). The micro-engine starts or resumes the highest-PRIO ready micro-routine at a channel boundary. -/
  | routineStart (c : Chan)
  /-- IDLE (R156). Microword step with no strobe, holding chip enable as the CE field says. -/
  | idle (c : Chan)
  /-- CMD (R156). Microword step that drives one command cycle with the byte from BSRC. -/
  | cmd (c : Chan)
  /-- ADDR (R156). Microword step that drives one address cycle with the byte from BSRC. -/
  | addr (c : Chan)
  /-- DIN (R230). Microword step that sends a data input burst through the chosen data path. -/
  | din (c : Chan)
  /-- DOUT (R230). Microword step that receives a data output burst through the chosen data path into a codeword buffer. -/
  | dout (c : Chan) (d : List Byte)
  /-- STAT (R158). Microword step that captures one data output byte into STATUS. -/
  | stat (c : Chan) (b : Byte)
  /-- TRAIN_OUT (R156). Microword step that captures a raw output burst with per-bit timing capture for read training. -/
  | trainOut (c : Chan) (d : List Byte)
  /-- TRAIN_IN (R156). Microword step that sends a raw training pattern burst to the die. -/
  | trainIn (c : Chan)
  /-- SOFT_HANDOFF (R249). IDLE microword step with DPATH SOFT that queues one soft decode of a codeword's planes. -/
  | softHandoff (c : Chan)
  /-- ROUTINE_END (R167). An END microword drives its cycle, raises chip enable and ends the routine, which is a channel boundary. -/
  | routineEnd (c : Chan) (d : List Byte)
  /-- OUTCOME_WRITE (R242). Once every decode and soft handoff of an ended routine has ended, its outcome word is written and DOPW completes. -/
  | outcomeWrite (c : Chan) (t : Thr)
  /-- PARK_EXPIRY (R165). A parked routine's DLY delay runs out and it becomes ready again. -/
  | parkExpiry (c : Chan) (t : Thr)
  /-- READY_TIMEOUT (R169). A routine's ready timeout expires; it is made ready and sent to ABT at its next yield point. -/
  | readyTimeout (c : Chan) (t : Thr)
  /-- ROUTINE_KILL (R169). A second timeout interval expires; the micro-engine ends the routine in the DIE_TIMEOUT state. -/
  | routineKill (c : Chan) (t : Thr)
  /-- PUMP_START_ADMIT (R224). A waiting pump-start step is admitted when a token is free and no guard applies, taking a token and strobing WE_N. -/
  | pumpStartAdmit
  /-- DQ_GUARD_RELEASE (R160). A data burst step waiting on DQ_EN guards starts when TIME leaves every guard window. -/
  | dqGuardRelease (c : Chan) (d : List Byte)
  /-- TOKEN_RETURN (R224). A token returns to the pool at the first TIME sample at or after admission + HOLD. -/
  | tokenReturn
  /-- HARD_DECODE_END (R240). The hard decoder decides a codeword HARD_OK, HARD_FAIL, HARD_CRC or ERASED and writes its report. -/
  | hardDecodeEnd (c : Chan)
  /-- SOFT_ASSIGN (R251). The oldest queued handoff goes to the lowest-numbered free soft decoder of a powered bank. -/
  | softAssign
  /-- SOFT_DECODE_END (R250). A soft decoder finishes and writes its result and report into the first buffer. -/
  | softDecodeEnd (k : BitVec 4)
  /-- CAL_WINDOW_OPEN (R36). A measurement window opens on the idle delay line at its PERIOD. -/
  | calWindowOpen (c : Chan)
  /-- CAL_MEASURE_END (R36). The 1,000th REFCLK edge closes the window; the lap count is converted to a pending swap or found a measurement fault. -/
  | calMeasureEnd (c : Chan) (laps : Nat)
  /-- FETCH_TURN (R331). The arbiter grants a fetch turn to an SQ and issues one entry read of up to 2^BURST entries. -/
  | fetchTurn
  /-- ENTRY_CHECK (R345). Fetched entry data arrives and each entry is checked, resolved and placed in the entry store, or halts the block. -/
  | entryCheck (k : Nat) (r : MemResp)
  /-- CONTEXT_READ_DONE (R317). A context read for an evicted or newly enabled queue returns and the work waiting for it proceeds. -/
  | contextReadDone (cq : Bool) (q : QNum) (r : MemResp)
  /-- CONTEXT_WRITE_RESPONSE (R317). A context write or write-back response returns; a fabric error sets CTX_ERROR and keeps the context cached. -/
  | contextWriteResponse (cq : Bool) (q : QNum) (r : WriteResp)
  /-- FRAGMENT_TABLE_READ_DONE (R329). A fragment table read returns and is checked, or the entry completes MISALIGNED. -/
  | fragmentTableReadDone (id : Nat) (r : MemResp)
  /-- ENTRY_BUFFER_ALLOC (R328). The queue engine takes a Hawk buffer for an entry with DIR not NONE, after waiting if none is free. -/
  | entryBufferAlloc (id : Nat)
  /-- ENTRY_DISPATCH (R89). The queue engine places an entry into an empty channel dispatch slot, or wakes its quad, or completes it OFFLINE. -/
  | entryDispatch (id : Nat)
  /-- COMPLETION_POST (R336). After every data write response, the completion is written to its CQ or held in the completion buffer. -/
  | completionPost (id : Nat)
  /-- COMPLETION_WRITE_RESPONSE (R336). A completion write response returns; the CQ's interrupt message is posted, or a fabric error halts the block. -/
  | completionWriteResponse (q : QNum) (r : WriteResp)
  /-- BATCH_POST (R337). A batch completion is posted covering every OK BATCH entry that the frontier has passed. -/
  | batchPost (sq : QNum)
  /-- BATCH_TIME_EXPIRY (R337). BATCH_TIME passes since the first unreported covered entry and forces a batch completion. -/
  | batchTimeExpiry (sq : QNum)
  /-- INDEX_PUBLISH (R316). The block writes a queue's index block, and again when the index has moved at the previous write's response. -/
  | indexPublish (cq : Bool) (q : QNum) (e : IndexStep)
  /-- ADMIN_NOP (R322). Admin command NOP completes OK at once. -/
  | adminNop
  /-- CREATE_CQ (R322). Admin command CREATE_CQ writes and enables a CQ context. -/
  | createCq
  /-- CREATE_SQ (R322). Admin command CREATE_SQ writes and enables an SQ context. -/
  | createSq
  /-- DELETE_SQ (R343). Admin command DELETE_SQ disables an SQ and completes once its fetched entries have completed. -/
  | deleteSq
  /-- DELETE_CQ (R322). Admin command DELETE_CQ deletes a CQ at once, or is refused. -/
  | deleteCq
  /-- DISABLE_SQ (R341). Admin command DISABLE_SQ stops fetching, publishes the final head and writes back the context. -/
  | disableSq
  /-- ENABLE_SQ (R342). Admin command ENABLE_SQ resumes fetching at the given HEAD. -/
  | enableSq
  /-- SET_ARB (R322). Admin command SET_ARB sets WEIGHT, BURST and URGENT of an SQ from its next turn. -/
  | setArb
  /-- DMA_DESCRIPTOR_READ_DONE (R362). Descriptor reads of an entry's list return and the whole list is checked before any data moves, or faults. -/
  | dmaDescriptorReadDone (x : XferRef) (r : MemResp)
  /-- DMA_DATA_RESPONSE (R364). A data transaction's response or read data returns, marking poison or faulting the descriptor. -/
  | dmaDataResponse (x : XferRef) (i : Nat) (j : Nat) (r : DataResp)
  /-- DMA_WRITEBACK_RESPONSE (R364). A descriptor word 2 or word 3 write-back response returns, advancing to OWN clear or to the next descriptor. -/
  | dmaWritebackResponse (x : XferRef) (i : Nat) (err : Bool)
  /-- DMA_STREAM_BURST (R399). An engine serving a stream starts a burst of up to BURST_MAX packets and reserves their words. -/
  | dmaStreamBurst (e : BitVec 2)
  /-- STREAM_WORD_IN (R389). A producer word arrives on a stream input and is held, discarded, or waits for a credit. -/
  | streamWordIn (s : BitVec 2) (w : W64) (em : Bool)
  /-- SRV_PUBLISH (R72). The servo engine publishes a sample instant on SRV_NEXT, moving the previous one to SRV_PREV. -/
  | srvPublish (n : W64)
  /-- SERVO_FAULT_MSG (R75). The servo fault message arrives, posts SERVO_FAULT, is recorded and may start the S0 trace freeze. -/
  | servoFaultMsg (mech : BitVec 3) (loopCode : BitVec 4)
  /-- IC_PRESENT (R412). The controller selects an eligible source and presents its vector at a processor, withdrawing a lower one. -/
  | icPresent
  /-- TAKEN (R413). A core raises TAKEN; the source's pending bit clears, its priority is pushed and its group's hold-off starts. -/
  | taken (p : BitVec 4)
  /-- HOLDOFF_EXPIRY (R418). A group's hold-off reaches its end time and its sources become eligible again. -/
  | holdoffExpiry (g : Nat)
  /-- PWR_GRANT_RISE (R84). PWR_GNT[d] rises; the block releases isolation and reset and brings the domain up. -/
  | pwrGrantRise (d : Nat)
  /-- PWR_GRANT_FALL (R84). PWR_GNT[d] falls after a power-down request and the domain shows OFF. -/
  | pwrGrantFall (d : Nat)
  /-- RET_GRANT (R84). RET_GNT answers RET_REQ, and STG enters or leaves retention. -/
  | retGrant (level : Bool)
  /-- QUIESCENCE (R516). A draining domain reaches quiescence; the block asserts ISO[d] and lowers PWR_REQ[d]. -/
  | quiescence (d : Nat)
  /-- QUAD_LOAD (R514). The loader writes a powered-up quad's images, after which its engines show RUN and its records STALE. -/
  | quadLoad (q : BitVec 4)
  /-- STG_INIT_END (R431). Staging initialisation after an STG grant ends, and STG shows ON. -/
  | stgInitEnd
  /-- PFAIL_RISE (R520). PFAIL rises; the PFAIL level source is set, Primer erases stop and fetching and pump starts may be held. -/
  | pfailRise
  /-- PFAIL_FALL (R520). PFAIL falls without power loss; waiting pump starts are admitted and fetching resumes. -/
  | pfailFall
  /-- BROWNOUT_RISE (R80). BROWNOUT rises; the block is held in reset with every output inert and the Primer pulse ended. -/
  | brownoutRise
  /-- BROWNOUT_FALL (R503). BROWNOUT falls and the block starts as after a cold reset. -/
  | brownoutFall
  /-- POWER_ON_RESET (R503). PWR_GNT[0] rises and the block performs a power-on cold reset and boot. -/
  | powerOnReset
  /-- FUSE_WORD (R81). One word of the fuse map is delivered; at word 64 the CRC is checked and the map accepted or faulted. -/
  | fuseWord (w : W64)
  /-- FUSE_TIMEOUT (R82). The fuse map is not complete within 100 µs; no repair is applied and FUSE_FAULT is logged. -/
  | fuseTimeout
  /-- BOOT_INIT_END (R510). The INIT boot phase ends and BOOT advances. -/
  | bootInitEnd
  /-- BOOT_JOURNAL (R460). The loader scans and replays the Primer journal, finishing any unfinished journal erase. -/
  | bootJournal
  /-- BOOT_DIRECTORY (R469). The loader reads both directory copies, accepts one and reaches READY. -/
  | bootDirectory
  /-- LATH_REQUEST (R485). A REQUEST frame arrives at its target, which refuses, rejects or accepts and dispatches the entry. -/
  | lathRequest (x : BitVec 2) (f : Frame)
  /-- LATH_DATA (R485). A DATA frame arrives and its chunks are written into the receiving buffer with their poison marks. -/
  | lathData (x : BitVec 2) (f : Frame)
  /-- LATH_ACCEPT (R487). An ACCEPT frame arrives; the fetching node records the target's EPOCH and restarts the timer. -/
  | lathAccept (x : BitVec 2) (f : Frame)
  /-- LATH_COMPLETE (R485). A COMPLETE frame arrives; the fetching node moves the data to the host and posts the completion with REMOTE set. -/
  | lathComplete (x : BitVec 2) (f : Frame)
  /-- LATH_REJECT (R485). A REJECT frame arrives; the node halts for BAD_CHANNEL or BAD_OPCODE, or completes REMOTE_LOST for NOT_ADMITTED. -/
  | lathReject (x : BitVec 2) (f : Frame)
  /-- LATH_ABORT (R488). An ABORT frame arrives and the target decides the abort of the named entry. -/
  | lathAbort (x : BitVec 2) (f : Frame)
  /-- LATH_ABORT_RESULT (R488). An ABORT_RESULT frame arrives and the ABORT's completion is posted on CQ0. -/
  | lathAbortResult (x : BitVec 2) (f : Frame)
  /-- LATH_HEARTBEAT (R486). A HEARTBEAT frame arrives and restarts the remote timers of entries to that node. -/
  | lathHeartbeat (x : BitVec 2) (f : Frame)
  /-- LATH_PROBE (R477). A PROBE frame arrives and the node answers with a PROBE_REPLY along the return route. -/
  | lathProbe (x : BitVec 2) (f : Frame)
  /-- LATH_PROBE_REPLY (R499). A PROBE_REPLY arrives, fills LATH_PROBE_RESULT and ends the probe ANSWERED. -/
  | lathProbeReply (x : BitVec 2) (f : Frame)
  /-- LATH_HELLO (R475). A HELLO frame arrives, completing link training to UP, or posting JOIN for an unadmitted neighbour. -/
  | lathHello (x : BitVec 2) (f : Frame)
  /-- LATH_LINK (R478). A LINK frame arrives with an ACK, a NAK that triggers a replay, and credit returns. -/
  | lathLink (x : BitVec 2) (f : Frame)
  /-- LATH_FRAME_FORWARD (R482). A frame not delivered here is forwarded by hop or path, or discarded with DISCARDED set. -/
  | lathFrameForward (x : BitVec 2) (f : Frame)
  /-- LINK_TRAIN_STEP (R475). A 20 µs training step at one rate ends, and the link climbs to the next rate or stops at the last that passed. -/
  | linkTrainStep (x : BitVec 2) (pass : Bool)
  /-- LINK_TRAIN_RETRY (R475). A port that failed at 800 MT/s retries training after 1 ms. -/
  | linkTrainRetry (x : BitVec 2)
  /-- HEARTBEAT_TIMER (R486). Every TIMEOUT / 4 a target holding entries from a node sends that node a HEARTBEAT. -/
  | heartbeatTimer (node : BitVec 16)
  /-- REMOTE_TIMEOUT (R486). A remote entry's timer expires; it completes REMOTE_LOST and the target node becomes DEPARTED. -/
  | remoteTimeout (tag : BitVec 12)
  /-- BROWN_OUT_DETECTOR_TRIP (R458). The Primer store's brown-out detector trips when the core supply falls below 0.62 V; no new pulse begins, the running pulse is ended and the running or suspended command ends CUT. -/
  | brownOutDetectorTrip
  /-- BROWN_OUT_DETECTOR_RELEASE (R458). Once the core supply has been at or above 0.65 V for 100 µs with BROWNOUT low and reset released, Primer pulses may begin again. -/
  | brownOutDetectorRelease
  /-- LATH_NO_LINK (R474). A Lath port finds its peer's pins at the idle levels (peer disabled, reset or unpowered), reads this as no link, takes the link DOWN, discards its held frames and posts LINK_DOWN. -/
  | lathNoLink (x : BitVec 2)
  deriving DecidableEq, Repr

end Sys2Proof
end

