-- ==== Sys2Proof/Decode.lean ====
section
/-! DEFINITION. The opcode table gives none of its rows bits: a command reaches the block as an access, a
frame, a pin or an event, never as a coded word. So no word spells a command. -/

namespace Sys2Proof

/-- The command that `nbits` bits with value `w` spell by the table's bits: none, as no row has bits. -/
def decodeTableWord (_nbits _w : Nat) : Option Instr := none

end Sys2Proof
end

