-- ==== Sys2Proof/Machine/Bits.lean ====
section
/-! DEFINITION. Bit fields, byte order and CRC-32 (00_scope.md "Numbers, bits and units": little-endian
throughout), and the sparse tables that hold memories and register arrays. -/

namespace Sys2Proof.Machine

/-! ## Bit fields -/

/-- Field of `len` bits of `w` starting at bit `lo`. -/
def fld {n : Nat} (w : BitVec n) (lo len : Nat) : BitVec len := w.extractLsb' lo len

/-- Bit `i` of `w`. -/
def bit {n : Nat} (w : BitVec n) (i : Nat) : Bool := w.getLsbD i

/-- Value `x` placed at bit `lo` of a 64-bit word. -/
def at_ {n : Nat} (lo : Nat) (x : BitVec n) : W64 := x.setWidth 64 <<< lo

/-- One bit placed at bit `lo` of a 64-bit word. -/
def flag (lo : Nat) (b : Bool) : W64 := if b then 1#64 <<< lo else 0

/-- `w` with bit `i` set to `b`. -/
def setBit {n : Nat} (w : BitVec n) (i : Nat) (b : Bool) : BitVec n :=
  if b then w ||| (1#n <<< i) else w &&& ~~~(1#n <<< i)

/-- `old` with the bits of `m` replaced by those of `new`. -/
def merge {n : Nat} (old new m : BitVec n) : BitVec n := (old &&& ~~~m) ||| (new &&& m)

/-- `x + 1`, held at the all-ones value. -/
def satInc {n : Nat} (x : BitVec n) : BitVec n := if x = BitVec.allOnes n then x else x + 1

/-- `x + k`, held at the all-ones value. -/
def satAdd {n : Nat} (x : BitVec n) (k : Nat) : BitVec n :=
  if x.toNat + k < 2 ^ n then x + BitVec.ofNat n k else BitVec.allOnes n

/-- Number of one bits. -/
def popCount {n : Nat} (x : BitVec n) : Nat := (List.range n).countP x.getLsbD

/-- Zero bits above the highest one bit of a 64-bit word. -/
def clz64 (x : W64) : Nat := ((List.range 64).takeWhile fun i => !x.getLsbD (63 - i)).length

/-- Zero bits below the lowest one bit of a 64-bit word. -/
def ctz64 (x : W64) : Nat := ((List.range 64).takeWhile fun i => !x.getLsbD i).length

/-! ## Bytes and words -/

/-- The low `n` bytes of a word, lowest address first. -/
def wordBytes (n : Nat) (w : W64) : List Byte := (List.range n).map fun i => fld w (8 * i) 8

/-- The word whose bytes are `bs`, lowest address first. -/
def bytesWord : List Byte → W64
  | [] => 0
  | b :: bs => b.setWidth 64 ||| (bytesWord bs <<< 8)

/-- The bytes of a list of words. -/
def wordsBytes (ws : List W64) : List Byte := ws.flatMap (wordBytes 8)

/-- A byte list cut into words; a short tail is filled with zero bytes. `fuel` bounds the words. -/
def bytesWords : (fuel : Nat) → List Byte → List W64
  | 0, _ => []
  | _, [] => []
  | fuel + 1, bs => bytesWord (bs.take 8) :: bytesWords fuel (bs.drop 8)

/-! ## CRC-32 -/

/-- One bit of the CRC-32 register, least significant bit first (IEEE polynomial, reflected). -/
def crc32Bit (c : BitVec 32) : BitVec 32 :=
  if c.getLsbD 0 then (c >>> 1) ^^^ 0xEDB88320#32 else c >>> 1

/-- One byte into the CRC-32 register. -/
def crc32Byte (c : BitVec 32) (b : Byte) : BitVec 32 :=
  (List.range 8).foldl (fun c _ => crc32Bit c) (c ^^^ b.setWidth 32)

/-- CRC-32, IEEE polynomial, initial value all ones, result inverted. -/
def crc32 (bs : List Byte) : BitVec 32 := ~~~(bs.foldl crc32Byte 0xFFFFFFFF#32)

/-- Odd parity bit of a byte (R429): with it the nine bits hold an odd number of ones. -/
def oddParity (b : Byte) : Bool := popCount b % 2 = 0

/-! ## Sparse tables -/

/-- Value at key `k`, or the default `d`. -/
def tget {α : Type} (d : α) (k : Nat) (m : List (Nat × α)) : α :=
  match m.find? (·.1 == k) with
  | some e => e.2
  | none => d

/-- The table with `k` holding `v`, listed whatever `v` is. -/
def tput {α : Type} (k : Nat) (v : α) (m : List (Nat × α)) : List (Nat × α) :=
  m.filter (·.1 < k) ++ (k, v) :: m.filter (k < ·.1)

/-- The table with `k` unlisted. -/
def tdel {α : Type} (k : Nat) (m : List (Nat × α)) : List (Nat × α) :=
  m.filter (·.1 < k) ++ m.filter (k < ·.1)

/-- The table with `k` holding `v`; a value equal to the default `d` is not listed. -/
def tset {α : Type} [DecidableEq α] (d : α) (k : Nat) (v : α) (m : List (Nat × α)) : List (Nat × α) :=
  if v = d then tdel k m else tput k v m

/-- Cells `a`, `a + 1`, … holding `vs`, defaults left out. -/
def cells {α : Type} [DecidableEq α] (d : α) : Nat → List α → List (Nat × α)
  | _, [] => []
  | a, v :: vs => if v = d then cells d (a + 1) vs else (a, v) :: cells d (a + 1) vs

/-- The table with the keys from `a` holding `vs`; values equal to the default are not listed. -/
def tsets {α : Type} [DecidableEq α] (d : α) (a : Nat) (vs : List α) (m : List (Nat × α)) :
    List (Nat × α) :=
  m.filter (·.1 < a) ++ cells d a vs ++ m.filter (a + vs.length ≤ ·.1)

/-- The `n` values from key `a`. -/
def tgets {α : Type} (d : α) (a n : Nat) (m : List (Nat × α)) : List α :=
  (List.range n).map fun i => tget d (a + i) m

/-- Canonical form: keys strictly rising and no entry equal to what an unlisted key reads as. -/
def twf {α : Type} [DecidableEq α] (d : α) (m : List (Nat × α)) : Bool :=
  (m.map (·.1)).Pairwise (· < ·) && m.all (·.2 ≠ d)

/-- Change the value at key `k`. -/
def tmod {α : Type} (d : α) (k : Nat) (f : α → α) (m : List (Nat × α)) : List (Nat × α) :=
  tput k (f (tget d k m)) m

/-- First element that satisfies `p`, with the list without it. -/
def takeFirst {α : Type} (p : α → Bool) : List α → Option (α × List α)
  | [] => none
  | x :: xs =>
    if p x then some (x, xs)
    else match takeFirst p xs with
      | none => none
      | some (y, ys) => some (y, x :: ys)

/-- Element `n`, counted from 0, of those that satisfy `p`, and the rest. -/
def takeNth {α : Type} (p : α → Bool) : (n : Nat) → List α → Option (α × List α)
  | _, [] => none
  | n, x :: xs =>
    match p x, n with
    | true, 0 => some (x, xs)
    | true, n + 1 => (takeNth p n xs).map fun r => (r.1, x :: r.2)
    | false, n => (takeNth p n xs).map fun r => (r.1, x :: r.2)

/-- Replace the elements that satisfy `p`. -/
def mapIf {α : Type} (p : α → Bool) (f : α → α) (xs : List α) : List α :=
  xs.map fun x => if p x then f x else x

/-- The first number of `start, start + 1, …` (modulo `n`) that satisfies `p`. -/
def firstFrom (n start : Nat) (p : Nat → Bool) : Option Nat :=
  ((List.range n).map fun i => (start + i) % n).find? p

end Sys2Proof.Machine
end

