-- ==== Sys2Proof/Config.lean ====
section
/-! DEFINITION. What an implementation fixes, and the free values of the model. A free value is a
constant without a body: nothing in Lean can evaluate it, so whatever is proved holds whatever it is. -/

namespace Sys2Proof

/-- The variants of R1. -/
inductive Variant where
  | j8
  | j4
  deriving DecidableEq, Repr

namespace Config

/-- FREE VALUE (log entry 2). Draw number `n` of a value the spec leaves open: which of the values a
rule allows is met (R108), or bits a rule leaves unpredictable. -/
opaque free : Nat → BitVec 64

/-- FREE VALUE (log entry 6). GCTL_ID: R87 gives its offset, no chapter gives its fields. -/
opaque gctlId : BitVec 64

/-- FREE VALUE (log entry 9). Word `n` of the factory row where R467 leaves the number open: the
identifier (words 1, 2), the endurance (word 3) and the lap counts at test (words 8-23). -/
opaque factory : Nat → BitVec 64

/-- FREE VALUE (log entry 10). What the hard decoder's correction passes make of a received codeword
of rate code `r` under a pass limit: the word after the last pass and the passes used. R240 names
the stopping rule and the block checks it; the spec does not give the correction step. -/
opaque hardPass : (rate : Nat) → (word : List Byte) → (limit : Nat) → List Byte × Nat

/-- FREE VALUE (log entry 10). The same for the soft decoder (R250), whose input is a sign and a magnitude for each
bit, or an erasure (R248). -/
opaque softPass : (rate : Nat) → (input : List (Option (Bool × BitVec 6))) → (limit : Nat) → List Byte × Nat

/-- FREE VALUE (log entry 125). Whether a program image, by its words, is the library's: R207 gives its operations and
their completions, and no rule gives its words. -/
opaque emioth : List (BitVec 64) → Bool

/-- FREE VALUE (log entry 158). Manufacturer and model that the parameter page of the die with a signature names (R266):
they are the die's. -/
opaque dieModel : (signature : BitVec 64) → Nat × Nat

/-- FREE VALUE (log entry 158). Field `n` of the library's table of a die model (R266): no rule gives the tables. -/
opaque libTable : (key : Nat × Nat) → (n : Nat) → Nat

/-- FREE VALUE (log entry 158). What the library's INIT writes to CH_SOFT_LLR (R255). -/
opaque libLlr : BitVec 64

end Config

end Sys2Proof
end

