-- ==== Sys2Proof/Machine/State.lean ====
section
/-! DEFINITION. The block's state, as plain data: everything the spec gives the block, one structure per
unit. INVENTORY.md, '## State', lists each piece with its rule and reset value. The default value of each
field is its value after a cold reset; `State.reset` is the block right after PWR_GNT[0] rises. -/

namespace Sys2Proof.Machine

/-- No step of this block stops the machine, so there is no fault: a malformed entry, a fabric error and
a refused access are states and responses (R23, R59, R346). No constructor, nobody raises it; safe. -/
inductive Fault where
  deriving DecidableEq, Repr

/-- Reasons to refuse a command. -/
inductive Refusal where
  /-- A command without a meaning, named by its mnemonic. Raised by the dispatch alone; safe. -/
  | notModelled (mnemonic : String)
  deriving DecidableEq, Repr

/-- A sparse table: entries by ascending key, an unlisted key holds the reader's default. -/
abbrev Tab (α : Type) := List (Nat × α)

/-- Checked byte memory (R429, R432): the bytes that are not 0x00, the addresses whose stored parity bit
disagrees with the byte, the poison marks of the 64 B chunks (by chunk number), and the mark groups whose
parity fails (by group number). -/
structure Ram where
  bytes : List Host.Cell := []
  bad   : Tab Bool := []
  mark  : Tab Bool := []
  group : Tab Bool := []
  deriving DecidableEq, Repr

/-- Condition of a stored SEC-DED word (R97, R170). -/
inductive Ecc where
  | good
  | single (syndrome : BitVec 9)
  | double (syndrome : BitVec 9)
  deriving DecidableEq, Repr

/-- A loaded word of a program store, control store or dispatch table; unlisted words are never loaded. -/
structure SWord where
  w   : BitVec 128
  ecc : Ecc := .good
  deriving DecidableEq, Repr

/-! ## GCTL -/

/-- BOOT of GCTL_RESET (R509). -/
inductive Boot where
  | inReset
  | init
  | fuseWait
  | journal
  | directory
  | ready
  deriving DecidableEq, Repr

structure Gctl where
  queues   : Bool := false
  cause    : Byte := 1
  warms    : BitVec 16 := 0
  boot     : Boot := .init
  warmBoot : Bool := false
  qmode    : Bool := false
  halted   : Bool := false
  evidence : Bool := false
  hRemote  : Bool := false
  hCause   : Byte := 0
  hIndex   : BitVec 16 := 0
  hSq      : QNum := 0
  hTime    : W64 := 0
  hEntry   : List W64 := []
  /-- TIME of the last register cold reset (R504) -/
  coldAt   : Option W64 := none
  deriving DecidableEq, Repr

/-! ## Power -/

/-- STATE[d] of PWR_DOMAIN_STATE (R513). -/
inductive DomSt where
  | off
  | requested
  | on
  | draining
  deriving DecidableEq, Repr

/-- What is asked of a domain: its power, a sleep, or for STG retention (R512). -/
inductive DomReq where
  | wake
  | sleep
  | retain
  deriving DecidableEq, Repr

structure Pwr where
  ret      : Bool := false
  on       : BitVec 20 := 1
  st       : Tab DomSt := [(0, .on)]
  retained : Bool := false
  loadFail : BitVec 16 := 0
  wakeEn   : BitVec 20 := 0
  outcome  : Tab (BitVec 3) := []
  noFetch  : Bool := true
  noPump   : Bool := true
  req      : BitVec 20 := 1
  gnt      : BitVec 20 := 1
  iso      : BitVec 20 := 0xFFFFE
  retReq   : Bool := false
  retGnt   : Bool := false
  /-- power-ups asked for that wait for STG (R18) or for the grants of a cold reset to fall (R508) -/
  want     : BitVec 20 := 0
  /-- requests of each domain that a power-up or a power-down in progress holds back, the first made first (R517, R519) -/
  due      : Tab (List DomReq) := []
  /-- an STG quiescence in progress is for retention -/
  retDrain : Bool := false
  /-- quads granted and waiting for the loader, in the order of their grants (R514) -/
  loadQ    : List Nat := []
  /-- domains whose power is being removed without a sleep request: a refused load (R515) -/
  noOut    : BitVec 20 := 0
  /-- quads powered up since the last cold reset (R514 step 6) -/
  once     : BitVec 16 := 0
  /-- TIME of the last wake of each domain (R517) -/
  woke     : Tab W64 := []
  deriving DecidableEq, Repr

/-- A token out: its quad and its return time (R224). -/
structure Token where
  quad : BitVec 4
  due  : W64
  deriving DecidableEq, Repr

/-- A pump-start step waiting (R224): channel, thread of the routine, TIME at which it began. -/
structure PumpWait where
  c     : Chan
  t     : Thr
  since : W64
  deriving DecidableEq, Repr

structure Tok where
  quadMax : Byte := 0
  hold    : BitVec 16 := 4000
  total   : Byte := 8
  maxWait : BitVec 32 := 0
  out     : List Token := []
  waiting : List PumpWait := []
  deriving DecidableEq, Repr

/-! ## Calibration (chapter 02) -/

/-- Channel record (R45). `phy` is word 3 [23:0]; `dly` holds slots 1-31. STATE: 0 INVALID, 1 VALID, 2 STALE. -/
structure ChRec where
  commits : BitVec 16 := 0
  drift   : Bool := false
  st      : BitVec 2 := 0
  active  : Bool := false
  nowA    : BitVec 16 := 0
  nowB    : BitVec 16 := 0
  trainA  : BitVec 16 := 0
  trainB  : BitVec 16 := 0
  phy     : BitVec 24 := 0
  dly     : Tab (BitVec 32) := []
  deriving DecidableEq, Repr

/-- Die record (R46). `w1` is word 1 [47:0]: RD_VREF, DCC, WR_DQ, RD_DQS. -/
structure DieRec where
  mts    : BitVec 16 := 0
  iface  : BitVec 4 := 0
  st     : BitVec 2 := 0
  w1     : BitVec 48 := 0
  deskew : W64 := 0
  train  : W64 := 0
  deriving DecidableEq, Repr

structure Cal where
  mode    : BitVec 2 := 0
  period  : BitVec 16 := 100
  drift   : BitVec 16 := 20000
  lastCh  : Byte := 0
  count   : BitVec 32 := 0
  last    : W64 := 0
  badMode : Bool := false
  wreject : Bool := false
  mfault  : Bool := false
  sdrift  : Bool := false
  ch      : Tab ChRec := []
  die     : Tab DieRec := []
  deriving DecidableEq, Repr

/-! ## Servo boundary (chapter 03) -/

structure Srv where
  pre    : BitVec 16 := 200
  post   : BitVec 16 := 400
  pumpEn : Bool := true
  dqEn   : Bool := false
  next   : W64 := 0
  prev   : W64 := 0
  late   : Bool := false
  fCount : Byte := 0
  fValid : Bool := false
  fLoop  : BitVec 4 := 0
  fMech  : BitVec 3 := 0
  deriving DecidableEq, Repr

/-! ## Interrupt controller (chapter 15) -/

structure Hold where
  value   : BitVec 16 := 0
  running : Bool := false
  until_  : W64 := 0
  deriving DecidableEq, Repr

/-- A vector presented at a processor. `due` is set when a register write has decided its withdrawal
(R414) and TAKEN may still win (R69). -/
structure Pres where
  src  : Nat
  prio : BitVec 4
  addr : W64
  due  : Bool := false
  deriving DecidableEq, Repr

/-- One processor's registers (R424). `active` bit l is level l in service. -/
structure Proc where
  vbase     : BitVec 60 := 0
  enable    : Bool := false
  base      : BitVec 4 := 0
  active    : BitVec 16 := 0
  pres      : Option Pres := none
  lastTaken : BitVec 18 := 0
  deriving DecidableEq, Repr

structure Ic where
  mask     : Tab W64 := []
  pend     : Tab W64 := []
  prio     : Tab W64 := []
  target   : Tab W64 := []
  hold     : Tab Hold := []
  proc     : Tab Proc := []
  lastSrc  : Tab Nat := []
  lastProc : Nat := 15
  escaped  : BitVec 16 := 0
  badMsg   : Bool := false
  badSrc   : BitVec 18 := 0
  badEoi   : Bool := false
  eoiProc  : BitVec 4 := 0
  deriving DecidableEq, Repr

/-! ## Streams (chapter 14) -/

/-- A word of a stream with its end mark and the poison of the chunk it came from (R435). -/
structure SW where
  w      : W64
  em     : Bool
  poison : Bool := false
  deriving DecidableEq, Repr

structure Strm where
  words     : List SW := []
  /-- words at the head reserved by a DMA burst (R399) -/
  reserved  : Nat := 0
  credits   : Nat := 0
  enable    : Bool := false
  lastEm    : Bool := false
  rdWait    : BitVec 16 := 1000
  post      : Byte := 8
  freezeEn  : Bool := true
  burstMax  : BitVec 5 := 4
  unit      : Bool := false
  thresh    : BitVec 9 := 0
  discarded : BitVec 16 := 0
  left      : Byte := 0
  dropped   : Bool := false
  frozen    : Bool := false
  freezing  : Bool := false
  forcedEnd : Bool := false
  flushTrim : Bool := false
  rdExpired : Bool := false
  crossed   : Bool := false
  trim      : Bool := false
  /-- words of the packet in progress at the tail (0: none) -/
  partLen   : Nat := 0
  pushLock  : Option (Chan × Thr) := none
  popLock   : Option (Chan × Thr) := none
  /-- a word that the producer offers without a credit: not acknowledged yet (R389) -/
  offer     : Option SW := none
  /-- credits that a reset withdrew, against which words may still arrive (R505) -/
  late      : Nat := 0
  deriving DecidableEq, Repr

/-! ## Hawk (chapter 13) -/

structure Pool where
  enable : Bool := false
  count  : BitVec 18 := 0
  low    : BitVec 18 := 0
  base   : BitVec 20 := 0
  free   : List Nat := []
  /-- withheld buffers are being removed (R386) -/
  busy   : Bool := false
  deriving DecidableEq, Repr

/-- Who waits for a buffer (R378): `port` a HAWK_ALLOC read. -/
inductive HWho where
  | thread (c : Chan) (t : Thr)
  | entry (id : Nat)
  | port
  deriving DecidableEq, Repr

/-- A request that waits: for a buffer, or with `wait` clear only while its pool removes withheld buffers (R386). -/
structure HReq where
  who  : HWho
  pool : Nat
  fall : Bool
  wait : Bool := true
  deriving DecidableEq, Repr

structure Hawk where
  pool      : Tab Pool := []
  badValue  : BitVec 32 := 0
  low       : BitVec 6 := 0
  cfgReject : Bool := false
  badHandle : Bool := false
  waiting   : List HReq := []
  deriving DecidableEq, Repr

/-! ## DMA (chapter 13) -/

/-- Who issued a fabric master transaction. -/
inductive FmWho where
  | ctxRead (key : Nat)
  | ctxWrite (key : Nat)
  | fetch (id : Nat)
  | frag (id : Nat)
  | completion (cq : QNum)
  | index (key : Nat)
  | desc (x : XferRef)
  | data (x : XferRef) (i j : Nat)
  | wback (x : XferRef) (i : Nat)
  deriving DecidableEq, Repr

/-- A fabric master transaction issued and not yet answered (R63). A write carries its bytes, their
byte enables implied by address and length, and one poison attribute per beat (R65). -/
structure FmReq where
  port   : BitVec 2
  who    : FmWho
  write  : Bool
  addr   : Nat
  len    : Nat
  data   : List Byte := []
  poison : List Bool := []
  deriving DecidableEq, Repr

/-- State of one data transaction of a segment. -/
inductive Txn where
  | unissued
  | issued
  | ok
  | err
  deriving DecidableEq, Repr

/-- Write-back state of a descriptor (R364): not begun; word 2 outstanding; word 3 due; outstanding; answered, with
or without an error; ended by an error of word 2 (R363); never begun, because it waits for a word 3 that is never
written (log entry 128). -/
inductive Wb where
  | open_
  | word2
  | word3due
  | word3
  | closed
  | closedErr
  | failed
  | skipped
  deriving DecidableEq, Repr

/-- A descriptor or segment of a transfer. `addr` is the descriptor's host address, absent for the
segments that the queue engine builds (R356). -/
structure Dsc where
  addr    : Option Nat
  w0      : W64
  w1      : W64
  w3      : W64
  host    : Nat
  off     : Nat
  len     : Nat
  link    : Bool
  barrier : Bool
  txns    : List Txn := []
  poison  : Bool := false
  wb      : Wb := .open_
  /-- the reason of a fault found before data moves, which word 2 then carries (R363) -/
  fault   : Option Nat := none
  /-- number of a stream descriptor among the transfers of its engine, in the order of their arrival -/
  no      : Nat := 0
  deriving DecidableEq, Repr

/-- Transfers of an engine (R356): the data of an entry, or the bursts of a stream list whose descriptors are not
all written back (R399). Bursts carry their words in `data`; an entry's bytes are in the buffer of `handle`. -/
structure Xfer where
  ref     : XferRef
  eng     : BitVec 2
  toBlock : Bool
  handle  : BitVec 32 := 0
  data    : Option (List (Byte × Bool)) := none
  descs   : List Dsc := []
  /-- address of the next descriptor to read; none once the list is read and checked -/
  nextAt  : Option Nat := none
  /-- fault before data moves: reason and index -/
  early   : Option (Nat × Nat) := none
  /-- descriptors to be written back, in the order in which their data completed (R365) -/
  due     : List Nat := []
  /-- descriptors of a stream list taken before its last enable -/
  old     : Nat := 0
  /-- number of an entry's data among the transfers of its engine -/
  no      : Nat := 0
  deriving DecidableEq, Repr

/-- STATE of DMA_STATUS (R371) while the list is served or after a fault. -/
inductive SSt where
  | idle
  | running
  | waitOwn
  | stopped
  deriving DecidableEq, Repr

structure Eng where
  stream   : BitVec 2 := 2
  senable  : Bool := false
  slist    : BitVec 48 := 0
  st       : SSt := .idle
  sreason  : Byte := 0
  srefused : Bool := false
  sfault   : Bool := false
  bytesIn  : W64 := 0
  bytesOut : W64 := 0
  /-- owned stream descriptors read ahead (R398) -/
  ahead    : List Dsc := []
  /-- address of the next descriptor to read ahead -/
  rdAt     : Nat := 0
  /-- LINK descriptors met in a row (R359) -/
  links    : Nat := 0
  /-- a faulty descriptor with its reason, whose write-back is not finished (R367) -/
  bad      : Option (Nat × Dsc) := none
  /-- transfers given to the engine so far: the number of the next (R356) -/
  arrived  : Nat := 0
  /-- the transfer whose transaction the engine issued last (R356) -/
  last     : Option (XferRef × Option Nat) := none
  deriving DecidableEq, Repr

/-! ## Render (chapter 11) -/

inductive RPhase where
  | free
  | acc
  | solved
  | read
  deriving DecidableEq, Repr

structure RCtx where
  phase    : RPhase := .free
  tag      : W64 := 0
  degraded : Bool := false
  list     : Option (BitVec 32) := none
  link     : Option Nat := none
  onePage  : Option (BitVec 4) := none
  accM     : W64 := 0
  repM     : W64 := 0
  failM    : W64 := 0
  lostM    : W64 := 0
  /-- home node of each accumulated position -/
  node     : Tab (BitVec 16) := []
  par      : List (BitVec 32) := []
  /-- syndromes S[0..m-1] of a READ context, each a byte list over the member's code bytes -/
  synd     : List (List Byte) := []
  /-- buffer chunks marked by an accumulated member -/
  marks    : Tab Bool := []
  fetched  : Bool := false
  deriving DecidableEq, Repr

/-- A member fetch in flight (R298). `done` holds the status and buffer handle once its READ has ended. -/
structure RFetch where
  ctx   : Nat
  pos   : Nat
  page  : Nat
  entry : Nat
  due   : W64
  /-- home node of the page (R298) -/
  node  : BitVec 16 := 0
  done  : Option (Byte × BitVec 32) := none
  /-- its end has been taken: the page is good, or not -/
  fin   : Option Bool := none
  deriving DecidableEq, Repr

/-- A command of RCMD given to Render: the thread that waits for it, its FN and operands. -/
structure RCmd where
  c : Chan
  t : Thr
  k : Nat
  a : W64
  b : W64
  deriving DecidableEq, Repr

structure Rnd where
  fetchTmo : BitVec 32 := 20000
  sTmo     : Bool := false
  sDeg     : Bool := false
  sForced  : Bool := false
  sMarked  : Bool := false
  sel      : BitVec 10 := 0
  ctx      : Tab RCtx := []
  fetch    : List RFetch := []
  /-- the REBUILD in service, which waits for its fetches (R295, R298), or the OPEN, which waits for a pool that serves no
  request (R31, R386) -/
  busy     : Option RCmd := none
  /-- commands that wait for their turn, in the order of issue (R295) -/
  queue    : List RCmd := []
  deriving DecidableEq, Repr

/-! ## Queue engine (chapter 12) -/

/-- Index block state of a queue (R316): a write in flight, whether the index has moved since, and whether the final
head of the oldest disable is to be published. -/
structure Idx where
  flying : Bool := false
  moved  : Bool := false
  final  : Bool := false
  /-- the write in flight carries the final head -/
  last   : Bool := false
  deriving DecidableEq, Repr

/-- A disable of an SQ that is not finished (R341): its final head, the number of the first entry not fetched before
it, the index block that its context named, and the admin commands that complete after it. -/
structure Stop where
  head : BitVec 16
  upTo : Nat
  addr : Nat
  wait : List Nat := []
  deriving DecidableEq, Repr

/-- A queue context in the block (R317-R319). -/
structure QCtx where
  w0      : W64 := 0
  w1      : W64 := 0
  w2      : W64 := 0
  head    : BitVec 16 := 0
  tail    : BitVec 16 := 0
  phase   : Bool := true
  enabled : Bool := false
  created : Bool := false
  cached  : Bool := false
  reading : Bool := false
  idx     : Idx := {}
  /-- a context read in flight was asked for before the queue's last enable or the end of its last disable -/
  stale   : Bool := false
  /-- disables ordered and not finished, oldest first (R341) -/
  stops   : List Stop := []
  /-- doorbells that wait for the context read (R317) -/
  door    : List (BitVec 16) := []
  /-- the tail up to which completions are visible in host memory (R316) -/
  visible : BitVec 16 := 0
  /-- a completion write of the CQ failed: nothing after it becomes visible in order -/
  lost    : Bool := false
  /-- context writes that wait for an earlier write of the same words to be answered (R64): first word and words -/
  due     : List (Nat × List W64) := []
  deriving DecidableEq, Repr

/-- Where an entry comes from. -/
inductive EKind where
  | host
  | remoteIn (src : BitVec 16) (tag : BitVec 12) (port : BitVec 2) (path : Bool)
  | fetch
  deriving DecidableEq, Repr

/-- Stage of a fetched entry. -/
inductive EStage where
  | admin
  /-- an admin command that waits for its context read (R317) -/
  | adminRead
  | deleting
  | disabling
  | aborting
  | fragRead
  | needBuf
  | waitBuf
  | dataIn
  | ready
  /-- waits for its quad to wake (R333) -/
  | waitWake
  /-- waits for STG to wake, for its buffer (R333) -/
  | waitStg
  | inSlot
  | running (c : Chan) (t : Thr)
  | remote (tag : BitVec 12)
  | dataOut
  | finish
  deriving DecidableEq, Repr

structure Entry where
  id      : Nat
  kind    : EKind := .host
  sq      : QNum := 0
  index   : BitVec 16 := 0
  words   : List W64 := []
  stage   : EStage := .ready
  handle  : BitVec 32 := 0
  frags   : List (Nat × Nat) := []
  status  : Byte := 0
  result  : BitVec 32 := 0
  isRem   : Bool := false
  held    : Bool := false
  aborted : Bool := false
  /-- OPCODE check still due at dispatch (R99) -/
  opDue   : Bool := false
  /-- CQ of its SQ when it was fetched (R341) -/
  cq      : QNum := 0
  /-- DELETE_SQ: number of the first entry not fetched before it took effect -/
  upTo    : Nat := 0
  /-- words of the fragment table that have come -/
  table   : List W64 := []
  /-- slot of the remote table that the entry holds before its REQUEST is sent (R485) -/
  slot    : Option (BitVec 12) := none
  deriving DecidableEq, Repr

/-- A completion in the completion buffer (R338), as posted. -/
structure Cpl where
  cq     : QNum
  sq     : QNum
  cid    : BitVec 16
  result : BitVec 32
  status : Byte
  batch  : Bool := false
  isRem  : Bool := false
  front  : BitVec 16 := 0
  image  : Option (W64 × W64) := none
  index  : BitVec 16 := 0
  /-- it has waited for room in its CQ (R338) -/
  waited : Bool := false
  /-- the slot of its CQ to which it is written -/
  slot   : BitVec 16 := 0
  deriving DecidableEq, Repr

/-- An OK entry with BATCH set, covered and unreported (R337); `passed` is TIME when the frontier passed it. -/
structure Cov where
  sq     : QNum
  index  : BitVec 16
  cid    : BitVec 16
  order  : Nat
  passed : Option W64 := none
  cq     : QNum := 0
  deriving DecidableEq, Repr

/-- A fetch transaction issued (R331). `id` is the number its first entry will have. -/
structure Fetch where
  id    : Nat
  sq    : QNum
  index : BitVec 16
  n     : Nat
  cq    : QNum := 0
  deriving DecidableEq, Repr

/-- QE_QCTL command in progress (R352), or an admin creation waiting for nothing. -/
structure Qctl where
  cq   : Bool
  q    : QNum
  deriving DecidableEq, Repr

structure Qe where
  ctxBase   : BitVec 36 := 0
  busy      : Option Qctl := none
  result    : BitVec 2 := 0
  reason    : Byte := 0
  ctxError  : Bool := false
  badDoor   : Bool := false
  idxError  : Bool := false
  cqStall   : Bool := false
  dbCq      : Bool := false
  dbQueue   : QNum := 0
  ctxCq     : Bool := false
  ctxQueue  : QNum := 0
  /-- contexts: SQn at key n, CQn at key 131,072 + n -/
  ctx       : Tab QCtx := []
  /-- cached keys, least recently used first -/
  lru       : List Nat := []
  fetches   : List Fetch := []
  lastUrg   : Nat := 131071
  lastNorm  : Nat := 131071
  /-- turns the last normal SQ has had of its round -/
  turns     : Nat := 0
  nextId    : Nat := 0
  store     : List Entry := []
  cbuf      : List Cpl := []
  /-- places of the buffer held by ENDs whose entries are being finished -/
  held      : Nat := 0
  /-- completions written and not yet answered -/
  flying    : List Cpl := []
  cov       : List Cov := []
  /-- transactions of the queue engine that wait for FM0 (R67) -/
  wait      : List FmReq := []
  /-- beats of DMA data that go before the next of them while DMA data waits (R67) -/
  debt      : Nat := 0
  deriving DecidableEq, Repr

/-! ## Plumb control (chapter 10) -/

structure Plb where
  deadband : BitVec 16 := 4
  ki       : BitVec 12 := 64
  hi       : Byte := 0x40
  lo       : Byte := 0xC0
  feLimit  : BitVec 16 := 200
  feTime   : BitVec 32 := 10000
  tPost    : Byte := 32
  tFreeze  : Bool := true
  tLevel   : BitVec 4 := 0
  tZone    : BitVec 4 := 0
  tDie     : Ctx := 0
  tMode    : BitVec 2 := 0
  tEnable  : Bool := false
  /-- PLB_LEVELMAP[t] [31:0]; entry 0 resets to 1 (R260) -/
  map      : Tab (BitVec 32) := [(0, 1)]
  fCount   : Byte := 0
  fValid   : Bool := false
  fCh      : Chan := 0
  fDie     : Ctx := 0
  fZone    : BitVec 4 := 0
  fLevel   : BitVec 4 := 0
  fClamp   : Bool := false
  fTime    : W64 := 0
  deriving DecidableEq, Repr

/-! ## Soft decoder pool (chapter 09) -/

/-- One soft handoff (R249). -/
structure Handoff where
  c     : Chan
  t     : Thr
  buf   : BitVec 3
  r     : BitVec 2
  rate  : BitVec 2
  seed  : BitVec 32
  bypass : Bool
  iter  : BitVec 6
  llr   : W64
  since : W64
  /-- it waits at the head of the queue for a bank to be powered (R252) -/
  waits : Bool := false
  deriving DecidableEq, Repr

structure Soft where
  queue   : List Handoff := []
  dec     : Tab Handoff := []
  maxWait : BitVec 32 := 0
  deriving DecidableEq, Repr

/-! ## Integrity (chapter 16) -/

structure Intg where
  fKind   : Byte := 0
  count   : Byte := 0
  dropped : Byte := 0
  valid   : Bool := false
  fLoc    : BitVec 32 := 0
  eTime   : W64 := 0
  seq     : BitVec 32 := 0
  sel     : BitVec 5 := 0
  view    : BitVec 2 := 0
  hits    : BitVec 16 := 0
  retired : BitVec 16 := 0
  /-- banks whose retirement has taken force -/
  inForce : BitVec 16 := 0
  errors  : Tab (BitVec 32) := []
  spares  : Tab (BitVec 5) := []
  fuse    : List W64 := []
  /-- TIME at which the delivery of the fuse map began (R82) -/
  fuseAt  : W64 := 0
  fuseDone : Bool := false
  fuseBad : Bool := false
  /-- an upset on an internal path: the bytes of the next 8 B word that a path delivers whose parity fails (R429). It comes
  from outside, and no command of the table makes one (log entry 132) -/
  upset   : Byte := 0
  deriving DecidableEq, Repr

/-! ## Primer store (chapter 17) -/

/-- What a running Primer operation is for (R463): a PROGRAM, an ERASE of a sector, a ROTATE to a new HEAD, or the
ROTATE record of a PRM_WINDOW_BASE write. -/
inductive PKind where
  | program
  | erase (sector : Nat)
  | rotate (head : BitVec 7)
  | window
  deriving DecidableEq, Repr

/-- A step of a Primer operation: one word; one journal record, in the places kept for a move or not (R459); the
JHEAD of a journal sector; one sector erase. -/
inductive PJob where
  | word (w : Nat) (data : BitVec 72)
  | record (typ : BitVec 4) (arg sector : BitVec 12) (spare : Bool)
  | jhead (sector : Nat)
  | erase (sector : Nat)
  deriving DecidableEq, Repr

/-- A Primer operation: the job at the head of `jobs` runs. `cur` is the word it programs, taken at its first pulse,
`pulses` its pulses that did not verify, `tries` the failed words of a record and `again` their SEQ, `held` those of the
record that a journal move goes before. -/
structure POp where
  kind   : PKind
  jobs   : List PJob
  cur    : Option (Nat × BitVec 72) := none
  pulses : Nat := 0
  tries  : Nat := 0
  held   : Nat := 0
  again  : Option (BitVec 28) := none
  deriving DecidableEq, Repr

structure DirEnt where
  w0 : W64
  w1 : W64
  deriving DecidableEq, Repr

structure Prm where
  /-- stored words: parity [71:64], data [63:0]; an unlisted word is erased, all ones (R449) -/
  arr      : Tab (BitVec 72) := []
  win      : Bool := false
  word     : BitVec 20 := 0
  data     : W64 := 0
  result   : BitVec 4 := 0
  refused  : Bool := false
  rdBusy   : Bool := false
  parity   : Bool := false
  op       : Option POp := none
  /-- suspended operations, innermost first -/
  susp     : List POp := []
  suspend  : Bool := false
  /-- a PRM_WINDOW_BASE write whose ROTATE record waits for the array (R465) -/
  winDue   : Bool := false
  /-- the detector holds pulses back until the supply has been good for 100 µs (R458) -/
  tripped  : Bool := true
  wp       : Tab (BitVec 32) := []
  /-- sector states: 0 NORMAL, 1 ERASING, 2 SUSPECT, 3 JOURNAL -/
  sect     : Tab (BitVec 2) := []
  winEn    : Bool := false
  winBase  : BitVec 12 := 0
  winHead  : BitVec 7 := 0
  jSector  : Nat := 4092
  jPos     : Nat := 0
  jSeq     : BitVec 28 := 0
  /-- sectors with an open intent, with the word of the record that opened it (R459) -/
  jOpen    : List (Nat × Nat) := []
  dirGen   : BitVec 16 := 0
  dirValid : Bool := false
  dirCopy  : Bool := false
  lProgram : Bool := false
  lQuad    : BitVec 4 := 0
  lReason  : BitVec 4 := 0
  loads    : BitVec 16 := 0
  refusals : BitVec 16 := 0
  dir      : List DirEnt := []
  deriving DecidableEq, Repr

/-! ## Lath (chapter 18) -/

/-- Training state of a port (R475): `step` is the rate being tried. -/
inductive LSt where
  | down
  | training (step : BitVec 2)
  | hello
  | up
  deriving DecidableEq, Repr

/-- A frame waiting at an output port: its source (input port 0-2, or 3 for this node) and whether it came in on
lane B. -/
structure Queued where
  k   : Nat
  inB : Bool := false
  f   : Frame
  deriving DecidableEq, Repr

structure LPort where
  enable  : Bool := false
  maxRate : BitVec 2 := 2
  link    : LSt := .down
  rate    : BitVec 2 := 0
  /-- training failed at 800 MT/s: the port waits for its 1 ms retry -/
  retry   : Bool := false
  /-- TIME at which the training step or the wait for the retry began (R475) -/
  since   : W64 := 0
  peer    : BitVec 16 := 0
  peerEp  : BitVec 16 := 0
  crcErr  : Byte := 0
  downs   : Byte := 0
  txSeq   : BitVec 16 := 0
  rxSeq   : BitVec 16 := 0
  /-- a NAK, or an ACK, is due in the next LINK frame -/
  nak     : Bool := false
  ackDue  : Bool := false
  /-- frames sent and not yet acknowledged, oldest first (R478) -/
  replay  : List Frame := []
  /-- replays of the oldest of them since the last ACK -/
  replays : Nat := 0
  /-- frames waiting for credits or for their turn -/
  txq     : List Queued := []
  /-- frames received and still in the receive buffers, in the order of their arrival (R479) -/
  rx      : List Frame := []
  /-- what the port has put on its pins since the link began to train, replays included, oldest first: the
  model's own record of its output -/
  sent    : List Frame := []
  /-- source served last, for requests and for responses (R481); reset values are a DESIGN CHOICE (log entry 124) -/
  lastReq : Nat := 3
  lastRsp : Nat := 3
  /-- credits held: REQ-A, REQ-B, RSP-A, RSP-B, in 64 B units -/
  cred    : List Nat := [128, 128, 128, 128]
  /-- credits to return to the peer in the next LINK frame -/
  give    : List Nat := [0, 0, 0, 0]
  deriving DecidableEq, Repr

structure LNode where
  node  : BitVec 16 := 0
  st    : BitVec 2 := 0
  mode  : Bool := false
  port  : BitVec 2 := 0
  route : BitVec 32 := 0
  deriving DecidableEq, Repr

/-- A slot of the remote table (R485). `start` is the timer's start, none before the REQUEST has left its port, and
`limit` its length in ns; `got` counts the data bytes received; `done`: the entry has completed, and the answer to
its ABORT is still to come. -/
structure Remote where
  entry  : Nat
  node   : BitVec 16
  epoch  : Option (BitVec 16) := none
  start  : Option W64 := none
  limit  : Nat := 0
  got    : Nat := 0
  abort  : Option Nat := none
  done   : Bool := false
  /-- an ABORT of a member fetch that timed out is unanswered (R298) -/
  fetchAbort : Bool := false
  deriving DecidableEq, Repr

structure Lath where
  node      : BitVec 16 := 0
  epoch     : BitVec 16 := 0
  path      : BitVec 32 := 0
  timeout   : BitVec 10 := 100
  dateline  : Bool := false
  topo      : BitVec 2 := 0
  misdel    : Bool := false
  discarded : Bool := false
  lateRsp   : Bool := false
  refusedIn : Bool := false
  cfgReject : Bool := false
  eKind     : Byte := 0
  eCount    : Byte := 0
  eValid    : Bool := false
  ePort     : BitVec 2 := 0
  eNode     : BitVec 16 := 0
  pBusy     : Bool := false
  pResult   : BitVec 2 := 0
  pMode     : Bool := false
  pPort     : BitVec 2 := 0
  pRoute    : BitVec 32 := 0
  pStart    : W64 := 0
  pLimit    : Nat := 0
  pRes      : W64 := 0
  port      : Tab LPort := []
  nodes     : Tab LNode := []
  table     : Tab Remote := []
  /-- TIME of the last heartbeat sent to a node, or of its first entry, and the interval in ns -/
  beat      : Tab (W64 × Nat) := []
  /-- data received for entries held for other nodes: entry id and bytes so far -/
  inData    : Tab Nat := []
  /-- frames that the router delivers to this node from itself (R483) -/
  loop      : List Frame := []
  deriving DecidableEq, Repr

/-! ## Quads and channels -/

structure Quad where
  pstore : Tab SWord := []
  slots  : Tab (BitVec 32) := []
  /-- CTL copy of the VALID bits, once loaded since cold reset (R99) -/
  known  : Bool := false
  valid  : Tab Bool := []
  /-- the image loaded is the library's (log entry 125) -/
  library : Bool := false
  deriving DecidableEq, Repr

/-- A result in flight: written once `left` further instructions of the thread have issued (R107). -/
structure Flight where
  reg  : BitVec 5
  val  : W64
  left : Nat
  deriving DecidableEq, Repr

/-- What a thread waits for. `unit_`: a busy unit, a lock, room or a word (R31); the step is tried again
with the operands read at its issue (R120): RA, RB, RD. -/
inductive TWait where
  | none
  | unit_ (ra rb rd : W64)
  /-- DOP while the previous DOP is outstanding, a patch waits or a fence fill runs (R90, R174, R216) -/
  | dop (ra rb : W64)
  | dopw (rd : BitVec 5)
  | time (rd : BitVec 5) (until_ : W64)
  | event (rd : BitVec 5) (mask : BitVec 16)
  | hawk (rd : BitVec 5)
  /-- MOVE that has moved `moved` bytes (R130, R136): locators and length; `ahead`: its source as it was at issue,
  where it overlaps the destination; `dirty`: a poisoned word has gone into the chunk being written -/
  | move (ra rb len : W64) (moved : Nat) (ahead : List (Byte × Bool)) (dirty : Bool)
  /-- QPOST for room in the completion buffer (R338) -/
  | qpost (ra rb : W64)
  /-- REBUILD for its fetches (R298), OPEN for a pool that serves no request (R386): the command's operands -/
  | rebuild (rd : BitVec 5) (ra rb : W64)
  /-- END for its routine, its stream word or its place in the completion buffer (R101) -/
  | endPlace
  deriving DecidableEq, Repr

/-- The thread's die operation (R90, R132). -/
inductive DopSt where
  | none
  | out
  | done (w : W64)
  /-- ended by its ready timeout, on this die context -/
  | timeout (j : Ctx)
  /-- refused after its acceptance: a record it needs became STALE before its routine started (R53) -/
  | calBad (j : Ctx)
  deriving DecidableEq, Repr

/-- Where a micro-routine stands (R204). `ended`: END has run, its outcome waits for its decodes (R242). -/
inductive RtSt where
  | ready
  | running
  | yielded
  | parked
  | ended
  deriving DecidableEq, Repr

/-- What the running step waits for: a token or a guard (R160), a decode or a handoff place (R242, R249),
or, its cycle done, the decode its condition tests (R242). -/
inductive StepWait where
  | none
  | pump
  | guard
  | place
  | cond
  deriving DecidableEq, Repr

/-- Why a routine finishes early. -/
inductive Early where
  | none
  | abort
  | timeout
  | poison
  deriving DecidableEq, Repr

/-- A micro-routine started by a DOP (chapter 06). -/
structure Routine where
  num     : Byte
  die     : Ctx
  prio    : BitVec 2
  ent     : BitVec 32
  /-- fence class in force: NONE while FENCE_EN is clear (R213) -/
  fclass  : BitVec 2 := 0
  calib   : Bool := false
  st      : RtSt := .ready
  /-- held by a SUSP routine of its context (R205) -/
  heldBy  : Option Thr := none
  /-- its park delay has run out: it is ready (R165) -/
  parkDue : Bool := false
  parkAt  : W64 := 0
  order   : Nat := 0
  upc     : BitVec 12
  a       : W64
  m       : BitVec 24
  lc      : BitVec 13 := 0
  col     : BitVec 16 := 0
  prog    : BitVec 16 := 0
  status  : Byte := 0
  cwfail  : Byte := 0
  lastFail : Bool := false
  user    : Byte := 0
  started : Bool := false
  startAt : W64 := 0
  passed  : Bool := false
  early   : Early := .none
  abortP  : Bool := false
  expired : Bool := false
  ycount  : BitVec 4 := 0
  abt     : BitVec 12 := 0
  poisoned : Bool := false
  wait    : StepWait := .none
  /-- settings taken when the routine first starts (R231, R262) -/
  key     : BitVec 32 := 0
  bypass  : Bool := false
  iter    : BitVec 6 := 0
  sIter   : BitVec 6 := 0
  zeros   : BitVec 12 := 0
  snap    : List Byte := []
  dieRec  : DieRec := {}
  decodes : Nat := 0
  handoffs : Nat := 0
  code    : Byte := 0
  endTmo  : Bool := false
  /-- a second timeout interval has expired within its current step (R169) -/
  kill    : Bool := false
  deriving DecidableEq, Repr

/-! ## The library's state and outcomes (R207, R219, R266, R273) -/

/-- How the main routine of a library operation ended. -/
inductive LibOut where
  /-- the outcome word of R132 -/
  | word (w : W64)
  /-- the DIE_TIMEOUT event -/
  | timeout
  /-- CAL_INVALID, once more after one RETRAIN (R47) -/
  | calInvalid
  deriving DecidableEq, Repr

/-- A DOP of a program that has ended: how, whether its routine had consumed poison (R247), and the fence class of its
routine (R213), which says whether it was a page program or an erase. -/
structure LibDop where
  out    : LibOut
  poison : Bool
  cls    : BitVec 2
  deriving DecidableEq, Repr

/-- The library's table of one die (R266, R276): zone bounds, page types, the level codes of each page type (R260), a
ladder of 1 to 15 rungs for each page type with a delta for each level (R273), and the shifts of soft reads. -/
structure DieTab where
  zb       : List Nat := [0]
  typeMod  : Nat := 1
  typeBase : Nat := 0
  levels   : List (BitVec 32) := []
  ladder   : List (List (List Int)) := []
  s1       : Int := 12
  s2       : Int := 6
  s3       : Int := 2
  /-- the rate code chosen for the die (R234) -/
  rate     : Nat := 0
  deriving DecidableEq, Repr

/-- The default policy word (R219): MIN_RUN 500, MAX_SUSP 4, ADOPT 1, MODE 1. -/
def policyDefault : W64 := 0x000001F4_0004_0101

/-- What the library holds for a channel in its shared scratch state: the policy word, the dies whose ladder lock is
held, and the die table. -/
structure LibState where
  policy : W64 := policyDefault
  locks  : List Ctx := []
  table  : List (Nat × DieTab) := []
  deriving DecidableEq, Repr

structure Thread where
  run      : Bool := false
  calib    : Bool := false
  regs     : Tab W64 := []
  pc       : BitVec 15 := 0
  prg      : W64 := 0
  flight   : List Flight := []
  /-- a branch has issued: where to go after its delay slot (R109) -/
  after    : Option (BitVec 15) := none
  wait     : TWait := .none
  handler  : Bool := false
  abortP   : Bool := false
  aborted  : Bool := false
  slot     : BitVec 10 := 0
  entry    : Option Nat := none
  /-- the program has ended with this status; result none: the last outcome word's low half (R227) -/
  ending   : Option (Byte × Option (BitVec 32)) := none
  dop      : DopSt := .none
  /-- the last outcome word written since the program started (R227) -/
  lastOut  : W64 := 0
  /-- an event ended the program (R103) -/
  byEvent  : Bool := false
  /-- how each DOP of the program has ended, oldest first -/
  outs     : List LibDop := []
  /-- records of the channel that were STALE when the program started (R207): a die context, or 64 for the channel's -/
  stale    : List Nat := []
  rtn      : Option Routine := none
  deriving DecidableEq, Repr

/-- CH_DIE fields held in CTL (R201). -/
structure DieCtl where
  dstate  : BitVec 2 := 0
  fenceEn : Bool := true
  plane   : BitVec 2 := 0
  page    : BitVec 4 := 0
  deriving DecidableEq, Repr

/-- Channel fields held in CTL (R507). -/
structure ChCtl where
  calEntry : BitVec 10 := 0
  pump     : BitVec 32 := 0
  wpLevel  : Bool := false
  die      : Tab DieCtl := []
  uid      : Tab W64 := []
  fill     : BitVec 16 := 0xFFFF
  ebLog2   : BitVec 4 := 11
  ctxLog2  : BitVec 3 := 6
  fBase    : BitVec 14 := 0
  fclass   : Tab W64 := []
  deriving DecidableEq, Repr

/-- Channel registers powered with the quad. -/
structure ChReg where
  key      : BitVec 32 := 0x5C3A91E7
  bypass   : Bool := false
  softIter : BitVec 6 := 30
  hardIter : BitVec 6 := 20
  zeros    : BitVec 12 := 256
  llr      : W64 := 0x010305080C10161F
  hardFail : BitVec 16 := 0
  softOk   : BitVec 16 := 0
  softFail : BitVec 16 := 0
  noBank   : BitVec 16 := 0
  faultPc  : BitVec 15 := 0
  faultT   : Thr := 0
  faultC   : BitVec 4 := 0
  build    : BitVec 16 := 0
  major    : Byte := 0
  minor    : Byte := 0
  patches  : Byte := 0
  user     : Bool := false
  corr     : Bool := false
  uncorr   : Bool := false
  loaded   : Bool := false
  pState   : BitVec 2 := 0
  pResult  : BitVec 2 := 0
  pDisp    : Bool := false
  pCount   : BitVec 13 := 0
  pTarget  : BitVec 12 := 0
  pSrc     : BitVec 20 := 0
  wpPend   : Bool := false
  wpNow    : Bool := false
  fCtx     : Ctx := 0
  fIdx     : BitVec 14 := 0
  filling  : Bool := false
  deriving DecidableEq, Repr

/-- A codeword in the hard decoder (R240): its buffer, its rate code and what its report needs. -/
structure DecJob where
  t      : Thr
  buf    : BitVec 3
  rate   : BitVec 2
  seed   : BitVec 32
  bypass : Bool
  erased : Bool
  iter   : BitVec 6
  slot   : BitVec 3
  die    : Ctx
  zone   : BitVec 4
  ptype  : BitVec 4
  sample : Bool
  deriving DecidableEq, Repr

/-- A delay as the channel's delay line makes it (R38): whole laps and residual taps, 512 taps to a lap. -/
structure Delay where
  laps : Nat := 0
  taps : Nat := 0
  deriving DecidableEq, Repr

/-- An output pin that the strobe table of R185 places edges on; `re` is RE_T, and RE_C is its inverse. -/
inductive Pin where
  | cle
  | ale
  | we
  | re
  deriving DecidableEq, Repr

/-- An edge of a step (R185): its delay after the start of the step, its pin and the level the pin takes. -/
structure Edge where
  after : Delay
  pin   : Pin
  level : Bool
  deriving DecidableEq, Repr

/-- The strobe of a burst (R185). -/
inductive Strobe where
  | we
  | re
  | dqs
  deriving DecidableEq, Repr

/-- The framing of a burst or a status read (R185, R187): its strobe, the delay before it, preamble and postamble,
its bytes, and the time of one byte: `period`, or the data rate `mts`. -/
structure Burst where
  strobe : Strobe
  lead   : Delay := {}
  pre    : Delay := {}
  post   : Delay := {}
  bytes  : Nat
  /-- the period of a byte at slot 3, on the line in force; a burst at the data rate `mts` has none -/
  period : Delay := {}
  mts    : Nat := 0
  /-- input, IFACE 1-4: WR_DQ; output, IFACE 1-4: RD_DQS -/
  shift  : Delay := {}
  /-- output, IFACE 1-4: DESKEW of each DQ bit, with its sign (true: negative) -/
  deskew : List (Bool × Delay) := []
  deriving DecidableEq, Repr

/-- What stands on DQ or DQS: nothing (high-impedance), a steady level or byte, or the bytes of a burst, which the
block drives (`burst`) or a die drives (`die`). -/
inductive Bus where
  | hiz
  | byte (b : Byte)
  | high
  | burst
  | die
  deriving DecidableEq, Repr

/-- What the PHY codes in force mean (R180): drive and termination in ohm (none: off), the receive reference in
thousandths of VDDQ, and the shift of RE_T's high phase in units of 0.5 % of the RE period. -/
structure Phy where
  drive : Nat := 48
  term  : Option Nat := none
  vref  : Nat := 550
  dcc   : Int := 0
  deriving DecidableEq, Repr

/-- The cycle last driven on the channel's pins (R156, R197). -/
inductive Cycle where
  | inert
  | idle (ce : Bool)
  | cmd (die : Ctx) (b : Byte)
  | addr (die : Ctx) (b : Byte)
  | din (die : Ctx) (bytes : List Byte)
  | dout (die : Ctx) (n : Nat)
  | stat (die : Ctx)
  deriving DecidableEq, Repr

/-- Levels of the channel pins (R176, R197) as they stand at the end of the last step; RE_C and DQS_C are the
inverses of `re` and `dqs`. `hiz`: the quad is without power. -/
structure Pins where
  hiz : Bool := true
  ce0 : Bool := true
  ce1 : Bool := true
  wp  : Bool := false
  cle : Bool := false
  ale : Bool := false
  we  : Bool := true
  re  : Bool := true
  dqs : Bus := .hiz
  dq  : Bus := .hiz
  /-- what the PHY uses: its drive, its termination, its receive reference, its duty-cycle shift -/
  phy : Phy := {}
  last : Cycle := .inert
  /-- the edges of the last step, and the framing of its burst -/
  edges : List Edge := []
  burst : Option Burst := none
  /-- the per-bit timing that the last TRAIN_OUT captured, one value for each DQ bit (R156) -/
  timing : List W64 := []
  deriving DecidableEq, Repr

structure ChPlb where
  /-- ACC and OFS, by 256 × die + 16 × zone + level -/
  acc    : Tab (BitVec 32) := []
  ofs    : Tab Byte := []
  frozen : W64 := 0
  feStart : Tab W64 := []
  feZl   : Tab Byte := []
  trace  : Tab (List W64) := []
  seq    : BitVec 32 := 0
  left   : Byte := 0
  counting : Bool := false
  tFrozen : Bool := false
  wrapped : Bool := false
  wptr   : Byte := 0
  deriving DecidableEq, Repr

/-- Timebase of a channel (R36, R40) and the channel record values in force (R53). -/
structure ChTb where
  open_  : Bool := false
  /-- the line that the window, or the pending swap, is of: line B -/
  line   : Bool := false
  start  : W64 := 0
  begun  : Bool := false
  pend   : Option (BitVec 16) := none
  phy    : BitVec 24 := 0
  dly    : Tab (BitVec 32) := []
  deriving DecidableEq, Repr

structure Channel where
  ctl     : ChCtl := {}
  reg     : ChReg := {}
  engine  : BitVec 2 := 0
  thr     : Tab Thread := []
  /-- the thread that issued last (R88); its reset value is a DESIGN CHOICE (log entry 124) -/
  lastT   : Thr := 7
  /-- entry in the dispatch slot (R89) -/
  slot    : Option Nat := none
  /-- a calibration start is due (R52) -/
  calDue  : Bool := false
  flags   : BitVec 16 := 0
  /-- threads waiting in WAITE, first issued first (R144) -/
  evq     : List Thr := []
  scratch : Ram := {}
  cwb     : Ram := {}
  cstore  : Tab SWord := []
  disp    : Tab SWord := []
  cur     : Option Thr := none
  order   : Nat := 0
  lastC   : Tab (BitVec 4) := []
  decq    : List DecJob := []
  pins    : Pins := {}
  plb     : ChPlb := {}
  tb      : ChTb := {}
  /-- the library's own state of the channel, kept across warm resets (R219, R266, R273) -/
  lib     : LibState := {}
  deriving DecidableEq, Repr

/-! ## Register port and fabric -/

/-- A register port transaction (R59). `form` is the access form, `off` the aperture offset. -/
structure PReq where
  write : Bool
  off   : Nat
  form  : Acc
  data  : W64 := 0
  deriving DecidableEq, Repr

/-- The response of a register port transaction: `bytes` holds a burst's eight words. -/
structure PResp where
  ok    : Bool
  value : W64 := 0
  words : List W64 := []
  deriving DecidableEq, Repr

/-- A read that waits: by definition (R61), or HAWK_ALLOC while its pool serves no request (R386). -/
inductive PWait where
  | sync
  | window (s : BitVec 2) (since : W64)
  | alloc
  deriving DecidableEq, Repr

/-- The register port: the responses of the last step that returned any, the read that waits and the transactions
held behind it (R61). -/
structure Port where
  resp : List PResp := []
  wait : Option PWait := none
  held : List PReq := []
  deriving DecidableEq, Repr

/-! ## The whole -/

structure State where
  variant  : Variant := .j8
  time     : W64 := 0
  free     : Nat := 0
  pfail    : Bool := false
  brownout : Bool := false
  gctl     : Gctl := {}
  pwr      : Pwr := {}
  tok      : Tok := {}
  cal      : Cal := {}
  srv      : Srv := {}
  ic       : Ic := {}
  str      : Tab Strm := []
  hawk     : Hawk := {}
  eng      : Tab Eng := []
  xfer     : List Xfer := []
  rnd      : Rnd := {}
  qe       : Qe := {}
  plb      : Plb := {}
  soft     : Soft := {}
  intg     : Intg := {}
  stg      : Ram := {}
  prm      : Prm := {}
  lath     : Lath := {}
  quad     : Tab Quad := []
  ch       : Tab Channel := []
  port     : Port := {}
  fm       : List FmReq := []
  pending  : List Instr := []
  deriving DecidableEq, Repr

/-- The block right after PWR_GNT[0] has risen (R503): every register at its Reset value, BOOT in INIT,
every domain other than CTL off, no command waiting. -/
def State.reset : State := {}

end Sys2Proof.Machine
end

