-- ==== Sys2Proof/Machine/Ops.lean ====
section
/-! DEFINITION. The named operations every unit uses: access to the parts of the state, free values,
posting interrupts (R407, R409), words into and out of streams (R387-R397), the integrity log
(R439-R442), and checked memory (R429-R434, R446). -/

namespace Sys2Proof.Machine

open Sys2Proof

/-- Outcome of a command. -/
abbrev Out := Host.Outcome State Fault Refusal

/-! ## Parts of the state -/

def chan (s : State) (c : Chan) : Channel := tget {} c.toNat s.ch
def setChan (c : Chan) (x : Channel) (s : State) : State := { s with ch := tput c.toNat x s.ch }
def modChan (c : Chan) (f : Channel → Channel) (s : State) : State := setChan c (f (chan s c)) s

def thr (s : State) (c : Chan) (t : Thr) : Thread := tget {} t.toNat (chan s c).thr
def modThr (c : Chan) (t : Thr) (f : Thread → Thread) (s : State) : State :=
  modChan c (fun ch => { ch with thr := tmod {} t.toNat f ch.thr }) s

def quad (s : State) (q : BitVec 4) : Quad := tget {} q.toNat s.quad
def modQuad (q : BitVec 4) (f : Quad → Quad) (s : State) : State :=
  { s with quad := tmod {} q.toNat f s.quad }

/-- Quad of a channel: four channels to a quad (R4). -/
def quadOf (c : Chan) : BitVec 4 := fld c 2 4

def strm (s : State) (i : Nat) : Strm := tget {} i s.str
def modStrm (i : Nat) (f : Strm → Strm) (s : State) : State := { s with str := tmod {} i f s.str }

def eng (s : State) (e : BitVec 2) : Eng := tget {} e.toNat s.eng
def modEng (e : BitVec 2) (f : Eng → Eng) (s : State) : State := { s with eng := tmod {} e.toNat f s.eng }

def pool (s : State) (k : Nat) : Pool := tget {} k s.hawk.pool
def modPool (k : Nat) (f : Pool → Pool) (s : State) : State :=
  { s with hawk := { s.hawk with pool := tmod {} k f s.hawk.pool } }

def proc (s : State) (p : Nat) : Proc := tget {} p s.ic.proc
def modProc (p : Nat) (f : Proc → Proc) (s : State) : State :=
  { s with ic := { s.ic with proc := tmod {} p f s.ic.proc } }

/-- Change the general state of a channel's registers. -/
def modReg (c : Chan) (f : ChReg → ChReg) (s : State) : State :=
  modChan c (fun ch => { ch with reg := f ch.reg }) s

/-- Draw number `free` of the free values (log entry 2). -/
def draw (s : State) : W64 × State := (Config.free s.free, { s with free := s.free + 1 })

/-! ## Variant and power -/

/-- Channels of the variant (R1). -/
def nChan (s : State) : Nat := match s.variant with | .j8 => 64 | .j4 => 32

/-- Quads of the variant (R1). -/
def nQuad (s : State) : Nat := match s.variant with | .j8 => 16 | .j4 => 8

def chanThere (s : State) (c : Chan) : Bool := c.toNat < nChan s

/-- Domain `d` has power and is out of isolation (R84); false for STG in retention. -/
def powered (s : State) (d : Nat) : Bool := !s.pwr.iso.getLsbD d

def quadUp (s : State) (c : Chan) : Bool := powered s (4 + (quadOf c).toNat)

/-- STATE of a domain (R513). -/
def domSt (s : State) (d : Nat) : DomSt := tget .off d s.pwr.st
def setDom (d : Nat) (x : DomSt) (s : State) : State := { s with pwr := { s.pwr with st := tput d x s.pwr.st } }

/-- STG works: powered, and its initialisation after power-up has ended (R431). -/
def stgOn (s : State) : Bool := powered s 1 && (domSt s 1 = .on || domSt s 1 = .draining)

/-- The block answers and works as after boot: no reset held, READY (R510). -/
def ready (s : State) : Bool := s.gctl.boot = .ready

/-! ## Interrupt sources (R406-R410) -/

/-- The number of sources. -/
def nSrc : Nat := 132096

def pendOf (s : State) (n : Nat) : Bool := (tget 0 (n / 64) s.ic.pend).getLsbD (n % 64)
def maskOf (s : State) (n : Nat) : Bool := (tget (BitVec.allOnes 64) (n / 64) s.ic.mask).getLsbD (n % 64)
def prioOf (s : State) (n : Nat) : BitVec 4 := fld (tget 0 (n / 16) s.ic.prio) (4 * (n % 16)) 4
def targetOf (s : State) (n : Nat) : BitVec 16 := fld (tget 0 (n / 4) s.ic.target) (16 * (n % 4)) 16

/-- PEND[n] := b. -/
def setPend (n : Nat) (b : Bool) (s : State) : State :=
  let w := tget 0 (n / 64) s.ic.pend
  { s with ic := { s.ic with pend := tset 0 (n / 64) (setBit w (n % 64) b) s.ic.pend } }

/-- A post of source `n` (R407): the pending bit is set, whatever mask, priority and targets hold. -/
def post (n : Nat) (s : State) : State := setPend n true s

def srcHalt : Nat := 131072
def srcPfail : Nat := 131073
def srcIntegrity : Nat := 131074
def srcServo : Nat := 131075
def srcPlumb : Nat := 131076
def srcHawk : Nat := 131077
def srcCal : Nat := 131078
def srcLath : Nat := 131079
def srcStream (i : Nat) : Nat := 131080 + i
def srcStall : Nat := 131084

/-- Level sources (R410). -/
def isLevel (n : Nat) : Bool := n = srcPfail || n = srcStall

/-- Reserved function sources: 13-255 (R410). -/
def isReservedSrc (n : Nat) : Bool := 131085 ≤ n && n ≤ 131327

/-- A re-sample of every level source (R409). -/
def resample (s : State) : State :=
  let s := if s.pfail then post srcPfail s else s
  if s.qe.cqStall then post srcStall s else s

/-! ## Streams -/

/-- Complete packets held (R388). -/
def packets (x : Strm) : Nat := x.words.countP (·.em)

/-- Words up to and including the first held end mark; 0 with no complete packet (R388). -/
def headLen (x : Strm) : Nat :=
  if packets x = 0 then 0 else (x.words.takeWhile (!·.em)).length + 1

/-- Whether stream `i` grants credits (R389, R400). -/
def grants (s : State) (i : Nat) : Bool := (strm s i).enable && powered s 1 && !(strm s i).frozen

/-- Grant a credit for each place neither held nor covered by a credit (R389). -/
def grantPlaces (i : Nat) (s : State) : State :=
  if grants s i then modStrm i (fun x => { x with credits := 256 - x.words.length, late := 0 }) s else s

/-- The count that THRESH measures (R396). -/
def level (x : Strm) : Nat := if x.unit then packets x else x.words.length

/-- Post STREAM_LEVEL if the count has risen from below THRESH to it or above (R396). -/
def crossing (i : Nat) (before : Nat) (s : State) : State :=
  let x := strm s i
  let th := x.thresh.toNat
  if 0 < th ∧ th ≤ 256 ∧ before < th ∧ th ≤ level x then
    post (srcStream i) (modStrm i (fun x => { x with crossed := true }) s)
  else s

/-- FREEZING ends, the capture is frozen (R400). -/
def freeze (x : Strm) : Strm := { x with freezing := false, frozen := true }

/-- An end mark has been accepted while FREEZING (R400). -/
def countDown (x : Strm) : Strm :=
  if x.freezing then
    let l := if x.left = 0 then 0 else x.left - 1
    if l = 0 then freeze { x with left := 0 } else { x with left := l }
  else x

/-- A word sent against a credit (R389): held, or acknowledged and discarded while no credit is granted or
in trim (R397). `partLen` counts the words sent of the packet in progress. -/
def sendWord (i : Nat) (sw : SW) (s : State) : State :=
  let em := sw.em
  let x := strm s i
  let part := if em then 0 else x.partLen + 1
  if !grants s i || x.trim then
    modStrm i (fun x =>
      let x := { x with credits := x.credits - 1, discarded := satInc x.discarded, trim := x.trim && !em,
                        partLen := part }
      if em && x.freezing && x.left = 0 then freeze x else x) s
  else
    crossing i (level x) (modStrm i (fun x =>
      let x := { x with credits := x.credits - 1, words := x.words ++ [sw], partLen := part }
      if em then countDown x else x) s)

/-- Credits are granted, and a word that its producer offers without one is taken against the first of them (R389). -/
def grant (i : Nat) (s : State) : State :=
  let s := grantPlaces i s
  match (strm s i).offer with
  | some sw =>
    if (strm s i).credits = 0 then s
    else grantPlaces i (sendWord i sw (modStrm i (fun x => { x with offer := none }) s))
  | none => s

/-- The head word is popped; the freed place is granted (R389). -/
def popWord (i : Nat) (s : State) : Option (SW × State) :=
  match (strm s i).words with
  | [] => none
  | h :: tl => some (h, grant i (modStrm i (fun x => { x with words := tl, reserved := x.reserved - 1 }) s))

/-- A pop through the data window (R394): the word, its end mark to LAST_EM. -/
def windowPop (i : Nat) (s : State) : Option (W64 × State) :=
  match popWord i s with
  | none => none
  | some (h, s) => some (h.w, modStrm i (fun x => { x with lastEm := h.em }) s)

/-- The responses that the register port returns in this step. -/
def respond (rs : List PResp) (s : State) : State := { s with port := { s.port with resp := rs } }

/-- A window read that waits on stream `i` ends with the word that has arrived (R395). -/
def windowServe (i : Nat) (s : State) : State :=
  match s.port.wait with
  | some (.window k _) =>
    if k.toNat = i then
      match windowPop i s with
      | none => s
      | some (w, s) => respond [{ ok := true, value := w }] { s with port := { s.port with wait := none } }
    else s
  | _ => s

/-- Credits are granted, and a window read that waits is served (R389, R395). -/
def grantServe (i : Nat) (s : State) : State := windowServe i (grant i s)

/-- A word sent against a credit; without a credit none is sent. -/
def acceptWord (i : Nat) (sw : SW) (s : State) : State :=
  if (strm s i).credits = 0 then s else grantServe i (sendWord i sw s)

/-! ## Integrity log -/

/-- One record (R439-R442): four words on S3, or dropped whole when S3 has too little room (R391). -/
def logRec (kind : Byte) (intr : Bool) (loc : BitVec 32) (detail : W64) (s : State) : State :=
  let w0 := at_ 56 0x30#8 ||| at_ 48 kind ||| flag 47 intr ||| at_ 0 loc
  let seq := s.intg.seq
  let dropped := (strm s 3).credits < 4
  let g := s.intg
  let g := { g with seq := seq + 1, count := satInc g.count,
                    dropped := if dropped then satInc g.dropped else g.dropped,
                    valid := true, fKind := if g.valid then g.fKind else kind,
                    fLoc := if g.valid then g.fLoc else loc,
                    eTime := if g.valid then g.eTime else s.time }
  let s := { s with intg := g }
  let s := if dropped then
      modStrm 3 (fun x => { x with dropped := true, discarded := satAdd x.discarded 4 }) s
    else
      acceptWord 3 ⟨at_ 32 seq, true, false⟩ (acceptWord 3 ⟨detail, false, false⟩
        (acceptWord 3 ⟨s.time, false, false⟩ (acceptWord 3 ⟨w0, false, false⟩ s)))
  if intr then post srcIntegrity s else s

/-! ## Checked memory -/

/-- The three checked byte memories: staging, a channel's scratch, a channel's codeword buffers
(address [15:13] the buffer, [12:0] the offset). -/
inductive Sp where
  | stg
  | scr (c : Chan)
  | cwb (c : Chan)
  deriving DecidableEq, Repr

/-- Who accesses a memory: its requester code (R440), its thread, and whether it is the fence. -/
structure Rq where
  code  : Byte
  t     : Thr := 0
  fence : Bool := false
  deriving DecidableEq, Repr

def rqPort : Rq := { code := 0x00 }
def rqQe : Rq := { code := 0x01 }
def rqRender : Rq := { code := 0x02 }
def rqSoft : Rq := { code := 0x03 }
def rqLath (x : BitVec 2) : Rq := { code := 0x08 + x.setWidth 8 }
def rqDma (e : BitVec 2) : Rq := { code := 0x10 + e.setWidth 8 }
def rqChan (c : Chan) : Rq := { code := 0x40 + c.setWidth 8 }
def rqThr (c : Chan) (t : Thr) : Rq := { code := 0x40 + c.setWidth 8, t := t }

def ram (s : State) : Sp → Ram
  | .stg => s.stg
  | .scr c => (chan s c).scratch
  | .cwb c => (chan s c).cwb

def setRam (sp : Sp) (r : Ram) (s : State) : State :=
  match sp with
  | .stg => { s with stg := r }
  | .scr c => modChan c (fun ch => { ch with scratch := r }) s
  | .cwb c => modChan c (fun ch => { ch with cwb := r }) s

def modRam (sp : Sp) (f : Ram → Ram) (s : State) : State := setRam sp (f (ram s sp)) s

/-- Staging bank of an address. -/
def bankOf (a : Nat) : Nat := a / 4194304 % 16

/-- The access falls in a retired bank of staging (R446). -/
def retiredAt (s : State) (sp : Sp) (a : Nat) : Bool := sp = .stg && s.intg.inForce.getLsbD (bankOf a)

/-- Accesses that fell in a retired bank, counted in HITS (R445). -/
def hit (k : Nat) (s : State) : State := { s with intg := { s.intg with hits := satAdd s.intg.hits k } }

/-- The byte at an address, unchecked. -/
def rawByte (s : State) (sp : Sp) (a : Nat) : Byte := tget 0 a (ram s sp).bytes

/-- The poison mark of the chunk that holds an address. -/
def markOf (s : State) (sp : Sp) (a : Nat) : Bool := tget false (a / 64) (ram s sp).mark

def setMark (sp : Sp) (a : Nat) (b : Bool) (s : State) : State :=
  modRam sp (fun r => { r with mark := tset false (a / 64) b r.mark }) s

/-- Marks of staging are read in groups of eight; a group whose parity fails reads as eight set marks, is
written back so with fresh parity, and is logged as MARK_PARITY (R432). -/
def checkGroup (sp : Sp) (a : Nat) (rq : Rq) (s : State) : State :=
  let g := a / 512
  if sp = .stg && tget false g s.stg.group then
    logRec 0x02 true (BitVec.ofNat 32 (512 * g)) (at_ 8 rq.code)
      (modRam .stg (fun r => { r with group := tset false g false r.group,
                                      mark := tsets false (8 * g) (List.replicate 8 true) r.mark }) s)
  else s

/-- Record of a byte whose parity failed (R440). `a` is the first failing byte, `m` the byte mask. -/
def logParity (sp : Sp) (a : Nat) (m : Byte) (rq : Rq) (s : State) : State :=
  match sp with
  | .stg =>
    let b := bankOf a
    let n := tget 0 b s.intg.errors
    logRec 0x01 true (BitVec.ofNat 32 a) (flag 16 rq.fence ||| at_ 8 rq.code ||| at_ 0 m)
      { s with intg := { s.intg with errors := tset 0 b (satInc n) s.intg.errors } }
  | .scr c => logRec 0x03 true (BitVec.ofNat 32 (65536 * c.toNat + a)) (at_ 8 rq.t ||| at_ 0 m) s
  | .cwb c => logRec 0x04 true (BitVec.ofNat 32 (65536 * c.toNat + a)) (at_ 8 rq.code ||| at_ 0 m) s

/-- Mask of the bytes `lo … lo + n - 1` of the word at `8 * w` whose stored parity fails. -/
def badMask (r : Ram) (w lo n : Nat) : Byte :=
  (List.range 8).foldl (fun m i =>
    if lo ≤ i ∧ i < lo + n ∧ tget false (8 * w + i) r.bad then m ||| (1#8 <<< i) else m) 0

/-- A read of the `n` bytes from `lo` of the 8 B word number `w`, with the checks of R430, R432-R434, R446.
Each byte comes with the mark of its chunk. -/
def readWord (sp : Sp) (w lo n : Nat) (rq : Rq) (s : State) : List (Byte × Bool) × State :=
  if retiredAt s sp (8 * w) then (List.replicate n (0, true), hit 1 s)
  else
    let s := checkGroup sp (8 * w) rq s
    let m := badMask (ram s sp) w lo n
    let s := if m ≠ 0 ∧ !markOf s sp (8 * w) then
        logParity sp (8 * w + ctz64 (m.setWidth 64)) m rq (setMark sp (8 * w) true s)
      else s
    let mk := markOf s sp (8 * w)
    (((List.range n).map fun i => (rawByte s sp (8 * w + lo + i), mk)), s)

/-- A read of `n` bytes from `a`, word by word. `fuel` bounds the words. -/
def readFuel (sp : Sp) (rq : Rq) : (fuel : Nat) → (a n : Nat) → State → List (Byte × Bool) × State
  | 0, _, _, s => ([], s)
  | fuel + 1, a, n, s =>
    if n = 0 then ([], s)
    else
      let k := min n (8 - a % 8)
      let r := readWord sp (a / 8) (a % 8) k rq s
      let t := readFuel sp rq fuel (a + k) (n - k) r.2
      (r.1 ++ t.1, t.2)

def readMem (sp : Sp) (a n : Nat) (rq : Rq) (s : State) : List (Byte × Bool) × State :=
  readFuel sp rq (n + 1) a n s

/-- LOC of a byte of a checked memory as the destination of a path (R440): SPACE in [31:30]. -/
def pathLoc (sp : Sp) (a : Nat) : BitVec 32 :=
  match sp with
  | .stg => BitVec.ofNat 32 a
  | .scr c => BitVec.ofNat 32 (2 ^ 30 + 65536 * c.toNat + a)
  | .cwb c => BitVec.ofNat 32 (2 ^ 31 + 65536 * c.toNat + a)

/-- The parity check at the end of the path that delivers a word to address `a` (R429, R440): an upset on the path is
recorded as PATH_PARITY, and the bytes are taken as they are (log entry 132). -/
def pathCheck (sp : Sp) (a : Nat) (rq : Rq) (s : State) : State :=
  let m := s.intg.upset
  if m = 0 then s
  else logRec 0x05 true (pathLoc sp (8 * (a / 8) + ctz64 (m.setWidth 64))) (at_ 8 rq.code ||| at_ 0 m)
    { s with intg := { s.intg with upset := 0 } }

/-- The parity check at the end of a path that leads out of the memories, to a decoder, Render, a fabric port or a Lath
port (R429): the failing word is recorded and delivered marked. LOC is a free value, since its destination has no
address (log entry 132). -/
def pathOut (rq : Rq) (r : List (Byte × Bool) × State) : List (Byte × Bool) × State :=
  let m := r.2.intg.upset
  if m = 0 || r.1.isEmpty then r
  else
    let d := draw r.2
    ((r.1.take 8).map (fun b => (b.1, true)) ++ r.1.drop 8,
     logRec 0x05 true (fld d.1 0 32) (at_ 8 rq.code ||| at_ 0 m) { d.2 with intg := { d.2.intg with upset := 0 } })

/-- A write inside one 64 B chunk (R430, R433): fresh parity; the mark is set by a byte from a marked chunk or by a
word that fails its parity on the way, and cleared by 64 bytes from unmarked sources. A retired bank discards it
(R446). -/
def writeChunk (sp : Sp) (a : Nat) (bs : List (Byte × Bool)) (rq : Rq) (s : State) : State :=
  if retiredAt s sp a then hit ((a % 8 + bs.length + 7) / 8) s
  else
    let fails := s.intg.upset ≠ 0
    let s := checkGroup sp a rq (pathCheck sp a rq s)
    let s := modRam sp (fun r => { r with bytes := tsets 0 a (bs.map (·.1)) r.bytes,
                                          bad := tsets false a (bs.map fun _ => false) r.bad }) s
    if fails || bs.any (·.2) then setMark sp a true s
    else if bs.length = 64 then setMark sp a false s
    else s

def writeFuel (sp : Sp) (rq : Rq) : (fuel : Nat) → (a : Nat) → List (Byte × Bool) → State → State
  | 0, _, _, s => s
  | fuel + 1, a, bs, s =>
    if bs.isEmpty then s
    else
      let k := 64 - a % 64
      writeFuel sp rq fuel (a + k) (bs.drop k) (writeChunk sp a (bs.take k) rq s)

/-- A write of bytes with the marks of the chunks they came from. -/
def writeMem (sp : Sp) (a : Nat) (bs : List (Byte × Bool)) (rq : Rq) (s : State) : State :=
  writeFuel sp rq (bs.length / 64 + 2) a bs s

/-- Bytes from an unmarked source. -/
def clean (bs : List Byte) : List (Byte × Bool) := bs.map fun b => (b, false)

/-- Words written one by one: no write covers a chunk, so that its mark stays as it is (R129, R433). -/
def putWords (sp : Sp) (a : Nat) (ws : List W64) (rq : Rq) (s : State) : State :=
  (ws.zipIdx).foldl (fun s p => writeMem sp (a + 8 * p.2) (clean (wordBytes 8 p.1)) rq s) s

/-- Some byte came from a marked chunk. -/
def anyMark (bs : List (Byte × Bool)) : Bool := bs.any (·.2)

/-- Only the bytes. -/
def plain (bs : List (Byte × Bool)) : List Byte := bs.map (·.1)

/-- Clear or set the marks of the chunks that `[a, a + n)` touches. -/
def markRange (sp : Sp) (a n : Nat) (b : Bool) (s : State) : State :=
  if n = 0 then s
  else modRam sp (fun r => { r with
    mark := tsets false (a / 64) (List.replicate ((a + n - 1) / 64 - a / 64 + 1) b) r.mark }) s

end Sys2Proof.Machine
end

