-- ==== Sys2Proof/Machine/Codec.lean ====
section
/-! DEFINITION. The coded path: scrambler and seed (R235, R236), the quasi-cyclic LDPC code (R238, R239),
codeword buffers, and what the decoders decide and report (R240-R252). -/

namespace Sys2Proof.Machine

open Sys2Proof

/-! ## Rate codes (R232, R238) -/

/-- Rows of the base matrix. -/
def ldpcRows (r : Nat) : Nat :=
  match r with
  | 0 => 8
  | 1 => 14
  | 2 => 18
  | _ => 24

/-- Codeword length N in bytes: 4,160 bytes of user part and 32 bytes for each parity block. -/
def cwLen (r : Nat) : Nat := 4160 + 32 * ldpcRows r

/-! ## Scrambler (R235, R236) -/

/-- One step of the shift register, its feedback polynomial x^32 + x^22 + x^2 + x + 1. -/
def lfsrStep (s : BitVec 32) : BitVec 32 :=
  (s <<< 1) ||| (if (s.getLsbD 31 ^^ s.getLsbD 21 ^^ s.getLsbD 1 ^^ s.getLsbD 0) then 1 else 0)

/-- One scrambler byte and the register after it. -/
def lfsrByte (s : BitVec 32) : Byte × BitVec 32 :=
  (List.range 8).foldl (fun p k => (setBit p.1 k (p.2.getLsbD 31), lfsrStep p.2)) (0, s)

/-- The first `n` scrambler bytes from a seed. -/
def keystream : Nat → BitVec 32 → List Byte
  | 0, _ => []
  | n + 1, s => (lfsrByte s).1 :: keystream n (lfsrByte s).2

/-- The scrambler bytes of a codeword: zeros with BYPASS set. -/
def scrBytes (n : Nat) (seed : BitVec 32) (bypass : Bool) : List Byte :=
  if bypass then List.replicate n 0 else keystream n seed

def xorBytes (a b : List Byte) : List Byte := (a.zip b).map fun p => p.1 ^^^ p.2

/-- The row with its plane field cleared: PAGE_BITS `p`, PLANE_BITS `q`. -/
def rowNoPlane (row : BitVec 24) (p q : Nat) : BitVec 24 :=
  row &&& ~~~(BitVec.ofNat 24 ((2 ^ q - 1) * 2 ^ p))

/-- The seed of a codeword (R236). -/
def seedOf (key : BitVec 32) (j : Ctx) (row : BitVec 24) (p q : Nat) (prog : BitVec 2) : BitVec 32 :=
  let x := key ^^^ (j.setWidth 32 <<< 26) ^^^ ((rowNoPlane row p q).setWidth 32 <<< 2) ^^^ prog.setWidth 32
  if x = 0 then 0xFFFFFFFF else x

/-! ## The code (R238, R239) -/

/-- A 256-bit block from its 32 bytes. -/
def bytesBlock (bs : List Byte) : BitVec 256 := bs.foldr (fun b acc => (acc <<< 8) ||| b.setWidth 256) 0

/-- The 32 bytes of a block. -/
def blockBytes (x : BitVec 256) : List Byte := (List.range 32).map fun i => fld x (8 * i) 8

/-- A byte string in blocks. `n` bounds them. -/
def toBlocks : (n : Nat) → List Byte → List (BitVec 256)
  | 0, _ => []
  | n + 1, bs => bytesBlock (bs.take 32) :: toBlocks n (bs.drop 32)

/-- Information column `j` has a circulant in row `i`. -/
def hasCirc (mb i j : Nat) : Bool := (List.range 4).any fun t => (j + t * (mb / 4)) % mb = i

/-- Its shift. -/
def circShift (i j : Nat) : Nat := (29 * i * (2 * j + 1) + 13 * j + 1) % 256

/-- P^s u: bit r takes bit (r + s) mod 256. -/
def rot (s : Nat) (u : BitVec 256) : BitVec 256 := u.rotateRight s

/-- t_i: the information blocks of row `i`, each rotated, added. -/
def infoRow (mb i : Nat) (us : List (BitVec 256)) : BitVec 256 :=
  us.zipIdx.foldl (fun acc (u, j) => if hasCirc mb i j then acc ^^^ rot (circShift i j) u else acc) 0

/-- The parity blocks: each row's sum added to the block before. -/
def parityChain : List (BitVec 256) → BitVec 256 → List (BitVec 256)
  | [], _ => []
  | t :: ts, p => (p ^^^ t) :: parityChain ts (p ^^^ t)

/-- The parity bytes over the 4,160 bytes of the user part (R239). -/
def encode (r : Nat) (user : List Byte) : List Byte :=
  let us := toBlocks 130 user
  (parityChain ((List.range (ldpcRows r)).map fun i => infoRow (ldpcRows r) i us) 0).flatMap blockBytes

/-- The syndrome is zero: every parity block is the one the encoder would append. -/
def inCode (r : Nat) (cw : List Byte) : Bool := (cw.drop 4160).take (32 * ldpcRows r) = encode r (cw.take 4160)

/-- The data CRC at bytes 4,156-4,159 agrees with bytes 0-4,155 (R232). -/
def crcOk (cw : List Byte) : Bool := (cw.drop 4156).take 4 = wordBytes 4 ((crc32 (cw.take 4156)).setWidth 64)

/-! ## Codeword buffers -/

/-- Address of a codeword buffer in its space. -/
def bufAt (buf : BitVec 3) : Nat := 8192 * buf.toNat

/-- The bytes of a buffer, read by the coding units. -/
def cwRead (c : Chan) (buf : BitVec 3) (off n : Nat) (rq : Rq) (s : State) : List (Byte × Bool) × State :=
  pathOut rq (readMem (.cwb c) (bufAt buf + off) n rq s)

def cwWrite (c : Chan) (buf : BitVec 3) (off : Nat) (bs : List (Byte × Bool)) (rq : Rq) (s : State) : State :=
  writeMem (.cwb c) (bufAt buf + off) bs rq s

/-- Bytes 0-4,159 with fresh parity, the marks of their 65 chunks cleared (R245). A word that fails its parity on the
way to the buffer marks its chunk again (R433). -/
def cwGood (c : Chan) (buf : BitVec 3) (user : List Byte) (rq : Rq) (s : State) : State :=
  cwWrite c buf 0 (clean user) rq (markRange (.cwb c) (bufAt buf) 4160 false s)

/-- The 65 chunks of bytes 0-4,159 marked poisoned (R246). -/
def cwPoison (c : Chan) (buf : BitVec 3) (s : State) : State := markRange (.cwb c) (bufAt buf) 4160 true s

/-- The decode report (R244). -/
def report (passes : Nat) (poisoned noBank : Bool) (result corrected r01 r10 : Nat) : W64 :=
  at_ 58 (BitVec.ofNat 6 passes) ||| flag 57 poisoned ||| flag 56 noBank ||| at_ 53 (BitVec.ofNat 3 result) |||
  at_ 32 (BitVec.ofNat 16 (min corrected 65535)) ||| at_ 16 (BitVec.ofNat 16 (min r01 65535)) |||
  at_ 0 (BitVec.ofNat 16 (min r10 65535))

/-- The report is written over the first parity bytes, at offset 4,160. -/
def cwReport (c : Chan) (buf : BitVec 3) (w : W64) (rq : Rq) (s : State) : State :=
  cwWrite c buf 4160 (clean (wordBytes 8 w)) rq s

/-! ## Decisions -/

/-- Zero bits of a byte string (R241). -/
def zeroBits (bs : List Byte) : Nat := (bs.map fun b => 8 - popCount b).sum

/-- One bits of a byte string. -/
def oneBits (bs : List Byte) : Nat := (bs.map popCount).sum

/-- Counts of the corrected bits: all, those read as a physical 0, those read as a physical 1 (R244). -/
def corrCounts (got fixed scr : List Byte) : Nat × Nat × Nat :=
  let d := xorBytes got fixed
  let phys := xorBytes got scr
  let ones := oneBits ((d.zip phys).map fun p => p.1 &&& p.2)
  (oneBits d, oneBits d - ones, ones)

/-- What a decoder decided: converged, with the word and the passes used. -/
structure Decision where
  word   : List Byte
  passes : Nat
  conv   : Bool
  deriving DecidableEq, Repr

/-- A word made `n` bytes long. -/
def fit (n : Nat) (w : List Byte) : List Byte := w.take n ++ List.replicate (n - w.length) 0

/-- The hard decoder (R240): pass 1 judges the received word; a later pass is decided by the first zero
syndrome. The correction itself is a free value (log entry 10), taken only when its syndrome is zero. -/
def hardDecide (r : Nat) (got : List Byte) (limit : Nat) : Decision :=
  if inCode r got then ⟨got, 1, true⟩
  else if limit ≤ 1 then ⟨got, 1, false⟩
  else
    let x := Config.hardPass r got limit
    let w := fit (cwLen r) x.1
    if inCode r w then ⟨w, max 2 (min x.2 limit), true⟩ else ⟨got, limit, false⟩

/-- The soft decoder's input for bit `k` of byte `i` (R248): the hard bit as its sign, and the magnitude of its code;
none, an erasure, for magnitude 0. -/
def softBit (hard : List Byte) (planes : List (List Byte)) (llr : W64) (i k : Nat) : Option (Bool × BitVec 6) :=
  let m := planes.zipIdx.foldl (fun m p => if bit (p.1.getD i 0) k then m + 2 ^ p.2 else m) 0
  let g : BitVec 6 := fld llr (8 * m) 6
  if g = 0 then none else some (bit (hard.getD i 0) k, g)

/-- The whole input, byte by byte, each least significant bit first. -/
def softInput (hard : List Byte) (planes : List (List Byte)) (llr : W64) : List (Option (Bool × BitVec 6)) :=
  (List.range hard.length).flatMap fun i => (List.range 8).map fun k => softBit hard planes llr i k

/-- The soft decoder (R250). The correction itself is a free value (log entry 10), as in `hardDecide`. -/
def softDecide (r : Nat) (hard : List Byte) (input : List (Option (Bool × BitVec 6))) (limit : Nat) : Decision :=
  let x := Config.softPass r input limit
  let w := fit (cwLen r) x.1
  if inCode r w then ⟨w, max 1 (min x.2 limit), true⟩ else ⟨hard, limit, false⟩

/-- A pass limit: 0 acts as 1 (R254). -/
def passLimit (x : BitVec 6) : Nat := max 1 x.toNat

/-- Unpredictable bytes: free values (R177; log entry 2). -/
def freeBytes : Nat → State → List Byte × State
  | 0, s => ([], s)
  | n + 1, s =>
    let d := draw s
    let r := freeBytes n d.2
    (fld d.1 0 8 :: r.1, r.2)

end Sys2Proof.Machine
end

