-- ==== Sys2Proof/Machine/Xfer.lean ====
section
/-! DEFINITION. Buffer handles (R374, R377), and the transfers of the DMA engines as far as they issue
fabric transactions by themselves (R355-R365). What their responses do is in Dma.lean. -/

namespace Sys2Proof.Machine

open Sys2Proof

/-! ## Handles and buffers -/

/-- Buffer size of pool `k` in bytes (R374). -/
def poolSize : Nat → Nat
  | 0 => 256
  | 1 => 4160
  | 2 => 16640
  | 3 => 66560
  | 4 => 199680
  | 5 => 266240
  | _ => 0

/-- The handle of buffer `i` of pool `k` (R377). -/
def mkHandle (k i : Nat) : BitVec 32 := BitVec.ofNat 32 ((k + 1) * 2 ^ 29 + i % 2 ^ 18)

/-- Pool and index of a handle whose PCODE is 1-6 and whose bits [28:18] are 0. -/
def handlePool (h : BitVec 32) : Option (Nat × Nat) :=
  let p := (fld h 29 3).toNat
  if 1 ≤ p ∧ p ≤ 6 ∧ fld h 18 11 = 0 then some (p - 1, (fld h 0 18).toNat) else none

/-- Buffer size of the pool of a handle; 0 for a value that denotes no buffer (log entry 11). -/
def bufSize (h : BitVec 32) : Nat :=
  match handlePool h with
  | some (k, _) => poolSize k
  | none => 0

/-- Staging size in bytes. -/
def stgSize : Nat := 67108864

/-- First staging address of the buffer a handle denotes (R374), modulo the staging size. -/
def bufBase (s : State) (h : BitVec 32) : Nat :=
  match handlePool h with
  | some (k, i) => (64 * (pool s k).base.toNat + i * poolSize k) % stgSize
  | none => 0

/-- `n` bytes of staging from `a`, wrapping at its end. -/
def stgRead (a n : Nat) (rq : Rq) (s : State) : List (Byte × Bool) × State :=
  let a := a % stgSize
  if a + n ≤ stgSize then readMem .stg a n rq s
  else
    let r := readMem .stg a (stgSize - a) rq s
    let t := readMem .stg 0 (a + n - stgSize) rq r.2
    (r.1 ++ t.1, t.2)

/-- Bytes into staging from `a`, wrapping at its end. -/
def stgWrite (a : Nat) (bs : List (Byte × Bool)) (rq : Rq) (s : State) : State :=
  let a := a % stgSize
  if a + bs.length ≤ stgSize then writeMem .stg a bs rq s
  else writeMem .stg 0 (bs.drop (stgSize - a)) rq (writeMem .stg a (bs.take (stgSize - a)) rq s)

/-- Bytes of a buffer, to Render, a fabric port or a Lath port. -/
def bufRead (h : BitVec 32) (off n : Nat) (rq : Rq) (s : State) : List (Byte × Bool) × State :=
  pathOut rq (stgRead (bufBase s h + off) n rq s)

def bufWrite (h : BitVec 32) (off : Nat) (bs : List (Byte × Bool)) (rq : Rq) (s : State) : State :=
  stgWrite (bufBase s h + off) bs rq s

/-! ## Segments and transactions -/

/-- Reason for which a data segment is refused before data moves (R361, R363): 1, 2, 3, 11 in that order. -/
def segFault (h : BitVec 32) (host off len : Nat) : Option Nat :=
  if host % 8 ≠ 0 then some 1
  else if len = 0 ∨ len % 8 ≠ 0 ∨ 266240 < len then some 2
  else if off % 8 ≠ 0 ∨ bufSize h < off + len then some 3
  else if 2 ^ 48 < host + len then some 11
  else none

/-- Number of fabric transactions of a segment: one for each 4,096 B page of host memory (R360). -/
def nTxn (host len : Nat) : Nat := if len = 0 then 0 else (host + len - 1) / 4096 - host / 4096 + 1

/-- First host byte of transaction `j` of a segment. -/
def txnStart (host j : Nat) : Nat := if j = 0 then host else (host / 4096 + j) * 4096

/-- Bytes of transaction `j` of a segment. -/
def txnLen (host len j : Nat) : Nat := min (host + len) ((host / 4096 + j + 1) * 4096) - txnStart host j

/-- A segment built by the queue engine (R356): no descriptor in host memory. -/
def segment (host off len : Nat) : Dsc :=
  { addr := none, w0 := 0, w1 := 0, w3 := 0, host := host, off := off, len := len, link := false,
    barrier := false, txns := List.replicate (nTxn host len) .unissued }

/-- Segments at consecutive buffer offsets (R356). -/
def segments : Nat → List (Nat × Nat) → List Dsc
  | _, [] => []
  | off, (host, len) :: fs => segment host off len :: segments (off + len) fs

/-- The first faulty segment: its reason and index (R363). -/
def firstFault (h : BitVec 32) : Nat → List Dsc → Option (Nat × Nat)
  | _, [] => none
  | i, d :: ds =>
    match segFault h d.host d.off d.len with
    | some r => some (r, i)
    | none => firstFault h (i + 1) ds

/-! ## Descriptors in host memory (R357, R363) -/

/-- Fields of a descriptor that must be 0, DIR, and the locator, for an entry's list (`str = none`) or for
stream `str` (reason 5). -/
def dscBad (w0 w1 w3 : W64) (toBlock : Bool) (str : Option (BitVec 2)) : Bool :=
  let link := bit w3 60
  fld w0 48 16 ≠ 0 || fld w3 19 39 ≠ 0 || (link && bit w3 61) ||
  (!link && ((fld w3 58 2 ≠ if toBlock then 1 else 2) ||
    (match str with
     | none => fld w1 60 4 ≠ 2 || fld w1 56 4 ≠ 0 || fld w1 24 32 ≠ 0
     | some i => fld w1 60 4 ≠ 3 || fld w1 2 58 ≠ 0 || fld w1 0 2 ≠ i)))

/-- A descriptor as read from host memory. -/
def readDsc (addr : Nat) (w0 w1 w3 : W64) : Dsc :=
  let link := bit w3 60
  let host := (fld w0 0 48).toNat
  let len := (fld w3 0 19).toNat
  { addr := some addr, w0 := w0, w1 := w1, w3 := w3, host := host, off := (fld w1 0 24).toNat, len := len,
    link := link, barrier := bit w3 62 && !link,
    txns := if link then [] else List.replicate (nTxn host len) .unissued,
    wb := if link then .closed else .open_ }

/-- Reason for which a descriptor of an entry's list is refused: 10, 5, then those of `segFault`. -/
def dscFault (h : BitVec 32) (toBlock : Bool) (d : Dsc) : Option Nat :=
  if !bit d.w3 63 then some 10
  else if dscBad d.w0 d.w1 d.w3 toBlock none then some 5
  else if d.link then none
  else segFault h d.host d.off d.len

/-- Index of the first segment at which the running sum of lengths exceeds `dlen`, else of the last data
segment when the sum falls short (reason 6). -/
def sumFault (dlen : Nat) : (i acc : Nat) → List Dsc → Option Nat
  | i, acc, [] => if acc < dlen then some (i - 1) else none
  | i, acc, d :: ds =>
    let acc := if d.link then acc else acc + d.len
    if dlen < acc then some i else sumFault dlen (i + 1) acc ds

/-! ## Transfers -/

def xferOf (s : State) (x : XferRef) : Option Xfer := s.xfer.find? (·.ref = x)
def modXfer (x : XferRef) (f : Xfer → Xfer) (s : State) : State :=
  { s with xfer := mapIf (·.ref = x) f s.xfer }
def modDsc (x : XferRef) (i : Nat) (f : Dsc → Dsc) (s : State) : State :=
  modXfer x (fun x => { x with descs := x.descs.modify i f }) s
def dropXfer (x : XferRef) (s : State) : State := { s with xfer := s.xfer.filter (·.ref ≠ x) }

/-- Transactions outstanding on a master port (R63). -/
def portLoad (s : State) (p : BitVec 2) : Nat := s.fm.countP (·.port = p)

/-- Issue a fabric master transaction; the fabric address is 48 bits (R63). -/
def issueFm (r : FmReq) (s : State) : State := { s with fm := s.fm ++ [{ r with addr := r.addr % 2 ^ 48 }] }

/-- Some transaction of the segment has been issued. -/
def started (d : Dsc) : Bool := d.txns.any (· ≠ .unissued)

/-- Every transaction has been answered. -/
def answered (d : Dsc) : Bool := d.txns.all fun t => t = .ok || t = .err

def failedTxn (d : Dsc) : Bool := d.txns.any (· = .err)

/-- Word 3 has been answered. -/
def word3Answered (d : Dsc) : Bool := d.wb = .closed || d.wb = .closedErr

/-- The descriptor needs nothing more: written back, or its write-back has ended (R363). -/
def settled (d : Dsc) : Bool := word3Answered d || d.wb = .failed || d.wb = .skipped

/-- A data fault has stopped the start of further descriptors of an entry (R363); a stream burst always completes
(R399). -/
def faulted (x : Xfer) : Bool :=
  match x.ref with
  | .entry _ => x.descs.any failedTxn
  | .stream _ => false

/-- The descriptors before descriptor `i` in its list (R365): those taken before a stream's list was enabled again are of
another list. -/
def earlier (x : Xfer) (i : Nat) : List Dsc :=
  if i < x.old then x.descs.take i else (x.descs.take i).drop x.old

/-- A barrier that is not written back stands before descriptor `i` (R365). -/
def barred (x : Xfer) (i : Nat) : Bool := (earlier x i).any fun d => d.barrier && !settled d

/-- Descriptor `i` may issue transactions. -/
def mayIssue (x : Xfer) (i : Nat) (d : Dsc) : Bool :=
  started d || (!faulted x && !barred x i)

/-- Poison attribute of each 64 B host beat of a write (R65, R360). -/
def beatMarks (host : Nat) (bs : List (Byte × Bool)) : List Bool :=
  (List.range ((host % 64 + bs.length + 63) / 64)).map fun b =>
    anyMark ((bs.drop (64 * b - host % 64)).take (if b = 0 then 64 - host % 64 else 64))

/-- The bytes a transfer writes to the host: of its buffer, or of the stream words it carries. -/
def xferBytes (x : Xfer) (off n : Nat) (s : State) : List (Byte × Bool) × State :=
  match x.data with
  | some bs => ((bs.drop off).take n, s)
  | none => bufRead x.handle off n (rqDma x.eng) s

/-- Issue transaction `j` of descriptor `i` of a transfer. -/
def issueTxn (r : XferRef) (i j : Nat) (s : State) : State :=
  match xferOf s r with
  | none => s
  | some x =>
    match x.descs[i]? with
    | none => s
    | some d =>
      if d.txns[j]? ≠ some .unissued || !mayIssue x i d || 128 ≤ portLoad s x.eng then s
      else
        let a := txnStart d.host j
        let n := txnLen d.host d.len j
        let mark := fun (p : Bool) => modDsc r i fun d =>
          { d with txns := d.txns.set j .issued, poison := d.poison || p }
        if x.toBlock then
          issueFm { port := x.eng, who := .data r i j, write := false, addr := a, len := n } (mark false s)
        else
          let b := xferBytes x (d.off + (a - d.host)) n s
          issueFm { port := x.eng, who := .data r i j, write := true, addr := a, len := n,
                    data := plain b.1, poison := beatMarks a b.1 } (mark (anyMark b.1) b.2)

/-- DONE_LEN of a faulted descriptor: the bytes of the longest run from its first byte whose transactions
all completed (R363). -/
def doneLen (d : Dsc) : Nat :=
  let k := (d.txns.takeWhile (· = .ok)).length
  if k = d.txns.length then d.len else txnStart d.host k - d.host

/-- Word 2 of a descriptor (R357, R358). -/
def word2 (reason status done : Nat) : W64 :=
  BitVec.ofNat 64 (reason * 2 ^ 40 + status * 2 ^ 32 + done)

/-- Word 2 that a data descriptor is written back with (R358, R363, R366). A stream descriptor whose packet ended
before LEN shows END_MARK. -/
def dscWord2 (x : Xfer) (d : Dsc) : W64 :=
  match d.fault with
  | some reason => word2 reason 2 0
  | none =>
    if failedTxn d then word2 (if x.toBlock then 8 else 9) 2 (doneLen d)
    else if d.len < (fld d.w3 0 19).toNat && d.addr.isSome then word2 0 3 d.len
    else word2 0 (if d.poison then 1 else 0) d.len

/-- Word 3 of a descriptor as written back: OWN cleared (R357). -/
def word3 (d : Dsc) : W64 := setBit d.w3 63 false

/-! ## What an engine issues next (R355, R356, R364, R365, R67) -/

/-- A transaction that a transfer has to issue: a descriptor read, data, a word of a write-back. -/
inductive Work where
  | desc
  | data (i j : Nat)
  | word2 (i : Nat)
  | word3 (i : Nat)
  deriving DecidableEq, Repr

/-- Word 2 of descriptor `i` may be written: of a barrier only after word 3 of every earlier descriptor has been
answered (R365). A fault found before data moves leaves every other descriptor untouched, and waits for none (R363). -/
def word2Free (x : Xfer) (i : Nat) (d : Dsc) : Bool :=
  !d.barrier || x.early.isSome || (earlier x i).all word3Answered

/-- The next word of a write-back among the descriptors `mine`: word 2s and word 3s go in the order in which the data
completed, and a barrier that waits holds none of the others back (R365). `w2` and `w3`: a word 2, or a word 3, of a
descriptor before is still to be written. -/
def dueWork (x : Xfer) (mine : Nat → Bool) : (w2 w3 : Bool) → List Nat → Option Work
  | _, _, [] => none
  | w2, w3, i :: rest =>
    match x.descs[i]? with
    | none => dueWork x mine w2 w3 rest
    | some d =>
      if d.wb = .open_ then
        if !word2Free x i d then dueWork x mine w2 w3 rest
        else if mine i && !w2 then some (.word2 i) else dueWork x mine true true rest
      else if d.wb = .word3due && mine i && !w3 then some (.word3 i)
      else dueWork x mine w2 true rest

/-- The next transaction of a transfer: of all its descriptors, or of descriptor `own` alone. -/
def workOf (s : State) (x : Xfer) (own : Option Nat) : Option Work :=
  let mine := fun (i : Nat) => own.all (· = i)
  if x.nextAt.isSome then (if s.fm.any (fun m => m.who = .desc x.ref) then none else some .desc)
  else
    let wb := dueWork x mine false false x.due
    if wb.isSome || x.early.isSome then wb
    else (List.range x.descs.length).findSome? fun i =>
      match x.descs[i]? with
      | none => none
      | some d =>
        if mine i && mayIssue x i d then (d.txns.findIdx? (· = .unissued)).map (.data i) else none

/-- Issue a transfer's next transaction. -/
def doWork (r : XferRef) (w : Work) (s : State) : State :=
  match xferOf s r with
  | none => s
  | some x =>
    let write := fun (i n : Nat) (wb : Wb) (v : Dsc → W64) (s : State) =>
      match x.descs[i]? with
      | none => s
      | some d =>
        match d.addr with
        | none => s
        | some a => issueFm { port := x.eng, who := .wback r i, write := true, addr := a + n, len := 8,
                              data := wordBytes 8 (v d) } (modDsc r i (fun d => { d with wb := wb }) s)
    match w with
    | .desc => issueFm { port := x.eng, who := .desc r, write := false, addr := x.nextAt.getD 0, len := 32 } s
    | .data i j => issueTxn r i j s
    | .word2 i => write i 16 .word2 (dscWord2 x) s
    | .word3 i => modXfer r (fun x => { x with due := x.due.filter (· ≠ i) }) (write i 24 .word3 word3 s)

/-- Insert by number. -/
def putNo {α : Type} (a : Nat × α) : List (Nat × α) → List (Nat × α)
  | [] => [a]
  | b :: l => if a.1 ≤ b.1 then a :: b :: l else b :: putNo a l

/-- The stream descriptor of an engine that its next burst takes first: its index. -/
def nextDsc (s : State) (e : BitVec 2) : Nat := ((xferOf s (.stream e)).map (·.descs.length)).getD 0

/-- The transfers of an engine, in the order of their arrival: the data of an entry, or one stream descriptor, also while
it waits for its FIFO's DMA request (R356). -/
def units (s : State) (e : BitVec 2) : List (XferRef × Option Nat) :=
  let now := (s.xfer.filter (·.eng = e)).flatMap fun x =>
    match x.ref with
    | .entry _ => [(x.no, x.ref, none)]
    | .stream _ => (x.descs.zipIdx.filter fun d => !settled d.1).map fun d => (d.1.no, x.ref, some d.2)
  let ahead := ((eng s e).ahead.zipIdx (nextDsc s e)).map fun d => (d.1.no, XferRef.stream e, some d.2)
  ((now ++ ahead).foldr putNo []).map (·.2)

/-- The 16 transfers an engine works on (R356). -/
def working (s : State) (e : BitVec 2) : List (XferRef × Option Nat) := (units s e).take 16

/-- The transfer whose turn it is, in rotation, with its transaction. -/
def nextWork (s : State) (e : BitVec 2) : Option ((XferRef × Option Nat) × Work) :=
  let us := working s e
  let after := match (eng s e).last with
    | some u => (us.dropWhile (· ≠ u)).drop 1
    | none => []
  (after ++ us).findSome? fun u => (xferOf s u.1).bind fun x => (workOf s x u.2).map (u, ·)

/-- The engine reads ahead in its stream list: up to 4 descriptors beyond those in use (R398). -/
def readsAhead (s : State) (e : BitVec 2) : Bool :=
  let g := eng s e
  g.senable && g.st = .running && g.bad.isNone && g.ahead.length < 4 &&
    !s.fm.any fun m => m.who = .desc (.stream e)

/-- What an engine has to issue next of its own work, with the state after it. At a halt it starts nothing (R346). -/
def dmaNext (e : BitVec 2) (s : State) : Option State :=
  if s.gctl.halted then none
  else if readsAhead s e then
    some (issueFm { port := e, who := .desc (.stream e), write := false, addr := (eng s e).rdAt, len := 32 } s)
  else (nextWork s e).map fun w => doWork w.1.1 w.2 (modEng e (fun g => { g with last := some w.1 }) s)

/-- 64 B beats of a transaction. -/
def beats (r : FmReq) : Nat := (r.addr % 64 + r.len + 63) / 64

/-- The next transaction of port `e`, when a place of its 128 is free (R63). On FM0 the queue engine's traffic goes
first, and while DMA data waits takes at most one beat in four: three beats of DMA data follow each of its beats
(R67). -/
def fmStep (e : BitVec 2) (s : State) : Option State :=
  if 128 ≤ portLoad s e then none
  else
    let dma := dmaNext e s
    match if e = 0 then s.qe.wait else [] with
    | r :: rest =>
      if dma.isNone || s.qe.debt = 0 then
        some (issueFm r { s with qe := { s.qe with wait := rest, debt := if dma.isSome then 3 * beats r else 0 } })
      else dma.map fun t =>
        { t with qe := { t.qe with debt := t.qe.debt - ((t.fm.getLast?).map beats).getD 0 } }
    | [] => dma.map fun t =>
        if e = 0 then { t with qe := { t.qe with debt := t.qe.debt - ((t.fm.getLast?).map beats).getD 0 } } else t

def fmGo (e : BitVec 2) : (fuel : Nat) → State → State
  | 0, s => s
  | fuel + 1, s =>
    match fmStep e s with
    | some t => fmGo e fuel t
    | none => s

/-- A port issues what waits for it while it has room. -/
def pumpEng (e : BitVec 2) (s : State) : State := fmGo e 129 s

/-- A transaction of the queue engine: on FM0 (R67). -/
def issueQe (r : FmReq) (s : State) : State :=
  pumpEng 0 { s with qe := { s.qe with wait := s.qe.wait ++ [r] } }

/-- The engine that serves an SQ (R355). -/
def engOf (sq : QNum) : BitVec 2 := fld sq 0 2

/-- A transfer has arrived at an engine. -/
def joinEng (e : BitVec 2) (s : State) : State := modEng e (fun g => { g with arrived := g.arrived + 1 }) s

/-- Hand an entry's data to its engine (R356). `frags` are the segments of DMODE 2. -/
def startXfer (id : Nat) (sq : QNum) (toBlock : Bool) (dmode : BitVec 2) (daddr dlen : Nat)
    (frags : List (Nat × Nat)) (h : BitVec 32) (s : State) : State :=
  let e := engOf sq
  let x : Xfer :=
    if dmode = 3 then
      { ref := .entry id, eng := e, toBlock := toBlock, handle := h, no := (eng s e).arrived,
        nextAt := if daddr % 32 = 0 then some daddr else none,
        early := if daddr % 32 = 0 then none else some (4, 0) }
    else
      let ds := segments 0 (if dmode = 1 then [(daddr, dlen)] else frags)
      { ref := .entry id, eng := e, toBlock := toBlock, handle := h, no := (eng s e).arrived, descs := ds,
        early := firstFault h 0 ds }
  pumpEng e (joinEng e { s with xfer := s.xfer ++ [x] })

end Sys2Proof.Machine
end

