-- ==== Sys2Proof/Machine/Fence.lean ====
section
/-! DEFINITION. The program fence (R213-R217): its region, its accesses and its checks. -/

namespace Sys2Proof.Machine

open Sys2Proof

/-- The fence as a requester (R440). -/
def rqFence (c : Chan) (t : Thr) : Rq := { code := 0x40 + c.setWidth 8, t := t, fence := true }

/-- log2 of the contexts covered: the reserved code 7 acts as 6 (R216). -/
def ctxLog2 (s : State) (c : Chan) : Nat := min 6 (chan s c).ctl.ctxLog2.toNat
def ebLog2 (s : State) (c : Chan) : Nat := (chan s c).ctl.ebLog2.toNat

/-- Staging address of entry `f` of context `j`, modulo the staging size (R213, R216). -/
def fenceAddr (s : State) (c : Chan) (j : Ctx) (f : Nat) : Nat :=
  ((chan s c).ctl.fBase.toNat * 4096 + 2 * (j.toNat * 2 ^ ebLog2 s c + f)) % stgSize

/-- The context lies in the region. -/
def inRegion (s : State) (c : Chan) (j : Ctx) : Bool := j.toNat < 2 ^ ctxLog2 s c

/-- One fence read: a marked chunk or failing parity counts as CLOSED (R215, R435). -/
def fenceRead (c : Chan) (t : Thr) (j : Ctx) (f : Nat) (s : State) : BitVec 16 × State :=
  let r := stgRead (fenceAddr s c j f) 2 (rqFence c t) s
  (if anyMark r.1 then 0xFFFF else (bytesWord (plain r.1)).setWidth 16, r.2)

/-- One fence write. -/
def fenceWrite (c : Chan) (t : Thr) (j : Ctx) (f : Nat) (v : BitVec 16) (s : State) : State :=
  stgWrite (fenceAddr s c j f) (clean (wordBytes 2 (v.setWidth 64))) (rqFence c t) s

/-- The routine number's fence class (R213). -/
def fenceClass (s : State) (c : Chan) (n : Byte) : BitVec 2 :=
  fld (tget 0 (n.toNat / 32) (chan s c).ctl.fclass) (2 * (n.toNat % 32)) 2

def dieCtl (s : State) (c : Chan) (j : Ctx) : DieCtl := tget {} j.toNat (chan s c).ctl.die

/-- The planes selected (R213): none for a mask of 0 or one with a bit at or above 2^PLANE_BITS. -/
def fencePlanes (d : DieCtl) (m : BitVec 24) : Option (List Nat) :=
  let k := d.plane.toNat
  let mask := if k = 0 then 1#4 else fld m 20 4
  if mask = 0 ∨ 2 ^ 2 ^ k ≤ mask.toNat then none else some ((List.range 4).filter mask.getLsbD)

/-- Page and entries of a DOP with argument `a` (R213): none when it must end with FENCE. -/
def fenceSel (s : State) (c : Chan) (j : Ctx) (a : W64) (m : BitVec 24) : Option (Nat × List Nat) :=
  let d := dieCtl s c j
  let row := (fld a 16 24).toNat
  let f := row / 2 ^ d.page.toNat % 2 ^ ebLog2 s c
  let k := 2 ^ d.plane.toNat
  if !stgOn s || !inRegion s c j || ebLog2 s c < 8 || ebLog2 s c = 15 then none
  else match fencePlanes d m with
    | some ps => some (row % 2 ^ d.page.toNat, ps.map fun p => f / k * k + p)
    | none => none

/-- Some entry lies in a retired bank (R446). -/
def fenceRetired (s : State) (c : Chan) (j : Ctx) (fs : List Nat) : Bool :=
  fs.any fun f => s.intg.inForce.getLsbD (bankOf (fenceAddr s c j f))

/-- Read the selected entries. -/
def fenceReads (c : Chan) (t : Thr) (j : Ctx) : List Nat → State → List (BitVec 16) × State
  | [], s => ([], s)
  | f :: fs, s =>
    let r := fenceRead c t j f s
    let rs := fenceReads c t j fs r.2
    (r.1 :: rs.1, rs.2)

def fenceWrites (c : Chan) (t : Thr) (j : Ctx) (v : BitVec 16) (fs : List Nat) (s : State) : State :=
  fs.foldl (fun s f => fenceWrite c t j f v s) s

/-- The fence step of a class 1 or class 2 DOP at acceptance (R213, R214): whether it passes. -/
def fenceAccept (c : Chan) (t : Thr) (cls : BitVec 2) (j : Ctx) (a : W64) (m : BitVec 24) (s : State) :
    Bool × State :=
  match fenceSel s c j a m with
  | none => (false, s)
  | some (page, fs) =>
    if cls = 2 then
      if fenceRetired s c j fs then (false, (fenceReads c t j fs s).2)
      else (true, fenceWrites c t j 0xFFFF fs s)
    else
      let r := fenceReads c t j fs s
      if r.1.any (fun e => e = 0xFFFF || page < e.toNat) || 0xFFFF ≤ page then (false, r.2)
      else (true, fenceWrites c t j (BitVec.ofNat 16 (page + 1)) fs r.2)

/-- An ERASE that ended DONE with status bit 0 clear and bit 7 set opens its entries (R213): those its address names by
the settings in force at that END (log entry 145). -/
def fenceOpen (c : Chan) (t : Thr) (j : Ctx) (a : W64) (m : BitVec 24) (s : State) : State :=
  match fenceSel s c j a m with
  | some (_, fs) => fenceWrites c t j 0 fs s
  | none => s

/-- FENCE_FILL_END's writes: every entry of the region takes FILL_VALUE (R216). -/
def fillRegion (c : Chan) (s : State) : State :=
  let x := (chan s c).ctl
  let n := 2 ^ (ctxLog2 s c + ebLog2 s c)
  stgWrite (x.fBase.toNat * 4096) (clean (List.replicate n (wordBytes 2 (x.fill.setWidth 64))).flatten)
    (rqChan c) s

end Sys2Proof.Machine
end

