-- ==== Sys2Proof/Machine/EntryOps.lean ====
section
/-! DEFINITION. The fields of a submission entry (R326) and access to the entry store (R332). -/

namespace Sys2Proof.Machine

open Sys2Proof

/-- Word `i` of an entry. -/
def eword (e : Entry) (i : Nat) : W64 := e.words.getD i 0

def eOpcode (e : Entry) : BitVec 10 := fld (eword e 0) 0 10
def eCid (e : Entry) : BitVec 16 := fld (eword e 0) 16 16
def eBatch (e : Entry) : Bool := bit (eword e 0) 38
def eDmode (e : Entry) : BitVec 2 := fld (eword e 0) 48 2
/-- DIR: 0 NONE, 1 TO_BLOCK, 2 FROM_BLOCK. -/
def eDir (e : Entry) : BitVec 2 := fld (eword e 0) 50 2
/-- Die context named by CE, VOL, LUN: the low six bits of the die index (R201). -/
def eCtx (e : Entry) : Ctx := fld (eword e 1) 36 6
def eCh (e : Entry) : Chan := fld (eword e 1) 42 6
def eNode (e : Entry) : BitVec 16 := fld (eword e 1) 48 16
def eDaddr (e : Entry) : Nat := (fld (eword e 4) 0 48).toNat
def eFcount (e : Entry) : Nat := (fld (eword e 4) 48 16).toNat
def eDlen (e : Entry) : Nat := (fld (eword e 5) 0 32).toNat

def entryOf (s : State) (id : Nat) : Option Entry := s.qe.store.find? (·.id = id)

def modEntry (id : Nat) (f : Entry → Entry) (s : State) : State :=
  { s with qe := { s.qe with store := mapIf (·.id = id) f s.qe.store } }

def dropEntry (id : Nat) (s : State) : State :=
  { s with qe := { s.qe with store := s.qe.store.filter (·.id ≠ id) } }

/-- A queue's context key: SQn at n, CQn at 131,072 + n (R317). -/
def ctxKey (cq : Bool) (q : QNum) : Nat := if cq then 131072 + q.toNat else q.toNat

def qctx (s : State) (k : Nat) : QCtx := tget {} k s.qe.ctx
def modQctx (k : Nat) (f : QCtx → QCtx) (s : State) : State :=
  { s with qe := { s.qe with ctx := tmod {} k f s.qe.ctx } }

/-- The CQ of an SQ, from its context (R318). -/
def cqOf (s : State) (sq : QNum) : QNum := fld (qctx s (ctxKey false sq)).w1 0 17

/-- Places of the completion buffer in use: completions waiting or being written, and the places held by
ENDs (R101, R338). -/
def cbufUsed (s : State) : Nat := s.qe.cbuf.length + s.qe.flying.length + s.qe.held

/-- The entry runs on this node for a queue of this node, or came from this node's Render unit. -/
def fetchedHere (e : Entry) : Bool := e.kind = .host

/-- An entry whose NODE is this node, or 0 (R334). -/
def isLocal (s : State) (n : BitVec 16) : Bool := n = 0 || (s.lath.node ≠ 0 && n = s.lath.node)

end Sys2Proof.Machine
end

