-- ==== Sys2Proof/Machine/Threads.lean ====
section
/-! DEFINITION. The registers of a thread and the landing of results (R93, R107, R108, R110). -/

namespace Sys2Proof.Machine

open Sys2Proof

/-- Value of g<r>: g0 reads as zero (R93). -/
def regOf (th : Thread) (r : BitVec 5) : W64 := if r = 0 then 0 else tget 0 r.toNat th.regs

/-- g<r> := v; a write of g0 is discarded (R93). -/
def setReg (r : BitVec 5) (v : W64) (th : Thread) : Thread :=
  if r = 0 then th else { th with regs := tset 0 r.toNat v th.regs }

/-- Results that are due land, oldest first; a landing result overtakes the older ones still in flight to
its register, so that the later write is the final value (R108). -/
def landDue : List Flight → Thread → Thread
  | [], th => th
  | f :: fs, th =>
    if f.left = 0 then
      landDue fs { setReg f.reg f.val th with flight := th.flight.filter (·.reg ≠ f.reg) }
    else landDue fs { th with flight := th.flight ++ [f] }

/-- One later instruction of the thread issues: every distance shortens by one, and what is due lands. -/
def ageFlights (th : Thread) : Thread :=
  landDue (th.flight.map fun f => { f with left := f.left - 1 }) { th with flight := [] }

/-- Every result in flight lands (R103, R110). -/
def landAll (th : Thread) : Thread :=
  th.flight.foldl (fun t f => setReg f.reg f.val t) { th with flight := [] }

/-- A result of distance `d` (R107). -/
def launch (r : BitVec 5) (v : W64) (d : Nat) (th : Thread) : Thread :=
  if r = 0 then th else { th with flight := th.flight ++ [⟨r, v, d⟩] }

/-- The values a read of g<r> may meet: the register, then the pending writes in issue order (R108). -/
def readChoices (th : Thread) (r : BitVec 5) : List W64 :=
  regOf th r :: (th.flight.filter (·.reg = r)).map (·.val)

/-- A read of g<r> at issue (R120): the register; while a write to it is pending, one of the values R108
lists, chosen by a free value (log entry 2). -/
def operand (c : Chan) (t : Thr) (r : BitVec 5) (s : State) : W64 × State :=
  let th := thr s c t
  if r = 0 then (0, s)
  else
    let cs := readChoices th r
    if cs.length = 1 then (regOf th r, s)
    else
      let d := draw s
      (cs.getD (d.1.toNat % cs.length) 0, d.2)

/-- The pc after the instruction at it: the target of a branch whose delay slot this was, or the next
index (R109). -/
def advance (th : Thread) : Thread :=
  match th.after with
  | some a => { th with pc := a, after := none }
  | none => { th with pc := th.pc + 1 }

/-- A waiting instruction ends with RD := v: everything pending lands, and the thread goes on (R110). -/
def endWait (rd : BitVec 5) (v : W64) (th : Thread) : Thread :=
  advance { setReg rd v (landAll th) with wait := .none }

def finishWait (c : Chan) (t : Thr) (rd : BitVec 5) (v : W64) (s : State) : State :=
  modThr c t (endWait rd v) s

/-- The thread waits in its instruction, everything pending landed (R110). -/
def hold (c : Chan) (t : Thr) (w : TWait) (s : State) : State :=
  modThr c t (fun th => { landAll th with wait := w }) s

/-- Scratch address of a thread's frame (R94). -/
def frameOf (t : Thr) : Nat := 0x8000 + 0x1000 * t.toNat

/-- Die index of R44. -/
def dieIndex (c : Chan) (j : Ctx) : Nat := 64 * c.toNat + j.toNat

/-- A thread without a program. -/
def idle (th : Thread) : Bool := !th.run && th.ending.isNone

/-- The lowest-numbered idle thread of a channel (R89). -/
def freeThread (s : State) (c : Chan) : Option Thr :=
  ((List.range 8).find? fun i => idle (thr s c (BitVec.ofNat 3 i))).map (BitVec.ofNat 3)

end Sys2Proof.Machine
end

