-- ==== Sys2Proof/Machine/Hawk.lean ====
section
/-! DEFINITION. Hawk, the buffer pool manager: allocation, freeing, withholding and rebuilding of the free
lists (R374-R386). -/

namespace Sys2Proof.Machine

open Sys2Proof

/-- Buffer `i` of pool `k` touches a retired bank (R386). -/
def withheld (s : State) (k i : Nat) : Bool :=
  let a := 64 * (pool s k).base.toNat + i * poolSize k
  ((List.range ((a + poolSize k - 1) / 4194304 - a / 4194304 + 1)).any fun j =>
    s.intg.inForce.getLsbD ((a / 4194304 + j) % 16))

/-- WITHHELD of HAWK_FREECOUNT[k]: the withheld buffers of a pool. -/
def withheldCount (s : State) (k : Nat) : Nat :=
  if s.intg.inForce = 0 then 0 else (List.range (pool s k).count.toNat).countP (withheld s k)

/-- The free list built afresh: every buffer that is not withheld, ascending (R376, R385). -/
def rebuildPool (k : Nat) (s : State) : State :=
  let l := (List.range (pool s k).count.toNat).filter fun i => !withheld s k i
  modPool k (fun p => { p with free := l, busy := false }) s

/-- Rebuild every enabled pool (R385). -/
def rebuildPools (s : State) : State :=
  (List.range 6).foldl (fun s k => if (pool s k).enable then rebuildPool k s else s) s

/-- HAWK_LOW when FREE has fallen from LOW or above to below it (R382). -/
def lowCheck (k before : Nat) (s : State) : State :=
  let p := pool s k
  if p.low ≠ 0 ∧ p.low.toNat ≤ before ∧ p.free.length < p.low.toNat then
    post srcHawk { s with hawk := { s.hawk with low := setBit s.hawk.low k true } }
  else s

/-- The pool for `m` buffers of pool `k`: the first enabled one of k, …, 5 (only k without fallback) that lists them
(R378). -/
def listedIn (s : State) (k : Nat) (fall : Bool) (m : Nat) : Option Nat :=
  (if fall then (List.range 6).filter (k ≤ ·) else [k]).find? fun p =>
    p < 6 && (pool s p).enable && 0 < (pool s p).free.length && m ≤ (pool s p).free.length

/-- A request could take a buffer of pool `k` (R378). -/
def couldTake (r : HReq) (k : Nat) : Bool := r.pool = k || (r.fall && r.pool ≤ k)

/-- What answers a request: a pool; none yet, because the pool it is for serves no request while its withheld buffers
are removed (R31, R386); or that nothing fits. -/
inductive Served where
  | pool (p : Nat)
  | busy
  | nothing
  deriving DecidableEq, Repr

/-- A request that waits for a pool which serves no request. -/
def heldBack (s : State) (r : HReq) : Bool := (listedIn s r.pool r.fall 1).any fun p => (pool s p).busy

/-- What answers a request for `m` buffers of pool `k`, after the requests `earlier` that wait (R378): nothing fits where
one of those could take the buffer, unless that one is itself held back by a busy pool. -/
def servedBy (s : State) (earlier : List HReq) (k : Nat) (fall : Bool) (m : Nat) : Served :=
  match listedIn s k fall m with
  | none => .nothing
  | some p =>
    if !stgOn s then .nothing
    else if (pool s p).busy || earlier.any (fun r => couldTake r p && heldBack s r) then .busy
    else if earlier.any (couldTake · p) then .nothing
    else .pool p

/-- Pop the buffer listed longest of pool `k`: its handle. -/
def popBuffer (k : Nat) (s : State) : BitVec 32 × State :=
  match (pool s k).free with
  | [] => (0, s)
  | i :: rest =>
    (mkHandle k i, lowCheck k (rest.length + 1) (modPool k (fun p => { p with free := rest }) s))

/-- An allocation against the requests already waiting: the handle, or none when nothing fits or it must wait for a busy
pool (`allocBusy`). -/
def alloc (k : Nat) (fall : Bool) (s : State) : Option (BitVec 32 × State) :=
  match servedBy s s.hawk.waiting k fall 1 with
  | .pool p => some (popBuffer p s)
  | _ => none

/-- The allocation waits, though it asked for no wait: the allocator is busy (R31, R386). -/
def allocBusy (k : Nat) (fall : Bool) (s : State) : Bool := servedBy s s.hawk.waiting k fall 1 = .busy

/-- A request joins those that wait. -/
def joinWaiting (r : HReq) (s : State) : State := { s with hawk := { s.hawk with waiting := s.hawk.waiting ++ [r] } }

/-- A waiting request receives its buffer, or handle 0: HALLOC ends with the handle, a HAWK_ALLOC read is answered with
it; an entry goes on to its data (R328), TO_BLOCK data being moved in by a DMA engine. -/
def deliver (w : HWho) (h : BitVec 32) (s : State) : State :=
  match w with
  | .thread c t =>
    match (thr s c t).wait with
    | .hawk rd => finishWait c t rd (h.setWidth 64) s
    | _ => s
  | .port =>
    if s.port.wait = some .alloc then
      respond [{ ok := true, value := h.setWidth 64 }] { s with port := { s.port with wait := none } }
    else s
  | .entry id =>
    match entryOf s id with
    | none => s
    | some e =>
      if eDir e = 1 && e.kind = .host then
        startXfer id e.sq true (eDmode e) (eDaddr e) (eDlen e) e.frags h
          (modEntry id (fun e => { e with handle := h, stage := .dataIn }) s)
      else
        modEntry id (fun e => { e with handle := h, stage := if eDir e = 1 then .dataIn else .ready }) s

/-- Serve the waiting requests, oldest first (R378). `kept` are those that stay waiting. One that asked for no wait gets
handle 0 once nothing fits. -/
def serve : List HReq → (kept : List HReq) → State → State
  | [], kept, s => { s with hawk := { s.hawk with waiting := kept } }
  | r :: rs, kept, s =>
    match servedBy s kept r.pool r.fall 1 with
    | .pool p =>
      let b := popBuffer p s
      serve rs kept (deliver r.who b.1 b.2)
    | .busy => serve rs (kept ++ [r]) s
    | .nothing => if r.wait then serve rs (kept ++ [r]) s else serve rs kept (deliver r.who 0 s)

def serveWaiting (s : State) : State := serve s.hawk.waiting [] s

/-- An ignored free (R379). -/
def badHandle (h : BitVec 32) (s : State) : State :=
  { s with hawk := { s.hawk with badHandle := true,
                                 badValue := if s.hawk.badHandle then s.hawk.badValue else h } }

/-- A free of handle `h`; `only` is the pool of a HAWK_FREE register (R379, R386). -/
def freeBuffer (h : BitVec 32) (only : Option Nat) (s : State) : State :=
  match handlePool h with
  | none => badHandle h s
  | some (k, i) =>
    let p := pool s k
    if (only.isSome && only ≠ some k) || p.count.toNat ≤ i || !p.enable then badHandle h s
    else if withheld s k i || 262144 ≤ p.free.length then s
    else serveWaiting (modPool k (fun p => { p with free := p.free ++ [i] }) s)

/-- The smallest pool whose buffer holds `n` bytes; 6 when none does. -/
def poolFor (n : Nat) : Nat := ((List.range 6).find? fun k => n ≤ poolSize k).getD 6

/-- Requests of entries that wait (R378: at most 64). -/
def entryWaits (s : State) : Nat :=
  s.hawk.waiting.countP fun r => match r.who with
    | .entry _ => true
    | .thread _ _ | .port => false

/-- WAITING of HAWK_STATE: the requests of threads and entries that wait (R386). -/
def hawkWaits (s : State) : Nat := s.hawk.waiting.countP (·.who ≠ .port)

/-- A thread's waiting request is withdrawn (R145). -/
def dropWaiter (w : HWho) (s : State) : State :=
  { s with hawk := { s.hawk with waiting := s.hawk.waiting.filter (·.who ≠ w) } }

/-- A retirement takes force for the pools: each removes its withheld buffers and serves nothing meanwhile
(R386). -/
def withholdStart (s : State) : State :=
  (List.range 6).foldl (fun s k =>
    if (pool s k).enable then modPool k (fun p => { p with busy := true }) s else s) s

/-- The removal ends and the pool serves requests again (R386). -/
def withholdEnd (k : Nat) (s : State) : State :=
  let p := pool s k
  if !p.busy then s
  else
    let before := p.free.length
    let s := modPool k (fun p => { p with free := p.free.filter (fun i => !withheld s k i), busy := false }) s
    serveWaiting (lowCheck k before s)

end Sys2Proof.Machine
end

