-- ==== Sys2Proof/Machine/Dma.lean ====
section
/-! DEFINITION. The DMA engines: descriptor lists, responses of the fabric, write-backs and the end of a
transfer (R356-R367), and stream lists (R366, R367, R398, R399). -/

namespace Sys2Proof.Machine

open Sys2Proof

/-! ## Ends of entries -/

/-- The entry has its status and waits for its completion to be posted (R336). -/
def finishEntry (id : Nat) (status : Byte) (result : BitVec 32) (s : State) : State :=
  modEntry id (fun e => { e with stage := .finish, status := status, result := result, slot := none }) s

/-- Free the buffer of a handle unless it is 0 (R328). -/
def freeEntryBuffer (h : BitVec 32) (s : State) : State := if h = 0 then s else freeBuffer h none s

/-- RESULT of a DMA fault: reason in [15:8], saturating index in [7:0] (R363). -/
def faultResult (reason index : Nat) : BitVec 32 := BitVec.ofNat 32 (reason * 256 + min index 255)

/-! ## End of a transfer -/

/-- Nothing of the transfer is left to do. -/
def xferDone (x : Xfer) : Bool :=
  x.nextAt.isNone &&
  match x.early with
  | some (_, k) => (x.descs[k]?).all fun d => d.addr.isNone || settled d
  | none => x.descs.all fun d => settled d || (!started d && faulted x)

/-- Reason and index of the fault that ends the transfer (R363): found before data moves, else of the lowest
descriptor that is written back FAULT, else of the lowest whose write-back failed (log entry 156). -/
def xferFault (x : Xfer) : Option (Nat × Nat) :=
  let low := fun (p : Dsc → Bool) => (x.descs.findIdx? p)
  x.early.orElse fun _ => ((low fun d => failedTxn d && d.wb = .closed).map fun i => (if x.toBlock then 8 else 9, i)).orElse fun _ =>
    (low fun d => d.wb = .failed || d.wb = .closedErr).map fun i => (13, i)

/-- Some beat of the transfer carried the poison attribute. -/
def xferPoison (x : Xfer) : Bool := x.descs.any (·.poison)

/-- End of an entry's transfer: a TO_BLOCK entry goes on to its dispatch, a FROM_BLOCK entry's buffer is
freed and its completion may be posted; a fault ends it MISALIGNED (R328, R363), consumed poison replaces a
good status (R436). A transfer that faults ends an aborted FROM_BLOCK entry MISALIGNED, an aborted TO_BLOCK entry
ABORTED (log entry 146). -/
def endEntryXfer (id : Nat) (x : Xfer) (s : State) : State :=
  let s := dropXfer x.ref s
  match entryOf s id with
  | none => s
  | some e =>
    if x.toBlock && e.aborted then finishEntry id 0x08 0 (freeEntryBuffer x.handle s)
    else match xferFault x with
    | some (r, i) => finishEntry id 0x10 (faultResult r i) (freeEntryBuffer x.handle s)
    | none =>
      if x.toBlock then modEntry id (fun e => { e with stage := .ready }) s
      else
        let st := if xferPoison x && (e.status = 0 || e.status = 1 || e.status = 2) then 0x1B else e.status
        finishEntry id st e.result (freeEntryBuffer x.handle s)

/-- A fault stops the stream list (R367). -/
def stopStream (e : BitVec 2) (reason : Nat) (s : State) : State :=
  modEng e (fun g => { g with senable := false, st := .stopped, sfault := true,
                              sreason := BitVec.ofNat 8 reason, ahead := [], bad := none }) s

/-- The stream that a stream descriptor serves. -/
def dscStream (d : Dsc) : BitVec 2 := fld d.w1 0 2

/-- The write-back of stream descriptor `i` has ended: DMA_SLIST advances past the leading descriptors that are
written back (R366), and a fault stops the list (R363, R367). A descriptor taken before the list was enabled again
changes nothing of it. -/
def streamSettled (e : BitVec 2) (i : Nat) (err : Bool) (s : State) : State :=
  match xferOf s (.stream e) with
  | none => s
  | some x =>
    if i < x.old then s
    else
      let s := match ((x.descs.drop x.old).takeWhile fun d => settled d && d.fault.isNone).getLast? with
        | some d => modEng e (fun g => { g with slist := BitVec.ofNat 48 (d.addr.getD 0 + 32) }) s
        | none => s
      match x.descs[i]? with
      | none => s
      | some d =>
        if err then stopStream e 13 s
        else match d.fault with
          | some reason => stopStream e reason s
          | none => if failedTxn d then stopStream e 9 s else s

/-- Barriers that wait for a word 3 that is never written are given up (log entry 128): every earlier descriptor has
ended, and not each with its word 3. -/
def passBarriers (x : Xfer) : Xfer :=
  (List.range x.descs.length).foldl (fun x i =>
    let before := earlier x i
    if (x.descs[i]?).any (fun d => d.barrier && d.wb = .open_ && answered d && x.early.isNone) &&
        before.all (fun d => settled d || (!started d && faulted x)) && !before.all word3Answered then
      { x with descs := x.descs.modify i fun d => { d with wb := .skipped }, due := x.due.filter (· ≠ i) }
    else x) x

/-- A transfer that is done closes. -/
def closeXfer (r : XferRef) (s : State) : State :=
  match xferOf s r with
  | none => s
  | some x =>
    if !xferDone x then s
    else match r with
      | .entry id => pumpEng x.eng (endEntryXfer id x s)
      | .stream _ => pumpEng x.eng (dropXfer r s)

/-- After a step of a transfer: its engine goes on, and it closes when it is done. -/
def stepXfer (r : XferRef) (s : State) : State :=
  match xferOf s r with
  | none => s
  | some x => if s.gctl.halted then s else closeXfer r (pumpEng x.eng (modXfer r passBarriers s))

/-! ## Descriptor reads -/

/-- Takes the request of `who` out of the outstanding transactions. -/
def takeFm (who : FmWho) (s : State) : Option (FmReq × State) :=
  match takeFirst (fun (m : FmReq) => decide (m.who = who)) s.fm with
  | some (m, rest) => some (m, { s with fm := rest })
  | none => none

/-- The same for transaction `n`, oldest first, of those of `who`: the fabric answers them in any order (R64). -/
def takeFmAt (who : FmWho) (n : Nat) (s : State) : Option (FmReq × State) :=
  (takeNth (fun (m : FmReq) => decide (m.who = who)) n s.fm).map fun r => (r.1, { s with fm := r.2 })

/-- A fault of an entry's list before data moves: the faulty descriptor, where it was read, is written back (R363). -/
def earlyFault (r : XferRef) (reason index : Nat) (s : State) : State :=
  modXfer r (fun x => { x with
    nextAt := none, early := some (reason, index), due := if index < x.descs.length then [index] else [],
    descs := x.descs.modify index fun d => { d with fault := some reason, wb := .open_ } }) s

/-- The next descriptor of an entry's list is at `a` (R359): faulty when misaligned (4) or the 4,097th (12). -/
def listNext (r : XferRef) (n a : Nat) (s : State) : State :=
  if 4096 ≤ n then earlyFault r 12 n s
  else if a % 32 ≠ 0 then earlyFault r 4 n s
  else modXfer r (fun x => { x with nextAt := some a }) s

/-- Descriptor read of an entry's list returned (R359, R362, R363). -/
def entryDescRead (id : Nat) (resp : MemResp) (s : State) : State :=
  let r : XferRef := .entry id
  match xferOf s r, entryOf s id with
  | some x, some e =>
    match x.nextAt with
    | none => s
    | some a =>
      let n := x.descs.length
      match resp with
      | .words ws =>
        let d := readDsc a (ws.getD 0 0) (ws.getD 1 0) (ws.getD 3 0)
        let s := modXfer r (fun x => { x with descs := x.descs ++ [d], nextAt := none }) s
        match dscFault x.handle x.toBlock d with
        | some reason => earlyFault r reason n s
        | none =>
          if d.link then listNext r (n + 1) d.host s
          else if bit d.w3 61 then
            match sumFault (eDlen e) 0 0 (x.descs ++ [d]) with
            | some i => earlyFault r 6 i s
            | none => s
          else listNext r (n + 1) (a + 32) s
      | .error | .poisoned => earlyFault r 7 n s
  | _, _ => s

/-- Reason for which a stream descriptor is refused: 5, 1, 2, 11 (R361, R363). -/
def streamDscFault (i : BitVec 2) (d : Dsc) : Option Nat :=
  if dscBad d.w0 d.w1 d.w3 false (some i) then some 5
  else if d.link then none
  else if d.host % 8 ≠ 0 then some 1
  else if d.len < 2048 ∨ d.len % 8 ≠ 0 ∨ 266240 < d.len then some 2
  else if 2 ^ 48 < d.host + d.len then some 11
  else none

/-- Descriptors of a stream list, with the bytes they move, join the engine's transfers. -/
def addStream (e : BitVec 2) (ds : List Dsc) (bytes : List (Byte × Bool)) (due : List Nat) (s : State) : State :=
  match xferOf s (.stream e) with
  | some x => modXfer (.stream e) (fun y => { y with
      data := some (y.data.getD [] ++ bytes), descs := y.descs ++ ds,
      due := y.due ++ due.map (x.descs.length + ·) }) s
  | none => { s with xfer := s.xfer ++
      [{ ref := .stream e, eng := e, toBlock := false, data := some bytes, descs := ds, due := due }] }

/-- A faulty stream descriptor is written back with FAULT; the list then stops (R367). -/
def refuseStream (e : BitVec 2) (reason : Nat) (d : Dsc) (s : State) : State :=
  pumpEng e (joinEng e (addStream e
    [{ d with txns := [], fault := some reason, wb := .open_, no := (eng s e).arrived }] [] [0]
    (modEng e (fun g => { g with bad := some (reason, d) }) s)))

/-- Descriptor read of a stream list returned (R359, R367). -/
def streamDescRead (e : BitVec 2) (resp : MemResp) (s : State) : State :=
  let g := eng s e
  if !g.senable || g.st ≠ .running then s
  else
    match resp with
    | .error | .poisoned => stopStream e 7 s
    | .words ws =>
      let a := g.rdAt
      let d := readDsc a (ws.getD 0 0) (ws.getD 1 0) (ws.getD 3 0)
      if !bit d.w3 63 then modEng e (fun g => { g with st := .waitOwn }) s
      else
        match streamDscFault g.stream d with
        | some reason => refuseStream e reason d s
        | none =>
          if d.link then
            if 4096 ≤ g.links + 1 then stopStream e 12 s
            else if d.host % 32 ≠ 0 then stopStream e 4 s
            else pumpEng e (modEng e (fun g => { g with rdAt := d.host, links := g.links + 1 }) s)
          else
            pumpEng e (joinEng e (modEng e (fun g => { g with
              rdAt := a + 32, links := 0, ahead := g.ahead ++ [{ d with no := g.arrived }] }) s))

/-- DMA_DESCRIPTOR_READ_DONE. -/
def descReadDone (x : XferRef) (resp : MemResp) (s : State) : State :=
  match takeFm (.desc x) s with
  | none => s
  | some (_, s) =>
    match x with
    | .entry id => stepXfer x (pumpEng (match xferOf s x with
        | some y => y.eng
        | none => 0) (entryDescRead id resp s))
    | .stream e => streamDescRead e resp s

/-! ## Data and write-back responses -/

/-- Bytes of a read with the poison of their beats (R66). -/
def beatBytes (host : Nat) (bytes : List Byte) (poison : List Bool) : List (Byte × Bool) :=
  bytes.zipIdx.map fun (b, k) => (b, poison.getD ((host % 64 + k) / 64) false)

/-- A data transaction has been answered. When it was the last of its descriptor, the write-back is due (R364); a
segment built by the queue engine has nothing to write back. -/
def setTxn (x : XferRef) (i j : Nat) (t : Txn) (p : Bool) (s : State) : State :=
  modXfer x (fun x =>
    let set := fun (d : Dsc) => { d with txns := d.txns.set j t, poison := d.poison || p }
    match (x.descs[i]?).map set with
    | some d =>
      if !answered d then { x with descs := x.descs.set i d }
      else if d.addr.isNone then { x with descs := x.descs.set i { d with wb := .closed } }
      else { x with descs := x.descs.set i d, due := x.due ++ [i] }
    | none => x) s

/-- The stream words of an answered transaction are popped (R399). -/
def popWords (i : Nat) : Nat → State → State
  | 0, s => s
  | n + 1, s =>
    match popWord i s with
    | some (_, s) => popWords i n s
    | none => s

/-- DMA_DATA_RESPONSE (R360, R364, R372). -/
def dataResponse (x : XferRef) (i j : Nat) (resp : DataResp) (s : State) : State :=
  match takeFm (.data x i j) s, xferOf s x with
  | some (m, s'), some y =>
    match y.descs[i]? with
    | none => s
    | some d =>
      let popped := fun (s : State) => match x with
        | .stream _ => popWords (dscStream d).toNat (m.len / 8) s
        | .entry _ => s
      match resp, m.write with
      | .wrote, true =>
        stepXfer x (popped (setTxn x i j .ok false
          (modEng y.eng (fun g => { g with bytesOut := g.bytesOut + BitVec.ofNat 64 m.len }) s')))
      | .read bytes poison, false =>
        if bytes.length ≠ m.len then s
        else
          let bs := beatBytes m.addr bytes poison
          stepXfer x (setTxn x i j .ok (anyMark bs)
            (bufWrite y.handle (d.off + (m.addr - d.host)) bs (rqDma y.eng)
              (modEng y.eng (fun g => { g with bytesIn := g.bytesIn + BitVec.ofNat 64 m.len }) s')))
      | .error, _ => stepXfer x (popped (setTxn x i j .err false s'))
      | _, _ => s
  | _, _ => s

/-- The write-back of descriptor `i` has gone on. -/
def endWback (x : XferRef) (i : Nat) (wb : Wb) (err : Bool) (s : State) : State :=
  let s := modXfer x (fun y => { y with
    descs := y.descs.modify i fun d => { d with wb := wb },
    due := if wb = .word3due then y.due else y.due.filter (· ≠ i) }) s
  match x with
  | .stream e => if wb = .word3due then s else streamSettled e i err s
  | .entry _ => s

/-- DMA_WRITEBACK_RESPONSE (R364, R363): word 2, then word 3; an error ends the write-back. -/
def wbackResponse (x : XferRef) (i : Nat) (err : Bool) (s : State) : State :=
  match takeFm (.wback x i) s, xferOf s x with
  | some (_, s), some y =>
    match y.descs[i]? with
    | none => s
    | some d =>
      if s.gctl.halted then s
      else
        let wb : Wb := if d.wb = .word2 then (if err then .failed else .word3due)
          else (if err then .closedErr else .closed)
        stepXfer x (endWback x i wb err s)
  | _, _ => s

/-! ## Stream bursts (R399) -/

/-- Packets per burst (R403): 0 acts as 1, 17-31 act as 16. -/
def burstMax (x : Strm) : Nat := max 1 (min 16 x.burstMax.toNat)

/-- The first packet of a word list, with its end mark. -/
def firstPacket : List SW → List SW
  | [] => []
  | w :: ws => if w.em then [w] else w :: firstPacket ws

/-- The first `n` packets. -/
def firstPackets : Nat → List SW → List (List SW)
  | 0, _ => []
  | n + 1, ws =>
    let p := firstPacket ws
    p :: firstPackets n (ws.drop p.length)

/-- One descriptor for each packet of the burst, its bytes laid out from `off`. -/
def burstDescs : Nat → List (List SW) → List Dsc → List Dsc
  | off, p :: ps, d :: ds =>
    let n := min (8 * p.length) d.len
    { d with off := off, len := n, txns := List.replicate (nTxn d.host n) .unissued }
      :: burstDescs (off + 8 * p.length) ps ds
  | _, _, _ => []

/-- The bytes of stream words with their poison. -/
def swBytes (ws : List SW) : List (Byte × Bool) :=
  ws.flatMap fun w => (wordBytes 8 w.w).map fun b => (b, w.poison)

/-- A burst of the engine has words to pop. -/
def inBurst (s : State) (e : BitVec 2) : Bool := (xferOf s (.stream e)).any fun x => x.descs.any fun d => !answered d

/-- DMA_STREAM_BURST: the engine starts a burst of B packets and reserves their words (R399), if its next descriptor is
one of the 16 transfers that it works on (R356). It samples the request again when the words of the last burst are
popped. -/
def streamBurst (e : BitVec 2) (s : State) : State :=
  let g := eng s e
  let i := g.stream.toNat
  let x := strm s i
  let n := min (burstMax x) (min (packets x) g.ahead.length)
  let place := (working s e).any fun u => u = (.stream e, some (nextDsc s e))
  if !g.senable || g.bad.isSome || s.gctl.halted || inBurst s e || !x.enable || n = 0 || !powered s 1 || !place then s
  else
    let ps := firstPackets n x.words
    let k := (ps.map List.length).sum
    let off := ((xferOf s (.stream e)).bind (·.data)).getD [] |>.length
    let ds := burstDescs off ps (g.ahead.take n)
    let s := modStrm i (fun x => { x with reserved := k }) s
    let s := modEng e (fun g => { g with ahead := g.ahead.drop n }) s
    pumpEng e (addStream e ds (swBytes (x.words.take k)) [] s)

/-- Engine `k` serves a stream: its list is enabled for it, or has transfers of it that are not finished (R367). -/
def serves (s : State) (k : BitVec 2) (i : BitVec 2) : Bool :=
  ((eng s k).senable && (eng s k).stream = i) ||
  (xferOf s (.stream k)).any fun x => x.descs.any fun d => dscStream d = i && !settled d

/-- SENABLE set (R367): refused for a stream it may not serve. -/
def senableSet (e : BitVec 2) (s : State) : State :=
  let g := eng s e
  let taken := (List.range 4).any fun k => k ≠ e.toNat && serves s (BitVec.ofNat 2 k) g.stream
  if g.stream = 0 || g.stream = 1 || taken then modEng e (fun g => { g with srefused := true }) s
  else pumpEng e (modXfer (.stream e) (fun x => { x with old := x.descs.length }) (modEng e (fun g =>
    { g with senable := true, st := .running, ahead := [], links := 0, rdAt := g.slist.toNat, bad := none }) s))

/-- SENABLE cleared (R368): the list stops after the transfers in flight. -/
def senableClear (e : BitVec 2) (s : State) : State :=
  modEng e (fun g => { g with senable := false, st := .idle, ahead := [] })
    { s with fm := s.fm.filter fun m => m.who ≠ .desc (.stream e) }

/-- A write of DMA_SDOOR (R367): a list that waits for OWN reads its current descriptor again. -/
def sdoor (e : BitVec 2) (s : State) : State :=
  if (eng s e).st = .waitOwn then pumpEng e (modEng e (fun g => { g with st := .running }) s) else s

/-! ## The commands -/

/-- DMA_DESCRIPTOR_READ_DONE (R359, R362). -/
def execDmaDescriptorReadDone (x : XferRef) (r : MemResp) (s : State) : Out := .next (descReadDone x r s)

/-- DMA_DATA_RESPONSE (R364). -/
def execDmaDataResponse (x : XferRef) (i j : Nat) (r : DataResp) (s : State) : Out := .next (dataResponse x i j r s)

/-- DMA_WRITEBACK_RESPONSE (R364). -/
def execDmaWritebackResponse (x : XferRef) (i : Nat) (err : Bool) (s : State) : Out := .next (wbackResponse x i err s)

/-- DMA_STREAM_BURST (R399). -/
def execDmaStreamBurst (e : BitVec 2) (s : State) : Out := .next (streamBurst e s)

end Sys2Proof.Machine
end

