-- ==== Sys2Proof/Machine/LathBase.lean ====
section
/-! DEFINITION. The Lath ring as far as this node sends: frames, credits, the replay buffer, routes and
events (R475-R484, R498). -/

namespace Sys2Proof.Machine

open Sys2Proof

def lport (s : State) (x : BitVec 2) : LPort := tget {} x.toNat s.lath.port
def modLport (x : BitVec 2) (f : LPort → LPort) (s : State) : State :=
  { s with lath := { s.lath with port := tmod {} x.toNat f s.lath.port } }

def isUp (s : State) (x : BitVec 2) : Bool := (lport s x).link = .up

/-- TOPO is tree (R472); 3 acts as chain (R496). -/
def isTree (s : State) : Bool := s.lath.topo = 2
def isRing (s : State) : Bool := s.lath.topo = 1

/-- An event (R498): the first is recorded, all are counted, each posts LATH_EVENT. -/
def lathEvent (kind : Byte) (port : BitVec 2) (node : BitVec 16) (s : State) : State :=
  let l := s.lath
  post srcLath { s with lath :=
    { l with eCount := satInc l.eCount, eValid := true,
             eKind := if l.eValid then l.eKind else kind,
             ePort := if l.eValid then l.ePort else port,
             eNode := if l.eValid then l.eNode else node } }

/-- A frame is discarded under R477, R482 or R483. -/
def discardFrame (s : State) : State := { s with lath := { s.lath with discarded := true } }

/-- Words 0 and 1 and the poison mask of a frame, its payload, and the trailer's bits below the CRC, in the order of
their bytes (R476). -/
def frameBytes (f : Frame) : List Byte :=
  wordsBytes ((at_ 60 f.typ ||| flag 59 f.cls ||| flag 58 f.laneB ||| flag 57 f.pathMode ||| at_ 50 f.chunks |||
      at_ 32 f.src ||| at_ 0 f.route) :: f.word1 :: (if f.chunks = 0 then [] else [f.mask])) ++
    f.payload ++ wordBytes 4 (at_ 16 f.seq)

/-- The CRC of a frame's trailer: over every byte before it, SEQ among them (R476). -/
def frameCrc (f : Frame) : BitVec 32 := crc32 (frameBytes f)

/-- The frame passes its CRC. -/
def frameOk (f : Frame) : Bool := f.crc = frameCrc f

/-- The sending port computes the trailer afresh (R476). -/
def sealFrame (f : Frame) : Frame := { f with crc := frameCrc f }

/-- Size of a frame in bytes (R476). -/
def frameSize (f : Frame) : Nat :=
  24 + (if f.chunks = 0 then 0 else 8 + 64 * f.chunks.toNat)

/-- Credits a frame needs (R479). -/
def frameCredits (f : Frame) : Nat := (frameSize f + 63) / 64

/-- Buffer of a frame at its receiver: REQ-A 0, REQ-B 1, RSP-A 2, RSP-B 3 (R479). -/
def frameBuf (f : Frame) : Nat := (if f.cls then 2 else 0) + (if f.laneB then 1 else 0)

/-- Word 1 of a frame (R476). -/
def frameWord1 (dst epoch : BitVec 16) (tag : BitVec 12) (code : Byte) : W64 :=
  at_ 48 dst ||| at_ 32 epoch ||| at_ 20 tag ||| at_ 0 code

def fDst (f : Frame) : BitVec 16 := fld f.word1 48 16
def fEpoch (f : Frame) : BitVec 16 := fld f.word1 32 16
def fTag (f : Frame) : BitVec 12 := fld f.word1 20 12
def fCode (f : Frame) : Byte := fld f.word1 0 8

/-! ## Sending -/

/-- The port has room for the frame: credits in its buffer at the peer, and place in the 16 KiB replay
buffer. -/
def canSend (p : LPort) (f : Frame) : Bool :=
  frameCredits f ≤ p.cred.getD (frameBuf f) 0 &&
  (p.replay.map frameSize).sum + frameSize f ≤ 16384

/-- The next frame of source `k` and class `cls`: the first of each lane, if it can be sent. -/
def nextFrame (p : LPort) (cls : Bool) (k : Nat) : Option (Queued × List Queued) :=
  let pick := fun (lane : Bool) =>
    match takeFirst (fun (q : Queued) => q.k = k && q.f.cls = cls && q.f.laneB = lane) p.txq with
    | some (q, rest) => if canSend p q.f then some (q, rest) else none
    | none => none
  match pick false with
  | some r => some r
  | none => pick true

/-- The next frame of a class, rotating among the sources (R481). -/
def nextOfClass (p : LPort) (cls : Bool) : Option (Queued × List Queued) :=
  let last := if cls then p.lastRsp else p.lastReq
  ((List.range 4).map fun i => (last + 1 + i) % 4).findSome? (nextFrame p cls)

/-- Send frames while credits allow, responses before requests (R481): the port, and what it has sent.
`fuel` bounds the frames. -/
def pumpPort : (fuel : Nat) → LPort → LPort × List Queued
  | 0, p => (p, [])
  | fuel + 1, p =>
    match (nextOfClass p true).orElse (fun _ => nextOfClass p false) with
    | none => (p, [])
    | some (q, rest) =>
      let g := sealFrame { q.f with seq := p.txSeq + 1 }
      let r := pumpPort fuel { p with
        txq := rest, txSeq := p.txSeq + 1, replay := p.replay ++ [g], sent := p.sent ++ [g],
        cred := p.cred.modify (frameBuf g) (· - frameCredits g),
        lastReq := if g.cls then p.lastReq else q.k, lastRsp := if g.cls then q.k else p.lastRsp }
      (r.1, q :: r.2)

/-- This node's REQUESTs in a list of frames waiting at a port: their TAGs. -/
def reqTags (q : List Queued) : List Nat :=
  (q.filter fun q => q.k = 3 && q.f.typ = 1).map fun q => (fTag q.f).toNat

/-- TIMEOUT in ns: 0 acts as 1, 1,001-1,023 as 1,000 (R496). -/
def timeoutNs (s : State) : Nat := (max 1 (min 1000 s.lath.timeout.toNat)) * 1000

/-- The timers of remote entries whose REQUEST leaves its port start (R486). -/
def startTimers (tags : List Nat) (s : State) : State :=
  { s with lath := { s.lath with table := s.lath.table.map fun e =>
    (e.1, if tags.contains e.1 && e.2.start.isNone then { e.2 with start := some s.time, limit := timeoutNs s }
      else e.2) } }

/-- Place in the receive buffers of port `x` becomes free: `n` credits of buffer `b` return in the next LINK frame
(R479). -/
def giveBack (x : BitVec 2) (b n : Nat) (s : State) : State :=
  modLport x (fun p => { p with give := p.give.modify b (· + n) }) s

/-- A forwarded frame has left, or is discarded: its place at the port where it came in is free. -/
def giveQueued (q : Queued) (s : State) : State :=
  if q.k < 3 then giveBack (BitVec.ofNat 2 q.k) (frameBuf { q.f with laneB := q.inB }) (frameCredits q.f) s else s

/-- The ports that the topology uses: port 2 in a tree only (R472). -/
def portUsed (s : State) (x : BitVec 2) : Bool := x.toNat < 2 || (x = 2 && isTree s)

/-- A port begins to train at 800 MT/s, with empty buffers and full credits (R475, R479). -/
def trainStart (x : BitVec 2) (s : State) : State :=
  let p := lport s x
  if p.enable && portUsed s x && p.link = .down then
    modLport x (fun p => { p with
      link := .training 0, rate := 0, retry := false, since := s.time, txSeq := 0, rxSeq := 0, nak := false, ackDue := false,
      replay := [], replays := 0, txq := [], rx := [], sent := [], cred := [128, 128, 128, 128], give := [0, 0, 0, 0] }) s
  else s

/-- Every enabled port that is DOWN trains. -/
def trainAll (s : State) : State := trainStart 2 (trainStart 1 (trainStart 0 s))

/-- Whatever port `x` can send leaves it. -/
def pumpLath (x : BitVec 2) (s : State) : State :=
  if isUp s x then
    let r := pumpPort (lport s x).txq.length (lport s x)
    let s := startTimers (reqTags r.2) (modLport x (fun _ => r.1) s)
    r.2.foldl (fun s q => giveQueued q s) s
  else s

/-- A frame for output port `x`; a port that is DOWN discards it (R482). -/
def enqueue (x : BitVec 2) (q : Queued) (s : State) : State :=
  if isUp s x then pumpLath x (modLport x (fun p => { p with txq := p.txq ++ [q] }) s)
  else discardFrame (giveQueued q s)

/-! ## Routes -/

/-- The level `l` of a tree position (R483). -/
def pathLevel (p : BitVec 32) (l : Nat) : BitVec 2 := fld p (2 * l) 2

/-- Depth of a position: its levels before the first end code. -/
def pathDepth (p : BitVec 32) : Nat := ((List.range 16).takeWhile fun l => pathLevel p l ≠ 0).length

/-- A valid position: no level holds 0b11, and every level after the first 0b00 is 0b00 (R483). -/
def pathValid (p : BitVec 32) : Bool :=
  (List.range 16).all fun l => pathLevel p l ≠ 3 && (l < pathDepth p || pathLevel p l = 0)

/-- Where a frame goes at this node. -/
inductive Hop where
  | deliver
  | out (x : BitVec 2)
  | drop
  deriving DecidableEq, Repr

/-- Path routing at this node (R483). -/
def pathHop (s : State) (d : BitVec 32) : Hop :=
  let own := s.lath.path
  let n := pathDepth own
  if !pathValid d || !pathValid own then .drop
  else if d = own then .deliver
  else if n < 16 && (List.range n).all (fun l => pathLevel d l = pathLevel own l) then
    match pathLevel d n with
    | 1 => .out 1
    | 2 => .out 2
    | _ => if n = 0 then .drop else .out 0
  else if n = 0 then .drop
  else .out 0

/-- The ADMITTED entry of a node in the node table (R502). -/
def admitted (s : State) (n : BitVec 16) : Option LNode :=
  ((s.lath.nodes.find? fun e => e.2.node = n && e.2.st = 1).map (·.2))

/-- Word 0's fields and the port for a frame that leaves this node along a route. A path that ends here delivers the
frame to this node (R483); outside a tree PATH is ignored and no path leads anywhere (R495). -/
def sendRoute (mode : Bool) (port : BitVec 2) (route : BitVec 32) (f : Frame) (s : State) : State :=
  let f := { f with pathMode := mode, route := route, laneB := false }
  if mode then
    match if isTree s then pathHop s route else .drop with
    | .out x => enqueue x { k := 3, f := f } s
    | .deliver => { s with lath := { s.lath with loop := s.lath.loop ++ [f] } }
    | .drop => discardFrame s
  else enqueue port { k := 3, f := f } s

/-- A frame of this node. -/
def mkFrame (s : State) (typ : BitVec 4) (cls : Bool) (dst : BitVec 16) (tag : BitVec 12) (code : Byte)
    (mask : W64) (payload : List Byte) : Frame :=
  { typ := typ, cls := cls, laneB := false, pathMode := false, chunks := BitVec.ofNat 7 (payload.length / 64),
    src := s.lath.node, route := 0, word1 := frameWord1 dst s.lath.epoch tag code, mask := mask,
    payload := payload, seq := 0, crc := 0 }

/-- Send a frame to an admitted node; without a route nothing is sent. -/
def sendNode (n : BitVec 16) (f : Frame) (s : State) : State :=
  match admitted s n with
  | some e => sendRoute e.mode e.port e.route f s
  | none => s

/-- Chunks of 64 bytes with their marks: payload filled with zero bytes, and the poison mask (R476). -/
def chunkMask (bs : List (Byte × Bool)) : W64 :=
  (List.range ((bs.length + 63) / 64)).foldl (fun m c =>
    if anyMark ((bs.drop (64 * c)).take 64) then setBit m c true else m) 0

def padChunks (bs : List Byte) : List Byte := bs ++ List.replicate ((64 - bs.length % 64) % 64) 0

/-- DATA frames of at most 64 chunks, in buffer order (R477, R485). `fuel` bounds the frames. -/
def sendData (n : BitVec 16) (cls : Bool) (tag : BitVec 12) : (fuel : Nat) → List (Byte × Bool) → State → State
  | 0, _, s => s
  | fuel + 1, bs, s =>
    if bs.isEmpty then s
    else
      let p := bs.take 4096
      sendData n cls tag fuel (bs.drop 4096)
        (sendNode n (mkFrame s 2 cls n tag 0 (chunkMask p) (padChunks (plain p))) s)

/-- The result of a COMPLETE in its payload (R477). -/
def completePayload (result : BitVec 32) : List Byte :=
  (wordBytes 4 (result.setWidth 64)) ++ List.replicate 60 0

/-- A target's END of an entry held for node `src` (R485 step 6): data of buffer `h`, then COMPLETE. -/
def sendComplete (src : BitVec 16) (tag : BitVec 12) (status : Byte) (result : BitVec 32)
    (data : List (Byte × Bool)) (s : State) : State :=
  let s := sendData src true tag (data.length + 1) data s
  sendNode src (mkFrame s 4 true src tag status 0 (completePayload result)) s

end Sys2Proof.Machine
end

