-- ==== Sys2Proof/Machine/LibraryBase.lean ====
section
/-! DEFINITION. The Trowel library as far as the block's commands need it (the basic level of 00_scope.md): its
operations, slots, statuses and PRIO values (R207, R210), its entry operands (R329, R330), how its entries complete (R26,
R47, R203, R207, R208, R215, R227, R228, R247), and what its operations leave in its own state of a channel and in the
registers that INIT writes (R219, R255, R260, R266). -/

namespace Sys2Proof.Machine

open Sys2Proof

/-- The library operations (R207). -/
inductive LibOp where
  | init | retrain | qualSweep | dieReset | ident | policy
  | read | readMp | readCache | readSweep | readRaw
  | program | programMp | programCache | erase | eraseMp | eraseCheck
  | status | suspend | resume | stripeClose | recover | rebuild | skim | stageSector | traceDrain
  deriving DecidableEq, Repr

/-- Its program entry table slot (R207). -/
def libSlot : LibOp → BitVec 10
  | .init => 0x000 | .retrain => 0x001 | .qualSweep => 0x002 | .dieReset => 0x003 | .ident => 0x004
  | .policy => 0x005 | .read => 0x010 | .readMp => 0x011 | .readCache => 0x012 | .readSweep => 0x013
  | .readRaw => 0x014 | .program => 0x020 | .programMp => 0x021 | .programCache => 0x022 | .erase => 0x028
  | .eraseMp => 0x029 | .eraseCheck => 0x02A | .status => 0x030 | .suspend => 0x031 | .resume => 0x032
  | .stripeClose => 0x038 | .recover => 0x039 | .rebuild => 0x03A | .skim => 0x040 | .stageSector => 0x048
  | .traceDrain => 0x049

/-- TMO of its main routine (R207). -/
def libTmo : LibOp → Option (BitVec 4)
  | .init | .retrain | .qualSweep | .suspend | .resume => some 4
  | .dieReset | .ident => some 2
  | .read | .readMp | .readRaw | .eraseCheck | .rebuild | .skim => some 5
  | .readCache => some 7
  | .readSweep | .program | .programMp | .recover | .traceDrain => some 8
  | .programCache => some 10
  | .erase | .eraseMp => some 11
  | .status => some 1
  | .policy | .stripeClose | .stageSector => none

/-- Completion statuses besides OK and ABORTED (R207). -/
def libStatuses : LibOp → List Byte
  | .init | .retrain | .qualSweep | .ident | .stripeClose | .recover => [0x19]
  | .dieReset | .readRaw | .eraseCheck | .suspend | .resume => [0x1A]
  | .policy | .status | .skim => []
  | .read | .readMp | .readCache => [0x01, 0x02, 0x18, 0x1A, 0x19]
  | .readSweep => [0x19, 0x1A]
  | .program | .programMp | .programCache | .traceDrain => [0x11, 0x12, 0x19, 0x1A, 0x1B]
  | .erase | .eraseMp => [0x12, 0x19, 0x1A]
  | .rebuild => [0x18]
  | .stageSector => [0x1B]

/-- Every operation. -/
def libOps : List LibOp :=
  [.init, .retrain, .qualSweep, .dieReset, .ident, .policy, .read, .readMp, .readCache, .readSweep, .readRaw, .program,
   .programMp, .programCache, .erase, .eraseMp, .eraseCheck, .status, .suspend, .resume, .stripeClose, .recover,
   .rebuild, .skim, .stageSector, .traceDrain]

/-- The operation of a slot. -/
def libOpOf (slot : BitVec 10) : Option LibOp := libOps.find? fun op => libSlot op = slot

/-- PRIO of its own routines (R210); `none` where the table lists no value. -/
def libPrio : LibOp → Option (BitVec 2)
  | .dieReset => some 3
  | .read | .readMp | .readCache | .readRaw | .rebuild => some 2
  | .program | .programMp | .programCache | .erase | .eraseMp | .status | .suspend | .resume | .traceDrain => some 1
  | .readSweep | .eraseCheck | .skim | .recover => some 0
  | .init | .retrain | .qualSweep | .ident | .policy | .stripeClose | .stageSector => none

/-- The PRIO values that the DOPs of a program of the library have (R210): its operation's, 3 for a SUSP read and for the
DIE-RESET after a timeout (R207), 0 for the RETRAIN after CAL_INVALID (R47). -/
def dopPrio (op : LibOp) (prio : BitVec 2) : Bool :=
  prio = 3 || prio = 0 || (match libPrio op with
    | some p => prio = p
    | none => true)

/-- What a die's status byte at ready decides (R208). -/
inductive DieVerdict where
  | ok | dieFail | wpLow
  deriving DecidableEq, Repr

/-- R208. -/
def dieVerdict (status : Byte) : DieVerdict :=
  if !bit status 7 then .wpLow else if bit status 0 then .dieFail else .ok

/-! ## Pages -/

/-- Bytes of a library page of rate code `r`: four codewords (R234). -/
def libPage (r : Nat) : Nat := 4 * cwLen r

/-- The rate code the library chooses for a page of `size` bytes: the highest that fits (R234). -/
def libRate (size : Nat) : Option Nat := ([3, 2, 1, 0] : List Nat).find? fun r => libPage r ≤ size

/-- Pad bytes of 0xA5 after the last codeword (R234). -/
def libPad (size r : Nat) : Nat := size - libPage r

/-- Bytes of user data per codeword of a read and of a program (R330). -/
def libBytes (write metaBit : Bool) : Nat := if !metaBit then 4096 else if write then 4144 else 4160

/-! ## Entry operands (R330) -/

/-- The bits of OPA, OPB, AUX and TAG that an operation uses (R330); a set bit elsewhere is refused. -/
def libFields : LibOp → W64 × W64 × W64 × W64
  | .read => (0x1, 0, BitVec.allOnes 64, BitVec.allOnes 64)
  | .readMp => (0xF01, 0, BitVec.allOnes 64, BitVec.allOnes 64)
  | .readCache => (0x3F0001, 0, BitVec.allOnes 64, BitVec.allOnes 64)
  | .readSweep => (0xFF3FFFFF, 0, 0, 0)
  | .program => (0x1, 0x3FFF, 0, BitVec.allOnes 64)
  | .programMp => (0xF01, 0x3FFF, 0, BitVec.allOnes 64)
  | .programCache => (0x3F0001, 0x3FFF, 0, BitVec.allOnes 64)
  | .eraseMp => (0xF00, 0, 0, 0)
  | .eraseCheck => (0xFFFFFF, 0, 0, 0)
  | .skim => (0xFFFFFFFF, BitVec.allOnes 64, 0, 0)
  | .init => (BitVec.allOnes 64, BitVec.allOnes 64, 0, 0)
  | .policy => (BitVec.allOnes 64, 0, 0, 0)
  | .recover => (0, 0xFFFF, BitVec.allOnes 64, 0)
  | .rebuild => (0, 0x3F, BitVec.allOnes 64, BitVec.allOnes 64)
  | .stripeClose => (0x1, 0, 0, BitVec.allOnes 64)
  | .stageSector => (0xFFFFFFFF, 0xFFFF, 0, 0)
  | .traceDrain => (0, 0xFFFF, 0, 0)
  | .readRaw | .erase | .retrain | .qualSweep | .dieReset | .ident | .status | .suspend | .resume => (0, 0, 0, 0)

/-- The operands set nothing that the operation does not list; otherwise PROTECTED with RESULT 0xFF (R330). -/
def libFieldsOk (op : LibOp) (opa opb aux tag : W64) : Bool :=
  let f := libFields op
  opa &&& ~~~f.1 = 0 && opb &&& ~~~f.2.1 = 0 && aux &&& ~~~f.2.2.1 = 0 && tag &&& ~~~f.2.2.2 = 0

/-- DIR of an operation's entry: 0 NONE, 1 TO_BLOCK, 2 FROM_BLOCK. -/
def libDir : LibOp → BitVec 2
  | .read | .readMp | .readCache | .readRaw | .recover | .rebuild | .stageSector | .ident => 2
  | .program | .programMp | .programCache => 1
  | _ => 0

/-- Pages of an entry: the planes of its mask, or its page count. -/
def libPages (op : LibOp) (opa : W64) : Nat :=
  match op with
  | .readMp | .programMp => popCount (fld opa 8 4)
  | .readCache | .programCache => (fld opa 16 6).toNat + 1
  | _ => 1

/-- Writes data to the die. -/
def isWrite : LibOp → Bool
  | .program | .programMp | .programCache => true
  | _ => false

/-- DLEN that an entry must have, where R330 gives it: pages × 4 × the bytes of a codeword, a rebuilt member having the
U pages of its tag; for READ-RAW 4 × N of the die's rate code, known once INIT has chosen it; for RECOVER 16 B for each
candidate; 0 where DIR is NONE (R326). It gives none for IDENT and STAGE-SECTOR, whose data are no pages (log entry
158). -/
def libDlen (op : LibOp) (opa opb tag : W64) (rate : Option Nat) : Option Nat :=
  match op with
  | .read | .readMp | .readCache | .program | .programMp | .programCache =>
    some (libPages op opa * 4 * libBytes (isWrite op) (bit opa 0))
  | .rebuild => some (((fld tag 4 4).toNat + 1) * 4 * libBytes false false)
  | .readRaw => rate.map libPage
  | .recover => some (16 * (fld opb 0 16).toNat)
  | .ident | .stageSector => none
  | _ => some 0

/-- Operations on a whole channel, for which LUN, VOL, CE and ROW must be 0. -/
def wholeChannel : LibOp → Bool
  | .init | .retrain | .recover | .policy => true
  | _ => false

/-- Ranges of the operand fields that R330 bounds. -/
def libRanges (op : LibOp) (opa opb : W64) : Bool :=
  match op with
  | .readSweep => 1 ≤ (fld opa 16 6).toNat && (fld opa 16 6).toNat ≤ 32 && 1 ≤ (fld opa 24 8).toNat &&
      (fld opa 24 8).toNat ≤ 254
  | .programCache => (fld opa 16 6).toNat ≤ 15
  | .skim => 1 ≤ (fld opa 16 16).toNat && 1 ≤ (fld opb 0 12).toNat
  | _ => true

/-- The fields of words 1, 2, 3, 6 and 7 are as R330 gives them: nothing set that it does not list, LUN, VOL, CE and ROW 0
for a whole channel, values within their ranges. -/
def libWordsOk (op : LibOp) (ws : List W64) : Bool :=
  let w := fun i => ws.getD i 0
  libFieldsOk op (w 2) (w 3) (w 6) (w 7) && libRanges op (w 2) (w 3) &&
  (!wholeChannel op || (fld (w 1) 36 6 = 0 && fld (w 1) 0 24 = 0))

/-- DLEN is the operation's, where R330 gives it. -/
def libDlenOk (op : LibOp) (rate : Option Nat) (ws : List W64) : Bool :=
  let w := fun i => ws.getD i 0
  !(libDlen op (w 2) (w 3) (w 7) rate).any fun n => decide ((fld (w 5) 0 32).toNat ≠ n)

/-- The refusal of an entry by its library program: PROTECTED with RESULT 0xFF for a field set that R330 does not list,
then MISALIGNED with RESULT 5 for a DLEN that is not its operation's (R329), then PROTECTED for a DIR that is not (the
order, and PROTECTED for a field outside its range, for the address of a whole channel and for DIR, are log entry
158's). -/
def libRefusal (op : LibOp) (rate : Option Nat) (ws : List W64) : Option (Byte × BitVec 32) :=
  if !libWordsOk op ws then some (0x12, 0xFF)
  else if !libDlenOk op rate ws then some (0x10, 5)
  else if fld (ws.getD 0 0) 50 2 ≠ libDir op then some (0x12, 0xFF)
  else none

/-- A library entry is one that R330 allows. -/
def libEntryOk (op : LibOp) (rate : Option Nat) (ws : List W64) : Bool := (libRefusal op rate ws).isNone

/-! ## Completions (R26, R47, R203, R207, R208, R215, R228, R247) -/

/-- The completion of a library page program or erase: its status, with its result where the rules give one. `aborted`:
an abort of the entry has won, and RESULT is `last`, the low half of its routine's last outcome word or 0 (R227), or that
of the outcome word at hand; `poisoned`: a buffer report shows POISONED. REFUSED gives DIE_FAIL with the CODE (R203),
FENCE PROGRAM_FENCE or for an erase DIE_FAIL (R26, R215), ABORTED or DISCARDED by R208 and R247, DONE by the die's
status byte (R208). -/
def writeEnd (erase aborted poisoned : Bool) (last : BitVec 32) : LibOut → Byte × Option (BitVec 32)
  | .timeout => if aborted then (0x08, some last) else (0x1A, none)
  | .calInvalid => if aborted then (0x08, some last) else (0x19, none)
  | .word w =>
    let code := (fld w 8 8).toNat
    let low : BitVec 32 := (fld w 0 16).setWidth 32
    if aborted then (0x08, some low)
    else match code with
      | 0 => match dieVerdict (fld w 0 8) with
        | .ok => (0x00, none)
        | .dieFail => (0x19, none)
        | .wpLow => (0x12, none)
      | 3 => (0x19, some 3)
      | 4 => (if erase then 0x19 else 0x11, none)
      | _ => if poisoned then (0x1B, none) else (0x19, some low)

/-- The completion of a library read, or of another operation, whose DOP ended without its effect: its status, with its
result where a rule gives one (R47, R203, R207); none: the DOP had its effect. -/
def readRefused : LibOut → Option (Byte × Option (BitVec 32))
  | .timeout => some (0x1A, none)
  | .calInvalid => some (0x19, none)
  | .word w => if fld w 8 8 = 3 then some (0x19, some 3) else none

/-- Page programs, TRACE-DRAIN's among them, and erases: their status follows from their main routine's outcome. -/
def isPulse : LibOp → Bool
  | .program | .programMp | .programCache | .erase | .eraseMp | .traceDrain => true
  | _ => false

def isErase : LibOp → Bool
  | .erase | .eraseMp => true
  | _ => false

/-- Operations that go on with the channel's other dies when a DOP of theirs fails (R207, R310). -/
def goesOn : LibOp → Bool
  | .init | .retrain | .recover => true
  | _ => false

/-- The DOP was a page program or an erase: its routine's fence class is 1 or 2 (R213). -/
def LibDop.pulse (o : LibDop) : Bool := o.cls = 1 || o.cls = 2

/-- What a DOP that ended so makes of the entry; none: it had its effect. -/
def outVerdict (op : LibOp) (o : LibDop) : Option (Byte × Option (BitVec 32)) :=
  if isPulse op && o.pulse then (fun r => if r.1 = 0 then none else some r) (writeEnd (isErase op) false o.poison 0 o.out)
  else readRefused o.out

/-- The outcomes without the first CAL_INVALID, after which the DOP is tried again (R47). -/
def afterRetry : List LibDop → List LibDop
  | [] => []
  | o :: os => if o.out = .calInvalid then os else o :: afterRetry os

/-- The first DOP that failed and so decides the completion. R47, R203 and R207's words on timeouts name no operation;
they hold also where R207's table lists no such status (log entry 159). -/
def libFailure (op : LibOp) (outs : List LibDop) : Option (Byte × Option (BitVec 32)) :=
  if goesOn op then none else (afterRetry outs).findSome? (outVerdict op)

/-! ## The completion of training (R203, R207) -/

/-- What INIT or RETRAIN finds of a context. -/
inductive Found where
  | absent
  | foreign
  | trained
  | untrained
  deriving DecidableEq, Repr

/-- Whether a die counts in the completion, and as one that ended ACTIVE with a VALID record (R207). -/
def foundOk : Found → Option Bool
  | .absent => none
  | .trained => some true
  | _ => some false

/-- The result of INIT and RETRAIN that end DIE_FAIL on some dies (R207). -/
def trainResult (count : Nat) (lowest : Ctx) : BitVec 32 :=
  (at_ 8 lowest ||| at_ 0 (BitVec.ofNat 8 count)).setWidth 32

/-- The completion of INIT and RETRAIN: OK when every die ended ACTIVE with a VALID record, else DIE_FAIL with the count
and the lowest of the others; 0xFF when the channel record cannot be committed (R207). -/
def trainEnd (channelOk : Bool) (dies : List (Ctx × Found)) : Byte × BitVec 32 :=
  let bad := (dies.filter fun d => foundOk d.2 = some false).map (·.1)
  if !channelOk then (0x19, 0xFF)
  else match bad with
    | [] => (0x00, 0)
    | j :: js => (0x19, trainResult bad.length (js.foldl (fun m x => if x.toNat < m.toNat then x else m) j))

/-- How a context of a channel stands at the end of INIT or RETRAIN. -/
def initFound (s : State) (c : Chan) (j : Nat) : Found :=
  let d := (tget {} j (chan s c).ctl.die).dstate
  if d = 0 then .absent
  else if d = 2 then .foreign
  else if d = 1 && (tget {} (64 * c.toNat + j) s.cal.die).st = 1 then .trained
  else .untrained

/-- The records of a channel with which RETRAIN deals (R207, R523): the die contexts that are ACTIVE with a STALE record,
and 64 for a STALE channel record. -/
def staleOf (s : State) (c : Chan) : List Nat :=
  ((List.range 64).filter fun j =>
    (tget {} j (chan s c).ctl.die).dstate = 1 && (tget {} (64 * c.toNat + j) s.cal.die).st = 2) ++
  (if (tget {} c.toNat s.cal.ch).st = 2 then [64] else [])

/-- The channel record is VALID. -/
def chanOk (s : State) (c : Chan) : Bool := (tget {} c.toNat s.cal.ch).st = 1

/-- The completion of INIT on a channel, which deals with every die of it. -/
def initEnd (s : State) (c : Chan) : Byte × BitVec 32 :=
  trainEnd (chanOk s c) ((List.range 64).map fun j => (BitVec.ofNat 6 j, initFound s c j))

/-- The completion of RETRAIN that started with the records `stale`. -/
def retrainEnd (s : State) (c : Chan) (stale : List Nat) : Byte × BitVec 32 :=
  trainEnd (!stale.contains 64 || chanOk s c)
    ((stale.filter (· < 64)).map fun j => (BitVec.ofNat 6 j, initFound s c j))

/-- The completion of an operation that failed in no DOP: that of INIT and RETRAIN follows from the state they leave
(R207), STATUS has the status byte that its routine read (R207), a page program or an erase whose pulses all were good is
OK (R208), and every other one completes with what its program passes to END. -/
def libDone (s : State) (c : Chan) (op : LibOp) (th : Thread) (st : Byte) (res : BitVec 32) : Byte × BitVec 32 :=
  match op with
  | .init => initEnd s c
  | .retrain => retrainEnd s c th.stale
  | .status => (0x00, (fld th.lastOut 0 8).setWidth 32)
  | _ => if isPulse op && th.outs.any LibDop.pulse then (0x00, res) else (st, res)

/-- How a library entry with words `ws` completes where the rules decide it from what its program met: ABORTED with the
low half of its last outcome word (R227, R228); refused for its operands (R329, R330); failed by a DOP; done. -/
def libEnd (s : State) (c : Chan) (op : LibOp) (rate : Option Nat) (ws : List W64) (th : Thread) (st : Byte)
    (res : BitVec 32) : Byte × BitVec 32 :=
  if th.aborted then (0x08, (fld th.lastOut 0 16).setWidth 32)
  else match libRefusal op rate ws with
    | some r => r
    | none => match libFailure op th.outs with
      | some r => (r.1, r.2.getD res)
      | none => libDone s c op th st res

/-- The operation that a thread runs, where its quad holds the library's image. -/
def libRun (s : State) (c : Chan) (th : Thread) : Option LibOp :=
  if (quad s (quadOf c)).library then libOpOf th.slot else none

/-- The rate code that the library's die table records for an entry's die (R234). -/
def dieRate (s : State) (c : Chan) (e : Entry) : Option Nat :=
  ((chan s c).lib.table.find? (·.1 = (eCtx e).toNat)).map (·.2.rate)

/-- Status and RESULT with which the entry of a thread completes at its END: those that END names (R101), which for a
program of the library the rules give (log entry 125), or those of the event that ended it (R102, R103). -/
def endOutcome (s : State) (c : Chan) (th : Thread) (st : Byte) (res : BitVec 32) : Byte × BitVec 32 :=
  if th.byEvent then (st, res)
  else match libRun s c th, th.entry.bind (entryOf s) with
    | some op, some e => libEnd s c op (dieRate s c e) e.words th st res
    | _, _ => (st, res)

/-! ## The library's own state of a channel (R219, R234, R266) -/

/-- POLICY writes the policy word and nothing else (R219, R266). -/
def LibState.setPolicy (l : LibState) (w : W64) : LibState := { l with policy := w }

/-- ZB: ascending from 0. -/
def zoneBounds (f : Nat → Nat) : (n : Nat) → List Nat
  | 0 => [0]
  | n + 1 => let zs := zoneBounds f n; zs ++ [zs.getLastD 0 + f (n + 1)]

/-- The library's table of a die model, within the bounds of R266, R273 and R276; its numbers are free values. A page
that no rate code fits has rate code 0 recorded (DESIGN CHOICE, log entry 158: R234 names no choice there). -/
def DieTab.ofModel (f : Nat → Nat) : DieTab :=
  let m := 1 + f 16 % 4
  let delta := fun (i : Nat) => (BitVec.ofNat 8 (f i)).toInt
  { zb := zoneBounds f 15, typeMod := m, typeBase := f 17 % (17 - m),
    levels := (List.range m).map fun i => BitVec.ofNat 32 (f (22 + i)),
    ladder := (List.range 16).map fun t => (List.range (1 + f (32 + t) % 15)).map fun n =>
      (List.range 16).map fun l => delta (64 + 256 * t + 16 * n + l),
    s3 := f 18, s2 := f 18 + 1 + f 19, s1 := f 18 + 2 + f 19 + f 20, rate := (libRate (f 21)).getD 0 }

/-- A die's table, as INIT fills it from the library's per-die tables by manufacturer and model (R266). -/
def LibState.fill (l : LibState) (j : Nat) (model : Nat × Nat) : LibState :=
  { l with table := tput j (DieTab.ofModel (Config.libTable model)) l.table }

/-- The recorded signature of a die: CH_DIE_UID (R522). -/
def dieUid (s : State) (c : Chan) (j : Nat) : W64 :=
  bytesWord ((List.range 8).map fun i => rawByte s (.scr c) (0x3E00 + 8 * j + i))

/-- PLB_LEVELMAP takes the level codes of a die's page types (R260). -/
def mapLevels (d : DieTab) (s : State) : State :=
  { s with plb := { s.plb with
    map := d.levels.zipIdx.foldl (fun m x => tput (d.typeBase + x.2) x.1 m) s.plb.map } }

/-- A die that INIT leaves ACTIVE with a VALID record: its table is filled by its model, and the level map from that
table (R260, R266). -/
def fillTable (c : Chan) (j : Nat) (s : State) : State :=
  if (tget {} j (chan s c).ctl.die).dstate ≠ 1 || (tget {} (64 * c.toNat + j) s.cal.die).st ≠ 1 then s
  else
    let s := modChan c (fun ch => { ch with lib := ch.lib.fill j (Config.dieModel (dieUid s c j)) }) s
    mapLevels (tget {} j (chan s c).lib.table) s

/-- INIT that has run to its end: the die tables and the level map, and its own CH_SOFT_LLR (R255, R260, R266). -/
def initLeaves (c : Chan) (s : State) : State :=
  modReg c (fun r => { r with llr := Config.libLlr &&& 0x3F3F3F3F3F3F3F3F })
    ((List.range 64).foldl (fun s j => fillTable c j s) s)

/-- What a library entry that completes with status `st` leaves: the policy word of POLICY (R219), and what INIT writes
where it completes OK or DIE_FAIL (log entry 158: of an INIT that is aborted no rule says how far it came). -/
def libLeaves (op : LibOp) (c : Chan) (e : Entry) (st : Byte) (s : State) : State :=
  match op with
  | .policy => if st = 0 then modChan c (fun ch => { ch with lib := ch.lib.setPolicy (eword e 2) }) s else s
  | .init => if st = 0 || st = 0x19 then initLeaves c s else s
  | _ => s

/-- The same, for the entry of a thread that has ended; an event that ended it left nothing (log entry 158). -/
def endLeaves (c : Chan) (th : Thread) (st : Byte) (s : State) : State :=
  if th.byEvent then s
  else match libRun s c th, th.entry.bind (entryOf s) with
    | some op, some e => libLeaves op c e st s
    | _, _ => s

/-- A DOP of a thread, with a routine of fence class `cls`, has ended so. The outcome of one for which END waits is
discarded (R101). -/
def noteOut (c : Chan) (t : Thr) (o : LibOut) (poison : Bool) (cls : BitVec 2) (s : State) : State :=
  modThr c t (fun th => if th.ending.isSome then th else { th with outs := th.outs ++ [⟨o, poison, cls⟩] }) s

/-- PRIO of a DOP: its PRIO field (R90), 0 in a calibration program that the block started (R210). -/
def dopRank (th : Thread) (prio : BitVec 2) : BitVec 2 := if th.calib then 0 else prio

/-- The DOPs of a library program have the PRIO values of R210: an image whose program gives a DOP another one is not the
library's (log entry 125). -/
def judgePrio (c : Chan) (th : Thread) (prio : BitVec 2) (s : State) : State :=
  if !th.calib && (libRun s c th).any fun op => !dopPrio op prio then
    modQuad (quadOf c) (fun q => { q with library := false }) s
  else s

end Sys2Proof.Machine
end

