-- ==== Sys2Proof/Machine/Operands.lean ====
section
/-! DEFINITION. Trowel instructions: the formats and reserved fields (R104-R106), fetch (R97, R447), events
(R102-R104), the end of a program (R101), and the issue of one instruction (R88, R107-R110). -/

namespace Sys2Proof.Machine

open Sys2Proof

/-! ## Formats (the format table of "Instruction formats") -/

def opc (w : W64) : Byte := fld w 56 8
def rD (w : W64) : BitVec 5 := fld w 51 5
def rA (w : W64) : BitVec 5 := fld w 46 5
def rB (w : W64) : BitVec 5 := fld w 41 5
/-- FN of format R. -/
def fnR (w : W64) : BitVec 9 := fld w 32 9
/-- FN of format I. -/
def fnI (w : W64) : BitVec 14 := fld w 32 14
def imm32 (w : W64) : BitVec 32 := fld w 0 32
/-- IMM32 sign-extended. -/
def imm (w : W64) : W64 := (imm32 w).signExtend 64
/-- RA and RB of format B. -/
def bA (w : W64) : BitVec 5 := fld w 51 5
def bB (w : W64) : BitVec 5 := fld w 46 5
def cond (w : W64) : BitVec 4 := fld w 42 4
def target (w : W64) : BitVec 15 := fld w 0 15
/-- SIZE of format M in bytes. -/
def msize (w : W64) : Nat := 2 ^ (fld w 44 2).toNat
/-- LO and W of EXTR and INSR (R123). -/
def exLo (w : W64) : Nat := (fld w 38 6).toNat
def exW (w : W64) : Nat := (fld w 32 6).toNat + 1

/-- The `len` bits from `lo` are 0. -/
def z (w : W64) (lo len : Nat) : Bool := fld w lo len = 0

/-- Format R with FN and the low word zero. -/
def zR (w : W64) : Bool := z w 0 41
/-- RA, RB and FN zero. -/
def zABF (w : W64) : Bool := z w 0 51

/-- Digit count of the decimal group (R146). -/
def digitsOk (w : W64) : Bool := z w 0 32 && z w 37 4 && 1 ≤ (fld w 32 5).toNat && (fld w 32 5).toNat ≤ 16

/-- Every field of the instruction is one that its row defines (R105, R120): the opcode is not reserved,
zero fields are 0 and every FN and COND value is defined. -/
def legal (w : W64) : Bool :=
  match (opc w).toNat with
  | 0x00 | 0x02 | 0x04 | 0x06 | 0x08 | 0x0A | 0x0C | 0x0E | 0x10 | 0x12 | 0x13 | 0x20 | 0x21 => zR w
  | 0x14 | 0x15 | 0x16 | 0x28 => z w 0 46
  | 0x01 | 0x03 | 0x05 | 0x07 | 0x09 | 0x22 => z w 32 14
  | 0x0B | 0x0D | 0x0F | 0x11 => z w 32 14 && z w 6 26
  | 0x17 | 0x18 => z w 44 2 && z w 0 32 && exLo w + exW w ≤ 64
  | 0x2F => z w 49 2
  | 0x30 | 0x32 | 0x34 | 0x36 | 0x38 | 0x3A => zR w
  | 0x31 | 0x33 | 0x35 | 0x37 | 0x39 | 0x3B => z w 32 14
  | 0x40 => z w 15 27 && (cond w).toNat ≤ 4 && bB w = 0 && (cond w ≠ 0 || bA w = 0)
  | 0x41 => z w 15 27 && (cond w).toNat ≤ 5
  | 0x42 => z w 15 41
  | 0x43 | 0x44 => z w 51 5 && z w 0 46
  | 0x46 => z w 0 56
  | 0x50 | 0x51 | 0x52 | 0x53 | 0x54 => z w 32 12
  | 0x60 => z w 51 5 && z w 40 1 && z w 32 6
  | 0x61 | 0x62 | 0x63 => zABF w
  | 0x64 => z w 0 32 && z w 33 8
  | 0x70 => z w 0 32 && z w 33 8
  | 0x80 => z w 32 19 && z w 5 27 && (fld w 0 3).toNat ≤ 5
  | 0x81 => z w 51 5 && z w 0 46
  | 0x88 => z w 0 32 && z w 36 5 && (fld w 32 4).toNat ≤ 5
  | 0x90 => z w 0 46
  | 0x91 => z w 51 5 && zR w
  | 0x92 => z w 51 5 && z w 0 46
  | 0x93 => z w 51 5 && z w 0 32 && z w 33 13
  | 0x98 => zR w
  | 0x9F => z w 51 5 && zR w
  | 0xA0 => z w 32 19 && z w 4 28
  | 0xA1 => zABF w
  | 0xA2 => z w 0 46
  | 0xA3 => z w 32 19 && z w 16 16
  | 0xA4 => z w 32 24 && z w 16 16
  | 0xAF => z w 0 56
  | 0xB0 | 0xB1 | 0xB9 => digitsOk w
  | 0xB2 | 0xB3 | 0xB4 => digitsOk w && rB w = 0
  | 0xB5 | 0xB6 | 0xB7 | 0xB8 => zR w
  | _ => false

/-- The row of an instruction: 16 × opcode, plus the command of RCMD, CALCOMMIT or PLBFRZ in its FN. -/
def rowKey (w : W64) : Nat :=
  16 * (opc w).toNat +
  match (opc w).toNat with
  | 0x88 => (fld w 32 4).toNat
  | 0x64 | 0x93 => (fld w 32 1).toNat
  | _ => 0

/-- Instructions that may not stand in a delay slot (R109): branches, calls, returns, EVRET, END. -/
def noSlot (w : W64) : Bool :=
  match (opc w).toNat with
  | 0x40 | 0x41 | 0x42 | 0x43 | 0x44 | 0x46 | 0x9F => true
  | _ => false

/-! ## Fetch -/

/-- A fetch from the program store of a quad (R97, R447): the word, or none when it is refused. -/
def fetchInstr (q : BitVec 4) (i : BitVec 15) (s : State) : Option W64 × State :=
  let loc := BitVec.ofNat 32 (2 ^ 24 * q.toNat + i.toNat)
  match (quad s q).pstore.find? (·.1 == i.toNat) with
  | none =>
    let d := draw s
    (none, logRec 0x09 true loc (flag 16 true ||| at_ 0 (fld d.1 0 8)) d.2)
  | some (_, x) =>
    match x.ecc with
    | .good => (some (x.w.setWidth 64), s)
    | .single sy =>
      (some (x.w.setWidth 64), logRec 0x08 false loc (at_ 0 (sy.setWidth 8))
        (modQuad q (fun d => { d with pstore := tput i.toNat { x with ecc := .good } d.pstore }) s))
    | .double sy => (none, logRec 0x09 true loc (at_ 0 (sy.setWidth 8)) s)

/-! ## End of a program -/

/-- Status codes a program may give END and QPOST; every other code becomes ABORTED (R101, R339). -/
def statusOk (b : Byte) : Bool :=
  match b.toNat with
  | 0x00 | 0x01 | 0x02 | 0x08 | 0x09 | 0x0A | 0x10 | 0x11 | 0x12 | 0x18 | 0x19 | 0x1A | 0x1B => true
  | _ => false

/-- Outcome without a handler (R102). -/
def eventStatus (code : BitVec 4) : Byte :=
  match code.toNat with
  | 2 => 0x12
  | 3 => 0x19
  | 4 => 0x1B
  | 6 => 0x1A
  | _ => 0x08

/-- The calibration record of a channel or of one of its dies is STALE (R52). -/
def anyStale (s : State) (c : Chan) : Bool :=
  (tget {} c.toNat s.cal.ch).st = 2 ||
  (s.cal.die.any fun d => d.1 / 64 = c.toNat && d.2.st = 2)

/-- The calibration program in the channel, if one started by the block runs (R52). -/
def calibThread (s : State) (c : Chan) : Option Thr :=
  ((List.range 8).find? fun i => (thr s c (BitVec.ofNat 3 i)).run && (thr s c (BitVec.ofNat 3 i)).calib).map
    (BitVec.ofNat 3)

/-- A record of the channel has become STALE: the block is to start the calibration program (R52). -/
def wantCalib (c : Chan) (s : State) : State :=
  if (s.cal.mode = 1 || s.cal.mode = 2) && (calibThread s c).isNone then
    modChan c (fun ch => { ch with calDue := true }) s
  else s

/-- The thread is idle again: nothing of the program remains (R93). -/
def toIdle (c : Chan) (t : Thr) (s : State) : State :=
  let calib := (thr s c t).calib
  let s := modThr c t (fun _ => {}) s
  if calib && anyStale s c then wantCalib c s else s

/-- A thread that ends while it holds S2's push lock has one word of 0 with an end mark pushed for it, and
the lock is released (R392). False while the word waits for a place. -/
def closePacket (c : Chan) (t : Thr) (s : State) : Bool × State :=
  let x := strm s 2
  if x.pushLock ≠ some (c, t) then (true, s)
  else if x.credits = 0 then (false, s)
  else (true, modStrm 2 (fun x => { x with pushLock := none, forcedEnd := true }) (acceptWord 2 ⟨0, true, false⟩ s))

/-- The queue engine's work at the END of a host entry that holds its place (R328): HANDLE is read again
from the frame copy; FROM_BLOCK data is moved, else the buffer is freed. -/
def endHost (e : Entry) (h : BitVec 32) (st : Byte) (res : BitVec 32) (s : State) : State :=
  let s := modEntry e.id (fun e => { e with handle := h, status := st, result := res, held := true })
    { s with qe := { s.qe with held := s.qe.held + 1 } }
  if eDir e = 2 && h ≠ 0 then
    startXfer e.id e.sq false (eDmode e) (eDaddr e) (eDlen e) e.frags h
      (modEntry e.id (fun e => { e with stage := .dataOut }) s)
  else finishEntry e.id st res (freeEntryBuffer h s)

/-- The target's END of an entry held for another node (R485 step 6). -/
def endRemote (e : Entry) (src : BitVec 16) (tag : BitVec 12) (port : BitVec 2) (h : BitVec 32) (st : Byte)
    (res : BitVec 32) (s : State) : State :=
  let r := if eDir e = 2 && h ≠ 0 then bufRead h 0 (eDlen e) (rqLath port) s else ([], s)
  dropEntry e.id (freeEntryBuffer h (sendComplete src tag st res r.1 r.2))

/-- A member fetch of Render has ended (R298): its status and buffer wait for RENDER_FETCH_END. The buffer of a
fetch that nobody waits for any more is freed. -/
def endFetch (e : Entry) (h : BitVec 32) (st : Byte) (s : State) : State :=
  let s := dropEntry e.id s
  if s.rnd.fetch.any fun f => f.entry = e.id && f.done.isNone && f.fin.isNone then
    { s with rnd := { s.rnd with
      fetch := mapIf (fun f => f.entry = e.id && f.done.isNone) (fun f => { f with done := some (st, h) }) s.rnd.fetch } }
  else freeEntryBuffer h s

/-- What the entry of an ended thread does. -/
def endEntry (c : Chan) (t : Thr) (id : Nat) (st : Byte) (res : BitVec 32) (s : State) : State :=
  match entryOf s id with
  | none => s
  | some e =>
    let r := readMem (.scr c) (frameOf t + 0x2C) 4 rqQe s
    let h := (bytesWord (plain r.1)).setWidth 32
    match e.kind with
    | .host => endHost e h st res r.2
    | .remoteIn src tag port _ => endRemote e src tag port h st res r.2
    | .fetch => endFetch e h st r.2

/-- Whether the end of this thread waits for a place in the completion buffer: every END but a calibration program's
(R101, R338). -/
def needsPlace (s : State) (th : Thread) : Bool :=
  !th.calib && match th.entry with
  | some id => (entryOf s id).isSome
  | none => false

/-- An ended program leaves its thread once its routine has ended, its open packet is closed and it holds a
place in the completion buffer (R101, R103, R392). Until then the thread waits. -/
def tryEnd (c : Chan) (t : Thr) (s : State) : State :=
  let th := thr s c t
  match th.ending with
  | none => s
  | some (st, res) =>
    if th.dop = .out then s
    else
      let p := closePacket c t s
      if !p.1 then s
      else if s.gctl.halted then toIdle c t p.2
      else if needsPlace s th && 1024 ≤ cbufUsed s then p.2
      else
        let st := if th.aborted then 0x08 else st
        let r := endOutcome s c th st (res.getD (fld th.lastOut 0 16 |>.setWidth 32))
        let s := toIdle c t p.2
        match th.entry with
        | some id => if th.calib then s else endEntry c t id r.1 r.2 (endLeaves c th r.1 s)
        | none => s

/-- The program has ended; everything in flight has landed. -/
def setEnding (c : Chan) (t : Thr) (st : Byte) (res : Option (BitVec 32)) (s : State) : State :=
  modThr c t (fun th => { landAll th with ending := some (st, res), wait := .endPlace }) s

/-- CH_STATE records a fault (R117). -/
def recordFault (c : Chan) (t : Thr) (code : BitVec 4) (pc : BitVec 15) (s : State) : State :=
  modReg c (fun r => { r with faultPc := pc, faultT := t, faultC := code }) s

/-! ## Events -/

/-- The handler of the running program, if its slot has HVALID set (R98). -/
def handlerOf (s : State) (c : Chan) (th : Thread) : Option (BitVec 15) :=
  let e := tget 0 th.slot.toNat (quad s (quadOf c)).slots
  if bit e 31 then some (fld e 16 15) else none

/-- The block writes the event words of the frame (R95, R103). -/
def eventWords (c : Chan) (t : Thr) (code : BitVec 4) (pc : BitVec 15) (detail : W64) (s : State) : State :=
  writeMem (.scr c) (frameOf t + 0x40)
    (clean (wordBytes 8 (code.setWidth 64) ++ wordBytes 8 (pc.setWidth 64) ++ wordBytes 8 detail)) (rqThr c t) s

/-- The thread ends with the event's outcome; an outstanding routine finishes under the abort rules
(R103). RESULT is the last outcome word's low half for an entry that completes ABORTED because an abort has won
(R227), else a free value (log entry 12). -/
def endByEvent (c : Chan) (t : Thr) (code : BitVec 4) (pc : BitVec 15) (s : State) : State :=
  let s := recordFault c t code pc s
  let s := modThr c t (fun th => { th with rtn := th.rtn.map fun r => { r with abortP := true }, byEvent := true }) s
  if code = 5 || (thr s c t).aborted then tryEnd c t (setEnding c t (eventStatus code) none s)
  else
    let d := draw s
    tryEnd c t (setEnding c t (eventStatus code) (some (fld d.1 0 32)) d.2)

/-- An event is raised (R103): the frame's event words are written; the thread goes on at its handler, or
ends when it has none or when an event other than ABORT meets a running handler. An event of an instruction in a delay
slot drops the target of the branch before it (log entry 142: the spec does not say where issue goes on after EVRET). -/
def raiseEvent (c : Chan) (t : Thr) (code : BitVec 4) (detail : W64) (pc : BitVec 15) (s : State) : State :=
  let s := modThr c t (fun th => { landAll th with wait := .none, after := none }) s
  let s := eventWords c t code pc detail s
  let th := thr s c t
  match handlerOf s c th with
  | some h =>
    if th.handler then endByEvent c t code pc s
    else modThr c t (fun th => { th with pc := h, handler := true }) s
  | none => endByEvent c t code pc s

/-- The thread has an ABORT to raise: one that has won is raised between instructions (R104), not between a branch and its
delay slot (R109), and not while a handler runs (R103). A wait of the delay slot that begins after the abort has won is
not ended by it (log entry 34). -/
def abortDue (th : Thread) : Bool :=
  th.abortP && th.run && !th.handler && th.after.isNone && th.wait = .none && th.ending.isNone

def recognise (c : Chan) (t : Thr) (s : State) : State :=
  let th := thr s c t
  if abortDue th then
    raiseEvent c t 5 0 th.pc (modThr c t (fun th => { th with abortP := false, aborted := true }) s)
  else s

/-! ## Issue -/

/-- What an instruction does besides taking its issue step. -/
inductive Eff where
  /-- RD := v at distance d -/
  | write (rd : BitVec 5) (d : Nat) (v : W64) (s : State)
  /-- no result -/
  | plain (s : State)
  /-- RD := v at the end of its wait: nothing stays in flight -/
  | waited (rd : BitVec 5) (v : W64) (s : State)
  /-- the end of a wait without a result -/
  | waited0 (s : State)
  /-- the delay slot, then this index (R109) -/
  | branch (next : BitVec 15) (s : State)
  | event (code : BitVec 4) (detail : W64) (s : State)
  | wait (w : TWait) (s : State)
  /-- the thread has been dealt with -/
  | gone (s : State)

/-- The thread after an instruction. -/
def applyEff (c : Chan) (t : Thr) : Eff → State
  | .write rd d v s => recognise c t (modThr c t (fun th => advance (launch rd v d th)) s)
  | .plain s => recognise c t (modThr c t advance s)
  | .waited rd v s => recognise c t (finishWait c t rd v s)
  | .waited0 s => recognise c t (finishWait c t 0 0 s)
  | .branch next s => modThr c t (fun th => { th with pc := th.pc + 1, after := some next }) s
  | .event code detail s => raiseEvent c t code detail (thr s c t).pc s
  | .wait w s => hold c t w s
  | .gone s => s

/-- A thread that may issue (R88): running and not waiting. -/
def threadReady (th : Thread) : Bool := th.run && th.wait = .none && th.ending.isNone

/-- The thread whose turn it is (R88). -/
def turnOf (ch : Channel) : Option Nat :=
  firstFrom 8 (ch.lastT.toNat + 1) fun i => threadReady (tget {} i ch.thr)

/-- The channel engine issues: powered, its stores loaded (R117), the block not halted (R346). -/
def engineRuns (s : State) (c : Chan) : Bool :=
  chanThere s c && quadUp s c && (chan s c).engine = 1 && !s.gctl.halted

/-- Thread `t` of channel `c` issues the instruction at its pc. The command names the row of that instruction
(`key`); a reserved opcode, a reserved field or a refused fetch raises ILLEGAL whichever row is named; a
command that names another row is not this step and changes nothing. An ABORT still to be raised goes first: a wait that
another unit ended left it (R145). -/
def issue (c : Chan) (t : Thr) (key : Nat) (sem : W64 → State → Eff) (s : State) : State :=
  if !engineRuns s c || turnOf (chan s c) ≠ some t.toNat then s
  else if abortDue (thr s c t) then recognise c t s
  else
    let f := fetchInstr (quadOf c) (thr s c t).pc s
    let s' := modThr c t ageFlights (modChan c (fun ch => { ch with lastT := t }) f.2)
    match f.1 with
    | none => applyEff c t (.event 1 0 s')
    | some w =>
      if !legal w || ((thr s c t).after.isSome && noSlot w) then applyEff c t (.event 1 0 s')
      else if rowKey w ≠ key then s
      else applyEff c t (sem w s')

/-- The instruction a waiting thread waits in. -/
def waitWord (s : State) (c : Chan) (t : Thr) : W64 :=
  match (quad s (quadOf c)).pstore.find? (·.1 == (thr s c t).pc.toNat) with
  | some (_, x) => x.w.setWidth 64
  | none => 0

/-- A thread that waits in an instruction of row `key` tries it again. -/
def retry (c : Chan) (t : Thr) (key : Nat) (s : State) (sem : W64 → Eff) : State :=
  if !engineRuns s c || rowKey (waitWord s c t) ≠ key then s else applyEff c t (sem (waitWord s c t))

/-! ## Operand forms -/

/-- Register form: RD := f RA RB at distance `d`. -/
def formR (c : Chan) (t : Thr) (d : Nat) (f : W64 → W64 → W64) (w : W64) (s : State) : Eff :=
  let a := operand c t (rA w) s
  let b := operand c t (rB w) a.2
  .write (rD w) d (f a.1 b.1) b.2

/-- Immediate form: RD := f RA imm. -/
def formI (c : Chan) (t : Thr) (d : Nat) (f : W64 → W64 → W64) (w : W64) (s : State) : Eff :=
  let a := operand c t (rA w) s
  .write (rD w) d (f a.1 (imm w)) a.2

/-- One register source: RD := f RA. -/
def formU (c : Chan) (t : Thr) (d : Nat) (f : W64 → W64) (w : W64) (s : State) : Eff :=
  let a := operand c t (rA w) s
  .write (rD w) d (f a.1) a.2

end Sys2Proof.Machine
end

