-- ==== Sys2Proof/Machine/Plumb.lean ====
section
/-! DEFINITION. Plumb: samples, the control law, the following-error check, the trace, and the Plumb
instructions (R139, R258-R272). -/

namespace Sys2Proof.Machine

open Sys2Proof

def modPlb (c : Chan) (f : ChPlb → ChPlb) (s : State) : State := modChan c (fun ch => { ch with plb := f ch.plb }) s

/-- Place of the offset of die context `j`, zone `z` and level `l` in the Plumb tables. -/
def plbKey (j : Ctx) (z l : BitVec 4) : Nat := 256 * j.toNat + 16 * z.toNat + l.toNat

/-- The clamp bounds LO and HI (R265). -/
def plbLo (s : State) : Int := s.plb.lo.toInt
def plbHi (s : State) : Int := s.plb.hi.toInt

/-- A value clamped to [LO, HI]; a reserved pair LO > HI gives 0 (R261). -/
def plbClamp (s : State) (k v : Int) : Int :=
  if plbHi s < plbLo s then 0 else max (plbLo s * k) (min (plbHi s * k) v)

/-- Code of level `l` for page type `ty`; the reserved code 3 acts as 0 (R260). -/
def levelCode (s : State) (ty l : BitVec 4) : Nat :=
  let x := (fld (tget 0 ty.toNat s.plb.map) (2 * l.toNat) 2).toNat
  if x = 3 then 0 else x

/-- Reset of the Plumb state of a die context (R263). -/
def plbResetDie (c : Chan) (j : Ctx) : State → State :=
  modPlb c fun p => { p with
    acc := p.acc.filter (·.1 / 256 ≠ j.toNat), ofs := p.ofs.filter (·.1 / 256 ≠ j.toNat),
    frozen := setBit p.frozen j.toNat false, feStart := tdel j.toNat p.feStart, feZl := tdel j.toNat p.feZl }

/-- What a sample does to one level (R261). -/
structure PlbUpd where
  e     : Int
  acc   : BitVec 32
  ofs   : Byte
  clamp : Bool
  dead  : Bool
  deriving DecidableEq, Repr

/-- The update of R261 for the signed error `e0`. -/
def plbUpdate (s : State) (acc : BitVec 32) (e0 : Int) : PlbUpd :=
  let dead := e0.natAbs ≤ s.plb.deadband.toNat
  let e := if dead then 0 else e0
  let raw := acc.toInt + s.plb.ki.toNat * e
  let a := plbClamp s 4096 raw
  { e := e, acc := BitVec.ofInt 32 a, ofs := BitVec.ofInt 8 ((a + 2048) / 4096), clamp := a ≠ raw, dead := dead }

/-- The offset stands at a clamp bound. -/
def atClamp (s : State) (ofs : Byte) : Bool := ofs.toInt = plbHi s || ofs.toInt = plbLo s

/-- Over the following-error limit (R267). -/
def plbOver (s : State) (u : PlbUpd) : Bool :=
  let d : Int := s.plb.deadband.toNat
  s.plb.feLimit ≠ 0 &&
  (s.plb.feLimit.toNat < u.e.natAbs || (u.ofs.toInt = plbHi s && d < u.e) || (u.ofs.toInt = plbLo s && u.e < -d))

/-- PLUMB_FAULT is posted and recorded (R267, R269). -/
def plbFault (c : Chan) (j : Ctx) (z l : BitVec 4) (clamp : Bool) (s : State) : State :=
  let p := s.plb
  let first := !p.fValid
  post srcPlumb { s with plb := { p with
    fCount := satInc p.fCount, fValid := true, fCh := if first then c else p.fCh,
    fDie := if first then j else p.fDie, fZone := if first then z else p.fZone,
    fLevel := if first then l else p.fLevel, fClamp := if first then clamp else p.fClamp,
    fTime := if first then s.time else p.fTime } }

/-- The following-error tracker of a die context (R267): whether the fault is posted. -/
def plbTrack (c : Chan) (j : Ctx) (z l : BitVec 4) (isOver : Bool) (s : State) : Bool × State :=
  let p := (chan s c).plb
  let zl : Byte := z ++ l
  let start := tget 0 j.toNat p.feStart
  let cur := tget 0 j.toNat p.feZl
  if isOver then
    let fresh := start = 0
    let start := if fresh then s.time else start
    let cur := if fresh then zl else cur
    let hit := cur = zl && s.plb.feTime.toNat * 1000 ≤ (s.time - start).toNat
    (hit, modPlb c (fun p => { p with feStart := tset 0 j.toNat (if hit then 0 else start) p.feStart,
                                      feZl := tset 0 j.toNat cur p.feZl }) s)
  else (false, if cur = zl then modPlb c (fun p => { p with feStart := tset 0 j.toNat 0 p.feStart }) s else s)

/-- The trace records this application (R270). -/
def traceHit (s : State) (j : Ctx) (z l : BitVec 4) : Bool :=
  s.plb.tEnable && match s.plb.tMode.toNat with
  | 1 => j = s.plb.tDie
  | 2 => j = s.plb.tDie && z = s.plb.tZone && l = s.plb.tLevel
  | _ => true

/-- One record of the trace ring (R271). -/
def traceRec (words : BitVec 32 → List W64) (p : ChPlb) : ChPlb :=
  if p.tFrozen then p
  else
    let p := { p with trace := tput p.wptr.toNat (words p.seq) p.trace, seq := p.seq + 1, wptr := p.wptr + 1,
                      wrapped := p.wrapped || p.wptr = 255 }
    if p.counting then
      if p.left ≤ 1 then { p with left := 0, counting := false, tFrozen := true } else { p with left := p.left - 1 }
    else p

/-- A fault starts the countdown to the trace's freeze (R272). -/
def traceFault (s : State) (p : ChPlb) : ChPlb :=
  if !s.plb.tFreeze || p.tFrozen || p.counting then p
  else if s.plb.tPost = 0 then { p with left := 0, tFrozen := true }
  else { p with left := s.plb.tPost, counting := true }

/-- A sample applied to one level of its page type (R259, R261, R267, R271). -/
def plbLevel (c : Chan) (j : Ctx) (z ty : BitVec 4) (r01 r10 : BitVec 16) (l : BitVec 4) (s : State) : State :=
  let code := levelCode s ty l
  if code = 0 then s
  else
    let p := (chan s c).plb
    let k := plbKey j z l
    let acc := tget 0 k p.acc
    let ofs := tget 0 k p.ofs
    let inv := code = 2
    let e0 : Int := if inv then (r10.toNat : Int) - r01.toNat else (r01.toNat : Int) - r10.toNat
    let frozen := bit p.frozen j.toNat
    let u := plbUpdate s acc e0
    let isOver := !frozen && plbOver s u
    let now := s.time
    let a := if frozen then acc else u.acc
    let o := if frozen then ofs else u.ofs
    let s := if frozen then s
      else modPlb c (fun p => { p with acc := tset 0 k u.acc p.acc, ofs := tset 0 k u.ofs p.ofs }) s
    let r := if frozen then (false, s) else plbTrack c j z l isOver s
    let s := if r.1 then plbFault c j z l (atClamp s o) r.2 else r.2
    let words := fun (seq : BitVec 32) =>
      [at_ 32 seq ||| at_ 20 j ||| at_ 16 z ||| at_ 12 l ||| at_ 8 ty ||| flag 5 inv ||| flag 4 r.1 |||
         flag 3 isOver ||| flag 2 frozen ||| flag 1 (!frozen && u.clamp) ||| flag 0 u.dead,
       now,
       at_ 48 r01 ||| at_ 32 r10 ||| at_ 0 (BitVec.ofInt 32 e0),
       at_ 32 a ||| at_ 24 o ||| at_ 0 (fld seq 0 24)]
    let s := if traceHit s j z l then modPlb c (traceRec words) s else s
    if r.1 then modPlb c (traceFault s) s else s

/-- A sample applied to every level that its page type selects, in ascending order (R259; log entry 21). -/
def plbSample (c : Chan) (j : Ctx) (z ty : BitVec 4) (r01 r10 : BitVec 16) (s : State) : State :=
  (List.range 16).foldl (fun s l => plbLevel c j z ty r01 r10 (BitVec.ofNat 4 l) s) s

/-- The 16 offsets of a zone (R262). -/
def plbSnap (s : State) (c : Chan) (j : Ctx) (z : BitVec 4) : List Byte :=
  (List.range 16).map fun l => tget 0 (plbKey j z (BitVec.ofNat 4 l)) (chan s c).plb.ofs

/-! ## Instructions (R139, R263) -/

/-- Selector of RA: die context, zone, level. -/
def selOf (a : W64) : Ctx × BitVec 4 × BitVec 4 := (fld a 0 6, fld a 8 4, fld a 12 4)

def semPlbrd (c : Chan) (t : Thr) (w : W64) (s : State) : Eff :=
  let a := operand c t (rA w) s
  let k := selOf a.1
  .waited (rD w) ((tget 0 (plbKey k.1 k.2.1 k.2.2) (chan a.2 c).plb.ofs).signExtend 64) a.2

def semPlbwr (c : Chan) (t : Thr) (w : W64) (s : State) : Eff :=
  let a := operand c t (rA w) s
  let b := operand c t (rB w) a.2
  let k := selOf a.1
  let o := plbClamp b.2 1 b.1.toInt
  let i := plbKey k.1 k.2.1 k.2.2
  .plain (modPlb c (fun p => { p with ofs := tset 0 i (BitVec.ofInt 8 o) p.ofs,
                                      acc := tset 0 i (BitVec.ofInt 32 (o * 4096)) p.acc }) b.2)

def semPlbrst (c : Chan) (t : Thr) (w : W64) (s : State) : Eff :=
  let a := operand c t (rA w) s
  .plain (plbResetDie c (fld a.1 0 6) a.2)

/-- FROZEN of die RA[5:0] takes `b`. -/
def semPlbfrz (b : Bool) (c : Chan) (t : Thr) (w : W64) (s : State) : Eff :=
  let a := operand c t (rA w) s
  .plain (modPlb c (fun p => { p with frozen := setBit p.frozen (fld a.1 0 6).toNat b }) a.2)

/-- PLBRD (R139): reads an offset. -/
def execPlbrd (c : Chan) (t : Thr) (s : State) : Out := .next (issue c t 0x900 (semPlbrd c t) s)

/-- PLBWR (R263): writes an offset, clamped. -/
def execPlbwr (c : Chan) (t : Thr) (s : State) : Out := .next (issue c t 0x910 (semPlbwr c t) s)

/-- PLBRST (R263): resets the state of a die context. -/
def execPlbrst (c : Chan) (t : Thr) (s : State) : Out := .next (issue c t 0x920 (semPlbrst c t) s)

/-- PLBFRZ with FN[0] = 1 (R139): stops the updates of a die context. -/
def execPlbfrzFreeze (c : Chan) (t : Thr) (s : State) : Out := .next (issue c t 0x931 (semPlbfrz true c t) s)

/-- PLBFRZ with FN[0] = 0 (R139): resumes the updates of a die context. -/
def execPlbfrzResume (c : Chan) (t : Thr) (s : State) : Out := .next (issue c t 0x930 (semPlbfrz false c t) s)

end Sys2Proof.Machine
end

