-- ==== Sys2Proof/Machine/Calib.lean ====
section
/-! DEFINITION. The calibration set, measurement and channel boundaries (R36, R40, R43-R54), CALCOMMIT
(R133), and what takes force at a boundary (R53, R200). -/

namespace Sys2Proof.Machine

open Sys2Proof

def chRec (s : State) (c : Chan) : ChRec := tget {} c.toNat s.cal.ch
def modChRec (c : Chan) (f : ChRec → ChRec) (s : State) : State :=
  { s with cal := { s.cal with ch := tmod {} c.toNat f s.cal.ch } }

def dieRec (s : State) (i : Nat) : DieRec := tget {} i s.cal.die
def modDieRec (i : Nat) (f : DieRec → DieRec) (s : State) : State :=
  { s with cal := { s.cal with die := tmod {} i f s.cal.die } }

/-! ## Routines of a channel -/

/-- The routine of a thread. -/
def rtnOf (s : State) (c : Chan) (t : Thr) : Option Routine := (thr s c t).rtn

def modRtn (c : Chan) (t : Thr) (f : Routine → Routine) (s : State) : State :=
  modThr c t (fun th => { th with rtn := th.rtn.map f }) s

/-- The threads and their routines. -/
def routines (s : State) (c : Chan) : List (Thr × Routine) :=
  (List.range 8).filterMap fun i => (rtnOf s c (BitVec.ofNat 3 i)).map fun r => (BitVec.ofNat 3 i, r)

/-- Started, not ended and not on the bus: yielded, parked or held. -/
def isSusp (r : Routine) : Bool := r.started && r.st ≠ .running && r.st ≠ .ended

/-! ## STALE (R50, R52) -/

/-- A channel record becomes STALE. -/
def staleCh (c : Chan) (s : State) : State := wantCalib c (modChRec c (fun r => { r with st := 2 }) s)

/-- A die record becomes STALE. -/
def staleDie (i : Nat) (s : State) : State :=
  wantCalib (BitVec.ofNat 6 (i / 64)) (modDieRec i (fun r => { r with st := 2 }) s)

/-- Every record of a channel becomes STALE. -/
def staleAll (c : Chan) (s : State) : State :=
  (List.range 64).foldl (fun s j => staleDie (64 * c.toNat + j) s) (staleCh c s)

/-! ## Channel boundaries (R53) -/

/-- The drift check of the line just swapped in (R50): the change of its count against DRIFT_LIMIT ppm. With a
trained count of 0 the ratio has no value and the check's result is a free value (log entry 16). -/
def drifts (now train : BitVec 16) (s : State) : Bool × State :=
  if s.cal.drift = 0 then (false, s)
  else if train = 0 then
    let d := draw s
    (bit d.1 0, d.2)
  else
    let diff := if now ≤ train then train.toNat - now.toNat else now.toNat - train.toNat
    (s.cal.drift.toNat * train.toNat < diff * 1000000, s)

/-- A pending swap of delay lines takes force, and the drift check runs (R39 table, R50). -/
def swapLine (c : Chan) (s : State) : State :=
  match (chan s c).tb.pend with
  | none => s
  | some n =>
    let b := (chan s c).tb.line
    let s := modChan c (fun ch => { ch with tb := { ch.tb with pend := none } }) s
    let s := modChRec c (fun r => { r with active := b, nowA := if b then r.nowA else n,
                                           nowB := if b then n else r.nowB }) s
    let r := chRec s c
    let d := drifts n (if b then r.trainB else r.trainA) s
    if d.1 then
      let s := staleCh c (modChRec c (fun r => { r with drift := true }) d.2)
      post srcCal { s with cal := { s.cal with sdrift := true } }
    else d.2

/-- What takes force at a channel boundary: the swap, the channel record's PHY codes and delay slots (R53), and
WP_LEVEL when no routine is yielded or parked (R200). -/
def boundary (c : Chan) (s : State) : State :=
  let s := swapLine c s
  let r := chRec s c
  let quiet := !(routines s c).any fun p => isSusp p.2
  modChan c (fun ch =>
    let ch := { ch with tb := { ch.tb with phy := r.phy, dly := r.dly } }
    if ch.reg.wpPend && quiet && ch.engine = 1 then
      { ch with reg := { ch.reg with wpPend := false, wpNow := ch.ctl.wpLevel },
                pins := { ch.pins with wp := ch.ctl.wpLevel } }
    else ch) s

/-- An idle channel is at a boundary (R52). -/
def atRest (c : Chan) (s : State) : State :=
  if chanThere s c && quadUp s c && (chan s c).cur.isNone then boundary c s else s

/-! ## Measurement (R36, R37, R40) -/

/-- A window opens on the idle line: at once the first time, then PERIOD after the last opening (R55: a PERIOD
of 0-10 is back to back), or at the swap if that is later (the timebase cycle under R39, step 5; log entry 135). -/
def windowOpen (c : Chan) (s : State) : State :=
  let tb := (chan s c).tb
  let p := if s.cal.period.toNat ≤ 10 then 0 else s.cal.period.toNat * 1000
  if chanThere s c && quadUp s c && !tb.open_ && tb.pend.isNone &&
      (!tb.begun || p ≤ (s.time - tb.start).toNat) then
    let line := !(chRec s c).active
    modChan c (fun ch =>
      { ch with tb := { ch.tb with open_ := true, line := line, start := s.time, begun := true } }) s
  else s

/-- The window closes after `laps` laps: a measurement fault, or a pending swap, which replaces an earlier one (R40).
A swap that is still pending at a fault stays pending (log entry 135: the spec does not say). -/
def measureEnd (c : Chan) (laps : Nat) (s : State) : State :=
  if !quadUp s c || !(chan s c).tb.open_ then s
  else
    let s := modChan c (fun ch => { ch with tb := { ch.tb with open_ := false } }) s
    if laps < 2500 ∨ 5500 < laps then
      staleCh c (post srcCal { s with cal := { s.cal with mfault := true } })
    else atRest c (modChan c (fun ch => { ch with tb := { ch.tb with pend := some (BitVec.ofNat 16 laps) } }) s)

/-! ## Commits (R48, R133) -/

/-- The RW fields of a channel record image of 64 words. -/
def chImage (ws : List W64) : BitVec 24 × Tab (BitVec 32) :=
  (fld (ws.getD 3 0) 0 24, cells 0 1 ((List.range 31).map fun i => fld (ws.getD (9 + i) 0) 0 32))

/-- A counting commit's marks (R48). -/
def countCommit (c : Chan) (s : State) : State :=
  post srcCal { s with cal := { s.cal with count := s.cal.count + 1, lastCh := c.setWidth 8, last := s.time } }

/-- A commit of a channel record: whether it counts. -/
def commitCh (c : Chan) (change : Bool) (ws : List W64) (s : State) : Bool × State :=
  let r := chRec s c
  let im := chImage ws
  let counts := change && (im.1 ≠ r.phy || im.2 ≠ r.dly)
  let s := modChRec c (fun r => { r with
    st := 1, drift := false, trainA := r.nowA, trainB := r.nowB,
    phy := if counts then im.1 else r.phy, dly := if counts then im.2 else r.dly,
    commits := if counts then r.commits + 1 else r.commits }) s
  (counts, atRest c (if counts then countCommit c s else s))

/-- A commit of a die record: whether it counts. -/
def commitDie (i : Nat) (change : Bool) (ws : List W64) (s : State) : Bool × State :=
  let r := dieRec s i
  let n : DieRec := { mts := fld (ws.getD 0 0) 32 16, iface := fld (ws.getD 0 0) 4 4, st := 1,
                      w1 := fld (ws.getD 1 0) 0 48, deskew := ws.getD 2 0, train := s.time }
  let counts := change && (n.mts ≠ r.mts || n.iface ≠ r.iface || n.w1 ≠ r.w1 || n.deskew ≠ r.deskew)
  let s := modDieRec i (fun r => if counts then n else { r with st := 1 }) s
  (counts, if counts then countCommit (BitVec.ofNat 6 (i / 64)) s else s)

/-- CALCOMMIT (R133). -/
def semCalcommit (change : Bool) (c : Chan) (t : Thr) (w : W64) (s : State) : Eff :=
  let a := operand c t (rA w) s
  let b := operand c t (rB w) a.2
  let die := bit b.1 12
  let n := if die then 32 else 512
  if a.1.toNat % 8 ≠ 0 || 65536 < a.1.toNat + n then .event 2 a.1 b.2
  else
    let r := readMem (.scr c) a.1.toNat n (rqThr c t) b.2
    match r.1.findIdx? (·.2) with
    | some k => .event 4 (BitVec.ofNat 64 ((a.1.toNat + k) / 64 * 64)) r.2
    | none =>
      let ws := bytesWords 64 (plain r.1)
      let i := (fld b.1 0 12).toNat
      let other := fld b.1 13 51 ≠ 0 || (if die then decide (i / 64 ≠ c.toNat) else decide (fld b.1 0 6 ≠ c))
      if other then .waited (rD w) 2 r.2
      else
        let k := if die then commitDie i change ws r.2 else commitCh c change ws r.2
        .waited (rD w) (if k.1 then 1 else 0) k.2

/-- CALCOMMIT with FN[0] = 0 (R48): CHANGE. -/
def execCalcommitChange (c : Chan) (t : Thr) (s : State) : Out :=
  .next (issue c t 0x640 (semCalcommit true c t) s)

/-- CALCOMMIT with FN[0] = 1 (R48): REVALIDATE. -/
def execCalcommitRevalidate (c : Chan) (t : Thr) (s : State) : Out :=
  .next (issue c t 0x641 (semCalcommit false c t) s)

/-- CAL_WINDOW_OPEN (R36). -/
def execCalWindowOpen (c : Chan) (s : State) : Out := .next (windowOpen c s)

/-- CAL_MEASURE_END (R36): the lap count of the window. -/
def execCalMeasureEnd (c : Chan) (laps : Nat) (s : State) : Out := .next (measureEnd c laps s)

/-! ## Register port writes to the set (R44, R49) -/

/-- A write of a record is accepted: the record is not VALID, or its quad is without power. -/
def recOpen (s : State) (c : Chan) (st : BitVec 2) : Bool := st ≠ 1 || !quadUp s c

def writeReject (s : State) : State := post srcCal { s with cal := { s.cal with wreject := true } }

/-- A write of word `w` of the set: `v` the merged value of its RW fields. -/
def writeSet (w : Nat) (v : W64) (s : State) : State :=
  if w < 32 then s
  else if w < 4128 then
    let c := BitVec.ofNat 6 ((w - 32) / 64)
    let k := (w - 32) % 64
    if !chanThere s c then s
    else if !recOpen s c (chRec s c).st then writeReject s
    else
      let s := modChRec c (fun r =>
        if k = 3 then { r with phy := fld v 0 24 }
        else if 9 ≤ k ∧ k ≤ 39 then { r with dly := tset 0 (k - 8) (fld v 0 32) r.dly }
        else r) s
      atRest c (staleCh c s)
  else
    let i := (w - 4128) / 4
    let c := BitVec.ofNat 6 (i / 64)
    if !chanThere s c || 4096 ≤ i then s
    else if !recOpen s c (dieRec s i).st then writeReject s
    else
      staleDie i (modDieRec i (fun r =>
        match (w - 4128) % 4 with
        | 0 => { r with mts := fld v 32 16, iface := fld v 4 4 }
        | 1 => { r with w1 := fld v 0 48 }
        | 2 => { r with deskew := v }
        | _ => r) s)

/-- Word `w` of the set as read (R44-R46). -/
def readSet (w : Nat) (s : State) : W64 :=
  if w = 0 then at_ 16 (BitVec.ofNat 8 (nChan s)) ||| 1
  else if w < 32 then 0
  else if w < 4128 then
    let c := BitVec.ofNat 6 ((w - 32) / 64)
    let r := chRec s c
    if !chanThere s c then 0
    else match (w - 32) % 64 with
      | 0 => at_ 32 r.commits ||| flag 2 r.drift ||| at_ 0 r.st
      | 1 => flag 32 r.active ||| at_ 16 r.nowB ||| at_ 0 r.nowA
      | 2 => at_ 16 r.trainB ||| at_ 0 r.trainA
      | 3 => at_ 0 r.phy
      | k => if 9 ≤ k ∧ k ≤ 39 then at_ 0 (tget 0 (k - 8) r.dly) else 0
  else
    let i := (w - 4128) / 4
    let r := dieRec s i
    if !chanThere s (BitVec.ofNat 6 (i / 64)) || 4096 ≤ i then 0
    else match (w - 4128) % 4 with
      | 0 => at_ 32 r.mts ||| at_ 4 r.iface ||| at_ 0 r.st
      | 1 => at_ 0 r.w1
      | 2 => r.deskew
      | _ => r.train

end Sys2Proof.Machine
end

