-- ==== Sys2Proof/Machine/PowerBase.lean ====
section
/-! DEFINITION. The power sequencer's requests: power-up, wake, sleep and retention requests, and what their
ends start (R18, R84, R512-R519). The handshakes themselves are in Power.lean. -/

namespace Sys2Proof.Machine

open Sys2Proof

def setOn (d : Nat) (b : Bool) (s : State) : State := { s with pwr := { s.pwr with on := setBit s.pwr.on d b } }
def setReq (d : Nat) (b : Bool) (s : State) : State := { s with pwr := { s.pwr with req := setBit s.pwr.req d b } }
def setIso (d : Nat) (b : Bool) (s : State) : State := { s with pwr := { s.pwr with iso := setBit s.pwr.iso d b } }
def setWant (d : Nat) (b : Bool) (s : State) : State := { s with pwr := { s.pwr with want := setBit s.pwr.want d b } }
def setDue (d : Nat) (l : List DomReq) (s : State) : State := { s with pwr := { s.pwr with due := tset [] d l s.pwr.due } }

/-- The requests of domain `d` that are held back. -/
def dueOf (s : State) (d : Nat) : List DomReq := tget [] d s.pwr.due

/-- The last request made of domain `d`: the last one held back, else the one whose power-up or power-down it is in. -/
def lastReq (s : State) (d : Nat) : DomReq :=
  match (dueOf s d).getLast?, domSt s d with
  | some r, _ => r
  | none, .on | none, .requested => .wake
  | none, _ => if d = 1 && (s.pwr.retDrain || s.pwr.retained) then .retain else .sleep

/-- A request of a domain in the middle of a power-up or a power-down: it is carried out afterwards, in its turn (R517,
R519). -/
def ask (d : Nat) (r : DomReq) (s : State) : State :=
  if lastReq s d = r then s else setDue d (dueOf s d ++ [r]) s

/-- OUTCOME[d] of PWR_SLEEP_OUTCOME (R519). -/
def setOutcome (d : Nat) (x : BitVec 3) (s : State) : State :=
  { s with pwr := { s.pwr with outcome := tput d x s.pwr.outcome } }

/-- A grant that a cold reset asked back has not fallen yet (R508), also where its domain is requested again meanwhile.
A domain that drains falls by itself. -/
def grantsLeft (s : State) : Bool :=
  (List.range 19).any fun i => bit s.pwr.gnt (i + 1) && !bit s.pwr.req (i + 1) && domSt s (i + 1) ≠ .draining

/-- Every quad and decoder bank is OFF (R18). -/
def othersOff (s : State) : Bool := (List.range 18).all fun i => domSt s (i + 2) = .off

/-- PWR_REQ[d] rises, or waits for the grants of a cold reset to fall (R508, R514). -/
def startUp (d : Nat) (s : State) : State :=
  let s := setDom d .requested s
  if grantsLeft s then setWant d true s else setReq d true s

/-- STG is powered, or brought out of retention, or will be once a power-down in progress has ended (R512, R517). -/
def stgPower (s : State) : State :=
  match domSt s 1 with
  | .on => s
  | .off =>
    if s.pwr.retained then setDom 1 .requested { s with pwr := { s.pwr with retReq := false } } else startUp 1 s
  | _ => ask 1 .wake s

/-- STG is to be powered: ON[1] is set and RET cleared (R512). -/
def stgUp (s : State) : State :=
  stgPower { s with pwr := { s.pwr with on := setBit s.pwr.on 1 true, ret := false } }

/-- Domain `d` is powered, after STG (R18). A request that meets a sleep in progress is a wake that lost: the domain
powers up again afterwards (R517). -/
def powerUp (d : Nat) (s : State) : State :=
  if d = 1 then stgPower s
  else match domSt s d with
    | .on => s
    | .off => if domSt s 1 = .on then startUp d s else setWant d true (setDom d .requested (stgUp s))
    | _ => ask d .wake s

/-- A power-up request of domain `d`: a write of ON[d] or an auto-wake (R512, R517). -/
def requestUp (d : Nat) (s : State) : State := if d = 1 then stgUp s else powerUp d (setOn d true s)

/-- The power-ups that waited for STG or for the grants of a cold reset (R18, R508). -/
def runWants (s : State) : State :=
  if grantsLeft s then s
  else (List.range 19).foldl (fun s i =>
    let d := i + 1
    if bit s.pwr.want d && (d = 1 || domSt s 1 = .on) then startUp d (setWant d false s) else s) s

/-- The entry in a channel's dispatch slot returns to the entry store (R516). -/
def returnSlot (c : Chan) (s : State) : State :=
  match (chan s c).slot with
  | none => s
  | some id =>
    modEntry id (fun e => { e with stage := .ready }) (modChan c (fun ch => { ch with slot := none }) s)

/-- Channels of a quad. -/
def chansOf (q : Nat) : List Chan := (List.range 4).map fun i => BitVec.ofNat 6 (4 * q + i)

/-- A domain begins to drain (R516). -/
def startDrain (d : Nat) (s : State) : State :=
  let s := setDom d .draining s
  if d < 4 then s else (chansOf (d - 4)).foldl (fun s c => returnSlot c s) s

/-- A sleep of STG, or its retention, while a quad or bank is not OFF is refused, and with it those that were made after
it: ON[1] is set back, RET is clear (R519). -/
def refuseStg (s : State) : State :=
  setDue 1 [] (setOutcome 1 4 { s with pwr := { s.pwr with on := setBit s.pwr.on 1 true, ret := false } })

/-- A sleep request of domain `d`, or for `retain` the retention of STG (R512, R516, R519). An STG in retention goes off.
A request during a power-up or a power-down is carried out afterwards. -/
def sleepReq (d : Nat) (r : DomReq) (s : State) : State :=
  match domSt s d with
  | .off =>
    if d = 1 && s.pwr.retained && r ≠ .retain then
      setReq 1 false (setDom 1 .draining { s with pwr := { s.pwr with retained := false, retReq := false } })
    else s
  | .on =>
    if d = 1 then
      if othersOff s then startDrain 1 { s with pwr := { s.pwr with retDrain := decide (r = .retain) } } else refuseStg s
    else startDrain d s
  | _ => ask d r s

/-- A power-up or a power-down of domain `d` has ended: the first request held back is carried out (R517, R519). -/
def serveDue (d : Nat) (s : State) : State :=
  match dueOf s d with
  | [] => s
  | .wake :: rest => powerUp d (setDue d rest s)
  | r :: rest => sleepReq d r (setDue d rest s)

/-- Domain `d` has reached ON: the power-ups that waited for STG go on, and a sleep request that waited is
carried out (R18, R519). -/
def upDone (d : Nat) (s : State) : State :=
  let s := setDom d .on s
  serveDue d (if d = 1 then runWants s else s)

/-- A power-up of domain `d` is under way, or follows a power-down in progress. -/
def rising (s : State) (d : Nat) : Bool :=
  (domSt s d = .requested || domSt s d = .draining) && lastReq s d = .wake

/-- A wake of domain `d` happens (R517). -/
def noteWake (d : Nat) (s : State) : State := { s with pwr := { s.pwr with woke := tput d s.time s.pwr.woke } }

/-- A wake of domain `d`: a write of ON[d] from 0 to 1, or an auto-wake (R517). -/
def autoWake (d : Nat) (s : State) : State := requestUp d (noteWake d s)

/-- An auto-wake source of domain `d` that finds it with its power: it is served at once (R517). -/
def meetWake (d : Nat) (s : State) : State := if bit s.pwr.wakeEn d then noteWake d s else s

/-- The domain has its power, or is powering up, and a wake of it came at this TIME. -/
def wokeNow (d : Nat) (s : State) : Bool :=
  (domSt s d = .on || domSt s d = .requested) && (s.pwr.woke.any fun e => e.1 = d && e.2 = s.time)

/-- Whether a sleep request of domain `d` gives way to a wake of the same step (R517). A step is shorter than the 1 ns of
TIME, so which wakes of this TIME share the request's step is a free value (log entry 45). -/
def wakeWins (d : Nat) (s : State) : Bool × State :=
  if wokeNow d s then (bit (draw s).1 0, (draw s).2) else (false, s)

/-- ON[d] is written 0: a sleep request, or a wake has won, and the domain stays powered (R517, R519). -/
def sleepWrite (d : Nat) (s : State) : State :=
  let r := wakeWins d s
  if r.1 then setOutcome d 2 (setOn d true r.2) else sleepReq d .sleep (setOn d false r.2)

end Sys2Proof.Machine
end

