-- ==== Sys2Proof/Machine/Signal.lean ====
section
/-! DEFINITION. Channel signalling: calibrated delays in laps and taps (R38, R42), the PHY codes (R180), the levels,
edges and burst framing of each cycle (R185, R187), and the levels between routines (R197). -/

namespace Sys2Proof.Machine

open Sys2Proof

/-! ## Calibrated delays (R38) -/

/-- A delay of `num / den` ps on a line of `count` laps in 10 µs: with `lap_ps = 10^7 / (count + 1)` and the guard of
500 ppm it is `num × 10,005 × (count + 1) / (den × 10^11)` laps. -/
def convert (count num den : Nat) : Delay :=
  let n := num * 10005 * (count + 1)
  let q := den * 100000000000
  let taps := (512 * (n % q) + (q - 1)) / q
  if taps = 512 then ⟨n / q + 1, 0⟩ else ⟨n / q, taps⟩

/-- The last count of the line in force (R45). -/
def lineCount (s : State) (c : Chan) : Nat :=
  let r := chRec s c
  if r.active then r.nowB.toNat else r.nowA.toNat

/-- A calibrated delay of `num / den` ps on the line in force (R42). -/
def delayOf (s : State) (c : Chan) (num den : Nat) : Delay := convert (lineCount s c) num den

/-- The value of delay slot `n` in force, in ps; slot 0 is no delay (R45, R53). -/
def slotPs (s : State) (c : Chan) (n : Nat) : Nat := if n = 0 then 0 else (tget 0 n (chan s c).tb.dly).toNat

/-- Delay slot `n` on the line in force. -/
def slotDelay (s : State) (c : Chan) (n : Nat) : Delay := delayOf s c (slotPs s c n) 1

/-- The length of a delay in ns by the block's own count of the line, rounded up (R39; log entry 133). -/
def delayNs (count : Nat) (d : Delay) : Nat :=
  let q := 512 * (count + 1)
  ((512 * d.laps + d.taps) * 10000 + (q - 1)) / q

/-- Delay slot `n` in ns. -/
def slotNs (s : State) (c : Chan) (n : Nat) : Nat := delayNs (lineCount s c) (slotDelay s c n)

/-! ## PHY codes (R180) -/

/-- PHY_DRIVE in ohm. -/
def driveOhm (b : Byte) : Nat :=
  match b.toNat with
  | 1 => 40
  | 2 => 34
  | 3 => 30
  | 4 => 60
  | _ => 48

/-- PHY_ODT in ohm; none: off. -/
def odtOhm (b : Byte) : Option Nat :=
  match b.toNat with
  | 1 => some 240
  | 2 => some 120
  | 3 => some 80
  | 4 => some 60
  | 5 => some 48
  | 6 => some 40
  | _ => none

/-- A reference code in thousandths of VDDQ; every other value acts as code 50 (log entry 134 for a PHY_VREF of 0). -/
def vrefMilli (b : Byte) : Nat := if 1 ≤ b.toNat ∧ b.toNat ≤ 100 then 300 + 5 * b.toNat else 550

/-- DCC in units of 0.5 % of the RE period. -/
def dccUnits (b : Byte) : Int := if -40 ≤ b.toInt ∧ b.toInt ≤ 40 then b.toInt else 0

/-- What the PHY uses for a die: RD_VREF, when not 0, replaces PHY_VREF in its data output bursts. -/
def phyOf (s : State) (c : Chan) (d : DieRec) (output : Bool) : Phy :=
  let p := (chan s c).tb.phy
  let rd : Byte := fld d.w1 40 8
  { drive := driveOhm (fld p 0 8), term := odtOhm (fld p 8 8),
    vref := vrefMilli (if output && rd ≠ 0 then rd else fld p 16 8), dcc := dccUnits (fld d.w1 32 8) }

/-! ## Strobe placement (R185, R187) -/

/-- DESKEW of DQ bit `b`, in units of 2 ps, as a delay with its sign. -/
def deskewOf (s : State) (c : Chan) (d : DieRec) (b : Nat) : Bool × Delay :=
  let x := (fld d.deskew (8 * b) 8).toInt
  (decide (x < 0), delayOf s c (2 * x.natAbs) 1)

/-- Framing of a data input burst of `n` bytes. -/
def inputBurst (s : State) (c : Chan) (d : DieRec) (n : Nat) : Burst :=
  if d.iface = 0 then { strobe := .we, bytes := n, period := slotDelay s c 3 }
  else { strobe := .dqs, lead := slotDelay s c 16, pre := slotDelay s c 14, post := slotDelay s c 15, bytes := n,
         mts := d.mts.toNat, shift := delayOf s c (fld d.w1 16 16).toNat 1 }

/-- Framing of a data output burst of `n` bytes. -/
def outputBurst (s : State) (c : Chan) (d : DieRec) (n : Nat) : Burst :=
  if d.iface = 0 then { strobe := .re, bytes := n, period := slotDelay s c 3 }
  else { strobe := .re, pre := slotDelay s c 12, post := slotDelay s c 13, bytes := n,
         mts := d.mts.toNat, shift := delayOf s c (fld d.w1 0 16).toNat 1,
         deskew := (List.range 8).map (deskewOf s c d) }

/-- Framing of a status read of an IFACE 1-4 die: one RE toggle pair at the slot 3 period. -/
def statBurst (s : State) (c : Chan) : Burst :=
  { strobe := .re, pre := slotDelay s c 12, post := slotDelay s c 13, bytes := 1, period := slotDelay s c 3 }

/-- Every output at its level between routines, but for WP_N (R197). -/
def restLevels (p : Pins) : Pins :=
  { p with ce0 := true, ce1 := true, cle := false, ale := false, we := true, re := true, dqs := .hiz, dq := .hiz }

/-- CLE or ALE with a byte: WE_N low at the start of the step and high after slot 4. -/
def latchPins (s : State) (c : Chan) (d : DieRec) (pin : Pin) (b : Byte) (p : Pins) : Pins :=
  { p with cle := pin = .cle, ale := pin = .ale, we := true, re := true, dq := .byte b,
           dqs := if d.iface = 0 then .hiz else .high, burst := none,
           edges := [⟨{}, pin, true⟩, ⟨{}, .we, false⟩, ⟨slotDelay s c 4, .we, true⟩] }

/-- The pins of a step without a command or address latch. -/
def busPins (dqs dq : Bus) (edges : List Edge) (b : Option Burst) (p : Pins) : Pins :=
  { p with cle := false, ale := false, we := true, re := true, dqs := dqs, dq := dq, edges := edges, burst := b }

/-- The pins under a cycle to a die whose record in force is `d`. -/
def cyclePins (s : State) (c : Chan) (d : DieRec) (x : Cycle) (p : Pins) : Pins :=
  let sdr := d.iface = 0
  match x with
  | .inert => { restLevels p with edges := [], burst := none }
  | .idle _ => busPins .hiz .hiz [] none p
  | .cmd _ b => latchPins s c d .cle b p
  | .addr _ b => latchPins s c d .ale b p
  | .din _ bs => busPins (if sdr then .hiz else .burst) .burst [] (some (inputBurst s c d bs.length)) p
  | .dout _ n => busPins (if sdr then .hiz else .die) .die [] (some (outputBurst s c d n)) p
  | .stat _ =>
    if sdr then
      busPins .hiz .die [⟨{}, .re, false⟩, ⟨delayOf s c (slotPs s c 3) 2, .re, true⟩] none p
    else busPins .die .die [] (some (statBurst s c)) p

/-- The cycle is a data output burst. -/
def isOutput : Cycle → Bool
  | .dout _ _ => true
  | _ => false

/-- The chip enable of a die context; `low` selects the die. -/
def setCe (c : Chan) (j : Ctx) (low : Bool) : State → State :=
  modChan c fun ch =>
    let p := ch.pins
    let p := if bit j 5 then { p with ce1 := !low } else { p with ce0 := !low }
    { ch with pins := p }

/-- A cycle on the pins of a channel: its levels, edges and framing, under the PHY codes in force. -/
def setCycle (c : Chan) (d : DieRec) (x : Cycle) (s : State) : State :=
  modChan c (fun ch => { ch with pins :=
    { cyclePins s c d x ch.pins with last := x, phy := phyOf s c d (isOutput x) } }) s

/-- The pins of a step that drives no cycle, or has not driven it yet: CLE, ALE and the byte of the step before were
held to its end only (R185). The chip enables and WP_N stay. -/
def quietPins (c : Chan) : State → State := modChan c fun ch =>
  { ch with pins := { busPins .hiz .hiz [] none ch.pins with last := .idle (ch.pins.ce0 && ch.pins.ce1) } }

/-- The pins between routines (R197, Idle). -/
def idlePins (c : Chan) : State → State := modChan c fun ch => { ch with pins := restLevels ch.pins }

/-- Every output of the channel at its inert level (R197, Ended); WP_N stays as it is. -/
def inertPins (c : Chan) : State → State :=
  modChan c fun ch => { ch with pins := { restLevels ch.pins with last := .inert, edges := [], burst := none } }

end Sys2Proof.Machine
end

