-- ==== Sys2Proof/Machine/ThreadOps.lean ====
section
/-! DEFINITION. Trowel instructions on the thread itself and on Hawk: DOPW, DOPT, PRGR, FEAT, TIME, WAITT,
WAITE, SIGSET, NOP, HALLOC, HFREE and END (R101, R116, R131, R132, R137, R142-R145). -/

namespace Sys2Proof.Machine

open Sys2Proof

/-! ## Feature words (R111-R116) -/

/-- GCTL_FEAT0-GCTL_FEAT3 (R112-R115). -/
def feature (v : Variant) : Nat → W64
  | 0 => match v with
    | .j8 => at_ 56 0x01#8 ||| at_ 40 0x08#8 ||| at_ 32 64#8 ||| at_ 24 16#8 ||| at_ 16 8#8 ||| at_ 0 0xFFFF#16
    | .j4 => at_ 56 0x01#8 ||| at_ 40 0x04#8 ||| at_ 32 32#8 ||| at_ 24 8#8 ||| at_ 16 8#8 ||| at_ 0 0x00FF#16
  | 1 => at_ 32 4800#16 ||| at_ 16 3600#16 ||| at_ 0 0x1F#8
  | 2 => at_ 52 4#4 ||| at_ 48 3#4 ||| at_ 40 64#8 ||| at_ 32 6#4 ||| at_ 24 16#8 ||| at_ 0 0xFFFF#16
  | 3 => at_ 48 4096#16 ||| at_ 32 4096#16 ||| at_ 24 17#5 ||| at_ 16 17#5 ||| at_ 12 12#4 ||| at_ 8 15#4 |||
         at_ 0 64#8
  | _ => 0

/-- The local word of FEAT index 4 (R116). -/
def localWord (s : State) (c : Chan) (t : Thr) : W64 :=
  at_ 0 c ||| at_ 8 (quadOf c) ||| at_ 12 t ||| at_ 16 s.lath.node

def semFeat (c : Chan) (t : Thr) (w : W64) (s : State) : Eff :=
  let i := (fld w 0 4).toNat
  .write (rD w) 2 (if i = 4 then localWord s c t else feature s.variant i) s

/-! ## Time and signals (R143, R144) -/

def semTime (_c : Chan) (_t : Thr) (w : W64) (s : State) : Eff := .waited (rD w) s.time s

def semWaitt (c : Chan) (t : Thr) (w : W64) (s : State) : Eff :=
  let a := operand c t (rA w) s
  if a.1 ≤ a.2.time then .waited (rD w) a.2.time a.2 else .wait (.time (rD w) a.1) a.2

/-- A flag of `m` is set: those flags are consumed; else the thread joins the waiting WAITEs. -/
def semWaite (c : Chan) (t : Thr) (w : W64) (s : State) : Eff :=
  let m := fld w 0 16
  let f := (chan s c).flags
  if f &&& m ≠ 0 then
    .waited (rD w) ((f &&& m).setWidth 64) (modChan c (fun ch => { ch with flags := f &&& ~~~m }) s)
  else .wait (.event (rD w) m) (modChan c (fun ch => { ch with evq := ch.evq ++ [t] }) s)

/-- The waiting WAITEs in the order of their issue: each that finds a flag of its mask consumes it. -/
def releaseWaits (c : Chan) : List Thr → State → State
  | [], s => s
  | t :: ts, s =>
    match (thr s c t).wait with
    | .event rd m =>
      let f := (chan s c).flags
      if f &&& m ≠ 0 then
        releaseWaits c ts (finishWait c t rd ((f &&& m).setWidth 64)
          (modChan c (fun ch => { ch with flags := f &&& ~~~m, evq := ch.evq.filter (· ≠ t) }) s))
      else releaseWaits c ts s
    | _ => releaseWaits c ts s

def semSigset (c : Chan) (_t : Thr) (w : W64) (s : State) : Eff :=
  let s := modChan c (fun ch => { ch with flags := ch.flags ||| fld w 0 16 }) s
  .plain (releaseWaits c (chan s c).evq s)

def semNop (_c : Chan) (_t : Thr) (_w : W64) (s : State) : Eff := .plain s

/-! ## The die operation's outcome (R131, R132) -/

def semDopw (c : Chan) (t : Thr) (w : W64) (s : State) : Eff :=
  match (thr s c t).dop with
  | .none => .waited (rD w) 0 s
  | .done v => .waited (rD w) v s
  | .timeout j => .event 6 (BitVec.ofNat 64 (dieIndex c j)) s
  | .calBad j => .event 3 (BitVec.ofNat 64 (dieIndex c j)) s
  | .out => .wait (.dopw (rD w)) s

/-- The DOP of a thread has ended: a DOPW that waits for it completes, or raises DIE_TIMEOUT or CAL_INVALID. -/
def wakeDopw (c : Chan) (t : Thr) (s : State) : State :=
  match (thr s c t).wait, (thr s c t).dop with
  | .dopw rd, .done v => recognise c t (finishWait c t rd v s)
  | .dopw _, .timeout j => raiseEvent c t 6 (BitVec.ofNat 64 (dieIndex c j)) (thr s c t).pc s
  | .dopw _, .calBad j => raiseEvent c t 3 (BitVec.ofNat 64 (dieIndex c j)) (thr s c t).pc s
  | _, _ => s

def semDopt (c : Chan) (t : Thr) (w : W64) (s : State) : Eff :=
  .write (rD w) 1 (if (thr s c t).dop = .out then 0 else 1) s

def semPrgr (c : Chan) (t : Thr) (w : W64) (s : State) : Eff := .write (rD w) 2 (thr s c t).prg s

/-! ## Hawk (R137) -/

def semHalloc (c : Chan) (t : Thr) (w : W64) (s : State) : Eff :=
  let k := (fld w 0 3).toNat
  let fall := bit w 3
  match alloc k fall s with
  | some (h, s) => .waited (rD w) (h.setWidth 64) s
  | none =>
    if bit w 4 || allocBusy k fall s then
      .wait (.hawk (rD w)) (joinWaiting { who := .thread c t, pool := k, fall := fall, wait := bit w 4 } s)
    else .waited (rD w) 0 s

def semHfree (c : Chan) (t : Thr) (w : W64) (s : State) : Eff :=
  let a := operand c t (rA w) s
  .plain (freeEntryBuffer (fld a.1 0 32) a.2)

/-! ## END (R101, R103, R142) -/

/-- In a handler a pending ABORT is raised first, with END's index as its event pc. A reserved status code
is replaced by ABORTED and recorded. -/
def semEnd (c : Chan) (t : Thr) (w : W64) (s : State) : Eff :=
  let a := operand c t (rA w) s
  let b := operand c t (rB w) a.2
  let s := b.2
  let th := thr s c t
  if th.handler && th.abortP then
    .gone (raiseEvent c t 5 0 th.pc
      (modThr c t (fun th => { th with handler := false, abortP := false, aborted := true }) s))
  else
    let st := fld a.1 0 8
    let s := if statusOk st then s else recordFault c t 1 th.pc s
    .gone (tryEnd c t (setEnding c t (if statusOk st then st else 0x08) (some (fld b.1 0 32)) s))

/-! ## The commands -/

/-- FEAT (R116): a feature word or the local word, distance 2. -/
def execFeat (c : Chan) (t : Thr) (s : State) : Out := .next (issue c t 0xA00 (semFeat c t) s)

/-- TIME (R70): a sample of TIME. -/
def execTime (c : Chan) (t : Thr) (s : State) : Out := .next (issue c t 0xA10 (semTime c t) s)

/-- WAITT (R143): waits for TIME. -/
def execWaitt (c : Chan) (t : Thr) (s : State) : Out := .next (issue c t 0xA20 (semWaitt c t) s)

/-- WAITT_EXPIRY (R144): the waiting WAITT finds a sample at or above its operand. -/
def execWaittExpiry (c : Chan) (t : Thr) (s : State) : Out :=
  .next (match (thr s c t).wait with
    | .time rd u => if engineRuns s c && u ≤ s.time then applyEff c t (.waited rd s.time s) else s
    | _ => s)

/-- WAITE (R144): waits for a signal flag. -/
def execWaite (c : Chan) (t : Thr) (s : State) : Out := .next (issue c t 0xA30 (semWaite c t) s)

/-- SIGSET (R144): sets signal flags. -/
def execSigset (c : Chan) (t : Thr) (s : State) : Out := .next (issue c t 0xA40 (semSigset c t) s)

/-- NOP (R143). -/
def execNop (c : Chan) (t : Thr) (s : State) : Out := .next (issue c t 0xAF0 (semNop c t) s)

/-- DOPW (R132): waits for the outcome word. -/
def execDopw (c : Chan) (t : Thr) (s : State) : Out := .next (issue c t 0x610 (semDopw c t) s)

/-- DOPT (R131): tests for the outcome without waiting. -/
def execDopt (c : Chan) (t : Thr) (s : State) : Out := .next (issue c t 0x620 (semDopt c t) s)

/-- PRGR (R164): reads PRG. -/
def execPrgr (c : Chan) (t : Thr) (s : State) : Out := .next (issue c t 0x630 (semPrgr c t) s)

/-- HALLOC (R137): a buffer handle, 0, or a wait. -/
def execHalloc (c : Chan) (t : Thr) (s : State) : Out := .next (issue c t 0x800 (semHalloc c t) s)

/-- HFREE (R137): returns a buffer to its pool. -/
def execHfree (c : Chan) (t : Thr) (s : State) : Out := .next (issue c t 0x810 (semHfree c t) s)

/-- END (R101): ends the program; sent again while the thread waits in END, it is the moment the wait may
end. -/
def execEndProg (c : Chan) (t : Thr) (s : State) : Out :=
  .next (if (thr s c t).ending.isSome then tryEnd c t s else issue c t 0x9F0 (semEnd c t) s)

end Sys2Proof.Machine
end

