-- ==== Sys2Proof/Machine/MicroBase.lean ====
section
/-! DEFINITION. The micro-engine without its steps: stores and their checks (R152, R155, R170), acceptance of a
DOP (R153), readiness (R90, R91, R153, R165, R205), the end of a routine (R167-R170, R203, R206) and the
outcome word (R132, R242). -/

namespace Sys2Proof.Machine

open Sys2Proof

/-! ## Stores (R151, R170) -/

/-- One fetch from the control store or dispatch table, with its SEC-DED check (R170, R447). -/
def fetchStore (c : Chan) (disp : Bool) (i : Nat) (s : State) : Option (BitVec 128) × State :=
  let loc := BitVec.ofNat 32 (65536 * c.toNat + (if disp then 4096 else 0) + i)
  let st := if disp then (chan s c).disp else (chan s c).cstore
  match st.find? (·.1 == i) with
  | none =>
    let d := draw s
    (none, modReg c (fun r => { r with uncorr := true })
      (logRec 0x0B true loc (flag 16 true ||| at_ 0 (fld d.1 0 9)) d.2))
  | some (_, x) =>
    match x.ecc with
    | .good => (some x.w, s)
    | .single sy =>
      let s := modChan c (fun ch =>
        let y := { x with ecc := .good }
        if disp then { ch with disp := tput i y ch.disp } else { ch with cstore := tput i y ch.cstore }) s
      (some x.w, modReg c (fun r => { r with corr := true }) (logRec 0x0A false loc (at_ 0 sy) s))
    | .double sy =>
      (none, modReg c (fun r => { r with uncorr := true }) (logRec 0x0B true loc (at_ 0 sy) s))

/-- A microword with a reserved code is recorded as an uncorrectable one (R155, R170); its syndrome is a free value
(log entry 23). -/
def refuseWord (c : Chan) (i : Nat) (s : State) : State :=
  let d := draw s
  modReg c (fun r => { r with uncorr := true })
    (logRec 0x0B true (BitVec.ofNat 32 (65536 * c.toNat + i)) (at_ 0 (fld d.1 0 9)) d.2)

/-! ## Dispatch entries (R152) -/

def entValid (e : BitVec 32) : Bool := bit e 31 && fld e 12 12 = 0
def entXfer (e : BitVec 32) : Bool := bit e 30
def entTrain (e : BitVec 32) : Bool := bit e 29
def entSusp (e : BitVec 32) : Bool := bit e 28

/-- Ready timeout interval in ns; 0 for none. -/
def entTmo (e : BitVec 32) : Nat :=
  let n := (fld e 24 4).toNat
  if n = 0 then 0 else 2 ^ (n - 1) * 16000

/-! ## Microword fields (R154) -/

def uNext (w : BitVec 128) : BitVec 12 := fld w 116 12
def uSeq (w : BitVec 128) : Nat := (fld w 113 3).toNat
def uCval (w : BitVec 128) : Bool := bit w 112
def uCsel (w : BitVec 128) : Nat := (fld w 108 4).toNat
def uBus (w : BitVec 128) : Nat := (fld w 104 4).toNat
def uBsrc (w : BitVec 128) : Nat := (fld w 100 4).toNat
def uByte (w : BitVec 128) : Byte := fld w 92 8
def uCe (w : BitVec 128) : Bool := bit w 91
def uDly (w : BitVec 128) : Nat := (fld w 86 5).toNat
def uLen (w : BitVec 128) : Nat := (fld w 84 2).toNat
def uDpath (w : BitVec 128) : Nat := (fld w 82 2).toNat
def uCwb (w : BitVec 128) : BitVec 3 := fld w 79 3
def uCwbp (w : BitVec 128) : Bool := bit w 78
def uLcld (w : BitVec 128) : Bool := bit w 77
def uLcv (w : BitVec 128) : BitVec 13 := fld w 64 13
def uYield (w : BitVec 128) : Bool := bit w 63
def uPark (w : BitVec 128) : Bool := bit w 62
def uAbt (w : BitVec 128) : BitVec 12 := fld w 50 12
def uRes (w : BitVec 128) : BitVec 12 := fld w 38 12
def uColld (w : BitVec 128) : Bool := bit w 37
def uColinc (w : BitVec 128) : Bool := bit w 36
def uPinc (w : BitVec 128) : Bool := bit w 35
def uPclr (w : BitVec 128) : Bool := bit w 34
def uUval (w : BitVec 128) : Byte := fld w 26 8
def uUwr (w : BitVec 128) : Bool := bit w 25

/-- No reserved code, LEN or DPATH value, or reserved bit (R155, R157). -/
def uLegal (w : BitVec 128) : Bool :=
  uSeq w ≤ 3 && uCsel w ≤ 9 && uBus w ≤ 7 && uLen w ≠ 3 && uDpath w ≠ 3 && fld w 0 25 = 0 &&
  !((uBus w = 1 || uBus w = 2) && 7 ≤ uBsrc w)

/-! ## The calibration check of a DOP (R47, R182) -/

/-- The die record's IFACE code and MTS are ones the PHY takes (R182). -/
def ifaceOk (r : DieRec) : Bool :=
  match r.iface.toNat with
  | 0 => true
  | 1 => r.mts.toNat ≤ 1600
  | 2 => r.mts.toNat ≤ 3600
  | 3 => 3600 < r.mts.toNat && r.mts.toNat ≤ 4800
  | 4 => r.mts.toNat ≤ 3600
  | _ => false

def calOk (s : State) (c : Chan) (j : Ctx) : Bool :=
  let d := dieRec s (dieIndex c j)
  (chRec s c).st = 1 && d.st = 1 && ifaceOk d

/-- A DOP that was accepted and has not started needs records that are VALID no longer (R53). -/
def calLost (s : State) (c : Chan) (r : Routine) : Bool :=
  !r.started && entXfer r.ent && !entTrain r.ent && !calOk s c r.die

/-- The context accepts a routine (R202). -/
def ctxAccepts (d : DieCtl) (train : Bool) : Bool := d.dstate = 1 || (d.dstate = 0 && train)

/-! ## Acceptance (R153) -/

/-- LAST_CODE of a context. -/
def setLast (c : Chan) (j : Ctx) (x : BitVec 4) : State → State :=
  modChan c fun ch => { ch with lastC := tput j.toNat x ch.lastC }

/-- A DOP of routine `k` that ends at check 1, 2, 3 or 5: its outcome word (R132, R153). -/
def refuseDop (c : Chan) (t : Thr) (k : Byte) (j : Ctx) (code : BitVec 4) (s : State) : State :=
  let w : W64 := at_ 8 code
  setLast c j code (noteOut c t (.word w) false (fenceClass s c k)
    (modThr c t (fun th => { th with dop := .done w, lastOut := w }) s))

/-- A DOP that passes the five checks becomes ready (R90, R153). -/
def acceptDop (c : Chan) (t : Thr) (w ra rb : W64) (ent : BitVec 32) (cls : BitVec 2) (s : State) : State :=
  let n := (chan s c).order
  let prio := dopRank (thr s c t) (fld w 38 2)
  let s := judgePrio c (thr s c t) (fld w 38 2) (modChan c (fun ch => { ch with order := n + 1 }) s)
  modThr c t (fun th => { th with
    dop := .out, prg := 0,
    rtn := some { num := fld w 0 8, die := fld ra 0 6, prio := prio, ent := ent, fclass := cls,
                  calib := th.calib, order := n, upc := fld ent 0 12, a := rb, m := fld w 8 24 } }) s

/-- DOP with its operands (R131, R153): `go` is what the instruction does when it does not wait. A DOP that raises
CAL_INVALID has no outcome word, and leaves the thread's previous one for DOPW, or none (log entry 169). -/
def dopGo (c : Chan) (t : Thr) (w ra rb : W64) (go : State → Eff) (s : State) : Eff :=
  if (thr s c t).dop = .out || (chan s c).reg.pState ≠ 0 then .wait (.dop ra rb) s
  else
    let j : Ctx := fld ra 0 6
    let k : Byte := fld w 0 8
    let f := fetchStore c true k.toNat s
    let s := f.2
    match f.1.map (fun x => x.setWidth 32) with
    | none => go (refuseDop c t k j 3 s)
    | some ent =>
      let d := dieCtl s c j
      let cls := fenceClass s c k
      if !entValid ent || !ctxAccepts d (entTrain ent) || (cls = 3 && d.fenceEn) then
        go (refuseDop c t k j 3 s)
      else if entXfer ent && !entTrain ent && !calOk s c j then
        .event 3 (BitVec.ofNat 64 (dieIndex c j)) (noteOut c t .calInvalid false cls s)
      else
        let cls := if d.fenceEn then cls else 0
        if cls = 0 then go (acceptDop c t w ra rb ent cls s)
        else if (chan s c).reg.filling then .wait (.dop ra rb) s
        else
          let r := fenceAccept c t cls j rb (fld w 8 24) s
          if r.1 then go (acceptDop c t w ra rb ent cls r.2) else go (refuseDop c t k j 4 r.2)

def semDop (c : Chan) (t : Thr) (w : W64) (s : State) : Eff :=
  let a := operand c t (rA w) s
  let b := operand c t (rB w) a.2
  dopGo c t w a.1 b.1 .plain b.2

/-- A waiting DOP tries again (R90, R174, R216). One that waited at check 5 for a fence fill is judged from check 1
again, with the entry, the context and the records as they are then (log entry 136: R153 says only that the check
waits). -/
def dopRetry (c : Chan) (t : Thr) (s : State) : State :=
  match (thr s c t).wait with
  | .dop ra rb => retry c t 0x600 s fun w => dopGo c t w ra rb .waited0 s
  | _ => s

/-- Every waiting DOP of a channel tries again. -/
def dopRetries (c : Chan) (s : State) : State :=
  (List.range 8).foldl (fun s i => dopRetry c (BitVec.ofNat 3 i) s) s

/-! ## Readiness (R90, R91, R52, R153, R165, R205) -/

/-- The routine is ready: to start, or to resume. -/
def rtReady (r : Routine) : Bool :=
  r.heldBy.isNone && (r.st = .ready || r.st = .yielded || (r.st = .parked && r.parkDue))

/-- A calibration program started by the block has the bus to itself (R52). -/
def interrupted (s : State) (c : Chan) : Bool := s.cal.mode = 1 && (calibThread s c).isSome

/-- A ready DOP of another thread than the running one, `busy` (R91, R153). An INTERRUPTED calibration keeps the DOPs
of other programs out (R52). -/
def isReady (s : State) (c : Chan) (busy : Option Thr) (t : Thr) (r : Routine) : Bool :=
  rtReady r && some t ≠ busy && !(interrupted s c && !r.calib)

/-- A ready routine that could run next, apart from the GAP_FITTED rule: it has started, or its context holds no
yielded or parked routine, or it is a SUSP one (R153). -/
def couldRun (s : State) (c : Chan) (busy : Option Thr) (t : Thr) (r : Routine) : Bool :=
  isReady s c busy t r &&
  (r.started || entSusp r.ent ||
    !(routines s c).any fun q => q.1 ≠ t && q.2.die = r.die && (isSusp q.2 || some q.1 = busy))

/-- A ready routine that may run next. In GAP_FITTED mode a routine of the calibration program starts only when no other
thread has a DOP ready, whether its context lets that one start or not (R52, R153). One that has started, and may be what
the other's context waits for, goes on once no other could run (log entry 43). -/
def mayRun (s : State) (c : Chan) (busy : Option Thr) (t : Thr) (r : Routine) : Bool :=
  couldRun s c busy t r &&
  !(r.calib && s.cal.mode = 2 && (routines s c).any fun q => !q.2.calib &&
    (if r.started then couldRun s c busy q.1 q.2 else isReady s c busy q.1 q.2 && !calLost s c q.2))

/-- `a` goes before `b`: higher PRIO, then the earlier place in the order of readiness (R90). -/
def before (a b : Routine) : Bool := b.prio < a.prio || (a.prio = b.prio && a.order < b.order)

/-- The routine that the micro-engine starts or resumes next (R90). -/
def pickNext (s : State) (c : Chan) : Option (Thr × Routine) :=
  ((routines s c).filter fun q => mayRun s c none q.1 q.2).foldl
    (fun b q => match b with
      | none => some q
      | some x => if before q.2 x.2 then some q else b) none

/-- The running routine must yield (R91, R162): to a ready DOP of higher PRIO, whether its context lets it start or
not (log entry 43), but for the calibration of GAP_FITTED mode, which waits for all others (R52). -/
def mustYield (s : State) (c : Chan) (t : Thr) (r : Routine) : Bool :=
  let others := (routines s c).filter fun q => isReady s c (some t) q.1 q.2 && !calLost s c q.2
  let gap := s.cal.mode = 2
  others.any (fun q => r.prio < q.2.prio && !(gap && q.2.calib)) || (interrupted s c && !r.calib) ||
  (gap && r.calib && others.any fun q => !q.2.calib)

/-! ## The end of a routine -/

/-- How a routine ends: at its END, discarded at its first yield point, or by the micro-engine (R162, R167,
R169, R170). -/
inductive EndBy where
  | normal
  | discard
  | engine
  deriving DecidableEq, Repr

/-- The routines that a SUSP routine held go back to where they were, or to the SUSP routine `by_` that held it in its
turn (R205). When the micro-engine ended a SUSP routine (`engine`), every routine held on its context `j` is treated as
though its own timeout had expired (R206). -/
def releaseHeld (c : Chan) (t : Thr) (j : Ctx) (by_ : Option Thr) (engine : Bool) (s : State) : State :=
  (routines s c).foldl (fun s q =>
    if q.2.die = j && q.2.heldBy.isSome then
      modRtn c q.1 (fun r => { r with heldBy := if r.heldBy = some t then by_ else r.heldBy,
                                      expired := r.expired || engine, endTmo := r.endTmo || engine,
                                      parkDue := r.parkDue || (engine && r.st = .parked) }) s
    else s) s

/-- Change of DSTATE by a routine with TRAIN set (R203). A routine that ends in the DIE_TIMEOUT state changes it too,
by the USER byte it has then: R203 says 'in any outcome' (log entry 137). -/
def trainState (c : Chan) (r : Routine) (s : State) : State :=
  if entTrain r.ent && fld r.user 2 6 = 0x34 then
    modChan c (fun ch => { ch with ctl := { ch.ctl with
      die := tmod {} r.die.toNat (fun d => { d with dstate := fld r.user 0 2 }) ch.ctl.die } }) s
  else s

/-- The running routine has left the bus: a patch that waits may copy (R174), and the channel is at a boundary. -/
def leaveBus (c : Chan) (s : State) : State :=
  boundary c (modChan c (fun ch =>
    { ch with cur := none, reg := { ch.reg with pState := if ch.reg.pState = 1 then 2 else ch.reg.pState } }) s)

/-- A routine ends. Its outcome word is written once its decodes and handoffs have ended (R242). -/
def endRoutine (c : Chan) (t : Thr) (by_ : EndBy) (s : State) : State :=
  match rtnOf s c t with
  | none => s
  | some r =>
    let running := (chan s c).cur = some t
    let tmo := by_ = .engine || r.endTmo || r.early = .timeout
    let code : Byte := if by_ = .discard then 2 else if r.early = .none then 0 else 1
    let s := modRtn c t (fun r => { r with st := .ended, endTmo := tmo, code := code, wait := .none, heldBy := none,
                                           status := if by_ = .discard then 0 else r.status }) s
    let s := setLast c r.die (if tmo then 5 else code.setWidth 4) s
    let s := trainState c r s
    let s := if by_ = .normal && !tmo && code = 0 && r.fclass = 2 && !bit r.status 0 && bit r.status 7 &&
        (dieCtl s c r.die).fenceEn then fenceOpen c t r.die r.a r.m s else s
    let s := releaseHeld c t r.die r.heldBy (by_ = .engine && entSusp r.ent) s
    let s := { s with tok := { s.tok with waiting := s.tok.waiting.filter fun p => !(p.c = c && p.t = t) } }
    if running then
      leaveBus c ((if by_ = .engine then inertPins c else idlePins c) s)
    else atRest c s

/-- The outcome word (R132, R167). -/
def outcomeWord (r : Routine) : W64 :=
  at_ 48 r.prog ||| at_ 32 r.col ||| at_ 24 r.cwfail ||| at_ 16 r.user ||| at_ 8 r.code ||| at_ 0 r.status

/-- OUTCOME_WRITE: an ended routine whose decodes and handoffs have ended leaves its thread (R242). A DOPW, a DOP
or an END that waits for it goes on. -/
def outcomeWrite (c : Chan) (t : Thr) (s : State) : State :=
  match rtnOf s c t with
  | none => s
  | some r =>
    if r.st ≠ .ended || r.decodes ≠ 0 || r.handoffs ≠ 0 then s
    else
      let w := outcomeWord r
      let s := modThr c t (fun th => { th with
        rtn := none, dop := if r.endTmo then .timeout r.die else .done w,
        lastOut := if r.endTmo then th.lastOut else w }) s
      let s := noteOut c t (if r.endTmo then .timeout else .word w) r.poisoned (fenceClass s c r.num) s
      tryEnd c t (dopRetry c t (wakeDopw c t s))

/-! ## Readiness events -/

/-- A new place in the order of readiness. -/
def newOrder (c : Chan) (s : State) : Nat × State :=
  ((chan s c).order, modChan c (fun ch => { ch with order := ch.order + 1 }) s)

/-- The park delay of a routine has run out (R165, R205). -/
def unpark (c : Chan) (t : Thr) (s : State) : State :=
  match rtnOf s c t with
  | none => s
  | some r =>
    if r.st ≠ .parked || r.parkDue then s
    else
      let o := newOrder c s
      modRtn c t (fun r => { r with parkDue := true, order := o.1 }) o.2

/-- PARK_EXPIRY: the delay has run from the start of the parking step. -/
def parkExpiry (c : Chan) (t : Thr) (s : State) : State :=
  match rtnOf s c t with
  | none => s
  | some r => if r.parkAt ≤ s.time then unpark c t s else s

/-- Time since the routine first started. -/
def rtAge (s : State) (r : Routine) : Nat := (s.time - r.startAt).toNat

/-- READY_TIMEOUT (R169): the first interval has expired. -/
def readyTimeout (c : Chan) (t : Thr) (s : State) : State :=
  match rtnOf s c t with
  | none => s
  | some r =>
    if !r.started || r.st = .ended || entTmo r.ent = 0 || rtAge s r < entTmo r.ent then s
    else unpark c t (modRtn c t (fun r => { r with expired := true }) s)

/-- ROUTINE_KILL (R169): a second interval has expired; a running routine ends at the end of its current step. -/
def routineKill (c : Chan) (t : Thr) (s : State) : State :=
  match rtnOf s c t with
  | none => s
  | some r =>
    if !r.started || r.st = .ended || entTmo r.ent = 0 || rtAge s r < 2 * entTmo r.ent then s
    else if r.wait = .none then endRoutine c t .engine s
    else modRtn c t (fun r => { r with kill := true }) s

/-! ## Commands -/

/-- DOP (R153): judges a die operation by the five checks. -/
def execDop (c : Chan) (t : Thr) (s : State) : Out := .next (issue c t 0x600 (semDop c t) s)

/-- OUTCOME_WRITE (R242). -/
def execOutcomeWrite (c : Chan) (t : Thr) (s : State) : Out := .next (outcomeWrite c t s)

/-- PARK_EXPIRY (R165). -/
def execParkExpiry (c : Chan) (t : Thr) (s : State) : Out := .next (parkExpiry c t s)

/-- READY_TIMEOUT (R169). -/
def execReadyTimeout (c : Chan) (t : Thr) (s : State) : Out := .next (readyTimeout c t s)

/-- ROUTINE_KILL (R169). -/
def execRoutineKill (c : Chan) (t : Thr) (s : State) : Out := .next (routineKill c t s)

end Sys2Proof.Machine
end

