-- ==== Sys2Proof/Machine/Move.lean ====
section
/-! DEFINITION. MOVE: locators, copies inside memory, pushes to S2 and pops from S0 and S1 (R134-R136, R392,
R393). -/

namespace Sys2Proof.Machine

open Sys2Proof

/-! ## Locators (R134, R135) -/

/-- A locator: a memory location, a stream, a scratch range that raises ADDRESS, or one that moves nothing. -/
inductive Loc where
  | mem (sp : Sp) (a : Nat)
  | stream (i : Nat)
  | address (a : W64)
  | bad
  deriving DecidableEq, Repr

/-- A length of R135. -/
def moveLenOk (len : W64) : Bool := len.toNat % 8 = 0 && 8 ≤ len.toNat && len.toNat ≤ 266240

/-- Codeword buffer size in bytes. -/
def cwbSize : Nat := 4928

/-- Reads locator `v` of a MOVE of `len` bytes; `dest` for the destination. -/
def locOf (s : State) (c : Chan) (v len : W64) (dest : Bool) : Loc :=
  let n := len.toNat
  match (fld v 60 4).toNat with
  | 0 =>
    let a := (fld v 0 16).toNat
    if fld v 16 44 ≠ 0 then .bad
    else if !moveLenOk len || a % 8 ≠ 0 || 65536 < a + n then .address (BitVec.ofNat 64 a)
    else .mem (.scr c) a
  | 1 =>
    let off := (fld v 0 13).toNat
    if fld v 16 44 ≠ 0 || off % 8 ≠ 0 || cwbSize < off + n then .bad
    else .mem (.cwb c) (8192 * (fld v 13 3).toNat + off)
  | 2 =>
    let h := fld v 24 32
    let off := (fld v 0 24).toNat
    if fld v 56 4 ≠ 0 || off % 8 ≠ 0 || bufSize h < off + n then .bad
    else .mem .stg (bufBase s h + off)
  | 3 =>
    let i := (fld v 0 2).toNat
    if fld v 2 58 ≠ 0 then .bad
    else if (if dest then i = 2 else i < 2) then .stream i else .bad
  | _ => .bad

/-! ## Memory ends -/

def locRead (sp : Sp) (a n : Nat) (rq : Rq) (s : State) : List (Byte × Bool) × State :=
  if sp = .stg then stgRead a n rq s else readMem sp a n rq s

def locWrite (sp : Sp) (a : Nat) (bs : List (Byte × Bool)) (rq : Rq) (s : State) : State :=
  if sp = .stg then stgWrite a bs rq s else writeMem sp a bs rq s

/-- The last word of a destination chunk covered whole: every word of it has come from this MOVE, which began at `b`. -/
def chunkDone (b moved : Nat) : Bool := (b + moved + 8) % 64 = 0 && 64 ≤ moved + 8

/-- What one word of a MOVE does: the bytes moved after it; whether the MOVE stops there, at an end mark or because it
must wait; whether a poisoned word has gone into the chunk being written; the state. -/
structure Moved where
  n     : Nat
  last  : Bool := false
  waits : Bool := false
  dirty : Bool := false
  s     : State

/-- One word into memory: the mark of its chunk is set by a poisoned word or by one that fails its parity on the way, and
cleared once the MOVE has covered the chunk with none such (R130, R136, R433). -/
def putWord (c : Chan) (t : Thr) (dp : Sp) (b moved : Nat) (dirty : Bool) (w : List (Byte × Bool)) (s : State) :
    Bool × State :=
  let dirty := (dirty && (b + moved) % 64 ≠ 0) || anyMark w || s.intg.upset ≠ 0
  let s := locWrite dp (b + moved) w (rqThr c t) s
  (dirty, if chunkDone b moved && !dirty then setMark dp (b + moved) false s else s)

/-- The source word of a copy between memories. Where the MOVE overlaps itself, a word that it has written meets its
old or its new value, chosen by a free value (log entry 15). -/
def copyWord (c : Chan) (t : Thr) (sp : Sp) (a moved : Nat) (ahead : List (Byte × Bool)) (s : State) :
    List (Byte × Bool) × State :=
  let r := locRead sp (a + moved) 8 (rqThr c t) s
  if ahead.isEmpty then r
  else
    let x := draw r.2
    (if bit x.1 0 then r.1 else (ahead.drop moved).take 8, x.2)

/-- A word between memories, with the mark of its chunk (R136). -/
def copyStep (c : Chan) (t : Thr) (sp : Sp) (a : Nat) (dp : Sp) (b moved : Nat) (ahead : List (Byte × Bool))
    (dirty : Bool) (s : State) : Moved :=
  let r := copyWord c t sp a moved ahead s
  let p := putWord c t dp b moved dirty r.1 r.2
  { n := moved + 8, dirty := p.1, s := p.2 }

/-! ## Streams -/

/-- Push one word into S2 as the lock's holder (R392). The 256th word of a packet closes it. -/
def pushWord (c : Chan) (t : Thr) (w : W64) (em poison : Bool) (s : State) : State :=
  let full := 256 ≤ (strm s 2).partLen + 1
  let s := acceptWord 2 ⟨w, em || full, poison⟩ (modStrm 2 (fun x => { x with pushLock := some (c, t) }) s)
  modStrm 2 (fun x => { x with pushLock := if em || full then none else x.pushLock,
                               forcedEnd := x.forcedEnd || full }) s

/-- Another thread holds the lock. -/
def lockedOut (c : Chan) (t : Thr) (l : Option (Chan × Thr)) : Bool := l.isSome && l ≠ some (c, t)

/-- A word from memory into S2, while the lock and the credits allow. `last`: it is the MOVE's last word, FN[0] set. -/
def pushStep (c : Chan) (t : Thr) (sp : Sp) (a moved : Nat) (last : Bool) (s : State) : Moved :=
  let x := strm s 2
  if lockedOut c t x.pushLock then { n := moved, waits := true, s := s }
  else if x.credits = 0 then
    { n := moved, waits := true, s := modStrm 2 (fun x => { x with pushLock := some (c, t) }) s }
  else
    let r := locRead sp (a + moved) 8 (rqThr c t) s
    { n := moved + 8, s := pushWord c t (bytesWord (plain r.1)) last (anyMark r.1) r.2 }

/-- A word of stream `i` into memory, while the lock and the FIFO allow. The mark of its chunk goes as in `copyStep`. -/
def popStep (c : Chan) (t : Thr) (i : Nat) (dp : Sp) (b moved : Nat) (dirty : Bool) (s : State) : Moved :=
  if lockedOut c t (strm s i).popLock then { n := moved, waits := true, dirty := dirty, s := s }
  else
    let s := modStrm i (fun x => { x with popLock := some (c, t) }) s
    match popWord i s with
    | none => { n := moved, waits := true, dirty := dirty, s := s }
    | some (w, s) =>
      let p := putWord c t dp b moved dirty (clean (wordBytes 8 w.w)) s
      { n := moved + 8, last := w.em, dirty := p.1, s := p.2 }

/-- A word of stream `i` into S2, while both locks, the FIFO and the credits allow. -/
def passStep (c : Chan) (t : Thr) (i moved : Nat) (em last : Bool) (s : State) : Moved :=
  if lockedOut c t (strm s i).popLock then { n := moved, waits := true, s := s }
  else
    let s := modStrm i (fun x => { x with popLock := some (c, t) }) s
    if lockedOut c t (strm s 2).pushLock then { n := moved, waits := true, s := s }
    else
      let s := modStrm 2 (fun y => { y with pushLock := some (c, t) }) s
      if (strm s 2).credits = 0 then { n := moved, waits := true, s := s }
      else match popWord i s with
        | none => { n := moved, waits := true, s := s }
        | some (v, s) => { n := moved + 8, last := v.em, s := pushWord c t v.w (em && (v.em || last)) v.poison s }

/-- The pop lock is given up (R393). -/
def unlockPop (c : Chan) (t : Thr) (i : Nat) (s : State) : State :=
  modStrm i (fun x => { x with popLock := if x.popLock = some (c, t) then none else x.popLock }) s

/-! ## The instruction -/

/-- One word of a MOVE of `n` bytes between two ends that exist; `em` is FN[0]. -/
def moveWord (c : Chan) (t : Thr) (src dst : Loc) (n moved : Nat) (em : Bool) (ahead : List (Byte × Bool))
    (dirty : Bool) (s : State) : Moved :=
  match src, dst with
  | .mem sp a, .mem dp b => copyStep c t sp a dp b moved ahead dirty s
  | .mem sp a, .stream _ => pushStep c t sp a moved (em && decide (moved + 8 = n)) s
  | .stream i, .mem dp b => popStep c t i dp b moved dirty s
  | .stream i, .stream _ => passStep c t i moved em (decide (moved + 8 = n)) s
  | _, _ => { n := n, s := s }

/-- A MOVE that ends gives up the lock of the stream it pops. -/
def moveUnlock (c : Chan) (t : Thr) : Loc → State → State
  | .stream i, s => unlockPop c t i s
  | _, s => s

/-- MOVE from where it stands: `moved` bytes have gone (R134-R136). Each aligned 8 B word is one step (R130): with
words left the thread waits in it, and MOVE sent again moves the next one. -/
def moveGo (c : Chan) (t : Thr) (w ra rb len : W64) (moved : Nat) (ahead : List (Byte × Bool)) (dirty : Bool)
    (s : State) : Eff :=
  match locOf s c ra len false, locOf s c rb len true with
  | .address a, _ => .event 2 a s
  | _, .address a => .event 2 a s
  | .bad, _ => .waited (rD w) 0 s
  | _, .bad => .waited (rD w) 0 s
  | src, dst =>
    if !moveLenOk len then .waited (rD w) 0 s
    else
      let r := moveWord c t src dst len.toNat moved (bit w 32) ahead dirty s
      if r.waits || (!r.last && r.n < len.toNat) then .wait (.move ra rb len r.n ahead r.dirty) r.s
      else .waited (rD w) (BitVec.ofNat 64 r.n) (moveUnlock c t src r.s)

/-- The source of a copy that overlaps its destination from below, as it stands at issue: empty for any other. -/
def readAhead (c : Chan) (t : Thr) (src dst : Loc) (n : Nat) (s : State) : List (Byte × Bool) × State :=
  match src, dst with
  | .mem sp a, .mem dp b => if sp = dp ∧ a < b ∧ b < a + n then locRead sp a n (rqThr c t) s else ([], s)
  | _, _ => ([], s)

def semMove (c : Chan) (t : Thr) (w : W64) (s : State) : Eff :=
  let a := operand c t (rA w) s
  let b := operand c t (rB w) a.2
  let d := operand c t (rD w) b.2
  let r := readAhead c t (locOf d.2 c a.1 d.1 false) (locOf d.2 c b.1 d.1 true) d.1.toNat d.2
  moveGo c t w a.1 b.1 d.1 0 r.1 false r.2

/-- A MOVE under way moves its next word, if it can. -/
def moveOn (c : Chan) (t : Thr) (s : State) : State :=
  match (thr s c t).wait with
  | .move ra rb len moved ahead dirty => retry c t 0x700 s fun w => moveGo c t w ra rb len moved ahead dirty s
  | _ => s

/-- A MOVE to or from a stream, whose wait has no bound of its own (R145). -/
def streamMove (ra rb : W64) : Bool := fld ra 60 4 = 3 || fld rb 60 4 = 3

/-- The words left of a copy between memories, all at once. `k` bounds them. -/
def copyRest (c : Chan) (t : Thr) (src dst : Loc) (ahead : List (Byte × Bool)) :
    (k moved : Nat) → (dirty : Bool) → State → State
  | 0, _, _, s => s
  | k + 1, moved, dirty, s =>
    let r := moveWord c t src dst 0 moved false ahead dirty s
    copyRest c t src dst ahead k r.n r.dirty r.s

/-- A halt meets a MOVE under way: a stream's lock is given up, a copy between memories is finished (R346). -/
def moveHalted (c : Chan) (t : Thr) (ra rb len : W64) (moved : Nat) (ahead : List (Byte × Bool)) (dirty : Bool)
    (s : State) : State :=
  if streamMove ra rb then unlockPop c t (fld ra 0 2).toNat s
  else copyRest c t (locOf s c ra len false) (locOf s c rb len true) ahead ((len.toNat - moved) / 8) moved dirty s

/-- MOVE (R134): issued, or sent again while the thread waits in it, when its next word moves if it can. -/
def execMove (c : Chan) (t : Thr) (s : State) : Out :=
  .next (match (thr s c t).wait with
    | .move .. => moveOn c t s
    | _ => issue c t 0x700 (semMove c t) s)

end Sys2Proof.Machine
end

