-- ==== Sys2Proof/Machine/QueueBase.lean ====
section
/-! DEFINITION. Queue contexts and their cache, doorbells, index blocks, completions and the completion buffer,
batches, the frontier, and the halt (R313-R319, R335-R338, R341, R346). -/

namespace Sys2Proof.Machine

open Sys2Proof

/-! ## Contexts (R317-R319) -/

/-- The key is a CQ's. -/
def isCq (k : Nat) : Bool := 131072 ≤ k

/-- Queue number of a key. -/
def keyQ (k : Nat) : QNum := BitVec.ofNat 17 k

/-- Ring size 2^S. -/
def ringSize (w0 : W64) : Nat := 2 ^ (fld w0 59 5).toNat
def ringBase (w0 : W64) : Nat := (fld w0 6 42).toNat * 64
/-- Index block address; 0: none. -/
def indexAddr (w2 : W64) : Nat := (fld w2 4 44).toNat * 16

/-- Host address of a context. -/
def ctxAddr (s : State) (k : Nat) : Nat := s.qe.ctxBase.toNat * 4096 + 64 * k

/-- Word 3 as the block writes it. -/
def ctxW3 (k : Nat) (x : QCtx) : W64 :=
  if isCq k then at_ 48 x.tail ||| at_ 32 x.head ||| flag 31 x.phase else at_ 48 x.head ||| at_ 32 x.tail

/-- Word 0 as the block writes it. -/
def ctxW0 (x : QCtx) : W64 := setBit x.w0 0 x.enabled

/-- Words 0-3 of a context taken into the block. -/
def loadCtx (k : Nat) (ws : List W64) (x : QCtx) : QCtx :=
  let w3 := ws.getD 3 0
  { x with w0 := ws.getD 0 0, w1 := ws.getD 1 0, w2 := ws.getD 2 0,
           head := if isCq k then fld w3 32 16 else fld w3 48 16,
           tail := if isCq k then fld w3 48 16 else fld w3 32 16,
           phase := bit w3 31 }

/-- A field of a context is out of range (R318, R319, R321): reason 6. -/
def ctxBad (k : Nat) (ws : List W64) : Bool :=
  let w0 := ws.getD 0 0
  let w1 := ws.getD 1 0
  let w2 := ws.getD 2 0
  let w3 := ws.getD 3 0
  let n := (fld w0 59 5).toNat
  n = 0 || 16 < n || fld w0 48 11 ≠ 0 || fld w0 1 5 ≠ 0 || fld w2 48 16 ≠ 0 || fld w2 0 4 ≠ 0 ||
  (if isCq k then fld w1 1 31 ≠ 0 || fld w3 0 31 ≠ 0 else fld w1 17 35 ≠ 0 || fld w3 0 32 ≠ 0) ||
  ringSize w0 ≤ (fld w3 48 16).toNat || ringSize w0 ≤ (fld w3 32 16).toNat

/-- The CQ of an SQ; CQ0 for SQ0 (R320). -/
def cqName (s : State) (sq : QNum) : QNum := if sq = 0 then 0 else cqOf s sq

/-- A disable of the queue has been ordered and is not finished. -/
def stopping (x : QCtx) : Bool := !x.stops.isEmpty

/-- Entries pending in an SQ's ring. -/
def pendingOf (x : QCtx) : Nat := (x.tail.toNat + ringSize x.w0 - x.head.toNat) % ringSize x.w0

/-- Some queue is enabled (R349, R350). -/
def anyQueue (s : State) : Bool := s.qe.ctx.any fun e => e.2.enabled

/-! ## The context cache (R317) -/

/-- A write of a context is unanswered, or waits for an earlier one. -/
def ctxWriting (s : State) (k : Nat) : Bool :=
  ((s.fm ++ s.qe.wait).any fun m => m.who = .ctxWrite k) || !(qctx s k).due.isEmpty

def issueCtxRead (k : Nat) (s : State) : State :=
  issueQe { port := 0, who := .ctxRead k, write := false, addr := ctxAddr s k, len := 32 } s

/-- The transaction that writes words of a context from word `w` on. -/
def ctxWriteReq (s : State) (k w : Nat) (ws : List W64) : FmReq :=
  { port := 0, who := .ctxWrite k, write := true, addr := ctxAddr s k + 8 * w, len := 8 * ws.length,
    data := wordsBytes ws }

/-- An unanswered write of the context covers one of the words from `w` on. -/
def ctxBusy (s : State) (k w : Nat) (ws : List W64) : Bool :=
  let a := (ctxAddr s k + 8 * w) % 2 ^ 48
  (s.fm ++ s.qe.wait).any fun m => m.who = .ctxWrite k && decide (m.addr % 2 ^ 48 < a + 8 * ws.length) &&
    decide (a < m.addr % 2 ^ 48 + m.len)

/-- Write words of a context from word `w` on. The fabric does not order two writes of one word, so the later one leaves
once the earlier one has been answered (R64). -/
def issueCtxWrite (k w : Nat) (ws : List W64) (s : State) : State :=
  if ctxBusy s k w ws || !(qctx s k).due.isEmpty then modQctx k (fun x => { x with due := x.due ++ [(w, ws)] }) s
  else issueQe (ctxWriteReq s k w ws) s

/-- The context writes that waited leave in their order, up to one that must wait still. -/
def issueDue (k : Nat) (s : State) : State :=
  (qctx s k).due.foldl (fun s x => issueCtxWrite k x.1 x.2 s) (modQctx k (fun x => { x with due := [] }) s)

/-- A context is needed that is not in the cache: it is read, after any write of it has been answered
and any stale read of it has returned. -/
def askCtx (k : Nat) (s : State) : State :=
  let x := qctx s k
  if x.cached || x.reading then s
  else
    let s := modQctx k (fun x => { x with reading := true }) s
    if ctxWriting s k || x.stale then s else issueCtxRead k s

/-- The context has been used: the least recently used stands first in `lru`. -/
def touch (k : Nat) (s : State) : State :=
  if (qctx s k).cached then { s with qe := { s.qe with lru := s.qe.lru.filter (· ≠ k) ++ [k] } } else s

/-- Out of the cache, without a write-back. -/
def uncache (k : Nat) (s : State) : State :=
  modQctx k (fun x => { x with cached := false }) { s with qe := { s.qe with lru := s.qe.lru.filter (· ≠ k) } }

/-- Evict the least recently used context other than `k`: its word 3 is written back. -/
def evictOne (k : Nat) (s : State) : State :=
  match s.qe.lru.find? (· ≠ k) with
  | none => s
  | some v => issueCtxWrite v 3 [ctxW3 v (qctx s v)] (uncache v s)

/-- The context enters the cache of 4,096. -/
def cacheIn (k : Nat) (s : State) : State :=
  let s := touch k (modQctx k (fun x => { x with cached := true, reading := false }) s)
  if 4096 < s.qe.lru.length then evictOne k s else s

/-- A context write failed (R353). -/
def ctxError (k : Nat) (s : State) : State :=
  let q := s.qe
  { s with qe := { q with ctxError := true, ctxCq := if q.ctxError then q.ctxCq else isCq k,
                          ctxQueue := if q.ctxError then q.ctxQueue else keyQ k } }

/-! ## Fetch heads, index blocks (R316, R337, R341) -/

/-- Number of the first entry of an SQ that can belong to its context as it is now: what was fetched before an
unfinished disable, and before an enable after it, belongs to the context before. -/
def ringFrom (x : QCtx) : Nat := (((if x.enabled then x.stops else x.stops.dropLast).getLast?).map (·.upTo)).getD 0

/-- The SQ's head as far as its entries have arrived: the index of its oldest fetch outstanding, else its next
index to fetch. -/
def fetchHead (s : State) (sq : QNum) : BitVec 16 :=
  let x := qctx s (ctxKey false sq)
  match s.qe.fetches.find? fun f => f.sq = sq && decide (ringFrom x ≤ f.id) with
  | some f => f.index
  | none => x.head

/-- Number of the oldest fetched entry of an SQ that has not completed, with its index. -/
def oldestOf (s : State) (sq : QNum) : Option (Nat × BitVec 16) :=
  let es := (s.qe.store.filter fun e => e.kind = .host && e.sq = sq).map fun e => (e.id, e.index)
  let fs := (s.qe.fetches.filter (·.sq = sq)).map fun f => (f.id, f.index)
  (es ++ fs).foldl (fun m x => match m with
    | none => some x
    | some y => if x.1 < y.1 then some x else some y) none

/-- The frontier of an SQ (R337). -/
def frontier (s : State) (sq : QNum) : BitVec 16 :=
  match oldestOf s sq with
  | some (_, i) => i
  | none => fetchHead s sq

/-- The index of a queue has moved: it is published where the context names an index block. -/
def idxMoved (k : Nat) (s : State) : State :=
  if indexAddr (qctx s k).w2 = 0 then s else modQctx k (fun x => { x with idx := { x.idx with moved := true } }) s

/-- Word 0 of the index block. A CQ's covers the completions visible in host memory. -/
def idxWord (s : State) (k : Nat) : W64 :=
  let x := qctx s k
  if isCq k then flag 16 (if x.tail < x.visible then !x.phase else x.phase) ||| at_ 0 x.visible
  else at_ 0 (fetchHead s (keyQ k))

/-- What the next index write of a queue carries: its address, its word, and whether it publishes the final head of the
oldest disable, to the index block that the disabled context named. -/
def idxNext (s : State) (k : Nat) : Option (Nat × W64 × Bool) :=
  let x := qctx s k
  match x.idx.final, x.stops.head? with
  | true, some d => some (d.addr, flag 16 true ||| at_ 0 d.head, true)
  | _, _ => if x.idx.moved then some (indexAddr x.w2, idxWord s k, false) else none

/-- The index write leaves the block, unless one is in flight. A final head covers what has moved in a queue that is not
enabled again. -/
def idxIssue (k : Nat) (s : State) : State :=
  if (qctx s k).idx.flying then s
  else match idxNext s k with
    | none => s
    | some (a, w, last) =>
      issueQe { port := 0, who := .index k, write := true, addr := a, len := 8, data := wordBytes 8 w }
        (modQctx k (fun x => { x with idx := { x.idx with
          moved := x.idx.moved && last && x.enabled, flying := true, last := last } }) s)

/-! ## Doorbells (R314) -/

/-- A doorbell is ignored (R353). -/
def badDoor (k : Nat) (s : State) : State :=
  let q := s.qe
  { s with qe := { q with badDoor := true, dbCq := if q.badDoor then q.dbCq else isCq k,
                          dbQueue := if q.badDoor then q.dbQueue else keyQ k } }

/-- The round of the normal SQ served last is over once it has no entries to fetch (R331). -/
def endRound (k : Nat) (s : State) : State :=
  let x := qctx s k
  if k = s.qe.lastNorm && (!x.enabled || pendingOf x = 0) then { s with qe := { s.qe with turns := 0 } } else s

/-- The check of a doorbell value against the context, and its effect on the index (R314). -/
def setDoor (k : Nat) (v : BitVec 16) (s : State) : State :=
  if ringSize (qctx s k).w0 ≤ v.toNat then badDoor k s
  else if isCq k then modQctx k (fun x => { x with head := v }) s
  else endRound k (modQctx k (fun x => { x with tail := v }) s)

/-- The doorbells that waited for a context, in their order, with the context as the block left it. -/
def applyDoors (k : Nat) (s : State) : State :=
  (qctx s k).door.foldl (fun s v => setDoor k v s) (modQctx k (fun x => { x with door := [] }) s)

/-! ## Admin completions and disables (R341, R343) -/

/-- Of the entries of the SQ fetched before number `n` nothing is left: each has completed and every batch is
posted. -/
def sqDrained (s : State) (sq : QNum) (n : Nat) : Bool :=
  (oldestOf s sq).all (fun m => decide (n ≤ m.1)) && !s.qe.cov.any fun c => c.sq = sq && c.order < n

/-- An admin command waits for a disable of the queue. -/
def waitsStop (x : QCtx) (id : Nat) : Bool := x.stops.any fun d => d.wait.contains id

/-- The waiting DELETE_SQs of drained SQs complete (R343). -/
def adminSettle (s : State) : State :=
  (s.qe.store.filter (·.stage = .deleting)).foldl (fun s e =>
    let q : QNum := fld (eword e 2) 0 17
    if sqDrained s q e.upTo && !waitsStop (qctx s (ctxKey false q)) e.id then finishEntry e.id 0 0 s
    else s) s

/-- QE_QCTL has ended with DONE (R352). -/
def qctlDone (k : Nat) (s : State) : State :=
  if s.qe.busy.any fun b => decide (ctxKey b.cq b.q = k) then
    { s with qe := { s.qe with busy := none, result := 1, reason := 0 } }
  else s

/-- A context read of the queue is in flight. -/
def ctxInFlight (s : State) (k : Nat) : Bool := (s.fm ++ s.qe.wait).any fun m => m.who = .ctxRead k

/-- What was asked for with the context as it was until now ends: the doorbells that wait take effect on the block's own
copy, and a context read in flight is stale (log entry 152). -/
def closeCtx (k : Nat) (s : State) : State :=
  modQctx k (fun x => { x with reading := false, stale := ctxInFlight s k }) (applyDoors k s)

/-- No disable of a queue that is not enabled is left: word 3 and word 0 are written back, and no copy is kept. -/
def writeBack (k : Nat) (s : State) : State :=
  let s := closeCtx k s
  let x := qctx s k
  uncache k (issueCtxWrite k 0 [ctxW0 x] (issueCtxWrite k 3 [ctxW3 k x] s))

/-- The oldest disable of a queue ends, and the admin commands that waited for it go on. A queue enabled again meanwhile
keeps its context, which its enable has written (log entry 129). -/
def stopEnd (k : Nat) (s : State) : State :=
  let ids := (((qctx s k).stops.head?).map (·.wait)).getD []
  let s := modQctx k (fun x => { x with stops := x.stops.drop 1, idx := { x.idx with final := false } }) s
  let s := if (qctx s k).enabled || stopping (qctx s k) then s else writeBack k s
  let s := (s.qe.store.filter fun e => e.stage = .disabling && ids.contains e.id).foldl
    (fun s e => finishEntry e.id 0 e.result s) s
  adminSettle (qctlDone k s)

/-- The disables in progress go on, oldest first: once no turn issued before one is outstanding its final head is
published, where its context named an index block, and it ends. `fuel` bounds them. -/
def runStops (k : Nat) : (fuel : Nat) → State → State
  | 0, s => s
  | fuel + 1, s =>
    match (qctx s k).stops with
    | [] => s
    | d :: _ =>
      if s.qe.fetches.any fun f => f.sq = keyQ k && decide (f.id < d.upTo) then s
      else if d.addr = 0 then runStops k fuel (stopEnd k s)
      else modQctx k (fun x => { x with idx := { x.idx with final := true } }) s

def tryStop (k : Nat) (s : State) : State := runStops k (qctx s k).stops.length s

/-- Fetching from an SQ stops at once (R341). The admin commands of `wait` complete after it. -/
def disableSq (k : Nat) (wait : List Nat) (s : State) : State :=
  tryStop k (endRound k (modQctx k (fun x => { x with
    enabled := false,
    stops := x.stops ++ [{ head := x.head, upTo := s.qe.nextId, addr := indexAddr x.w2, wait := wait }] }) s))

/-- An admin command waits for the last disable ordered. -/
def waitStop (k id : Nat) (s : State) : State :=
  modQctx k (fun x => { x with
    stops := x.stops.modify (x.stops.length - 1) fun d => { d with wait := d.wait ++ [id] } }) s

/-! ## The completion buffer (R335-R338) -/

/-- A CQ slot is free: the ring holds at most 2^S - 1. -/
def cqRoom (x : QCtx) : Bool := (x.tail.toNat + 1) % ringSize x.w0 ≠ x.head.toNat

/-- The completion as written (R335). -/
def cplWords (s : State) (p : Cpl) (phase : Bool) : List W64 :=
  match p.image with
  | some (a, b) => [a, setBit b 63 phase]
  | none =>
    [at_ 48 (fetchHead s p.sq) ||| at_ 32 p.cid ||| at_ 0 p.result,
     flag 63 phase ||| flag 62 p.batch ||| flag 61 p.isRem ||| at_ 32 p.sq ||| at_ 16 p.front ||| at_ 0 p.status]

/-- CQ `q` has no free slot: each completion for it that has not waited yet begins to, and sets CQ_STALL (R338), a
level source (R410). -/
def stallCq (q : QNum) (s : State) : State :=
  if s.qe.cbuf.any fun p => p.cq = q && !p.waited then
    let cb := mapIf (fun (p : Cpl) => decide (p.cq = q)) (fun p => { p with waited := true }) s.qe.cbuf
    let s := { s with qe := { s.qe with cbuf := cb } }
    if s.qe.cqStall then s else post srcStall { s with qe := { s.qe with cqStall := true } }
  else s

/-- Completions of CQ `q` are written in the order posted while the ring has room. `fuel` bounds them. -/
def drainCq (q : QNum) : (fuel : Nat) → State → State
  | 0, s => s
  | fuel + 1, s =>
    let k := ctxKey true q
    match takeFirst (fun (p : Cpl) => decide (p.cq = q)) s.qe.cbuf with
    | none => s
    | some (p, rest) =>
      let x := qctx s k
      if s.gctl.halted then s
      else if !x.cached then askCtx k s
      else if !cqRoom x then stallCq q s
      else
        let a := ringBase x.w0 + 16 * x.tail.toNat
        let s' := issueQe { port := 0, who := .completion q, write := true, addr := a, len := 16,
                            data := wordsBytes (cplWords s p x.phase) } s
        let p := { p with slot := x.tail }
        let t := (x.tail.toNat + 1) % ringSize x.w0
        drainCq q fuel (touch k (modQctx k (fun x =>
            { x with tail := BitVec.ofNat 16 t, phase := if t = 0 then !x.phase else x.phase })
          { s' with qe := { s'.qe with cbuf := rest, flying := s'.qe.flying ++ [p] } }))

def drain (q : QNum) (s : State) : State := drainCq q (s.qe.cbuf.length + 1) s

/-- A completion into the buffer, and out of it as its CQ has room. -/
def putCpl (p : Cpl) (s : State) : State := drain p.cq { s with qe := { s.qe with cbuf := s.qe.cbuf ++ [p] } }

/-- Covered entries that the frontier has passed are marked with the time (R337). -/
def passFrontier (sq : QNum) (s : State) : State :=
  let low := oldestOf s sq
  let free := fun (c : Cov) => decide (c.sq = sq) && c.passed.isNone && low.all fun m => decide (c.order < m.1)
  let cov := mapIf free (fun c => { c with passed := some s.time }) s.qe.cov
  { s with qe := { s.qe with cov := cov } }

/-- The covered entries of an SQ that the frontier has passed. -/
def passedCov (s : State) (sq : QNum) : List Cov := s.qe.cov.filter fun c => c.sq = sq && c.passed.isSome

/-- The covered entries that the next batch completion of an SQ reports: those passed that were fetched for one CQ,
the first one's. -/
def batchCov (s : State) (sq : QNum) : List Cov :=
  (passedCov s sq).filter fun c => ((passedCov s sq).head?).any fun d => c.cq = d.cq

/-- One batch completion reports every covered entry passed (R337). It stands for the entry fetched last of them: its CID,
and, should its write fail, its index in the evidence (log entry 153). -/
def postBatch (sq : QNum) (s : State) : State :=
  let ps := batchCov s sq
  match ps with
  | [] => s
  | p :: _ =>
    let last := ps.foldl (fun m (c : Cov) => if m.order < c.order then c else m) p
    let c : Cpl := { cq := p.cq, sq := sq, cid := last.cid, result := BitVec.ofNat 32 ps.length, status := 0,
                     batch := true, front := frontier s sq, index := last.index }
    adminSettle (putCpl c { s with qe := { s.qe with
      cov := s.qe.cov.filter fun c => !(c.sq = sq && c.passed.isSome && c.cq = p.cq) } })

/-! ## The halt (R346-R348) -/

/-- Every running thread ends as though ABORT had won, without a handler. -/
def haltThread (c : Chan) (t : Thr) (s : State) : State :=
  let th := thr s c t
  if !th.run && th.ending.isNone then s
  else
    let s := modThr c t (fun th => { th with
      aborted := true, abortP := false, rtn := th.rtn.map fun r => { r with abortP := true } }) s
    if th.ending.isSome then tryEnd c t s
    else
      let s := match th.wait with
        | .event _ _ => modChan c (fun ch => { ch with evq := ch.evq.filter (· ≠ t) }) s
        | .hawk _ => dropWaiter (.thread c t) s
        | .move ra rb len moved ahead dirty => moveHalted c t ra rb len moved ahead dirty s
        | _ => s
      tryEnd c t (setEnding c t 0x08 none s)

def haltThreads (s : State) : State :=
  s.ch.foldl (fun s e => e.2.thr.foldl (fun s f =>
    haltThread (BitVec.ofNat 6 e.1) (BitVec.ofNat 3 f.1) s) s) s

/-- The block halts. A block that is halted already records nothing more. Render keeps the commands of its queue; one
that waited for a place there ends with its thread (R295, R346). -/
def halt (cause : Byte) (sq : QNum) (index : BitVec 16) (words : List W64) (isRem : Bool) (s : State) : State :=
  if s.gctl.halted then s
  else
    let s := { s with gctl := { s.gctl with
      halted := true, evidence := true, hRemote := isRem, hCause := cause, hIndex := index, hSq := sq,
      hTime := s.time, hEntry := words.take 8 ++ List.replicate (8 - words.length) 0 } }
    let s := logRec 0x11 false (sq.setWidth 32) (at_ 16 cause ||| at_ 0 index) (post srcHalt s)
    haltThreads { s with rnd := { s.rnd with queue := s.rnd.queue.take 64 }, qe := { s.qe with wait := s.qe.wait.filter fun m => match m.who with
      | .fetch _ | .frag _ | .completion _ => false
      | _ => true } }

/-! ## What a doorbell and a context in the cache let go on (R314, R317) -/

/-- A doorbell whose context is in the cache: a CQ's head that has moved makes room for completions. -/
def ringDoor (k : Nat) (v : BitVec 16) (s : State) : State :=
  let x := qctx s k
  let t := setDoor k v s
  if isCq k && v.toNat < ringSize x.w0 && x.head ≠ v then drain (keyQ k) t else t

/-- A doorbell write of `v`: ignored unless the queue is enabled; checked once the context is in the cache. -/
def doorbell (k : Nat) (v : BitVec 16) (s : State) : State :=
  let x := qctx s k
  if !x.enabled then badDoor k s
  else if x.cached then ringDoor k v (touch k s)
  else askCtx k (modQctx k (fun x => { x with door := x.door ++ [v] }) s)

/-- The work that waited for a context goes on: its doorbells in their order, its completions. -/
def ctxReady (k : Nat) (s : State) : State :=
  let s := applyDoors k s
  if isCq k then drain (keyQ k) s else s

end Sys2Proof.Machine
end

