-- ==== Sys2Proof/Machine/Scratch.lean ====
section
/-! DEFINITION. Scratch loads, stores, SWAP and FADD (R128-R130). -/

namespace Sys2Proof.Machine

open Sys2Proof

/-- An access that R94 allows: aligned to its size and inside scratch. -/
def scrOk (a : W64) (n : Nat) : Bool := a.toNat + n ≤ 65536 && a.toNat % n = 0

/-- Sign extension of an `n`-byte value (R128). -/
def sextBytes (n : Nat) (v : W64) : W64 :=
  (v <<< (64 - 8 * n)).sshiftRight (64 - 8 * n)

/-- An access to scratch at RA + sext(OFFSET) (R128): ADDRESS for an access R94 forbids; POISON for a marked
chunk (R129), the mark a parity error of this very access sets included; else the rest. -/
def scratchAt (c : Chan) (t : Thr) (w : W64) (s : State)
    (k : Nat → Nat → W64 → State → Eff) : Eff :=
  let b := operand c t (rA w) s
  let a := b.1 + imm w
  let n := msize w
  if !scrOk a n then .event 2 a b.2
  else
    let r := readMem (.scr c) a.toNat n (rqThr c t) b.2
    if anyMark r.1 then .event 4 (BitVec.ofNat 64 (a.toNat / 64 * 64)) r.2
    else k a.toNat n (bytesWord (plain r.1)) r.2

def semLd (c : Chan) (t : Thr) (w : W64) (s : State) : Eff :=
  scratchAt c t w s fun _ _ v s => .write (rD w) 3 v s

def semLds (c : Chan) (t : Thr) (w : W64) (s : State) : Eff :=
  scratchAt c t w s fun _ n v s => .write (rD w) 3 (sextBytes n v) s

/-- The `n` low bytes of a value into scratch with fresh parity, the chunk's mark left as it was (R129). -/
def putScratch (c : Chan) (t : Thr) (a n : Nat) (v : W64) (s : State) : State :=
  writeMem (.scr c) a (clean (wordBytes n v)) (rqThr c t) s

/-- ST reads RD as a source and checks no poison (R129). -/
def semSt (c : Chan) (t : Thr) (w : W64) (s : State) : Eff :=
  let b := operand c t (rA w) s
  let d := operand c t (rD w) b.2
  let a := b.1 + imm w
  let n := msize w
  if !scrOk a n then .event 2 a d.2 else .plain (putScratch c t a.toNat n d.1 d.2)

/-- SWAP. RD gets the old value zero-extended, as after LD (DESIGN CHOICE, log entry 172). -/
def semSwap (c : Chan) (t : Thr) (w : W64) (s : State) : Eff :=
  scratchAt c t w s fun a n v s =>
    let d := operand c t (rD w) s
    .write (rD w) 3 v (putScratch c t a n d.1 d.2)

/-- FADD, with the old value zero-extended in RD as in SWAP (log entry 172). -/
def semFadd (c : Chan) (t : Thr) (w : W64) (s : State) : Eff :=
  scratchAt c t w s fun a n v s =>
    let d := operand c t (rD w) s
    .write (rD w) 3 v (putScratch c t a n (v + d.1) d.2)

/-- LD (R128): a zero-extended load. -/
def execLd (c : Chan) (t : Thr) (s : State) : Out := .next (issue c t 0x500 (semLd c t) s)

/-- LDS (R128): a sign-extended load. -/
def execLds (c : Chan) (t : Thr) (s : State) : Out := .next (issue c t 0x510 (semLds c t) s)

/-- ST (R128): a store. -/
def execSt (c : Chan) (t : Thr) (s : State) : Out := .next (issue c t 0x520 (semSt c t) s)

/-- SWAP (R128): an exchange of RD and scratch. -/
def execSwap (c : Chan) (t : Thr) (s : State) : Out := .next (issue c t 0x530 (semSwap c t) s)

/-- FADD (R128): a fetch-and-add. -/
def execFadd (c : Chan) (t : Thr) (s : State) : Out := .next (issue c t 0x540 (semFadd c t) s)

end Sys2Proof.Machine
end

