-- ==== Sys2Proof/Machine/QueueEngine.lean ====
section
/-! DEFINITION. The queue engine: enabling and disabling queues, fetching, the checks of an entry, buffers,
dispatch, the start of programs, completions, batches and index blocks (R89, R100, R313-R348, R52, R141). -/

namespace Sys2Proof.Machine

open Sys2Proof

/-! ## QE_QCTL (R321, R351, R352) -/

def qctlRefuse (reason : Nat) (s : State) : State :=
  { s with qe := { s.qe with busy := none, result := 2, reason := BitVec.ofNat 8 reason } }

/-- The conditions that refuse the disable of a CQ (R321). -/
def cqInUse (s : State) (q : QNum) : Bool :=
  let names := fun (n : QNum) => decide (cqName s n = q)
  (s.qe.ctx.any fun e => e.1 < 131072 && e.2.enabled && names (keyQ e.1)) ||
  (s.qe.store.any fun e => e.kind = .host && e.cq = q) || (s.qe.fetches.any fun f => f.cq = q) ||
  (s.qe.cov.any fun c => c.cq = q) || (s.qe.cbuf ++ s.qe.flying).any fun p => decide (p.cq = q)

/-- The CQ that an SQ context names; CQ0 for SQ0. -/
def ctxCqKey (k : Nat) (ws : List W64) : Nat := ctxKey true (if k = 0 then 0 else fld (ws.getD 1 0) 0 17)

/-- A queue becomes enabled with the given context words, and word 0 is written (R317, R321). `ws` holds words
0-3; `n` words from word 0 on are written. -/
def enableCtx (k n : Nat) (ws : List W64) (s : State) : State :=
  let s := modQctx k (fun x =>
    let y := loadCtx k ws x
    { y with enabled := true, visible := y.tail, idx := { x.idx with moved := false } }) (closeCtx k s)
  let s := cacheIn k s
  let x := qctx s k
  issueCtxWrite k 0 (([ctxW0 x, x.w1, x.w2, ctxW3 k x]).take n) s

/-- The reason for which an enable with these words is refused: 6, then 4. -/
def enableFault (k : Nat) (ws : List W64) (s : State) : Option Nat :=
  if ctxBad k ws then some 6
  else if !isCq k && !(qctx s (ctxCqKey k ws)).enabled then some 4
  else none

/-- The context of a QE_QCTL ENABLE has been read. -/
def qctlEnable (k : Nat) (ws : List W64) (s : State) : State :=
  match enableFault k ws s with
  | some r => qctlRefuse r s
  | none => qctlDone k (enableCtx k 1 ws s)

/-- A CQ is disabled at once: word 3 and word 0 are written back. -/
def disableCq (k : Nat) (s : State) : State :=
  stopEnd k (modQctx k (fun x => { x with enabled := false }) s)

/-- A write of QE_QCTL with command `cmd`. -/
def qctl (cmd : BitVec 2) (cq : Bool) (q : QNum) (s : State) : State :=
  let k := ctxKey cq q
  let start := { s with qe := { s.qe with busy := some { cq := cq, q := q } } }
  if s.qe.busy.isSome || cmd = 0 then s
  else if s.gctl.qmode && q ≠ 0 then qctlRefuse 1 s
  else if cmd = 3 then qctlRefuse 7 s
  else if cmd = 1 then
    if (qctx s k).enabled then qctlRefuse 3 s else askCtx k start
  else if !(qctx s k).enabled then qctlRefuse 3 s
  else if cq then if cqInUse s q then qctlRefuse 5 s else disableCq k start
  else disableSq k [] start

/-! ## Admin commands that enable or change a context (R322, R323) -/

/-- An admin command is refused PROTECTED with its reason. -/
def adminRefuse (id reason : Nat) (s : State) : State := finishEntry id 0x12 (BitVec.ofNat 32 reason) s

/-- Word 1 with WEIGHT, BURST and URGENT taken from `v`. -/
def arbWord (w1 v : W64) : W64 := merge w1 v (at_ 52 0xFFF#12)

/-- ENABLE_SQ and SET_ARB with the context's words 0-3. -/
def adminCtx (e : Entry) (k : Nat) (ws : List W64) (s : State) : State :=
  let a := eword e 3
  if eOpcode e = 6 then
    if (qctx s k).enabled then adminRefuse e.id 3 s
    else
    let ws := ws.set 3 (at_ 48 (fld a 0 16) ||| at_ 32 (fld a 16 16))
    match enableFault k ws s with
    | some r => adminRefuse e.id r s
    | none => finishEntry e.id 0 0 (enableCtx k 1 ws s)
  else
    let w1 := arbWord (ws.getD 1 0) a
    finishEntry e.id 0 0 (issueCtxWrite k 1 [w1] (modQctx k (fun x => { x with w1 := w1 }) s))

/-! ## Context reads and writes (R317) -/

/-- The admin command that waits for the context of key `k`. -/
def adminReader (s : State) (k : Nat) : Option Entry :=
  s.qe.store.find? fun e => e.stage = .adminRead && ctxKey false (fld (eword e 2) 0 17) = k

/-- The work that waits for a context with words 0-3 `ws` goes on: doorbells, completions, an admin command. -/
def ctxGoOn (k : Nat) (ws : List W64) (s : State) : State :=
  let s := if (qctx s k).enabled || stopping (qctx s k) then ctxReady k s else s
  match adminReader s k with
  | some e => adminCtx e k ws s
  | none => s

/-- The words of a context that the block holds. -/
def heldCtx (x : QCtx) : List W64 := [x.w0, x.w1, x.w2, 0]

/-- The queue of a context read that failed, as the evidence names it: an SQ with the index to fetch next, SQ 0 and
index 0 for a CQ (log entry 153). -/
def haltCtx (k : Nat) (s : State) : State :=
  halt 7 (if isCq k then 0 else keyQ k) (if isCq k then 0 else (qctx s k).head) [] false s

/-- The words of a context that is needed have come. -/
def ctxTaken (k : Nat) (ws : List W64) (s : State) : State :=
  let s := modQctx k (fun x => { x with reading := false }) s
  let x := qctx s k
  if x.enabled || stopping x then ctxGoOn k ws (cacheIn k (modQctx k (loadCtx k ws) s))
  else if s.qe.busy.any fun b => decide (ctxKey b.cq b.q = k) then qctlEnable k ws s
  else ctxGoOn k ws s

/-- A stale read has returned: the context is read again if it is needed. -/
def ctxAgain (k : Nat) (s : State) : State :=
  let s := modQctx k (fun x => { x with stale := false }) s
  if (qctx s k).reading && !ctxWriting s k then issueCtxRead k s else s

/-- The context of a QE_QCTL ENABLE could not be read: BUSY ends, and RESULT and REASON stay (log entry 154). -/
def qctlLost (k : Nat) (s : State) : State :=
  let x := qctx s k
  if !x.enabled && !stopping x && s.qe.busy.any (fun b => decide (ctxKey b.cq b.q = k)) then
    { s with qe := { s.qe with busy := none } }
  else s

/-- CONTEXT_READ_DONE. The words of a stale read are dropped. -/
def ctxReadDone (k : Nat) (resp : MemResp) (s : State) : State :=
  match takeFm (.ctxRead k) s with
  | none => s
  | some (_, s) =>
    let old := (qctx s k).stale
    pumpEng 0 (match resp with
      | .words ws => if old then ctxAgain k s else ctxTaken k ws s
      | .error | .poisoned =>
        let s := modQctx k (fun x => { x with reading := false, stale := false }) s
        haltCtx k (qctlLost k s))

/-- CONTEXT_WRITE_RESPONSE: write `n`, oldest first, of those of a context that are unanswered. The writes that waited for
it leave (R64). After a failed write-back at an eviction the context is in the cache again, first to be evicted the next
time. -/
def ctxWriteResp (k n : Nat) (err : Bool) (s : State) : State :=
  match takeFmAt (.ctxWrite k) n s with
  | none => s
  | some (m, s) =>
    let s := issueDue k s
    let x := qctx s k
    let s := if err then ctxError k s else s
    pumpEng 0 (
      if err && m.len = 8 && m.addr = (ctxAddr s k + 24) % 2 ^ 48 && (x.enabled || stopping x) && !x.cached then
        let s := modQctx k (fun x => { x with cached := true, reading := false }) s
        let s := { s with qe := { s.qe with lru := k :: s.qe.lru } }
        ctxGoOn k (heldCtx x) (if 4096 < s.qe.lru.length then evictOne k s else s)
      else if x.reading && !x.stale && !ctxWriting s k then issueCtxRead k s
      else s)

/-! ## Fetching (R331, R332) -/

/-- Stages of an entry that hold a place of the entry store (R332). -/
def waitsInStore (e : Entry) : Bool :=
  match e.stage with
  | .admin | .adminRead | .fragRead | .needBuf | .waitBuf | .dataIn | .ready | .waitWake | .waitStg => true
  | _ => false

/-- Entries in the store. A member fetch of Render is no fetched entry: it takes no place (R298, R332). -/
def storeUsed (s : State) : Nat := s.qe.store.countP fun e => waitsInStore e && e.kind ≠ .fetch

/-- Places that fetch turns outstanding will fill. -/
def storeDue (s : State) : Nat := (s.qe.fetches.map (·.n)).sum

def isUrgent (q : Nat) (x : QCtx) : Bool := q = 0 || bit x.w1 52
def weightOf (x : QCtx) : Nat := max 1 (fld x.w1 56 8).toNat
def burstOf (q : Nat) (x : QCtx) : Nat := if q = 0 then 1 else 2 ^ min 6 (fld x.w1 53 3).toNat

/-- Enabled SQs with entries pending, ascending. -/
def fetchable (s : State) : List (Nat × QCtx) :=
  s.qe.ctx.filter fun e => e.1 < 131072 && e.2.enabled && pendingOf e.2 ≠ 0

/-- The first of an ascending list above `last`, wrapping. -/
def nextQueue (last : Nat) (xs : List (Nat × QCtx)) : Option (Nat × QCtx) :=
  (xs.find? (last < ·.1)).orElse fun _ => xs.head?

/-- The SQ whose turn it is, and whether it is served as URGENT. -/
def turnQueue (s : State) : Option (Nat × QCtx × Bool) :=
  let xs := fetchable s
  let us := xs.filter fun e => isUrgent e.1 e.2
  if us.isEmpty then
    let more := (xs.find? fun e => e.1 = s.qe.lastNorm).filter fun e => 0 < s.qe.turns && s.qe.turns < weightOf e.2
    (more.orElse fun _ => nextQueue s.qe.lastNorm xs).map fun e => (e.1, e.2, false)
  else (nextQueue s.qe.lastUrg us).map fun e => (e.1, e.2, true)

/-- Fetching may issue: queues enabled, no halt, not held by a power warning (R511, R520). -/
def mayFetch (s : State) : Bool := s.gctl.queues && !s.gctl.halted && !(s.pfail && s.pwr.noFetch)

/-- The fetches of a turn of `n` entries of SQ `q` from number `id` on: one, or two where the entries lie on both
sides of a 4,096 B boundary of the ring (R63). -/
def turnFetches (q : Nat) (x : QCtx) (id n cq : Nat) : List Fetch :=
  let a := ringBase x.w0 + 64 * x.head.toNat
  let m := min n ((4096 - a % 4096) / 64)
  let f : Fetch := { id := id, sq := keyQ q, index := x.head, n := m, cq := BitVec.ofNat 17 cq }
  if m = n then [f]
  else [f, { f with id := id + m, index := BitVec.ofNat 16 (x.head.toNat + m), n := n - m }]

/-- A fetch leaves for its entries. -/
def issueFetch (ring : Nat) (f : Fetch) (s : State) : State :=
  issueQe { port := 0, who := .fetch f.id, write := false, addr := ring + 64 * f.index.toNat, len := 64 * f.n }
    { s with qe := { s.qe with fetches := s.qe.fetches ++ [f] } }

/-- FETCH_TURN. A turn whose context is not in the cache waits for its read, and the turns after it with it. -/
def fetchTurn (s : State) : State :=
  match turnQueue s with
  | none => s
  | some (q, x, urg) =>
    let room := 4096 - (storeUsed s + storeDue s)
    if !mayFetch s || room = 0 then s
    else if !x.cached then askCtx q s
    else
      let n := min (min (burstOf q x) (pendingOf x)) (min (ringSize x.w0 - x.head.toNat) room)
      let id := s.qe.nextId
      let x' := { x with head := BitVec.ofNat 16 ((x.head.toNat + n) % ringSize x.w0) }
      let t := if q = s.qe.lastNorm && 0 < s.qe.turns && s.qe.turns < weightOf x then s.qe.turns + 1 else 1
      let fs := turnFetches q x id n (cqName s (keyQ q)).toNat
      let s := if urg then { s with qe := { s.qe with lastUrg := q, turns := 0 } }
        else { s with qe := { s.qe with lastNorm := q, turns := if pendingOf x' = 0 || weightOf x ≤ t then 0 else t } }
      let s := touch q (modQctx q (fun _ => x') { s with qe := { s.qe with nextId := id + n } })
      fs.foldl (fun s f => issueFetch (ringBase x.w0) f s) s

/-! ## The checks of an entry (R326, R327, R345) -/

/-- The quad of an entry's channel. -/
def eQuad (e : Entry) : BitVec 4 := quadOf (eCh e)

/-- The slot that the OPCODE names is VALID in the target quad's copy (R99). -/
def slotValid (s : State) (q : BitVec 4) (op : BitVec 10) : Bool := tget false op.toNat (quad s q).valid

/-- Reserved bits of word 0. -/
def word0Bad (w : W64) : Bool := fld w 52 12 ≠ 0 || fld w 40 8 ≠ 0 || fld w 32 6 ≠ 0 || fld w 10 6 ≠ 0

/-- A "must be 0" field is set (cause 1). -/
def reservedBad (e : Entry) : Bool :=
  word0Bad (eword e 0) || fld (eword e 1) 24 12 ≠ 0 || fld (eword e 5) 32 32 ≠ 0 ||
  (eDmode e ≠ 2 && eFcount e ≠ 0) || (eDmode e = 0 && eDaddr e ≠ 0)

/-- DLEN or FCOUNT out of range (cause 5). -/
def lengthBad (e : Entry) : Bool :=
  (if eDir e = 0 then eDlen e ≠ 0 else eDlen e = 0 || 266240 < eDlen e) ||
  (eDmode e = 2 && (eFcount e = 0 || 256 < eFcount e))

/-- The first cause that makes an entry malformed (R345). -/
def entryCause (s : State) (e : Entry) : Option Nat :=
  let here := isLocal s (eNode e)
  if e.sq = 0 then
    if word0Bad (eword e 0) then some 1
    else if 8 < (eOpcode e).toNat || eDir e ≠ 0 || eDmode e ≠ 0 || bit (eword e 0) 39 || eBatch e || eword e 1 ≠ 0
    then some 6
    else none
  else if reservedBad e then some 1
  else if here && nChan s ≤ (eCh e).toNat then some 3
  else if here && (quad s (eQuad e)).known && !slotValid s (eQuad e) (eOpcode e) then some 2
  else if eDir e = 3 || (eDir e = 0) ≠ (eDmode e = 0) then some 4
  else if lengthBad e then some 5
  else none

/-- The entry store, kept in fetch order. -/
def addEntry (e : Entry) (s : State) : State :=
  let st := s.qe.store
  { s with qe := { s.qe with store := st.filter (·.id < e.id) ++ e :: st.filter (e.id < ·.id) } }

/-- The read of a fragment table: two where it lies on both sides of a 4,096 B boundary (R63). -/
def issueFrags (e : Entry) (s : State) : State :=
  let n := 16 * eFcount e
  let m := min n (4096 - eDaddr e % 4096)
  let read := fun (a n : Nat) (s : State) =>
    issueQe { port := 0, who := .frag e.id, write := false, addr := a, len := n } s
  let s := read (eDaddr e) m s
  if m = n then s else read (eDaddr e + m) (n - m) s

/-- A well-formed entry is resolved and enters the store (R329, R334). -/
def admitEntry (e : Entry) (s : State) : State :=
  let here := isLocal s (eNode e)
  if e.sq = 0 then addEntry { e with stage := .admin } s
  else
    let e := { e with isRem := !here, opDue := here && !(quad s (eQuad e)).known }
    if !here && (admitted s (eNode e)).isNone then addEntry { e with stage := .finish, status := 0x0A } s
    else if eDmode e = 2 then
      if eDaddr e % 16 ≠ 0 then addEntry { e with stage := .finish, status := 0x10, result := 3 } s
      else issueFrags e (addEntry { e with stage := .fragRead } s)
    else addEntry { e with stage := if eDir e = 0 then .ready else .needBuf } s

/-- The entries of a fetch transaction, each checked in turn until one halts the block. -/
def checkEntries (f : Fetch) (ring : Nat) : (i : Nat) → List (List W64) → State → State
  | _, [], s => s
  | i, ws :: rest, s =>
    let e : Entry := { id := f.id + i, sq := f.sq, cq := f.cq, index := BitVec.ofNat 16 ((f.index.toNat + i) % ring), words := ws }
    match entryCause s e with
    | some c => halt (BitVec.ofNat 8 c) f.sq e.index ws false s
    | none => checkEntries f ring (i + 1) rest (admitEntry e s)

/-- Words in groups of eight. -/
def groups8 : (n : Nat) → List W64 → List (List W64)
  | 0, _ => []
  | n + 1, ws => (ws.take 8 ++ List.replicate (8 - (ws.take 8).length) 0) :: groups8 n (ws.drop 8)

/-- ENTRY_CHECK: the data of the `k`-th fetch outstanding arrives. -/
def entryCheck (k : Nat) (resp : MemResp) (s : State) : State :=
  match s.qe.fetches[k]? with
  | none => s
  | some f =>
    match takeFm (.fetch f.id) s with
    | none => s
    | some (_, s) =>
      let before := fetchHead s f.sq
      let s := { s with qe := { s.qe with fetches := s.qe.fetches.filter (·.id ≠ f.id) } }
      if s.gctl.halted then pumpEng 0 s
      else
        let q := ctxKey false f.sq
        let s := match resp with
          | .words ws => checkEntries f (ringSize (qctx s q).w0) 0 (groups8 f.n ws) s
          | .error | .poisoned => halt 7 f.sq f.index [] false s
        pumpEng 0 (tryStop q (if fetchHead s f.sq = before then s else idxMoved q s))

/-! ## Fragment tables (R329) -/

/-- Fragments of a table. -/
def fragsOf : (n : Nat) → List W64 → List (Nat × Nat)
  | 0, _ => []
  | n + 1, ws => ((fld (ws.getD 0 0) 0 48).toNat, (fld (ws.getD 1 0) 0 32).toNat) :: fragsOf n (ws.drop 2)

/-- The whole table of an entry has come: its checks (R329). -/
def checkFrags (id : Nat) (ws : List W64) (e : Entry) (s : State) : State :=
  let fs := fragsOf (eFcount e) ws
  if fs.any fun f => f.2 = 0 then finishEntry id 0x10 2 s
  else if (fs.map (·.2)).sum ≠ eDlen e then finishEntry id 0x10 1 s
  else modEntry id (fun e => { e with frags := fs, stage := .needBuf }) s

/-- FRAGMENT_TABLE_READ_DONE. A table in two parts is checked when both have come. The command does not say which part it
answers: the first answer is taken as the first part's (DESIGN CHOICE, log entry 171). -/
def fragDone (id : Nat) (resp : MemResp) (s : State) : State :=
  match takeFm (.frag id) s with
  | none => s
  | some (m, s) =>
    match entryOf s id with
    | none => pumpEng 0 s
    | some e =>
      if e.stage ≠ .fragRead || s.gctl.halted then pumpEng 0 s
      else
        pumpEng 0 (match resp with
          | .error | .poisoned => finishEntry id 0x10 4 s
          | .words ws =>
            let ws := e.table ++ ws.take (m.len / 8)
            if (s.fm ++ s.qe.wait).any fun m => m.who = .frag id then modEntry id (fun e => { e with table := ws }) s
            else checkFrags id ws e s)

/-! ## Buffers and dispatch (R328, R333, R89, R485) -/

/-- An entry ends before a thread has run it: its completion, its COMPLETE to the node that sent it, or the end of
a member fetch. -/
def failEntry (id : Nat) (st : Byte) (res : BitVec 32) (s : State) : State :=
  match entryOf s id with
  | none => s
  | some e =>
    match e.kind with
    | .host => finishEntry id st res (freeEntryBuffer e.handle s)
    | .remoteIn src tag _ _ =>
      dropEntry id (freeEntryBuffer e.handle (if s.gctl.halted then s else sendComplete src tag st res [] s))
    | .fetch => endFetch e e.handle st s

/-- A domain has no power, or its power-down has been requested (R333). -/
def unpowered (s : State) (d : Nat) : Bool := !powered s d || domSt s d = .draining || !(dueOf s d).isEmpty

/-- The entry waits at `stage` for domain `d` to wake, or completes OFFLINE (R333, R517). An entry that waits already goes on
waiting while the power-up is under way. -/
def wakeOrFail (id d : Nat) (stage : EStage) (waits : Bool) (s : State) : State :=
  if waits && rising s d then s
  else if bit s.pwr.wakeEn d then autoWake d (modEntry id (fun e => { e with stage := stage }) s)
  else failEntry id 0x09 0 s

/-- STG has no power, or its power-down or its retention has been requested (R333). -/
def stgGone (s : State) : Bool := unpowered s 1 || s.pwr.ret

/-- A slot of the remote table is free (R485). -/
def slotFree (s : State) (t : Nat) : Bool :=
  !(s.lath.table.any (·.1 = t)) && !s.qe.store.any fun e => e.slot.any fun k => decide (k.toNat = t)

/-- The slot of the remote table that an entry holds, or one that it takes now; none while no slot is free. Which free
slot becomes the TAG is a free value (log entry 2). -/
def takeSlot (e : Entry) (s : State) : Option (BitVec 12 × State) :=
  match e.slot with
  | some t => some (t, s)
  | none =>
    let d := draw s
    (firstFrom 4096 (d.1.toNat % 4096) (slotFree d.2)).map fun t =>
      (BitVec.ofNat 12 t, modEntry e.id (fun e => { e with slot := some (BitVec.ofNat 12 t) }) d.2)

/-- A buffer for an entry, once STG is ON. -/
def takeBuffer (id : Nat) (e : Entry) (s : State) : State :=
  if stgGone s then wakeOrFail id 1 .waitStg (e.stage = .waitStg) s
  else if domSt s 1 ≠ .on || 64 ≤ entryWaits s then s
  else
    let s := meetWake 1 s
    let k := poolFor (eDlen e)
    match alloc k true s with
    | some (h, s) => deliver (.entry id) h s
    | none =>
      modEntry id (fun e => { e with stage := .waitBuf })
        (joinWaiting { who := .entry id, pool := k, fall := true } s)

/-- ENTRY_BUFFER_ALLOC. A remote entry takes its slot of the remote table first, and waits while none is free (R485). -/
def bufferAlloc (id : Nat) (s : State) : State :=
  match entryOf s id with
  | none => s
  | some e =>
    if (e.stage ≠ .needBuf && e.stage ≠ .waitStg) || s.gctl.halted then s
    else if e.isRem then match takeSlot e s with
      | none => s
      | some (_, s) => takeBuffer id e s
    else takeBuffer id e s

/-- The port by which frames to a node leave. -/
def outPort (s : State) (n : BitVec 16) : BitVec 2 :=
  match admitted s n with
  | some e =>
    if e.mode then (match pathHop s e.route with
      | .out x => x
      | _ => 0)
    else e.port
  | none => 0

/-- The REQUEST of a remote entry still waits at a port. -/
def reqWaits (s : State) (tag : Nat) : Bool := s.lath.port.any fun p => (reqTags p.2.txq).contains tag

/-- Bytes of TO_BLOCK data that cross for a remote entry: DLEN (R485), for a library page program of a stripe member the
16,640 B of each of its pages (R303 and the example of R489; log entry 167). -/
def sentBytes (e : Entry) : Nat :=
  match libOpOf (eOpcode e) with
  | some op =>
    let n := libPages op (eword e 2) * 16640
    if isWrite op && eword e 7 ≠ 0 && eDlen e ≤ n && n ≤ poolSize (poolFor (eDlen e)) then n else eDlen e
  | none => eDlen e

/-- A remote entry leaves for its node under TAG `t`: REQUEST, then its TO_BLOCK data (R485). -/
def sendTag (e : Entry) (t : Nat) (s : State) : State :=
  let n := eNode e
  let tag := BitVec.ofNat 12 t
  let s := { s with lath := { s.lath with table := tput t { entry := e.id, node := n } s.lath.table } }
  let s := modEntry e.id (fun e => { e with stage := .remote tag, slot := none }) s
  let s := sendNode n (mkFrame s 1 false n tag 0 0 (wordsBytes e.words)) s
  let s := if eDir e = 1 then
      let r := bufRead e.handle 0 (sentBytes e) (rqLath (outPort s n)) s
      sendData n false tag (r.1.length + 1) r.1 r.2
    else s
  if reqWaits s t then s else startTimers [t] s

/-- A remote entry leaves for its node under the slot it holds; one without data takes its slot now (R485). -/
def sendRemote (e : Entry) (s : State) : State :=
  match takeSlot e s with
  | none => s
  | some (t, s) => sendTag e t.toNat s

/-- ENTRY_DISPATCH. An entry that has its buffer and meets STG without power keeps the handle, stale as it then may be
(R385, log entry 155). -/
def entryDispatch (id : Nat) (s : State) : State :=
  match entryOf s id with
  | none => s
  | some e =>
    if (e.stage ≠ .ready && e.stage ≠ .waitWake) || s.gctl.halted then s
    else if e.isRem && (admitted s (eNode e)).isNone then failEntry id 0x0A 0 s
    else if eDir e ≠ 0 && stgGone s then wakeOrFail id 1 .waitWake (e.stage = .waitWake) s
    else if eDir e ≠ 0 && domSt s 1 ≠ .on then s
    else if e.isRem then sendRemote e s
    else
      let c := eCh e
      if unpowered s (4 + (quadOf c).toNat) then
        wakeOrFail id (4 + (quadOf c).toNat) .waitWake (e.stage = .waitWake) s
      else if (chan s c).engine ≠ 1 then s
      else if !slotValid s (quadOf c) (eOpcode e) then
        match e.kind with
        | .host => halt 2 e.sq e.index e.words false s
        | .remoteIn src tag _ _ =>
          dropEntry id (freeEntryBuffer e.handle (sendNode src (mkFrame s 5 true src tag 2 0 []) s))
        | .fetch => failEntry id 0x19 0 s
      else if e.kind = .fetch then modEntry id (fun e => { e with stage := .ready }) s
      else if (chan s c).slot.isSome then modEntry id (fun e => { e with stage := .ready }) s
      else modEntry id (fun e => { e with stage := .inSlot }) (modChan c (fun ch => { ch with slot := some id })
        (meetWake (4 + (quadOf c).toNat) s))

/-! ## Starting programs (R52, R89, R100) -/

/-- Program entry table slot of a quad. -/
def progSlot (s : State) (c : Chan) (n : BitVec 10) : BitVec 32 := tget 0 n.toNat (quad s (quadOf c)).slots

/-- Thread `t` starts the program of slot `n` with g1-g10 as given (R100). -/
def startProgram (c : Chan) (t : Thr) (n : BitVec 10) (entry : Option Nat) (calib : Bool) (g : List W64)
    (s : State) : State :=
  modThr c t (fun _ => {
    run := true, calib := calib, regs := cells 0 1 (g ++ [BitVec.ofNat 64 (frameOf t)]),
    pc := fld (progSlot s c n) 0 15, slot := n, entry := entry,
    stale := staleOf s c }) s

/-- A calibration start is due and will come: the slot of CH_CAL_ENTRY is VALID (R118). MODE counts as it is now: a due
start waits through MANUAL and comes when MODE is 1 or 2 again (DESIGN CHOICE, log entry 164). -/
def calStarts (s : State) (c : Chan) : Bool :=
  (chan s c).calDue && (s.cal.mode = 1 || s.cal.mode = 2) && bit (progSlot s c (chan s c).ctl.calEntry) 15

/-- The channel engine takes no entry: a calibration start goes first, INTERRUPTED, or its quad drains (R52,
R117). -/
def takesNone (s : State) (c : Chan) : Bool :=
  calStarts s c || interrupted s c || domSt s (4 + (quadOf c).toNat) = .draining

/-- The entry that a free thread takes: a member fetch of Render before the dispatch slot (R298). -/
def nextEntry (s : State) (c : Chan) : Option Entry :=
  (s.qe.store.find? fun e => e.kind = .fetch && !e.isRem && e.stage = .ready && eCh e = c).orElse fun _ =>
    (chan s c).slot.bind fun id => entryOf s id

/-- Dispatch word (R100). The SQ and CQ of another node's entry are that node's; no frame carries them: free. A member
fetch of Render has no queue, and its word is 0 (log entry 143: the spec does not give it). -/
def dispatchWord (e : Entry) (s : State) : W64 × State :=
  match e.kind with
  | .host => (at_ 0 e.sq ||| at_ 17 e.cq, s)
  | .fetch => (0, s)
  | .remoteIn _ _ _ _ =>
    let d := draw s
    (flag 48 true ||| at_ 0 (fld d.1 0 34), d.2)

/-- ENTRY_TAKEN_BY_THREAD. -/
def entryTaken (c : Chan) (s : State) : State :=
  match nextEntry s c, freeThread s c with
  | some e, some t =>
    if !engineRuns s c || takesNone s c then s
    else
      let ws := (List.range 8).map fun i => if i = 5 then merge (eword e 5) (at_ 32 e.handle) (at_ 32 0xFFFFFFFF#32)
        else eword e i
      let s := if e.kind = .fetch then s else modChan c (fun ch => { ch with slot := none }) s
      let d := dispatchWord e s
      let s := modEntry e.id (fun e => { e with stage := .running c t }) d.2
      let s := startProgram c t (eOpcode e) (some e.id) false
        (ws ++ [d.1, BitVec.ofNat 64 (dieIndex c (eCtx e))]) s
      putWords (.scr c) (frameOf t) ws rqQe s
  | _, _ => s

/-- CALIBRATION_START. With a slot that is not VALID the block starts nothing (R118). -/
def calibrationStart (c : Chan) (s : State) : State :=
  if !engineRuns s c || !(chan s c).calDue || !(s.cal.mode = 1 || s.cal.mode = 2) then s
  else if !calStarts s c then modChan c (fun ch => { ch with calDue := false }) s
  else match freeThread s c with
    | none => s
    | some t =>
      startProgram c t (chan s c).ctl.calEntry none true (List.replicate 10 0)
        (modChan c (fun ch => { ch with calDue := false }) s)

/-! ## Completions (R336-R338) -/

/-- The completion of an entry: to the CQ that its SQ named when it was fetched (R341). -/
def cplOf (e : Entry) : Cpl :=
  { cq := e.cq, sq := e.sq, cid := eCid e, result := e.result, status := e.status, isRem := e.isRem,
    index := e.index }

/-- COMPLETION_POST: the entry has its status and its data has been written; it takes its place in the completion
buffer, or waits for a batch. -/
def completionPost (id : Nat) (s : State) : State :=
  let s := match xferOf s (.entry id) with
    | some x => if xferDone x then stepXfer (.entry id) s else s
    | none => s
  match entryOf s id with
  | none => s
  | some e =>
    if e.stage ≠ .finish || s.gctl.halted || (!e.held && 1024 ≤ cbufUsed s) then s
    else
      let s := dropEntry id { s with qe := { s.qe with held := if e.held then s.qe.held - 1 else s.qe.held } }
      let s := if eBatch e && e.status = 0 && e.sq ≠ 0 then
          { s with qe := { s.qe with cov := s.qe.cov ++
              [{ sq := e.sq, index := e.index, cid := eCid e, order := e.id, cq := e.cq }] } }
        else putCpl (cplOf e) s
      adminSettle (passFrontier e.sq s)

/-- The tail up to which the completions of a CQ are visible: the slot of its oldest write unanswered, else its tail. A
write that failed keeps it where it is. -/
def visibleTail (s : State) (q : QNum) : BitVec 16 :=
  let x := qctx s (ctxKey true q)
  if x.lost then x.visible
  else match s.qe.flying.find? (·.cq = q) with
    | some p => p.slot
    | none => x.tail

/-- Completions of a CQ may have become visible: its index moves where they have (R316). -/
def moveVisible (q : QNum) (s : State) : State :=
  let k := ctxKey true q
  let v := visibleTail s q
  if v = (qctx s k).visible then s else idxMoved k (modQctx k (fun x => { x with visible := v }) s)

/-- COMPLETION_WRITE_RESPONSE: the write of completion `n`, oldest first, of those of a CQ that are unanswered. -/
def completionResp (q : QNum) (n : Nat) (err : Bool) (s : State) : State :=
  match takeFmAt (.completion q) n s, takeNth (fun (p : Cpl) => decide (p.cq = q)) n s.qe.flying with
  | some (m, s), some (p, rest) =>
    let k := ctxKey true q
    let s := { s with qe := { s.qe with flying := rest } }
    if err then
      pumpEng 0 (halt 8 p.sq p.index (bytesWords 2 m.data) false (modQctx k (fun x => { x with lost := true }) s))
    else
      pumpEng 0 (if bit (qctx s k).w1 0 && !s.gctl.halted then post q.toNat (moveVisible q s) else moveVisible q s)
  | _, _ => s

/-- The CQ of the batch that an SQ's covered entries wait for. -/
def batchCq (s : State) (sq : QNum) : QNum := (((batchCov s sq).head?).map (·.cq)).getD 0

/-- BATCH_MAX and BATCH_TIME of the CQ of a batch. -/
def batchMax (s : State) (sq : QNum) : Nat := max 1 (fld (qctx s (ctxKey true (batchCq s sq))).w1 48 16).toNat
def batchTime (s : State) (sq : QNum) : Nat := (fld (qctx s (ctxKey true (batchCq s sq))).w1 32 16).toNat

/-- A DELETE_SQ of the SQ waits. -/
def deleteWaits (s : State) (sq : QNum) : Bool :=
  s.qe.store.any fun e => e.stage = .deleting && decide ((fld (eword e 2) 0 17 : QNum) = sq)

/-- A batch can be posted now: something is to be reported and a place of the completion buffer is free. -/
def batchPlace (s : State) (sq : QNum) : Bool :=
  !s.gctl.halted && !(batchCov s sq).isEmpty && cbufUsed s < 1024

/-- BATCH_POST. -/
def batchPost (sq : QNum) (s : State) : State :=
  if batchPlace s sq && (batchMax s sq ≤ (batchCov s sq).length || batchTime s sq = 0 || (oldestOf s sq).isNone ||
      deleteWaits s sq) then postBatch sq s
  else s

/-- BATCH_TIME_EXPIRY. -/
def batchExpiry (sq : QNum) (s : State) : State :=
  let since := (batchCov s sq).foldl (fun m c => match c.passed with
    | some t => max m (s.time - t).toNat
    | none => m) 0
  if batchPlace s sq && 1000 * batchTime s sq ≤ since then postBatch sq s else s

/-- INDEX_PUBLISH. -/
def indexPublish (k : Nat) (e : IndexStep) (s : State) : State :=
  match e with
  | .issue => idxIssue k s
  | .response err =>
    match takeFm (.index k) s with
    | none => s
    | some (_, s) =>
      let s := if err then { s with qe := { s.qe with idxError := true } } else s
      let last := (qctx s k).idx.last
      let s := modQctx k (fun x => { x with idx := { x.idx with flying := false, last := false } }) s
      let s := if last then tryStop k (stopEnd k s) else s
      pumpEng 0 (idxIssue k s)

/-! ## QPOST (R141) -/

/-- QPOST with its operands: posted, refused, or a wait for a place in the completion buffer. A QPOST that waited reads
its scratch image, and whether its CQ is enabled, again at each retry (log entry 144). -/
def qpostGo (c : Chan) (t : Thr) (w a b : W64) (s : State) : Eff :=
  if 65536 < b.toNat + 16 || b.toNat % 16 ≠ 0 then .event 2 b s
  else
    let r := readMem (.scr c) b.toNat 16 (rqThr c t) s
    let s := r.2
    let q : QNum := fld a 0 17
    if anyMark r.1 then .event 4 (BitVec.ofNat 64 (b.toNat / 64 * 64)) s
    else if !(qctx s (ctxKey true q)).enabled then .waited (rD w) 1 s
    else if 1024 ≤ cbufUsed s then .wait (.qpost a b) s
    else
      let w0 := bytesWord ((plain r.1).take 8)
      let w1 := bytesWord ((plain r.1).drop 8)
      let w1 := if statusOk (fld w1 0 8) then w1 else merge w1 0x08 0xFF
      .waited (rD w) 0 (putCpl { cq := q, sq := fld w1 32 17, cid := fld w0 32 16, result := fld w0 0 32,
                                 status := fld w1 0 8, image := some (w0, w1) } s)

def semQpost (c : Chan) (t : Thr) (w : W64) (s : State) : Eff :=
  let a := operand c t (rA w) s
  let b := operand c t (rB w) a.2
  qpostGo c t w a.1 b.1 b.2

/-- QPOST (R141, R338): posts one extra completion; sent again while it waits, it is the moment a place may be
free. -/
def execQpost (c : Chan) (t : Thr) (s : State) : Out :=
  .next (match (thr s c t).wait with
    | .qpost a b => retry c t 0x980 s fun w => qpostGo c t w a b s
    | _ => issue c t 0x980 (semQpost c t) s)

/-! ## The commands -/

/-- ENTRY_TAKEN_BY_THREAD (R89, R100). -/
def execEntryTakenByThread (c : Chan) (s : State) : Out := .next (entryTaken c s)

/-- CALIBRATION_START (R52, R118). -/
def execCalibrationStart (c : Chan) (s : State) : Out := .next (calibrationStart c s)

/-- FETCH_TURN (R331). -/
def execFetchTurn (s : State) : Out := .next (fetchTurn s)

/-- ENTRY_CHECK (R345). -/
def execEntryCheck (k : Nat) (r : MemResp) (s : State) : Out := .next (entryCheck k r s)

/-- CONTEXT_READ_DONE (R317). -/
def execContextReadDone (cq : Bool) (q : QNum) (r : MemResp) (s : State) : Out :=
  .next (ctxReadDone (ctxKey cq q) r s)

/-- CONTEXT_WRITE_RESPONSE (R317). -/
def execContextWriteResponse (cq : Bool) (q : QNum) (r : WriteResp) (s : State) : Out :=
  .next (ctxWriteResp (ctxKey cq q) r.nth r.err s)

/-- FRAGMENT_TABLE_READ_DONE (R329). -/
def execFragmentTableReadDone (id : Nat) (r : MemResp) (s : State) : Out := .next (fragDone id r s)

/-- ENTRY_BUFFER_ALLOC (R328). -/
def execEntryBufferAlloc (id : Nat) (s : State) : Out := .next (bufferAlloc id s)

/-- ENTRY_DISPATCH (R89, R333, R485). -/
def execEntryDispatch (id : Nat) (s : State) : Out := .next (entryDispatch id s)

/-- COMPLETION_POST (R336). -/
def execCompletionPost (id : Nat) (s : State) : Out := .next (completionPost id s)

/-- COMPLETION_WRITE_RESPONSE (R336). -/
def execCompletionWriteResponse (q : QNum) (r : WriteResp) (s : State) : Out := .next (completionResp q r.nth r.err s)

/-- BATCH_POST (R337). -/
def execBatchPost (sq : QNum) (s : State) : Out := .next (batchPost sq s)

/-- BATCH_TIME_EXPIRY (R337). -/
def execBatchTimeExpiry (sq : QNum) (s : State) : Out := .next (batchExpiry sq s)

/-- INDEX_PUBLISH (R316). -/
def execIndexPublish (cq : Bool) (q : QNum) (e : IndexStep) (s : State) : Out :=
  .next (indexPublish (ctxKey cq q) e s)

end Sys2Proof.Machine
end

