-- ==== Sys2Proof/Machine/Gf.lean ====
section
/-! DEFINITION. The field GF(2^8) of Render's code and the erasure solve (R282, R284). -/

namespace Sys2Proof.Machine

open Sys2Proof

/-- Multiplication by α = 0x02, polynomial 0x11D. -/
def gfTwice (a : Byte) : Byte := if a.getLsbD 7 then (a <<< 1) ^^^ 0x1D#8 else a <<< 1

/-- gmul: multiplication in GF(2^8). -/
def gfMul (a b : Byte) : Byte :=
  ((List.range 8).foldl (fun (p : Byte × Byte) i =>
    (if b.getLsbD i then p.1 ^^^ p.2 else p.1, gfTwice p.2)) (0, a)).1

/-- Powers. -/
def gfPow (a : Byte) : Nat → Byte
  | 0 => 1
  | n + 1 => gfMul a (gfPow a n)

/-- α^n, the exponent modulo 255. -/
def gfAlpha (n : Nat) : Byte := gfPow 2 (n % 255)

/-- The inverse of a non-zero element. -/
def gfInv (a : Byte) : Byte := gfPow a 254

/-- `p(z) · (z + x)` for a polynomial given by its coefficients, lowest first. -/
def polyStep (x : Byte) (p : List Byte) : List Byte :=
  List.zipWith (· ^^^ ·) ((p.map (gfMul x)) ++ [0]) (0 :: p)

/-- Coefficients of the polynomial that is 1 at `x` and 0 at the other points: row of the inverse of the
Vandermonde system of R284. -/
def lagrange (xs : List Byte) (x : Byte) : List Byte :=
  let others := xs.filter (· ≠ x)
  let num := others.foldl (fun p y => polyStep y p) [1]
  let den := others.foldl (fun d y => gfMul d (x ^^^ y)) 1
  num.map (gfMul (gfInv den))

/-- Sum of products. -/
def gfDot (a b : List Byte) : Byte := (a.zip b).foldl (fun s p => s ^^^ gfMul p.1 p.2) 0

/-- The erased symbols x_1 … x_e at positions `ts` for the syndromes S[0] … S[m-1] (R284). -/
def gfSolve (ts : List Nat) (synd : List Byte) : List Byte :=
  let xs := ts.map gfAlpha
  xs.map fun x => gfDot (lagrange xs x) synd

/-- The residual check of R284 flags the symbol. -/
def gfFlag (ts : List Nat) (synd : List Byte) : Bool :=
  let xs := gfSolve ts synd
  synd.zipIdx.any fun (s, i) =>
    ts.length ≤ i && gfDot xs (ts.map fun t => gfAlpha (i * t)) ≠ s

end Sys2Proof.Machine
end

