-- ==== Sys2Proof/Machine/Render.lean ====
section
/-! DEFINITION. Render: stripe contexts, the commands of RCMD, member fetches, and the RND_ registers
(R138, R282-R309). -/

namespace Sys2Proof.Machine

open Sys2Proof

def rctx (s : State) (i : Nat) : RCtx := tget {} i s.rnd.ctx
def modRctx (i : Nat) (f : RCtx → RCtx) (s : State) : State :=
  { s with rnd := { s.rnd with ctx := tmod {} i f s.rnd.ctx } }

/-! ## The tag (R286) -/

def tagK (g : W64) : Nat := (fld g 10 6).toNat
def tagM (g : W64) : Nat := (fld g 8 2).toNat + 1
def tagU (g : W64) : Nat := (fld g 4 4).toNat + 1
/-- Members of the stripe. -/
def tagN (g : W64) : Nat := tagK g + tagM g

/-- A tag that keeps R285 and R286. Its OWNER is not compared with this node's number (DESIGN CHOICE, log entry 174). -/
def tagOk (g : W64) : Bool := fld g 0 4 = 5 && 1 ≤ tagK g && tagN g ≤ 64 && fld g 32 32 ≠ 0

/-- Write sequence of a codeword, ATTEMPT 0 (R287). -/
def wseq (pos page cw : Nat) : BitVec 32 := BitVec.ofNat 32 (pos * 2 ^ 26 + page * 2 ^ 22 + cw * 2 ^ 20)

/-- The status word of RD (R290). -/
def rstat (value : Nat) (code : Byte) : W64 := at_ 32 (BitVec.ofNat 32 value) ||| at_ 0 code

/-- Pages that the buffers of a context hold: one with ONEPAGE set (R289). -/
def rPages (x : RCtx) : Nat := if x.onePage.isSome then 1 else tagU x.tag

/-- Size that a member's buffer needs. -/
def rBytes (x : RCtx) : Nat := rPages x * 16640

/-! ## Codewords of a member (R283) -/

/-- Buffer offsets of the codewords of `n` pages. -/
def cwOffsets (n : Nat) : List Nat := (List.range (4 * n)).map fun i => 4160 * i

/-- Bytes 0-4,143 of a codeword in a buffer. -/
def cwCode (h : BitVec 32) (off : Nat) (s : State) : List (Byte × Bool) × State := bufRead h off 4144 rqRender s

/-- The block-reserved bytes: tag, write sequence and CRC-32 over bytes 0-4,155 (R286, R287, R292). -/
def trailer (g : W64) (ws : BitVec 32) (code : List Byte) : List Byte :=
  let b := wordBytes 8 g ++ wordBytes 4 (ws.setWidth 64)
  b ++ wordBytes 4 ((crc32 (code ++ b)).setWidth 64)

/-- Marks of the 65 chunks of a codeword, read from its bytes. -/
def chunkMarks (bs : List (Byte × Bool)) : List Bool := (List.range 65).map fun i => anyMark ((bs.drop (64 * i)).take 64)

/-- A solved codeword written whole, its chunks marked (R291, R294). -/
def writeCw (h : BitVec 32) (off : Nat) (code : List Byte) (g : W64) (ws : BitVec 32) (marks : List Bool) (s : State) :
    State :=
  bufWrite h off ((code ++ trailer g ws code).zipIdx.map fun (b, i) => (b, marks.getD (i / 64) false)) rqRender s

/-! ## Accumulation (R284, R291) -/

/-- Contribution of a member at position `t` to syndrome `i`. -/
def term (i t : Nat) (bs : List Byte) : List Byte := bs.map (gfMul (gfAlpha (i * t)))

/-- One codeword of a member into the accumulators of a WRITE context: its parity buffers (R292). -/
def accWrite (x : RCtx) (t off : Nat) (bs : List (Byte × Bool)) (s : State) : State :=
  x.par.zipIdx.foldl (fun s (h, i) =>
    let r := cwCode h off s
    bufWrite h off ((r.1.zip (bs.zip (term i t (plain bs)))).map fun (a, b, v) => (a.1 ^^^ v, a.2 || b.2))
      rqRender r.2) s

/-- One codeword of a member into the syndromes of a READ context, at symbol index `sym`. -/
def accRead (id t off sym : Nat) (bs : List (Byte × Bool)) (s : State) : State :=
  modRctx id (fun x => { x with
    synd := x.synd.zipIdx.map fun (l, i) =>
      l.take sym ++ xorBytes ((l.drop sym).take bs.length) (term i t (plain bs)) ++ l.drop (sym + bs.length),
    marks := (chunkMarks bs).zipIdx.foldl (fun m (b, k) =>
      if b then tput (off / 64 + k) true m else m) x.marks }) s

/-- The codewords of a buffer from `src` into the accumulators from `dst`. -/
def accPages (id t : Nat) (h : BitVec 32) (src dst pages : Nat) (s : State) : State :=
  (cwOffsets pages).foldl (fun s o =>
    let r := cwCode h (src + o) s
    let x := rctx r.2 id
    if x.phase = .read then accRead id t (dst + o) ((dst + o) / 4160 * 4144) r.1 r.2
    else accWrite x t (dst + o) r.1 r.2) s

/-- Position `t` is accumulated, its home node noted. -/
def noteAcc (id t : Nat) (node : BitVec 16) : State → State :=
  modRctx id fun x => { x with accM := setBit x.accM t true, node := tset 0 t node x.node }

/-- A NODE field as stored: this node is 0 (R334). -/
def homeNode (s : State) (n : BitVec 16) : BitVec 16 := if isLocal s n then 0 else n

/-! ## OPEN (R289, R292, R299) -/

/-- The FREE contexts. -/
def freeCtxs (s : State) : List Nat := (List.range 1024).filter fun i => (rctx s i).phase = .free

/-- A FREE context: the spec leaves open which (log entry 2). -/
def takeFree (s : State) : Option (Nat × State) :=
  let l := freeCtxs s
  if l.isEmpty then none
  else
    let d := draw s
    some (l.getD (d.1.toNat % l.length) 0, d.2)

/-- The WRITE context of a tag. -/
def findWrite (s : State) (g : W64) : Option Nat :=
  (s.rnd.ctx.find? fun e => (e.2.phase = .acc || e.2.phase = .solved) && e.2.tag = g).map (·.1)

/-- `m` buffers of one pool. -/
def popBuffers (p : Nat) : Nat → State → List (BitVec 32) × State
  | 0, s => ([], s)
  | m + 1, s =>
    let b := popBuffer p s
    let r := popBuffers p m b.2
    (b.1 :: r.1, r.2)

/-- A parity buffer is zeroed. -/
def zeroBuffer (h : BitVec 32) (s : State) : State :=
  bufWrite h 0 (clean (List.replicate (bufSize h) 0)) rqRender s

/-- OPEN of a WRITE context: its status word, or none while the pool for its parity buffers serves no request (R31,
R386). -/
def openWrite (g : W64) (s : State) : Option W64 × State :=
  match findWrite s g with
  | some i => (some (rstat i 0), s)
  | none =>
    match takeFree s with
    | none => (some (rstat 0 2), s)
    | some (i, s') =>
      match servedBy s' s'.hawk.waiting (poolFor (tagU g * 16640)) true (tagM g) with
      | .nothing => (some (rstat 0 3), s)
      | .busy => (none, s)
      | .pool p =>
        let b := popBuffers p (tagM g) s'
        let s := b.1.foldl (fun s h => zeroBuffer h s) b.2
        (some (rstat i 0), modRctx i (fun _ => { phase := .acc, tag := g, par := b.1 }) s)

def openRead (g b : W64) (s : State) : W64 × State :=
  let one := if bit b 1 then some (fld b 2 4) else none
  let list := fld b 24 32
  let bad := (bit b 1 && tagU g ≤ (fld b 2 4).toNat) || (list ≠ 0 && bufSize list < 8 * tagN g * tagU g)
  if bad then (rstat 0 6, s)
  else match takeFree s with
    | none => (rstat 0 2, s)
    | some (i, s) =>
      let x : RCtx := { phase := .read, tag := g, list := if list = 0 then none else some list,
                        link := findWrite s g, onePage := one }
      let x := { x with synd := List.replicate (tagM g) (List.replicate (rPages x * 16576) 0) }
      (rstat i 0, modRctx i (fun _ => x) s)

def rOpen (a b : W64) (s : State) : Option W64 × State :=
  if !tagOk a then (some (rstat 0 6), s)
  else if bit b 0 then
    let r := openRead a b s
    (some r.1, r.2)
  else openWrite a s

/-! ## ACCUMULATE, PARITY_OUT, RELEASE, CLOSE -/

/-- ACCUMULATE. As in every command, VALUE is 0 where CODE tells of an error, and the checks are made in this order
(DESIGN CHOICE, log entry 165). -/
def rAccumulate (a b : W64) (s : State) : W64 × State :=
  let i := (fld a 0 10).toNat
  let t := (fld a 16 6).toNat
  let x := rctx s i
  let h := fld b 0 32
  if x.phase = .free then (rstat 0 4, s)
  else if x.phase = .solved then (rstat 0 5, s)
  else if tagN x.tag ≤ t || (x.phase = .acc && t < tagM x.tag) || bufSize h < rBytes x then (rstat 0 6, s)
  else if bit x.accM t then (rstat 0 7, s)
  else
    let s := noteAcc i t (homeNode s (fld a 32 16)) (accPages i t h 0 0 (rPages x) s)
    (rstat (popCount (rctx s i).accM) 0, s)

/-- Columns of several byte lists. -/
def columns (n : Nat) (ls : List (List Byte)) : List (List Byte) := (List.range n).map fun k => ls.map (·.getD k 0)

/-- The accumulators of a WRITE context at a codeword. -/
def accReads (off : Nat) : List (BitVec 32) → State → List (List (Byte × Bool)) × State
  | [], s => ([], s)
  | h :: hs, s =>
    let r := cwCode h off s
    let t := accReads off hs r.2
    (r.1 :: t.1, t.2)

/-- Chunks marked in any of the accumulators of a codeword. -/
def anyMarks (ls : List (List (Byte × Bool))) : List Bool :=
  (List.range 65).map fun k => ls.any fun l => (chunkMarks l).getD k false

/-- The solve of a WRITE context: every codeword of every parity buffer (R284, R292). -/
def solveWrite (i : Nat) (s : State) : State :=
  let x := rctx s i
  let ts := List.range (tagM x.tag)
  let s := (cwOffsets (tagU x.tag)).foldl (fun s off =>
    let r := accReads off x.par s
    let cols := (columns 4144 (r.1.map plain)).map (gfSolve ts)
    let marks := anyMarks r.1
    let s := x.par.zipIdx.foldl (fun s (h, j) =>
      writeCw h off (cols.map (·.getD j 0)) x.tag (wseq j (off / 16640) (off / 4160 % 4)) marks s) r.2
    if marks.any id then { s with rnd := { s.rnd with sMarked := true } } else s) s
  modRctx i (fun x => { x with phase := .solved }) s

/-- Every data member is accumulated. -/
def allData (x : RCtx) : Bool := (List.range (tagK x.tag)).all fun d => bit x.accM (tagM x.tag + d)

def rParityOut (a : W64) (s : State) : W64 × State :=
  let i := (fld a 0 10).toNat
  let r := (fld a 16 2).toNat
  let x := rctx s i
  let h := (x.par.getD r 0).toNat
  match x.phase with
  | .free => (rstat 0 4, s)
  | .read => (rstat 0 5, s)
  | .solved => if tagM x.tag ≤ r then (rstat 0 6, s) else (rstat h 0, s)
  | .acc =>
    if tagM x.tag ≤ r then (rstat 0 6, s)
    else if !allData x then (rstat 0 1, s)
    else (rstat h 0, solveWrite i s)

def rRelease (a : W64) (s : State) : W64 × State :=
  let i := (fld a 0 10).toNat
  let t := (fld a 16 6).toNat
  let x := rctx s i
  if x.phase = .free then (rstat 0 4, s)
  else if x.phase = .read then (rstat 0 5, s)
  else if tagN x.tag ≤ t then (rstat 0 6, s)
  else if bit x.repM t then (rstat 0 7, s)
  else
    let s := modRctx i (fun x => { x with repM := setBit x.repM t true,
                                          failM := setBit x.failM t (bit a 24) }) s
    (rstat (popCount (rctx s i).repM) 0, s)

/-- Every position has been reported OK (R293). -/
def allOk (x : RCtx) : Bool := (List.range (tagN x.tag)).all fun t => bit x.repM t && !bit x.failM t

def rClose (a b : W64) (s : State) : W64 × State :=
  let i := (fld a 0 10).toNat
  let x := rctx s i
  match x.phase with
  | .free => (rstat 0 4, s)
  | .read => (rstat 0 0, modRctx i (fun _ => {}) s)
  | _ =>
    if !allOk x && !bit b 0 then (rstat 0 1, s)
    else
      let s := if allOk x then s else { s with rnd := { s.rnd with sForced := true } }
      (rstat 0 0, x.par.foldl (fun s h => freeBuffer h none s) (modRctx i (fun _ => {}) s))

/-! ## REBUILD (R294, R298, R299) -/

/-- The linked WRITE context supplies the parity positions. -/
def supplies (s : State) (x : RCtx) : Option RCtx :=
  match x.link with
  | some j => if (rctx s j).phase = .solved && (rctx s j).tag = x.tag then some (rctx s j) else none
  | none => none

/-- The held parity is accumulated in place of a fetch (R299). -/
def takeParity (i : Nat) (s : State) : State :=
  let x := rctx s i
  match supplies s x with
  | none => s
  | some w =>
    let src := match x.onePage with
      | some p => 16640 * p.toNat
      | none => 0
    w.par.zipIdx.foldl (fun s (h, t) =>
      if bit (rctx s i).accM t then s
      else noteAcc i t 0 (accPages i t h src 0 (rPages x) s)) s

/-- Entry of the location list for position `t` and page `p` (R297). -/
def listEntry (h : BitVec 32) (u t p : Nat) (s : State) : W64 × State :=
  let r := bufRead h (8 * (t * u + p)) 8 rqRender s
  (bytesWord (plain r.1), r.2)

/-- The page can be fetched: its channel is there, or its node is admitted. -/
def canFetch (s : State) (e : W64) : Bool :=
  if isLocal s (fld e 48 16) then (fld e 42 6).toNat < nChan s
  else s.lath.nodes.any fun n => n.2.node = fld e 48 16 && n.2.st = 1

/-- Words of the internal READ entry for a list entry: META 1, no location list, no tag. -/
def fetchWords (e : W64) : List W64 :=
  [at_ 50 2#2 ||| at_ 0 0x010#10, e &&& 0xFFFFFFF000FFFFFF, 1, 0, 0, at_ 0 16640#32, 0, 0]

/-- A fetch of page `p` of position `t` for context `i` is requested. -/
def requestFetch (i t p : Nat) (e : W64) (s : State) : State :=
  let id := s.qe.nextId
  let tmo := max 1 s.rnd.fetchTmo.toNat
  let ent : Entry := { id := id, kind := .fetch, words := fetchWords e, stage := .needBuf,
                       isRem := !isLocal s (fld e 48 16) }
  { s with
    qe := { s.qe with nextId := id + 1, store := s.qe.store ++ [ent] },
    rnd := { s.rnd with fetch := s.rnd.fetch ++
      [{ ctx := i, pos := t, page := p, entry := id, due := s.time + BitVec.ofNat 64 (tmo * 1000),
         node := homeNode s (fld e 48 16) }] } }

/-- Pages of a context: all of them, or PAGE. -/
def ctxPages (x : RCtx) : List Nat :=
  match x.onePage with
  | some p => [p.toNat]
  | none => List.range (tagU x.tag)

/-- The list entries of a position. -/
def posEntries (h : BitVec 32) (u t : Nat) : List Nat → State → List (Nat × W64) × State
  | [], s => ([], s)
  | p :: ps, s =>
    let r := listEntry h u t p s
    let rs := posEntries h u t ps r.2
    ((p, r.1) :: rs.1, rs.2)

/-- The fetches of one position: all its VALID pages, or none. -/
def fetchPos (i : Nat) (x : RCtx) (h : BitVec 32) (t : Nat) (s : State) : State :=
  let r := posEntries h (tagU x.tag) t (ctxPages x) s
  let v := r.1.filter fun q => bit q.2 24
  if v.isEmpty || !v.all (fun q => canFetch r.2 q.2) then r.2
  else v.foldl (fun s q => requestFetch i t q.1 q.2 s) r.2

/-- The fetches of a first REBUILD. -/
def startFetches (i target : Nat) (s : State) : State :=
  let x := rctx s i
  let s := modRctx i (fun x => { x with fetched := true }) s
  match x.list with
  | none => s
  | some h => (List.range (tagN x.tag)).foldl (fun s t =>
      if bit x.accM t || t = target then s else fetchPos i x h t s) s

/-- The positions erased. -/
def erased (x : RCtx) : List Nat := (List.range (tagN x.tag)).filter fun t => !bit x.accM t

/-- One codeword of the target: its bytes, and the chunks to mark. -/
def solveCw (x : RCtx) (ts : List Nat) (j k : Nat) : List Byte × List Bool :=
  let cols := columns 4144 (x.synd.map fun l => (l.drop (4144 * k)).take 4144)
  let flags := cols.map (gfFlag ts)
  (cols.map fun c => (gfSolve ts c).getD j 0, (List.range 65).map fun n => ((flags.drop (64 * n)).take 64).any id)

/-- The solve of a READ context into the destination buffer: output chunks marked, and whether any symbol was
flagged. -/
def solveRead (x : RCtx) (ts : List Nat) (target : Nat) (h : BitVec 32) : List Nat → State → Nat × Bool × State
  | [], s => (0, false, s)
  | k :: ks, s =>
    let j := ts.findIdx (· = target)
    let r := solveCw x ts j k
    let marks := (List.range 65).map fun n => r.2.getD n false || tget false (65 * k + n) x.marks
    let page := match x.onePage with
      | some p => p.toNat
      | none => k / 4
    let s := writeCw h (4160 * k) r.1 x.tag (wseq target page (k % 4)) marks s
    let t := solveRead x ts target h ks s
    (marks.countP id + t.1, r.2.any id || t.2.1, t.2.2)

/-- A REBUILD whose fetches have ended. -/
def rSolve (i target : Nat) (h : BitVec 32) (s : State) : W64 × State :=
  let x := rctx s i
  let ts := erased x
  if tagM x.tag < ts.length then (rstat 0 8, s)
  else
    let r := solveRead x ts target h (List.range (4 * rPages x)) s
    let s := if 0 < r.1 then { r.2.2 with rnd := { r.2.2.rnd with sMarked := true } } else r.2.2
    (rstat r.1 (if r.2.1 then 9 else if 0 < r.1 then 10 else 0), s)

/-- Fetches of a context that have not ended. -/
def fetchesLeft (s : State) (i : Nat) : Bool := s.rnd.fetch.any fun f => f.ctx = i && f.fin.isNone

/-- REBUILD: a status word, or none while its fetches run. -/
def rRebuild (a b : W64) (s : State) : Option W64 × State :=
  let i := (fld a 0 10).toNat
  let t := (fld a 16 6).toNat
  let h := fld b 0 32
  let x := rctx s i
  let done := fun (p : W64 × State) => (some p.1, p.2)
  if x.phase = .free then (some (rstat 0 4), s)
  else if x.phase ≠ .read then (some (rstat 0 5), s)
  else if tagN x.tag ≤ t || bit x.accM t || bufSize h < rBytes x || ((supplies s x).isSome && t < tagM x.tag) then
    (some (rstat 0 6), s)
  else
    let s := takeParity i s
    if x.fetched then done (rSolve i t h s)
    else
      let s := startFetches i t s
      if fetchesLeft s i then (none, s) else done (rSolve i t h s)

/-! ## Service (R295) -/

/-- Status word for a command while STG is off or in retention (R290). -/
def rOffline : W64 := rstat 0 11

/-- Command `k` of RCMD in service: a status word, or none for a REBUILD or an OPEN that waits. -/
def rServe (k : Nat) (a b : W64) (s : State) : Option W64 × State :=
  let done := fun (p : W64 × State) => (some p.1, p.2)
  if !stgOn s then (some rOffline, s)
  else match k with
    | 0 => rOpen a b s
    | 1 => done (rAccumulate a b s)
    | 2 => done (rParityOut a s)
    | 3 => rRebuild a b s
    | 4 => done (rRelease a s)
    | _ => done (rClose a b s)

/-- RCMD with its operands at its turn. -/
def rGo (k : Nat) (c : Chan) (t : Thr) (w a b : W64) (s : State) : Eff :=
  match rServe k a b s with
  | (some v, s) => .waited (rD w) v s
  | (none, s) => .wait (.rebuild (rD w) a b) { s with rnd := { s.rnd with busy := some ⟨c, t, k, a, b⟩ } }

/-- RCMD: served at once, or queued behind a command in service that waits. The first 64 of the list are Render's queue. Those behind
them wait in their instruction for a place (R31, R295). -/
def semRcmd (k : Nat) (c : Chan) (t : Thr) (w : W64) (s : State) : Eff :=
  let a := operand c t (rA w) s
  let b := operand c t (rB w) a.2
  if b.2.rnd.busy.isNone then rGo k c t w a.1 b.1 b.2
  else .wait (.unit_ a.1 b.1 0) { b.2 with rnd := { b.2.rnd with queue := b.2.rnd.queue ++ [⟨c, t, k, a.1, b.1⟩] } }

/-- A thread still waits for its command: a halt ends threads, and the commands they gave take effect all the same
(R346). -/
def rWaits (m : RCmd) (s : State) : Bool :=
  match (thr s m.c m.t).wait with
  | .unit_ _ _ _ | .rebuild _ _ _ => true
  | _ => false

/-- A queued command is served. -/
def rNext (m : RCmd) (s : State) : State :=
  if rWaits m s then applyEff m.c m.t (rGo m.k m.c m.t (waitWord s m.c m.t) m.a m.b s)
  else match rServe m.k m.a m.b s with
    | (some _, s) => s
    | (none, s) => { s with rnd := { s.rnd with busy := some m } }

/-- The commands that wait are served in their order until one of them waits. -/
def renderNext : List RCmd → State → State
  | [], s => s
  | m :: rest, s =>
    if s.rnd.busy.isSome then s
    else renderNext rest (rNext m { s with rnd := { s.rnd with queue := rest } })

/-- The command in service has its status word `v`: its thread goes on, and then the queue. -/
def renderDone (m : RCmd) (v : W64) (s : State) : State :=
  let s := { s with rnd := { s.rnd with busy := none } }
  let s := if rWaits m s then applyEff m.c m.t (.waited (rD (waitWord s m.c m.t)) v s) else s
  renderNext s.rnd.queue s

/-- The command in service goes on: a REBUILD solves once its fetches have ended, an OPEN is tried again. -/
def renderOn (s : State) : State :=
  match s.rnd.busy with
  | none => s
  | some m =>
    if m.k = 0 then
      match rServe 0 m.a m.b s with
      | (some v, s) => renderDone m v s
      | (none, s) => s
    else
      let i := (fld m.a 0 10).toNat
      if fetchesLeft s i then s
      else
        let s := { s with rnd := { s.rnd with fetch := s.rnd.fetch.filter fun f => f.ctx ≠ i } }
        let r := rSolve i (fld m.a 16 6).toNat (fld m.b 0 32) s
        renderDone m r.1 r.2

/-! ## Fetches (R298) -/

/-- A READ whose page is accumulated: OK (erased codewords among them) or OK_SOFT. -/
def fetchGood (st : Byte) : Bool := st = 0x00 || st = 0x01

/-- Once every fetch of a position has ended: its pages are accumulated when all are good, and its buffers are
freed. Pages of the position that were not VALID and so not fetched count as zeros (DESIGN CHOICE, log entry 166). -/
def settlePos (i t : Nat) (s : State) : State :=
  let fs := s.rnd.fetch.filter fun f => f.ctx = i && f.pos = t
  if fs.any fun f => f.fin.isNone then s
  else
    let x := rctx s i
    let one := x.onePage.isSome
    let good := fs.all fun f => f.fin = some true
    let node := (fs.head?.map (·.node)).getD 0
    let s := if good then
        noteAcc i t node (fs.foldl (fun s f => match f.done with
          | some (_, h) => accPages i t h 0 (if one then 0 else 16640 * f.page) 1 s
          | none => s) s)
      else s
    fs.foldl (fun s f => match f.done with
      | some (_, h) => freeEntryBuffer h s
      | none => s) s

/-- A fetch has ended: `good`, or an erasure. -/
def fetchOver (i t p : Nat) (good : Bool) (s : State) : State :=
  let s := { s with rnd := { s.rnd with
    fetch := mapIf (fun f => f.ctx = i && f.pos = t && f.page = p) (fun f => { f with fin := some good }) s.rnd.fetch } }
  renderOn (settlePos i t s)

/-- The fetch named, if it has not ended. -/
def fetchOf (s : State) (i t p : Nat) : Option RFetch :=
  s.rnd.fetch.find? fun f => f.ctx = i && f.pos = t && f.page = p && f.fin.isNone

/-- RENDER_FETCH_END: its READ has ended. -/
def fetchEnd (i t p : Nat) (s : State) : State :=
  match fetchOf s i t p with
  | some f => match f.done with
    | some (st, _) => fetchOver i t p (fetchGood st) s
    | none => s
  | none => s

/-! ## Departure of a node (R304) -/

/-- Positions of a context whose home node is `n`. -/
def lostAt (x : RCtx) (n : BitVec 16) : W64 :=
  (List.range 64).foldl (fun m t => if bit x.accM t && tget 0 t x.node = n then setBit m t true else m) 0

/-- A node has left: the contexts with accumulated members there are degraded. -/
def renderDepart (n : BitVec 16) (s : State) : State :=
  let hit := fun (x : RCtx) => x.phase ≠ .free && n ≠ 0 && lostAt x n ≠ 0
  { s with rnd := { s.rnd with
    sDeg := s.rnd.sDeg || s.rnd.ctx.any (fun e => hit e.2),
    ctx := s.rnd.ctx.map fun e => (e.1,
      if hit e.2 then { e.2 with lostM := e.2.lostM ||| lostAt e.2 n, degraded := true } else e.2) } }

/-! ## Registers (R305-R309) -/

def phaseCode : RPhase → BitVec 2
  | .free => 0
  | .acc => 1
  | .solved => 2
  | .read => 3

/-- Word `w` of RND_CTX. LINKED shows from the OPEN on that links (DESIGN CHOICE, log entry 168). -/
def rctxWord (x : RCtx) (w : Nat) : W64 :=
  if x.phase = .free then 0
  else match w with
    | 0 => x.tag
    | 1 => at_ 62 (phaseCode x.phase) ||| flag 61 x.degraded ||| flag 60 x.list.isSome ||| flag 59 x.link.isSome |||
           at_ 49 (BitVec.ofNat 10 (x.link.getD 0)) ||| at_ 24 (BitVec.ofNat 7 (popCount x.accM)) |||
           at_ 16 (BitVec.ofNat 7 (popCount x.repM)) ||| at_ 8 (BitVec.ofNat 7 (popCount x.failM))
    | 2 => x.accM
    | 3 => x.repM
    | 4 => x.failM
    | 5 => x.lostM
    | 6 => at_ 32 (x.par.getD 1 0) ||| at_ 0 (x.par.getD 0 0)
    | _ => at_ 32 (x.par.getD 3 0) ||| at_ 0 (x.par.getD 2 0)

/-- Register at byte offset `o` of the RND_ range; the range reads 0 while STG is off (R62). -/
def rndRead (o : Nat) (s : State) : W64 :=
  let r := s.rnd
  match o with
  | 0x00 => at_ 0 r.fetchTmo
  | 0x08 => at_ 32 (BitVec.ofNat 11 (r.ctx.countP fun e => e.2.phase ≠ .free)) |||
            at_ 16 (BitVec.ofNat 16 (r.fetch.countP fun f => f.fin.isNone)) |||
            at_ 0 (BitVec.ofNat 7 (min 64 r.queue.length))
  | 0x10 => flag 3 r.sTmo ||| flag 2 r.sDeg ||| flag 1 r.sForced ||| flag 0 r.sMarked
  | 0x18 => at_ 0 r.sel
  | _ => if 0x40 ≤ o ∧ o < 0x80 then rctxWord (rctx s r.sel.toNat) ((o - 0x40) / 8) else 0

def rndWrite (o : Nat) (v act : W64) (s : State) : State :=
  let r := s.rnd
  match o with
  | 0x00 => { s with rnd := { r with fetchTmo := fld v 0 32 } }
  | 0x10 => { s with rnd := { r with sTmo := r.sTmo && !bit act 3, sDeg := r.sDeg && !bit act 2,
                                     sForced := r.sForced && !bit act 1, sMarked := r.sMarked && !bit act 0 } }
  | 0x18 => { s with rnd := { r with sel := fld v 0 10 } }
  | _ => s

/-! ## The commands -/

/-- OPEN (R289). -/
def execOpenCtx (c : Chan) (t : Thr) (s : State) : Out := .next (issue c t 0x880 (semRcmd 0 c t) s)

/-- ACCUMULATE (R291). -/
def execAccumulate (c : Chan) (t : Thr) (s : State) : Out := .next (issue c t 0x881 (semRcmd 1 c t) s)

/-- PARITY_OUT (R292). -/
def execParityOut (c : Chan) (t : Thr) (s : State) : Out := .next (issue c t 0x882 (semRcmd 2 c t) s)

/-- REBUILD (R294). -/
def execRebuild (c : Chan) (t : Thr) (s : State) : Out := .next (issue c t 0x883 (semRcmd 3 c t) s)

/-- RELEASE (R293). -/
def execRelease (c : Chan) (t : Thr) (s : State) : Out := .next (issue c t 0x884 (semRcmd 4 c t) s)

/-- CLOSE (R293). -/
def execCloseCtx (c : Chan) (t : Thr) (s : State) : Out := .next (issue c t 0x885 (semRcmd 5 c t) s)

/-- RENDER_FETCH_END (R298): the READ of a member's page has ended. -/
def execRenderFetchEnd (id : BitVec 10) (pos : Ctx) (pg : BitVec 4) (s : State) : Out :=
  .next (fetchEnd id.toNat pos.toNat pg.toNat s)

end Sys2Proof.Machine
end

