-- ==== Sys2Proof/Machine/Admin.lean ====
section
/-! DEFINITION. Admin commands (R322-R325, R341-R343), aborts (R145, R227, R229, R324, R488), and the timeout of a
member fetch (R298). -/

namespace Sys2Proof.Machine

open Sys2Proof

/-! ## Aborts -/

/-- A wait without a bound of its own ends early with the result of R145; ABORT follows. A HALLOC with WAIT clear waits
only for a busy pool, and that wait ends by its own rule. -/
def endUnbounded (c : Chan) (t : Thr) (s : State) : State :=
  let w := waitWord s c t
  match (thr s c t).wait with
  | .time rd _ => applyEff c t (.waited rd s.time s)
  | .event rd _ =>
    applyEff c t (.waited rd 0 (modChan c (fun ch => { ch with evq := ch.evq.filter (· ≠ t) }) s))
  | .hawk rd =>
    if s.hawk.waiting.any fun r => r.who = .thread c t && r.wait then
      applyEff c t (.waited rd 0 (dropWaiter (.thread c t) s))
    else s
  | .move ra rb _ n _ _ =>
    if streamMove ra rb then applyEff c t (.waited (rD w) (BitVec.ofNat 64 n) (unlockPop c t (fld ra 0 2).toNat s))
    else s
  | .qpost _ _ => applyEff c t (.waited (rD w) 2 s)
  | _ => recognise c t s

/-- An abort wins against a running program: ABORT is pending, its routine is to abort, an unbounded wait ends. -/
def abortThread (c : Chan) (t : Thr) (s : State) : State :=
  endUnbounded c t (modThr c t (fun th => { th with
    abortP := true, aborted := true, rtn := th.rtn.map fun r => { r with abortP := true } }) s)

/-- An abort of an entry that runs on this node, decided under R227 and R229: whether it wins. -/
def abortEntry (id : Nat) (s : State) : Bool × State :=
  match entryOf s id with
  | none => (false, s)
  | some e =>
    if e.aborted || (!e.isRem && !powered s (4 + (quadOf (eCh e)).toNat)) then (false, s)
    else
      let s' := modEntry id (fun e => { e with aborted := true }) s
      match e.stage with
      | .running c t => if (thr s c t).ending.isSome then (false, s) else (true, abortThread c t s')
      | .inSlot => (true, failEntry id 0x08 0 (modChan (eCh e) (fun ch => { ch with slot := none }) s'))
      | .waitBuf => (true, failEntry id 0x08 0 (dropWaiter (.entry id) s'))
      | .dataIn => (true, if e.kind = .host then s' else failEntry id 0x08 0 s')
      | .fragRead | .needBuf | .ready | .waitWake | .waitStg => (true, failEntry id 0x08 0 s')
      | _ => (false, s)

/-- ABORT_LATE, or OK. -/
def abortOutcome (id : Nat) (won : Bool) (s : State) : State := finishEntry id (if won then 0 else 0x20) 0 s

/-- An abort of an entry on another node is sent there, unless one is pending (R229, R488). -/
def abortRemote (id : Nat) (tag : BitVec 12) (s : State) : State :=
  match s.lath.table.find? (·.1 = tag.toNat) with
  | none => abortOutcome id false s
  | some (k, r) =>
    if r.abort.isSome then abortOutcome id false s
    else
      let s := { s with lath := { s.lath with table := tput k { r with abort := some id } s.lath.table } }
      sendNode r.node (mkFrame s 6 false r.node tag 0 0 []) (modEntry id (fun e => { e with stage := .aborting }) s)

/-- RENDER_FETCH_TIMEOUT (R298): no result within FETCH_TMO: the position is an erasure, and the fetch is aborted. -/
def fetchTimeout (i t p : Nat) (s : State) : State :=
  match fetchOf s i t p with
  | none => s
  | some f =>
    if f.done.isSome || s.time < f.due then s
    else
      let s := { s with rnd := { s.rnd with sTmo := true } }
      let s := match entryOf s f.entry with
        | some e => match e.stage with
          | .remote tag =>
            sendNode (eNode e) (mkFrame s 6 false (eNode e) tag 0 0 []) { s with lath := { s.lath with
              table := s.lath.table.map fun r => (r.1, if r.1 = tag.toNat then { r.2 with fetchAbort := true } else r.2) } }
          | _ => (abortEntry f.entry s).2
        | none => s
      fetchOver i t p false s

/-! ## Admin commands -/

/-- The admin command whose turn it is: the oldest on SQ0 that has not taken effect (R322). An ABORT of an entry on another
node has taken effect when its frame has gone out (DESIGN CHOICE, log entry 176). -/
def adminNext (s : State) : Option Entry :=
  if s.gctl.halted then none
  else match s.qe.store.find? fun e => e.stage = .admin || e.stage = .adminRead with
    | some e =>
      if e.stage = .admin && !s.qe.fetches.any (fun f => f.sq = 0 && f.id < e.id) then some e else none
    | none => none

/-- The queue number of an admin command. -/
def adminQ (e : Entry) : QNum := fld (eword e 2) 0 17

/-- Carry out an admin command of opcode `op` on the queue that it names, after the refusals of R323 that hold for
all: the mode, and queue 0. -/
def admin (op : Nat) (f : Entry → State → State) (s : State) : State :=
  match adminNext s with
  | none => s
  | some e =>
    if (eOpcode e).toNat ≠ op then s
    else if op = 0 then f e s
    else if op ≠ 7 && !s.gctl.qmode then adminRefuse e.id 1 s
    else if adminQ e = 0 then adminRefuse e.id 2 s
    else f e s

/-- CREATE of a queue with context words 0-2 in words 4-6. A disable of the queue that is not finished goes on beside
it (R322, log entry 129). -/
def adminCreate (cq : Bool) (e : Entry) (s : State) : State :=
  let k := ctxKey cq (adminQ e)
  let ws := [eword e 4, eword e 5, eword e 6, flag 31 cq]
  if (qctx s k).enabled then adminRefuse e.id 3 s
  else match enableFault k [ws.getD 0 0, ws.getD 1 0, ws.getD 2 0, 0] s with
    | some r => adminRefuse e.id r s
    | none => finishEntry e.id 0 0 (modQctx k (fun x => { x with created := true }) (enableCtx k 4 ws s))

def adminDeleteSq (e : Entry) (s : State) : State :=
  let k := ctxKey false (adminQ e)
  if !(qctx s k).created then adminRefuse e.id 3 s
  else
    let s := modEntry e.id (fun e => { e with stage := .deleting, upTo := s.qe.nextId })
      (modQctx k (fun x => { x with created := false }) s)
    adminSettle (if (qctx s k).enabled then disableSq k [e.id] s else waitStop k e.id s)

def adminDeleteCq (e : Entry) (s : State) : State :=
  let k := ctxKey true (adminQ e)
  if !(qctx s k).created then adminRefuse e.id 3 s
  else if cqInUse s (adminQ e) then adminRefuse e.id 5 s
  else
    let s := if (qctx s k).enabled then disableCq k s else s
    finishEntry e.id 0 0 (modQctx k (fun x => { x with created := false }) s)

def adminDisable (e : Entry) (s : State) : State :=
  let k := ctxKey false (adminQ e)
  let x := qctx s k
  if !x.created then adminRefuse e.id 3 s
  else if x.enabled || stopping x then
    let s := modEntry e.id (fun e => { e with stage := .disabling, result := x.head.setWidth 32 }) s
    if x.enabled then disableSq k [e.id] s else waitStop k e.id s
  else finishEntry e.id 0 (x.head.setWidth 32) s

def adminEnable (e : Entry) (s : State) : State :=
  let k := ctxKey false (adminQ e)
  let x := qctx s k
  if !x.created || x.enabled then adminRefuse e.id 3 s
  else if x.cached then adminCtx e k (heldCtx x) s
  else askCtx k (modEntry e.id (fun e => { e with stage := .adminRead }) s)

def adminSetArb (e : Entry) (s : State) : State :=
  let k := ctxKey false (adminQ e)
  let x := qctx s k
  if !x.created then adminRefuse e.id 3 s
  else if x.cached then adminCtx e k (heldCtx x) s
  else askCtx k (modEntry e.id (fun e => { e with stage := .adminRead }) s)

def adminAbort (e : Entry) (s : State) : State :=
  let q := adminQ e
  let cid := fld (eword e 2) 32 16
  match s.qe.store.find? fun x => x.kind = .host && x.sq = q && eCid x = cid with
  | none => abortOutcome e.id false s
  | some x =>
    match x.stage with
    | .remote tag => abortRemote e.id tag s
    | _ =>
      let r := abortEntry x.id s
      abortOutcome e.id r.1 r.2

/-! ## The commands -/

/-- ADMIN_NOP (R322). -/
def execAdminNop (s : State) : Out := .next (admin 0 (fun e s => finishEntry e.id 0 0 s) s)

/-- CREATE_CQ (R322, R323). -/
def execCreateCq (s : State) : Out := .next (admin 1 (adminCreate true) s)

/-- CREATE_SQ (R322, R323). -/
def execCreateSq (s : State) : Out := .next (admin 2 (adminCreate false) s)

/-- DELETE_SQ (R343). -/
def execDeleteSq (s : State) : Out := .next (admin 3 adminDeleteSq s)

/-- DELETE_CQ (R322, R323). -/
def execDeleteCq (s : State) : Out := .next (admin 4 adminDeleteCq s)

/-- DISABLE_SQ (R341). -/
def execDisableSq (s : State) : Out := .next (admin 5 adminDisable s)

/-- ENABLE_SQ (R342). -/
def execEnableSq (s : State) : Out := .next (admin 6 adminEnable s)

/-- ABORT (R324, R227, R229). -/
def execAbort (s : State) : Out := .next (admin 7 adminAbort s)

/-- SET_ARB (R322). -/
def execSetArb (s : State) : Out := .next (admin 8 adminSetArb s)

/-- RENDER_FETCH_TIMEOUT (R298). -/
def execRenderFetchTimeout (id : BitVec 10) (pos : Ctx) (pg : BitVec 4) (s : State) : Out :=
  .next (fetchTimeout id.toNat pos.toNat pg.toNat s)

end Sys2Proof.Machine
end

