-- ==== Sys2Proof/Machine/Alu.lean ====
section
/-! DEFINITION. Integer, logic, shift, multiply, move and compare instructions (R122-R124). -/

namespace Sys2Proof.Machine

open Sys2Proof

/-- MINU and MAXU (R122). -/
def minU (a b : W64) : W64 := if a.toNat ≤ b.toNat then a else b
def maxU (a b : W64) : W64 := if a.toNat ≤ b.toNat then b else a

/-- Shift count: the low six bits of the operand (R123). -/
def shamt (b : W64) : Nat := (fld b 0 6).toNat

def shl (a b : W64) : W64 := a <<< shamt b
def shr (a b : W64) : W64 := a >>> shamt b
def sar (a b : W64) : W64 := a.sshiftRight (shamt b)
def ror (a b : W64) : W64 := a.rotateRight (shamt b)

/-- The upper half of the unsigned product (R122). -/
def mulHi (a b : W64) : W64 := BitVec.ofNat 64 (a.toNat * b.toNat / 2 ^ 64)

/-- 1 if the condition holds, else 0 (R124). -/
def truth (b : Bool) : W64 := if b then 1 else 0

/-- A mask of `n` one bits. -/
def ones (n : Nat) : W64 := BitVec.ofNat 64 (2 ^ n - 1)

/-- EXTR: the W-bit field of `a` at LO (R122, R123). -/
def extract (lo n : Nat) (a : W64) : W64 := (a >>> lo) &&& ones n

/-- INSR: `d` with its W-bit field at LO replaced by the low bits of `a` (R122, R123). -/
def insert (lo n : Nat) (d a : W64) : W64 := (d &&& ~~~(ones n <<< lo)) ||| ((a &&& ones n) <<< lo)

def semExtr (c : Chan) (t : Thr) (w : W64) (s : State) : Eff := formU c t 1 (extract (exLo w) (exW w)) w s

/-- INSR reads RD as a source (R123). -/
def semInsr (c : Chan) (t : Thr) (w : W64) (s : State) : Eff :=
  let a := operand c t (rA w) s
  let d := operand c t (rD w) a.2
  .write (rD w) 1 (insert (exLo w) (exW w) d.1 a.1) d.2

/-- LIMM (format L): with HIGH, RD[63:48] := IMM48[15:0] and the rest of RD is kept, RD being a source
(R123). -/
def semLimm (c : Chan) (t : Thr) (w : W64) (s : State) : Eff :=
  if bit w 48 then
    let d := operand c t (rD w) s
    .write (rD w) 1 (at_ 48 (fld w 0 16) ||| (d.1 &&& ones 48)) d.2
  else .write (rD w) 1 ((fld w 0 48).setWidth 64) s

/-- ADD (R122): RD := RA + RB. -/
def execAdd (c : Chan) (t : Thr) (s : State) : Out := .next (issue c t 0x000 (formR c t 1 (· + ·)) s)

/-- ADDI (R122): RD := RA + imm. -/
def execAddi (c : Chan) (t : Thr) (s : State) : Out := .next (issue c t 0x010 (formI c t 1 (· + ·)) s)

/-- SUB (R122): RD := RA - RB. -/
def execSub (c : Chan) (t : Thr) (s : State) : Out := .next (issue c t 0x020 (formR c t 1 (· - ·)) s)

/-- SUBI (R122): RD := RA - imm. -/
def execSubi (c : Chan) (t : Thr) (s : State) : Out := .next (issue c t 0x030 (formI c t 1 (· - ·)) s)

/-- AND (R122): RD := RA and RB. -/
def execAnd (c : Chan) (t : Thr) (s : State) : Out := .next (issue c t 0x040 (formR c t 1 (· &&& ·)) s)

/-- ANDI (R122): RD := RA and imm. -/
def execAndi (c : Chan) (t : Thr) (s : State) : Out := .next (issue c t 0x050 (formI c t 1 (· &&& ·)) s)

/-- OR (R122): RD := RA or RB. -/
def execOr (c : Chan) (t : Thr) (s : State) : Out := .next (issue c t 0x060 (formR c t 1 (· ||| ·)) s)

/-- ORI (R122): RD := RA or imm. -/
def execOri (c : Chan) (t : Thr) (s : State) : Out := .next (issue c t 0x070 (formI c t 1 (· ||| ·)) s)

/-- XOR (R122): RD := RA xor RB. -/
def execXor (c : Chan) (t : Thr) (s : State) : Out := .next (issue c t 0x080 (formR c t 1 (· ^^^ ·)) s)

/-- XORI (R122): RD := RA xor imm. -/
def execXori (c : Chan) (t : Thr) (s : State) : Out := .next (issue c t 0x090 (formI c t 1 (· ^^^ ·)) s)

/-- SHL (R123): RD := RA shifted left by RB[5:0]. -/
def execShl (c : Chan) (t : Thr) (s : State) : Out := .next (issue c t 0x0A0 (formR c t 1 shl) s)

/-- SHLI (R123): RD := RA shifted left by IMM32[5:0]. -/
def execShli (c : Chan) (t : Thr) (s : State) : Out := .next (issue c t 0x0B0 (formI c t 1 shl) s)

/-- SHR (R123): RD := RA shifted right, zero fill by RB[5:0]. -/
def execShr (c : Chan) (t : Thr) (s : State) : Out := .next (issue c t 0x0C0 (formR c t 1 shr) s)

/-- SHRI (R123): RD := RA shifted right, zero fill by IMM32[5:0]. -/
def execShri (c : Chan) (t : Thr) (s : State) : Out := .next (issue c t 0x0D0 (formI c t 1 shr) s)

/-- SAR (R123): RD := RA shifted right, sign fill by RB[5:0]. -/
def execSar (c : Chan) (t : Thr) (s : State) : Out := .next (issue c t 0x0E0 (formR c t 1 sar) s)

/-- SARI (R123): RD := RA shifted right, sign fill by IMM32[5:0]. -/
def execSari (c : Chan) (t : Thr) (s : State) : Out := .next (issue c t 0x0F0 (formI c t 1 sar) s)

/-- ROR (R123): RD := RA rotated right by RB[5:0]. -/
def execRor (c : Chan) (t : Thr) (s : State) : Out := .next (issue c t 0x100 (formR c t 1 ror) s)

/-- RORI (R123): RD := RA rotated right by IMM32[5:0]. -/
def execRori (c : Chan) (t : Thr) (s : State) : Out := .next (issue c t 0x110 (formI c t 1 ror) s)

/-- MINU (R122): RD := the unsigned lesser of RA and RB. -/
def execMinu (c : Chan) (t : Thr) (s : State) : Out := .next (issue c t 0x120 (formR c t 1 minU) s)

/-- MAXU (R122): RD := the unsigned greater of RA and RB. -/
def execMaxu (c : Chan) (t : Thr) (s : State) : Out := .next (issue c t 0x130 (formR c t 1 maxU) s)

/-- POPC (R122): RD := the count of one bits in RA. -/
def execPopc (c : Chan) (t : Thr) (s : State) : Out := .next (issue c t 0x140 (formU c t 1 (fun a => BitVec.ofNat 64 (popCount a))) s)

/-- CLZ (R122): RD := the leading zero bits of RA. -/
def execClz (c : Chan) (t : Thr) (s : State) : Out := .next (issue c t 0x150 (formU c t 1 (fun a => BitVec.ofNat 64 (clz64 a))) s)

/-- CTZ (R122): RD := the trailing zero bits of RA. -/
def execCtz (c : Chan) (t : Thr) (s : State) : Out := .next (issue c t 0x160 (formU c t 1 (fun a => BitVec.ofNat 64 (ctz64 a))) s)

/-- EXTR (R123): RD := the W-bit field of RA at LO. -/
def execExtr (c : Chan) (t : Thr) (s : State) : Out := .next (issue c t 0x170 (semExtr c t) s)

/-- INSR (R123): RD[LO+W-1:LO] := RA[W-1:0]. -/
def execInsr (c : Chan) (t : Thr) (s : State) : Out := .next (issue c t 0x180 (semInsr c t) s)

/-- MUL (R122): RD := the low 64 bits of RA × RB, distance 4. -/
def execMul (c : Chan) (t : Thr) (s : State) : Out := .next (issue c t 0x200 (formR c t 4 (· * ·)) s)

/-- MULHU (R122): RD := the high 64 bits of RA × RB, distance 4. -/
def execMulhu (c : Chan) (t : Thr) (s : State) : Out := .next (issue c t 0x210 (formR c t 4 mulHi) s)

/-- MULI (R122): RD := the low 64 bits of RA × imm, distance 4. -/
def execMuli (c : Chan) (t : Thr) (s : State) : Out := .next (issue c t 0x220 (formI c t 4 (· * ·)) s)

/-- MOV (R122): RD := RA. -/
def execMov (c : Chan) (t : Thr) (s : State) : Out := .next (issue c t 0x280 (formU c t 1 (fun a => a)) s)

/-- LIMM (R123): a long immediate. -/
def execLimm (c : Chan) (t : Thr) (s : State) : Out := .next (issue c t 0x2F0 (semLimm c t) s)

/-- SEQ (R124): RD := 1 if RA = RB, else 0. -/
def execSeq (c : Chan) (t : Thr) (s : State) : Out := .next (issue c t 0x300 (formR c t 1 (fun a b => truth (a = b))) s)

/-- SEQI (R124): RD := 1 if RA = imm, else 0. -/
def execSeqi (c : Chan) (t : Thr) (s : State) : Out := .next (issue c t 0x310 (formI c t 1 (fun a b => truth (a = b))) s)

/-- SNE (R124): RD := 1 if RA ≠ RB, else 0. -/
def execSne (c : Chan) (t : Thr) (s : State) : Out := .next (issue c t 0x320 (formR c t 1 (fun a b => truth (a ≠ b))) s)

/-- SNEI (R124): RD := 1 if RA ≠ imm, else 0. -/
def execSnei (c : Chan) (t : Thr) (s : State) : Out := .next (issue c t 0x330 (formI c t 1 (fun a b => truth (a ≠ b))) s)

/-- SLT (R124): RD := 1 if RA < (signed) RB, else 0. -/
def execSlt (c : Chan) (t : Thr) (s : State) : Out := .next (issue c t 0x340 (formR c t 1 (fun a b => truth (a.slt b))) s)

/-- SLTI (R124): RD := 1 if RA < (signed) imm, else 0. -/
def execSlti (c : Chan) (t : Thr) (s : State) : Out := .next (issue c t 0x350 (formI c t 1 (fun a b => truth (a.slt b))) s)

/-- SLTU (R124): RD := 1 if RA < (unsigned) RB, else 0. -/
def execSltu (c : Chan) (t : Thr) (s : State) : Out := .next (issue c t 0x360 (formR c t 1 (fun a b => truth (a.ult b))) s)

/-- SLTUI (R124): RD := 1 if RA < (unsigned) imm, else 0. -/
def execSltui (c : Chan) (t : Thr) (s : State) : Out := .next (issue c t 0x370 (formI c t 1 (fun a b => truth (a.ult b))) s)

/-- SLE (R124): RD := 1 if RA ≤ (signed) RB, else 0. -/
def execSle (c : Chan) (t : Thr) (s : State) : Out := .next (issue c t 0x380 (formR c t 1 (fun a b => truth (a.sle b))) s)

/-- SLEI (R124): RD := 1 if RA ≤ (signed) imm, else 0. -/
def execSlei (c : Chan) (t : Thr) (s : State) : Out := .next (issue c t 0x390 (formI c t 1 (fun a b => truth (a.sle b))) s)

/-- SLEU (R124): RD := 1 if RA ≤ (unsigned) RB, else 0. -/
def execSleu (c : Chan) (t : Thr) (s : State) : Out := .next (issue c t 0x3A0 (formR c t 1 (fun a b => truth (a.ule b))) s)

/-- SLEUI (R124): RD := 1 if RA ≤ (unsigned) imm, else 0. -/
def execSleui (c : Chan) (t : Thr) (s : State) : Out := .next (issue c t 0x3B0 (formI c t 1 (fun a b => truth (a.ule b))) s)

end Sys2Proof.Machine
end

