-- ==== Sys2Proof/Machine/Branch.lean ====
section
/-! DEFINITION. Branches, calls, returns and EVRET (R125-R127). -/

namespace Sys2Proof.Machine

open Sys2Proof

/-- BR's condition on RA (R125). -/
def brTaken (cond : BitVec 4) (a : W64) : Bool :=
  match cond.toNat with
  | 0 => true
  | 1 => a = 0
  | 2 => a ≠ 0
  | 3 => a.slt 0
  | _ => (0 : W64).sle a

/-- CB's condition on RA and RB (R125). -/
def cbTaken (cond : BitVec 4) (a b : W64) : Bool :=
  match cond.toNat with
  | 0 => a = b
  | 1 => a ≠ b
  | 2 => a.slt b
  | 3 => b.sle a
  | 4 => a.ult b
  | _ => b.ule a

/-- Where a branch at `b` continues after its delay slot (R125). -/
def nextOf (b : BitVec 15) (taken : Bool) (tgt : BitVec 15) : BitVec 15 := if taken then tgt else b + 2

def semBr (c : Chan) (t : Thr) (w : W64) (s : State) : Eff :=
  let a := if cond w = 0 then (0, s) else operand c t (bA w) s
  .branch (nextOf (thr s c t).pc (brTaken (cond w) a.1) (target w)) a.2

def semCb (c : Chan) (t : Thr) (w : W64) (s : State) : Eff :=
  let a := operand c t (bA w) s
  let b := operand c t (bB w) a.2
  .branch (nextOf (thr s c t).pc (cbTaken (cond w) a.1 b.1) (target w)) b.2

/-- g31 := b + 2 with distance 1 (R125, R126); the sum is taken as a 64-bit value (log entry 13). -/
def link (c : Chan) (t : Thr) (s : State) : State :=
  modThr c t (fun th => launch 31 (th.pc.setWidth 64 + 2) 1 th) s

def semCall (c : Chan) (t : Thr) (w : W64) (s : State) : Eff := .branch (target w) (link c t s)

/-- CALLR reads RA at issue (R126). -/
def semCallr (c : Chan) (t : Thr) (w : W64) (s : State) : Eff :=
  let a := operand c t (rA w) s
  .branch (fld a.1 0 15) (link c t a.2)

def semRet (c : Chan) (t : Thr) (w : W64) (s : State) : Eff :=
  let a := operand c t (rA w) s
  .branch (fld a.1 0 15) a.2

/-- EVRET (R127): resumes at the event pc word as it stands in scratch, or raises a pending ABORT with that
index as its event pc; outside a handler it acts as a NOP. -/
def semEvret (c : Chan) (t : Thr) (_ : W64) (s : State) : Eff :=
  let th := thr s c t
  if !th.handler then .plain s
  else
    let r := readMem (.scr c) (frameOf t + 0x48) 8 (rqThr c t) s
    let pc := fld (bytesWord (plain r.1)) 0 15
    let s := modThr c t (fun th => { th with handler := false, pc := pc }) r.2
    if th.abortP then
      .gone (raiseEvent c t 5 0 pc (modThr c t (fun th => { th with abortP := false, aborted := true }) s))
    else .gone s

/-- BR (R125): a branch on RA. -/
def execBr (c : Chan) (t : Thr) (s : State) : Out := .next (issue c t 0x400 (semBr c t) s)

/-- CB (R125): a compare and branch on RA and RB. -/
def execCb (c : Chan) (t : Thr) (s : State) : Out := .next (issue c t 0x410 (semCb c t) s)

/-- CALL (R125): a call of TARGET. -/
def execCall (c : Chan) (t : Thr) (s : State) : Out := .next (issue c t 0x420 (semCall c t) s)

/-- CALLR (R125): a call of RA[14:0]. -/
def execCallr (c : Chan) (t : Thr) (s : State) : Out := .next (issue c t 0x430 (semCallr c t) s)

/-- RET (R125): a return to RA[14:0]. -/
def execRet (c : Chan) (t : Thr) (s : State) : Out := .next (issue c t 0x440 (semRet c t) s)

/-- EVRET (R127): the return from an event handler. -/
def execEvret (c : Chan) (t : Thr) (s : State) : Out := .next (issue c t 0x460 (semEvret c t) s)

end Sys2Proof.Machine
end

