-- ==== Sys2Proof/Machine/Decimal.lean ====
section
/-! DEFINITION. Packed decimal (R146-R150). -/

namespace Sys2Proof.Machine

open Sys2Proof

/-- The value written for an invalid input or a result that cannot be represented (R146). -/
def invalid : W64 := BitVec.allOnes 64

def digit (x : W64) (i : Nat) : Nat := (fld x (4 * i) 4).toNat

/-- Digit count n (R146). -/
def digits (w : W64) : Nat := (fld w 32 5).toNat

/-- The low `n` digits are decimal. -/
def decimalOk (n : Nat) (x : W64) : Bool := (List.range n).all fun i => digit x i ≤ 9

/-- Value of the low `n` digits (any nibble value counts with its weight, R148). -/
def decVal (n : Nat) (x : W64) : Nat := ((List.range n).map fun i => digit x i * 10 ^ i).sum

/-- `v` as `n` BCD digits. -/
def toBcd (n v : Nat) : W64 :=
  (List.range n).foldl (fun r i => r ||| BitVec.ofNat 64 (v / 10 ^ i % 10 * 16 ^ i)) 0

/-- The digits and carries of R147's loop: `f a b c` gives the digit and the carry. -/
def decLoop (f : Nat → Nat → Nat → Nat × Nat) (a b : W64) : (n i c : Nat) → (r : W64) → W64 × Nat
  | 0, _, c, r => (r, c)
  | n + 1, i, c, r =>
    let d := f (digit a i) (digit b i) c
    decLoop f a b n (i + 1) d.2 (r ||| BitVec.ofNat 64 (d.1 * 16 ^ i))

/-- The result with its carry or borrow in bit 4n, dropped when n is 16 (R147). -/
def withCarry (n : Nat) (r : W64 × Nat) : W64 :=
  if n < 16 then r.1 ||| BitVec.ofNat 64 (r.2 * 16 ^ n) else r.1

def addDigit (a b c : Nat) : Nat × Nat := let s := a + b + c; if 10 ≤ s then (s - 10, 1) else (s, 0)
def subDigit (a b c : Nat) : Nat × Nat := if a < b + c then (a + 10 - b - c, 1) else (a - b - c, 0)

def dAdd (n : Nat) (a b : W64) : W64 :=
  if decimalOk n a && decimalOk n b then withCarry n (decLoop addDigit a b n 0 0 0) else invalid
def dSub (n : Nat) (a b : W64) : W64 :=
  if decimalOk n a && decimalOk n b then withCarry n (decLoop subDigit a b n 0 0 0) else invalid
/-- DADJ takes every nibble value (R148). -/
def dAdj (n : Nat) (a : W64) : W64 := withCarry n (decLoop addDigit a 0 n 0 0 0)
def bcd2bin (n : Nat) (a : W64) : W64 := if decimalOk n a then BitVec.ofNat 64 (decVal n a) else invalid
def bin2bcd (n : Nat) (a : W64) : W64 := if a.toNat < 10 ^ n then toBcd n a.toNat else invalid
def dSlt (n : Nat) (a b : W64) : W64 :=
  if decimalOk n a && decimalOk n b then (if decVal n a < decVal n b then 1 else 0) else invalid

/-! ## MSF values (R149) -/

def msfMin (x : W64) : Nat := decVal 4 (x >>> 16)
def msfSec (x : W64) : Nat := decVal 2 (x >>> 8)
def msfFrm (x : W64) : Nat := decVal 2 x

def msfOk (x : W64) : Bool :=
  decimalOk 8 x && x.toNat < 2 ^ 32 && msfSec x ≤ 59 && msfFrm x ≤ 74

/-- Frames of an MSF value. -/
def msfCount (x : W64) : Nat := (msfMin x * 60 + msfSec x) * 75 + msfFrm x

/-- The MSF value of a frame count below 45,000,000. -/
def toMsf (n : Nat) : W64 :=
  (toBcd 4 (n / 4500) <<< 16) ||| (toBcd 2 (n / 75 % 60) <<< 8) ||| toBcd 2 (n % 75)

/-- Frames in 10,000 minutes: the minute field wraps there, the carry or borrow going to bit 32. -/
def msfWrap : Nat := 45000000

def msfAdd (a b : W64) : W64 :=
  if msfOk a && msfOk b then
    let n := msfCount a + msfCount b
    toMsf (n % msfWrap) ||| flag 32 (msfWrap ≤ n)
  else invalid
def msfSub (a b : W64) : W64 :=
  if msfOk a && msfOk b then
    let n := msfCount a + msfWrap - msfCount b
    toMsf (n % msfWrap) ||| flag 32 (n < msfWrap)
  else invalid
def msf2n (a : W64) : W64 := if msfOk a then BitVec.ofNat 64 (msfCount a) else invalid
def n2msf (a : W64) : W64 := if a.toNat ≤ 44999999 then toMsf a.toNat else invalid

/-- Decimal forms of distance 2 (R107, R146): two sources or one, with the digit count of the word. -/
def formD (c : Chan) (t : Thr) (f : Nat → W64 → W64 → W64) (w : W64) (s : State) : Eff :=
  formR c t 2 (f (digits w)) w s
def formD1 (c : Chan) (t : Thr) (f : Nat → W64 → W64) (w : W64) (s : State) : Eff :=
  formU c t 2 (f (digits w)) w s

/-- DADD (R146): n-digit BCD sum. -/
def execDadd (c : Chan) (t : Thr) (s : State) : Out := .next (issue c t 0xB00 (formD c t dAdd) s)

/-- DSUB (R146): n-digit BCD difference. -/
def execDsub (c : Chan) (t : Thr) (s : State) : Out := .next (issue c t 0xB10 (formD c t dSub) s)

/-- DADJ (R146): decimal adjust over n digits. -/
def execDadj (c : Chan) (t : Thr) (s : State) : Out := .next (issue c t 0xB20 (formD1 c t dAdj) s)

/-- BCD2BIN (R146): binary value of n digits. -/
def execBcd2bin (c : Chan) (t : Thr) (s : State) : Out := .next (issue c t 0xB30 (formD1 c t bcd2bin) s)

/-- BIN2BCD (R146): n BCD digits of RA. -/
def execBin2bcd (c : Chan) (t : Thr) (s : State) : Out := .next (issue c t 0xB40 (formD1 c t bin2bcd) s)

/-- MSFADD (R146): MSF sum. -/
def execMsfadd (c : Chan) (t : Thr) (s : State) : Out := .next (issue c t 0xB50 (formR c t 2 msfAdd) s)

/-- MSFSUB (R146): MSF difference. -/
def execMsfsub (c : Chan) (t : Thr) (s : State) : Out := .next (issue c t 0xB60 (formR c t 2 msfSub) s)

/-- MSF2N (R146): frame count of an MSF value. -/
def execMsf2n (c : Chan) (t : Thr) (s : State) : Out := .next (issue c t 0xB70 (formU c t 2 msf2n) s)

/-- N2MSF (R146): MSF value of a frame count. -/
def execN2msf (c : Chan) (t : Thr) (s : State) : Out := .next (issue c t 0xB80 (formU c t 2 n2msf) s)

/-- DSLT (R146): 1 if RA is numerically below RB. -/
def execDslt (c : Chan) (t : Thr) (s : State) : Out := .next (issue c t 0xB90 (formD c t dSlt) s)

end Sys2Proof.Machine
end

