-- ==== Sys2Proof/Machine/Decoders.lean ====
section
/-! DEFINITION. What the hard decoders (R240-R246) and the soft decoder pool (R249-R252, R257) do. -/

namespace Sys2Proof.Machine

open Sys2Proof

/-! ## Steps that wait for a decode (R242) -/

/-- The routine goes on at `a`, or ends at its END microword; a kill that came within the step takes it first
(R169). -/
def stepDone (c : Chan) (t : Thr) (next : Option (BitVec 12)) (s : State) : State :=
  match rtnOf s c t with
  | none => s
  | some r =>
    if r.kill then endRoutine c t .engine s
    else match next with
      | none => endRoutine c t .normal s
      | some a => modRtn c t (fun r => { r with upc := a, wait := .none }) s

/-- Steps 7 and 8 of R158: the LC decrement of LOOP and the choice of the next address. -/
def chooseNext (c : Chan) (t : Thr) (w : BitVec 128) (s : State) : State :=
  match rtnOf s c t with
  | none => s
  | some r =>
    let inc := r.upc + 1
    match uSeq w with
    | 0 => stepDone c t (some (uNext w)) s
    | 1 =>
      let b := match uCsel w with
        | 8 => decide (r.early ≠ .none)
        | 9 => r.lastFail
        | n => bit r.status n
      stepDone c t (some (if b = uCval w then uNext w else inc)) s
    | 2 =>
      let lc := r.lc - 1
      stepDone c t (some (if lc ≠ 0 then uNext w else inc)) (modRtn c t (fun r => { r with lc := lc }) s)
    | _ => stepDone c t none s

/-- The microword of the step under way. -/
def stepWord (s : State) (c : Chan) (r : Routine) : BitVec 128 :=
  match (chan s c).cstore.find? (·.1 == r.upc.toNat) with
  | some (_, x) => x.w
  | none => 0

/-- A decode or handoff of a routine has ended. A step that waited for it chooses its next address. -/
def decodeGone (c : Chan) (t : Thr) (s : State) : State :=
  match rtnOf s c t with
  | none => s
  | some r => if r.wait = .cond && r.decodes = 0 then chooseNext c t (stepWord s c r) s else s

/-! ## Hard decoder -/

/-- RESULT codes of the report (R244). -/
def resHardOk : Nat := 0
def resHardFail : Nat := 1
def resHardCrc : Nat := 2
def resSoftOk : Nat := 3
def resSoftFail : Nat := 4
def resErased : Nat := 5
def resEncoded : Nat := 6

/-- The routine learns the result of one of its codewords: its CWFAIL bit and CSEL 9 (R242). -/
def tellHard (job : DecJob) (fail : Bool) (c : Chan) (s : State) : State :=
  decodeGone c job.t (modRtn c job.t (fun r => { r with
    cwfail := setBit r.cwfail job.slot.toNat fail, lastFail := fail, decodes := r.decodes - 1 }) s)

/-- The hard decoder decides its oldest codeword (R240, R241, R244-R246, R256), as its buffer stands now (DESIGN CHOICE, log
entry 141). -/
def hardEnd (c : Chan) (s : State) : State :=
  match (chan s c).decq with
  | [] => s
  | job :: rest =>
    let rq := rqChan c
    let rate := job.rate.toNat
    let n := cwLen rate
    let s := modChan c (fun ch => { ch with decq := rest }) s
    if job.erased then
      let s := cwGood c job.buf (List.replicate 4160 0xFF) rq s
      tellHard job false c (cwReport c job.buf (report 0 false false resErased 0 0 0) rq s)
    else
      let g := cwRead c job.buf 0 n rq s
      let got := plain g.1
      let d := hardDecide rate got (passLimit job.iter)
      if d.conv && crcOk d.word then
        let k := corrCounts got d.word (scrBytes n job.seed job.bypass)
        let s := cwGood c job.buf (d.word.take 4160) rq g.2
        let s := cwReport c job.buf (report d.passes false false resHardOk k.1 k.2.1 k.2.2) rq s
        let s := if job.sample then
            plbSample c job.die job.zone job.ptype (BitVec.ofNat 16 (min k.2.1 65535))
              (BitVec.ofNat 16 (min k.2.2 65535)) s
          else s
        tellHard job false c s
      else
        let s := cwPoison c job.buf g.2
        let s := cwReport c job.buf
          (report d.passes true false (if d.conv then resHardCrc else resHardFail) 0 0 0) rq s
        tellHard job true c (modReg c (fun r => { r with hardFail := satInc r.hardFail }) s)

/-! ## Soft decoder pool -/

/-- The bank of a decoder, as a domain number: DEC-A holds 0-7, DEC-B 8-15. -/
def bankDom (k : Nat) : Nat := if k < 8 then 2 else 3

/-- A bank that takes new handoffs: powered and not being powered down (R252). -/
def bankTakes (s : State) (d : Nat) : Bool := domSt s d = .on

/-- The lowest-numbered free decoder of such a bank (R251). -/
def freeDecoder (s : State) : Option Nat :=
  (List.range 16).find? fun k => bankTakes s (bankDom k) && !(s.soft.dec.any (·.1 = k))

/-- The routine of a handoff learns that it has ended. -/
def tellSoft (h : Handoff) (s : State) : State :=
  decodeGone h.c h.t (modRtn h.c h.t (fun r => { r with handoffs := r.handoffs - 1 }) s)

/-- A handoff ends without a bank (R252). -/
def noBank (h : Handoff) (s : State) : State :=
  let s := cwPoison h.c h.buf s
  let s := cwReport h.c h.buf (report 0 true true resSoftFail 0 0 0) rqSoft s
  tellSoft h (modReg h.c (fun r => { r with noBank := satInc r.noBank, softFail := satInc r.softFail }) s)

/-- Handoffs at the head of the queue that no bank can take (R252): a wake is asked for, and the head waits while a
bank is on its way, or each ends at once. `fuel` bounds the handoffs. -/
def softHeads : (fuel : Nat) → State → State
  | 0, s => s
  | fuel + 1, s =>
    match s.soft.queue with
    | [] => s
    | h :: rest =>
      let mark := fun (b : Bool) (s : State) => { s with soft := { s.soft with queue := { h with waits := b } :: rest } }
      if bankTakes s 2 || bankTakes s 3 then mark false s
      else if h.waits && (rising s 2 || rising s 3) then s
      else if bit s.pwr.wakeEn 2 then autoWake 2 (mark true s)
      else if bit s.pwr.wakeEn 3 then autoWake 3 (mark true s)
      else softHeads fuel (noBank h { s with soft := { s.soft with queue := rest } })

/-- Look at the head of the queue. -/
def softLook (s : State) : State := softHeads s.soft.queue.length s

/-- SOFT_ASSIGN: the oldest handoff goes to the lowest-numbered free decoder (R251, R257). -/
def softAssign (s : State) : State :=
  match s.soft.queue, freeDecoder s with
  | h :: rest, some k =>
    let w := (s.time - h.since).toNat
    softLook { s with soft := { s.soft with
      queue := rest, dec := tput k h s.soft.dec,
      maxWait := if s.soft.maxWait.toNat < w then BitVec.ofNat 32 (min w 4294967295) else s.soft.maxWait } }
  | _, _ => softLook s

/-- SOFT_DECODE_END: decoder `k` finishes (R250). It works on its buffers as they stand then, whatever burst has
written into them since the handoff (log entry 141: R249 leaves old bytes, new bytes or a mixture). -/
def softEnd (k : Nat) (s : State) : State :=
  match s.soft.dec.find? (·.1 = k) with
  | none => s
  | some (_, h) =>
    let rate := h.rate.toNat
    let n := cwLen rate
    let s := { s with soft := { s.soft with dec := tdel k s.soft.dec } }
    let g := cwRead h.c h.buf 0 n rqSoft s
    let p := (List.range h.r.toNat).foldl (fun (acc : List (List Byte) × State) i =>
      let x := cwRead h.c (h.buf + BitVec.ofNat 3 (i + 1)) 0 n rqSoft acc.2
      (acc.1 ++ [plain x.1], x.2)) ([], g.2)
    let hard := xorBytes (plain g.1) (scrBytes n h.seed h.bypass)
    let d := softDecide rate hard (softInput hard p.1 h.llr) (passLimit h.iter)
    if d.conv && crcOk d.word then
      let s := cwGood h.c h.buf (d.word.take 4160) rqSoft p.2
      let s := cwReport h.c h.buf
        (report d.passes false false resSoftOk (oneBits (xorBytes hard d.word)) 0 0) rqSoft s
      softLook (tellSoft h (modReg h.c (fun r => { r with softOk := satInc r.softOk }) s))
    else
      let s := cwPoison h.c h.buf (cwWrite h.c h.buf 0 (clean (hard.take 4160)) rqSoft p.2)
      let s := cwReport h.c h.buf (report d.passes true false resSoftFail 0 0 0) rqSoft s
      softLook (tellSoft h (modReg h.c (fun r => { r with softFail := satInc r.softFail }) s))

/-- HARD_DECODE_END (R240): the decoder of a channel decides its oldest codeword. -/
def execHardDecodeEnd (c : Chan) (s : State) : Out := .next (hardEnd c s)

/-- SOFT_ASSIGN (R251). -/
def execSoftAssign (s : State) : Out := .next (softAssign s)

/-- SOFT_DECODE_END (R250). -/
def execSoftDecodeEnd (k : BitVec 4) (s : State) : Out := .next (softEnd k.toNat s)

end Sys2Proof.Machine
end

