-- ==== Sys2Proof/Machine/Micro.lean ====
section
/-! DEFINITION. The steps of a micro-routine: starts, yield points, waits, cycles and bursts (R156-R168, R224,
R230, R231, R247, R249, R262). -/

namespace Sys2Proof.Machine

open Sys2Proof

/-! ## Start and resumption (R90, R166, R205, R231, R262) -/

/-- A sample of an earlier routine of the context is still to come (R262). -/
def samplesDue (s : State) (c : Chan) (j : Ctx) : Bool := (chan s c).decq.any fun d => d.die = j && d.sample

/-- The first start of a routine: the settings and the snapshot it keeps, and the routines a SUSP one holds. -/
def firstStart (c : Chan) (t : Thr) (r : Routine) (s : State) : State :=
  let x := (chan s c).reg
  let snap := plbSnap s c r.die (fld r.m 20 4)
  let s := if entSusp r.ent then
      (routines s c).foldl (fun s q =>
        if q.1 ≠ t && q.2.die = r.die && isSusp q.2 && q.2.heldBy.isNone then
          modRtn c q.1 (fun r => { r with heldBy := some t }) s
        else s) s
    else s
  modRtn c t (fun r => { r with
    started := true, startAt := s.time, key := x.key, bypass := x.bypass, iter := x.hardIter,
    sIter := x.softIter, zeros := x.zeros, snap := snap }) s

/-- A DOP whose records have become STALE before its start does not start (R53): its thread receives CAL_INVALID at its
DOPW (log entry 138). -/
def refuseStale (c : Chan) (t : Thr) (k : Byte) (j : Ctx) (s : State) : State :=
  tryEnd c t (dopRetry c t (wakeDopw c t (noteOut c t .calInvalid false (fenceClass s c k)
    (modThr c t (fun th => { th with rtn := none, dop := .calBad j }) s))))

/-- ROUTINE_START: at a channel boundary the micro-engine starts or resumes the next ready routine. -/
def routineStart (c : Chan) (s : State) : State :=
  if !chanThere s c || !quadUp s c || (chan s c).engine ≠ 1 || (chan s c).cur.isSome || (chan s c).reg.pState ≠ 0
  then s
  else match pickNext s c with
    | none => s
    | some (t, r) =>
      if calLost s c r then refuseStale c t r.num r.die s
      else if !r.started && samplesDue s c r.die then s
      else
        let s := boundary c s
        let s := if r.started then s else firstStart c t r s
        let d := dieRec s (dieIndex c r.die)
        modRtn c t (fun r => { r with st := .running, parkDue := false, dieRec := d })
          (modChan c (fun ch => { ch with cur := some t }) s)

/-! ## Yield points (R162-R164) -/

/-- PRG as a yield point writes it (R164). -/
def prgWord (r : Routine) (resume yaddr : BitVec 12) (parked : Bool) : W64 :=
  at_ 52 resume ||| at_ 40 yaddr ||| at_ 24 r.prog ||| at_ 8 r.col ||| at_ 4 r.ycount |||
  flag 3 (r.early ≠ .none) ||| flag 2 parked ||| flag 1 r.passed ||| flag 0 true

def writePrg (c : Chan) (t : Thr) (resume yaddr : BitVec 12) (parked : Bool) (s : State) : State :=
  match rtnOf s c t with
  | none => s
  | some r => modThr c t (fun th => { th with prg := prgWord r resume yaddr parked }) s

/-- The routine leaves the bus at a yield point. -/
def yieldNow (c : Chan) (t : Thr) (res : BitVec 12) (park : Bool) (dly : Nat) (s : State) : State :=
  let s := modRtn c t (fun r => { r with st := if park then .parked else .yielded, parkDue := false,
                                         parkAt := s.time + BitVec.ofNat 64 (slotNs s c dly), upc := res }) s
  leaveBus c (idlePins c s)

/-- What the yield check decides: the step goes on, or it is over. -/
inductive Yck where
  | go (s : State)
  | stop (s : State)

/-- The yield check of a microword (R162, R163). A first BUS 1-7 word that has YIELD set itself takes its own RES and
PARK (log entry 139: R163 gives RES and PARK of a word that acts as a yield point). -/
def yieldCheck (c : Chan) (t : Thr) (r : Routine) (w : BitVec 128) (s : State) : Yck :=
  if !(uYield w || (!r.passed && 1 ≤ uBus w)) then .go s
  else
    let res := if uYield w then uRes w else r.upc
    let park := uYield w && uPark w
    if !r.passed && r.abortP then .stop (endRoutine c t .discard s)
    else if r.passed && (r.abortP || r.expired) && r.early = .none then
      let e := if r.abortP then Early.abort else Early.timeout
      let s := modRtn c t (fun r => { r with early := e, abt := uAbt w, upc := uAbt w }) s
      .stop (writePrg c t (uAbt w) r.upc false s)
    else
      let y := park || mustYield s c t r
      let s := modRtn c t (fun r => { r with passed := true, abt := uAbt w,
                                             ycount := if y then satInc r.ycount else r.ycount }) s
      let s := writePrg c t res r.upc park s
      if y then .stop (yieldNow c t res park (uDly w) s) else .go s

/-! ## Guards and tokens (R72, R160, R224) -/

/-- TIME lies inside the guard window of instant `n`; an instant of 0 carries no guard (R72). -/
def inGuard (s : State) (n : W64) : Bool :=
  n ≠ 0 && n.toNat ≤ s.time.toNat + s.srv.pre.toNat && s.time.toNat < n.toNat + s.srv.post.toNat

/-- TIME lies inside either window. -/
def guarded (s : State) : Bool := inGuard s s.srv.next || inGuard s s.srv.prev

/-- Tokens out of a quad. -/
def quadTokens (s : State) (q : BitVec 4) : Nat := s.tok.out.countP (·.quad = q)

/-- QUAD_MAX lets a quad take a token. It holds for tokens still out even with TOTAL 0 (log entry 140). -/
def quadOk (s : State) (q : BitVec 4) : Bool := s.tok.quadMax = 0 || quadTokens s q < s.tok.quadMax.toNat

/-- The conditions of R224 and R520 that hold for the whole block. -/
def poolOpen (s : State) : Bool :=
  (s.tok.total = 0 || s.tok.out.length < s.tok.total.toNat) && !(s.srv.pumpEn && guarded s) &&
  !(s.pfail && s.pwr.noPump)

/-- The waiting pump start that is admitted next: the first whose quad is not at its limit (R224). -/
def nextPump (s : State) : Option PumpWait :=
  if poolOpen s then s.tok.waiting.find? fun p => quadOk s (quadOf p.c) else none

/-- A pump start is admitted: it takes a token, unless TOTAL is 0 (R222, R224). -/
def takeToken (p : PumpWait) (s : State) : State :=
  let k := s.tok
  let w := (s.time - p.since).toNat
  let hold := max 1 k.hold.toNat
  { s with tok := { k with
    waiting := k.waiting.filter (· ≠ p),
    out := if k.total = 0 then k.out else k.out ++ [⟨quadOf p.c, s.time + BitVec.ofNat 64 hold⟩],
    maxWait := if k.maxWait.toNat < w then BitVec.ofNat 32 (min w 4294967295) else k.maxWait } }

/-- A command byte that starts a pump (R160, R175). -/
def pumpByte (s : State) (c : Chan) (b : Byte) : Bool :=
  b = 0x10 || b = 0x15 || b = 0xD0 ||
  (b ≠ 0 && (List.range 4).any fun i => fld (chan s c).ctl.pump (8 * i) 8 = b)

/-! ## Cycles and bursts (R156, R157, R230) -/

/-- The byte of a CMD or ADDR cycle (R157). -/
def srcByte (r : Routine) (w : BitVec 128) : Byte :=
  let b := uByte w
  match uBsrc w with
  | 0 => b
  | 1 => fld r.a (8 * (fld b 0 3).toNat) 8
  | 2 => fld (r.m.setWidth 32) (8 * (fld b 0 2).toNat) 8
  | 3 => fld r.col (8 * (fld b 0 1).toNat) 8
  | 4 => (fld r.die 2 3).setWidth 8
  | 5 => r.snap.getD (fld b 0 4).toNat 0
  | _ => fld r.lc 0 8

/-- Rate code of the routine. -/
def rtRate (r : Routine) : BitVec 2 := fld r.m 0 2

/-- Length of a burst (R154). -/
def burstLen (r : Routine) (w : BitVec 128) : Nat :=
  match uLen w with
  | 0 => cwLen (rtRate r).toNat
  | 1 => r.lc.toNat
  | _ => 1

/-- Codeword buffer of the step (R154). -/
def stepBuf (r : Routine) (w : BitVec 128) : BitVec 3 := if uCwbp w then uCwb w + fld r.prog 0 3 else uCwb w

/-- A step that bursts. -/
def isBurst (w : BitVec 128) : Bool := uBus w = 3 || uBus w = 4 || uBus w = 6 || uBus w = 7

/-- A CODED burst: with LEN 1 or 2 it is carried as RAW (R230). -/
def isCoded (w : BitVec 128) : Bool := uDpath w = 1 && uLen w = 0

/-- Seed of the codeword the routine is at (R236). -/
def rtSeed (s : State) (c : Chan) (r : Routine) : BitVec 32 :=
  let d := dieCtl s c r.die
  seedOf r.key r.die (fld r.a 16 24) d.page.toNat d.plane.toNat (fld r.prog 0 2)

/-- DIN and TRAIN_IN: what goes to the die (R230, R244, R247). Bytes beyond the buffer are free (log entry
17). -/
def dinBurst (c : Chan) (t : Thr) (r : Routine) (w : BitVec 128) (s : State) : State :=
  let buf := stepBuf r w
  let rq := rqChan c
  let n := burstLen r w
  if uBus w = 3 && isCoded w then
    let g := cwRead c buf 0 4156 rq s
    let p := anyMark g.1
    let crc := wordBytes 4 ((crc32 (plain g.1)).setWidth 64)
    let user := plain g.1 ++ crc
    let s := cwWrite c buf 4156 (clean crc) rq g.2
    let out := xorBytes (user ++ encode (rtRate r).toNat user) (scrBytes n (rtSeed s c r) r.bypass)
    let s := cwReport c buf (report 0 p false resEncoded 0 0 0) rq s
    setCycle c r.dieRec (.din r.die out) (modRtn c t (fun r => { r with poisoned := r.poisoned || p }) s)
  else
    let g := cwRead c buf 0 (min n cwbBytes) rq s
    let x := freeBytes (n - cwbBytes) g.2
    let p := uBus w = 3 && anyMark g.1
    setCycle c r.dieRec (.din r.die (plain g.1 ++ x.1)) (modRtn c t (fun r => { r with poisoned := r.poisoned || p }) x.2)
where
  cwbBytes : Nat := 4928

/-- The bytes of an output burst: what the die sent; where it sent nothing, free values (R177). -/
def captured (n : Nat) (d : List Byte) (s : State) : List Byte × State :=
  let x := freeBytes (n - d.length) s
  (d.take n ++ x.1, x.2)

/-- The per-bit timing capture of TRAIN_OUT (R156): one value for each DQ bit. The spec gives it no format and no
reader, so each is a free value (log entry 18). -/
def captureTiming (c : Chan) (s : State) : State :=
  let d := (List.range 8).foldl (fun (p : List W64 × State) _ =>
    let x := draw p.2
    (p.1 ++ [x.1], x.2)) ([], s)
  modChan c (fun ch => { ch with pins := { ch.pins with timing := d.1 } }) d.2

/-- DOUT and TRAIN_OUT: what comes from the die lands in the buffer (R230, R240, R241). Bytes beyond the buffer are
dropped (log entry 17). -/
def doutBurst (c : Chan) (t : Thr) (r : Routine) (w : BitVec 128) (d : List Byte) (s : State) : State :=
  let buf := stepBuf r w
  let rq := rqChan c
  let n := burstLen r w
  let g := captured n d s
  let s := setCycle c r.dieRec (.dout r.die n) (if uBus w = 6 then captureTiming c g.2 else g.2)
  if uBus w = 4 && isCoded w then
    let seed := rtSeed s c r
    let erased := r.zeros ≠ 0 && zeroBits g.1 ≤ r.zeros.toNat
    let s := cwWrite c buf 0 (clean (xorBytes g.1 (scrBytes n seed r.bypass))) rq s
    let job : DecJob := { t := t, buf := buf, rate := rtRate r, seed := seed, bypass := r.bypass, erased := erased,
                          iter := r.iter, slot := fld r.prog 0 3, die := r.die, zone := fld r.m 20 4,
                          ptype := fld r.m 12 4, sample := r.fclass = 0 }
    modRtn c t (fun r => { r with decodes := r.decodes + 1 }) (modChan c (fun ch => { ch with decq := ch.decq ++ [job] }) s)
  else
    let got := clean (g.1.take 4928)
    if uBus w = 4 && uDpath w = 2 then
      let old := cwRead c buf 0 got.length rq s
      cwWrite c buf 0 ((got.zip old.1).map fun p => (p.1.1 ^^^ p.2.1, p.2.2)) rq old.2
    else cwWrite c buf 0 got rq s

/-- A soft handoff joins the queue of the block (R249, R251, R255). -/
def handoff (c : Chan) (t : Thr) (r : Routine) (w : BitVec 128) (s : State) : State :=
  let h : Handoff := { c := c, t := t, buf := stepBuf r w, r := fld (uByte w) 0 2, rate := rtRate r,
                       seed := rtSeed s c r, bypass := r.bypass, iter := r.sIter,
                       llr := (chan s c).reg.llr, since := s.time }
  let s := if bankTakes s 2 then meetWake 2 s else if bankTakes s 3 then meetWake 3 s else s
  softLook (modRtn c t (fun r => { r with handoffs := r.handoffs + 1 })
    { s with soft := { s.soft with queue := s.soft.queue ++ [h] } })

/-- The cycle or burst of a step, with its capture into STATUS (steps 3 and 4 of R158). -/
def driveCycle (c : Chan) (t : Thr) (r : Routine) (w : BitVec 128) (d : List Byte) (s : State) : State :=
  let s := setCe c r.die (uCe w) s
  match uBus w with
  | 1 => setCycle c r.dieRec (.cmd r.die (srcByte r w)) s
  | 2 => setCycle c r.dieRec (.addr r.die (srcByte r w)) s
  | 5 =>
    let g := captured 1 d s
    setCycle c r.dieRec (.stat r.die) (modRtn c t (fun r => { r with status := g.1.headD 0 }) g.2)
  | 0 =>
    let s := setCycle c r.dieRec (.idle (!uCe w)) s
    if uDpath w = 2 then handoff c t r w s else s
  | _ =>
    if burstLen r w = 0 then quietPins c s
    else if uBus w = 3 || uBus w = 7 then dinBurst c t r w s
    else doutBurst c t r w d s

/-- Steps 5 and 6 of R158, and UWR. -/
def loadRegs (w : BitVec 128) (r : Routine) : Routine :=
  let n := if isBurst w then burstLen r w else 0
  let r := { r with lc := if uLcld w then uLcv w else r.lc,
                    col := if uColld w then fld r.a 0 16 else r.col,
                    prog := if uPclr w then 0 else r.prog,
                    user := if uUwr w then uUval w else r.user }
  { r with col := if uColinc w then r.col + BitVec.ofNat 16 n else r.col,
           prog := if uPinc w then r.prog + 1 else r.prog }

/-- Steps 7 and 8 of R158, once the decodes that the condition tests have ended (R242). -/
def finishStep (c : Chan) (t : Thr) (w : BitVec 128) (s : State) : State :=
  let waits := match rtnOf s c t with
    | some r => uSeq w ≠ 3 && uCsel w = 9 && r.decodes ≠ 0
    | none => false
  if waits then modRtn c t (fun r => { r with wait := .cond }) s else chooseNext c t w s

/-- The step from its cycle on. -/
def driveStep (c : Chan) (t : Thr) (w : BitVec 128) (d : List Byte) (s : State) : State :=
  match rtnOf s c t with
  | none => s
  | some r =>
    finishStep c t w
      (modRtn c t (loadRegs w) (driveCycle c t r w d (modRtn c t (fun r => { r with wait := .none }) s)))

/-- A waiting pump start is admitted and strobed (R224). -/
def admitPump (p : PumpWait) (s : State) : State :=
  match rtnOf s p.c p.t with
  | none => { s with tok := { s.tok with waiting := s.tok.waiting.filter (· ≠ p) } }
  | some r => driveStep p.c p.t (stepWord s p.c r) [] (takeToken p s)

/-- A pump-start step (R160, R224, R247): a routine that has consumed poison drives nothing and goes to ABT; a
routine that is aborting already is not sent there again (R162) and only leaves the cycle out. -/
def pumpStep (c : Chan) (t : Thr) (r : Routine) (w : BitVec 128) (s : State) : State :=
  let s := quietPins c s
  if r.poisoned then
    if r.early = .none then
      stepDone c t (some r.abt) (modRtn c t (fun r => { r with early := .poison }) s)
    else finishStep c t w (modRtn c t (loadRegs w) s)
  else
    let p : PumpWait := ⟨c, t, s.time⟩
    let s := modRtn c t (fun r => { r with wait := .pump })
      { s with tok := { s.tok with waiting := s.tok.waiting ++ [p] } }
    if nextPump s = some p then admitPump p s else s

/-- The waits of a step, then its cycle (steps 2 to 8 of R158). While it waits the bus is quiet. -/
def stepBody (c : Chan) (t : Thr) (w : BitVec 128) (d : List Byte) (s : State) : State :=
  match rtnOf s c t with
  | none => s
  | some r =>
    let place := modRtn c t (fun r => { r with wait := .place }) (quietPins c s)
    if uBus w = 1 && pumpByte s c (srcByte r w) then pumpStep c t r w s
    else if uBus w = 4 && isCoded w && (chan s c).decq.any (·.buf = stepBuf r w) then place
    else if uBus w = 0 && uDpath w = 2 && 4 ≤ r.handoffs then place
    else if isBurst w && s.srv.dqEn && guarded s then
      modRtn c t (fun r => { r with wait := .guard }) (quietPins c s)
    else driveStep c t w d s

/-! ## The steps as commands -/

/-- The rows of the opcode table for microword steps. -/
inductive URow where
  | idle
  | cmd
  | addr
  | din
  | dout
  | stat
  | trainOut
  | trainIn
  | soft
  | end_
  deriving DecidableEq, Repr

/-- The row of a microword: END by its SEQ, a soft handoff by its DPATH, else by its BUS. -/
def uRow (w : BitVec 128) : URow :=
  if uSeq w = 3 then .end_
  else match uBus w with
    | 0 => if uDpath w = 2 then .soft else .idle
    | 1 => .cmd
    | 2 => .addr
    | 3 => .din
    | 4 => .dout
    | 5 => .stat
    | 6 => .trainOut
    | _ => .trainIn

/-- The running routine executes the microword at its address. The command names the row of that microword; an
uncorrectable, never loaded or refused word ends the routine whichever row is named (R155, R170); a command
that names another row is not this step. `d` is what the die sends. -/
def microStep (c : Chan) (row : URow) (d : List Byte) (s : State) : State :=
  if !chanThere s c || !quadUp s c then s
  else match (chan s c).cur with
  | none => s
  | some t =>
    match rtnOf s c t with
    | none => s
    | some r =>
      if r.wait = .place then
        let w := stepWord s c r
        if uRow w = row then stepBody c t w d s else s
      else if r.wait ≠ .none then s
      else
        let f := fetchStore c false r.upc.toNat s
        match f.1 with
        | none => endRoutine c t .engine f.2
        | some w =>
          if !uLegal w then endRoutine c t .engine (refuseWord c r.upc.toNat f.2)
          else if uRow w ≠ row then s
          else match yieldCheck c t r w f.2 with
            | .stop s => s
            | .go s => stepBody c t w d s

/-- A data burst that waited for a DQ_EN guard starts (R160). -/
def guardRelease (c : Chan) (d : List Byte) (s : State) : State :=
  match (chan s c).cur with
  | none => s
  | some t =>
    match rtnOf s c t with
    | none => s
    | some r =>
      if r.wait = .guard && !(s.srv.dqEn && guarded s) then driveStep c t (stepWord s c r) d s else s

/-- TOKEN_RETURN: a token whose time has come returns to the pool (R224). -/
def tokenReturn (s : State) : State :=
  match takeFirst (fun (k : Token) => decide (k.due ≤ s.time)) s.tok.out with
  | some (_, rest) => { s with tok := { s.tok with out := rest } }
  | none => s

/-- ROUTINE_START (R90). -/
def execRoutineStart (c : Chan) (s : State) : Out := .next (routineStart c s)

/-- IDLE (R156): no strobe. -/
def execIdle (c : Chan) (s : State) : Out := .next (microStep c .idle [] s)

/-- CMD (R156): a command cycle, a pump start when its byte is one (R160). -/
def execCmd (c : Chan) (s : State) : Out := .next (microStep c .cmd [] s)

/-- ADDR (R156): an address cycle. -/
def execAddr (c : Chan) (s : State) : Out := .next (microStep c .addr [] s)

/-- DIN (R230): a data input burst. -/
def execDin (c : Chan) (s : State) : Out := .next (microStep c .din [] s)

/-- DOUT (R230): a data output burst of the bytes `d`. -/
def execDout (c : Chan) (d : List Byte) (s : State) : Out := .next (microStep c .dout d s)

/-- STAT (R158): byte `b` into STATUS. -/
def execStat (c : Chan) (b : Byte) (s : State) : Out := .next (microStep c .stat [b] s)

/-- TRAIN_OUT (R156): a raw output burst. -/
def execTrainOut (c : Chan) (d : List Byte) (s : State) : Out := .next (microStep c .trainOut d s)

/-- TRAIN_IN (R156): a raw input burst. -/
def execTrainIn (c : Chan) (s : State) : Out := .next (microStep c .trainIn [] s)

/-- SOFT_HANDOFF (R249). -/
def execSoftHandoff (c : Chan) (s : State) : Out := .next (microStep c .soft [] s)

/-- ROUTINE_END (R167): an END microword with its own cycle. -/
def execRoutineEnd (c : Chan) (d : List Byte) (s : State) : Out := .next (microStep c .end_ d s)

/-- PUMP_START_ADMIT (R224): the next waiting pump start. -/
def execPumpStartAdmit (s : State) : Out :=
  .next (match nextPump s with
    | some p => admitPump p s
    | none => s)

/-- DQ_GUARD_RELEASE (R160). -/
def execDqGuardRelease (c : Chan) (d : List Byte) (s : State) : Out := .next (guardRelease c d s)

/-- TOKEN_RETURN (R224). -/
def execTokenReturn (s : State) : Out := .next (tokenReturn s)

end Sys2Proof.Machine
end

