-- ==== Sys2Proof/Machine/Primer.lean ====
section
/-! DEFINITION. The Primer store: words and parity, commands, pulses, the erase journal, suspends, the rotating
window, the factory row, and the boot's journal and directory (R449-R469). -/

namespace Sys2Proof.Machine

open Sys2Proof

def modPrm (f : Prm → Prm) (s : State) : State := { s with prm := f s.prm }

/-! ## Stored words (R449) -/

/-- The 72 stored bits of a word. -/
def prmRaw (s : State) (w : Nat) : BitVec 72 := tget (BitVec.allOnes 72) w s.prm.arr

def setRaw (w : Nat) (v : BitVec 72) (s : State) : State :=
  modPrm (fun p => { p with arr := tset (BitVec.allOnes 72) w v p.arr }) s

/-- Data with its parity bits. -/
def withParity (d : W64) : BitVec 72 :=
  (List.range 8).foldl (fun v i => setBit v (64 + i) (oddParity (fld d (8 * i) 8))) (d.setWidth 72)

/-- The data bits of a stored word. -/
def rawData (v : BitVec 72) : W64 := fld v 0 64

/-- Mask of the bytes whose parity fails. -/
def rawBad (v : BitVec 72) : Byte :=
  (List.range 8).foldl (fun m i => if bit v (64 + i) = oddParity (fld v (8 * i) 8) then m else setBit m i true) 0

def blank (v : BitVec 72) : Bool := v = BitVec.allOnes 72

/-- 72 free bits (log entry 2). -/
def draw72 (s : State) : BitVec 72 × State :=
  let a := draw s
  let b := draw a.2
  (a.1.setWidth 72 ||| (b.1.setWidth 72 <<< 64), b.2)

/-- A word whose program was cut, or that was never verified: each bit holds 1 or its programmed value (R458). -/
def cutWord (w : Nat) (data : BitVec 72) (s : State) : State :=
  let d := draw72 s
  setRaw w (prmRaw d.2 w &&& (data ||| d.1)) d.2

/-- One of the bits set in `v`, which one a free value (log entry 2); 0 where none is. -/
def someBit (v : BitVec 72) (s : State) : BitVec 72 × State :=
  let d := draw s
  let on := (List.range 72).filter (bit v)
  (match on[d.1.toNat % on.length]? with
    | some i => setBit 0 i true
    | none => 0, d.2)

/-- The bits [71:0] of a word spell a journal record: parity, CHK and TYPE hold (R459). -/
def recordOk (v : BitVec 72) : Bool :=
  !blank v && rawBad v = 0 && fld v 60 4 ≠ 0#4 && (fld v 60 4).toNat ≤ 6 &&
    (wordBytes 8 (rawData v)).foldl (· ^^^ ·) 0 = 0

/-- A DONE or ROTATE record whose program was cut, or that was never verified: no such record is left (R457: a cut erase
writes no DONE; R466: HEAD keeps its old value at the next boot), so where the bits would spell one, a bit that was 1
before is still 1. -/
def cutRecord (w : Nat) (data : BitVec 72) (s : State) : State :=
  let v := prmRaw s w
  let s := cutWord w data s
  if recordOk (prmRaw s w) then
    let b := someBit (v &&& ~~~(prmRaw s w)) s
    setRaw w (prmRaw b.2 w ||| b.1) b.2
  else s

/-- The job writes a DONE or a ROTATE record. -/
def closing : PJob → Bool
  | .record typ _ _ _ => typ = 2 || typ = 3
  | _ => false

/-- A journal word that was never verified and yet reads as an INTENT or a CARRY is that record, and its sector's intent
is open (R459). -/
def noteIntent (w : Nat) (s : State) : State :=
  let d := rawData (prmRaw s w)
  let k := (fld d 0 12).toNat
  if 256 * 4092 ≤ w && recordOk (prmRaw s w) && (fld d 60 4 = 1#4 || fld d 60 4 = 6#4) then
    modPrm (fun p => { p with jOpen := p.jOpen.filter (·.1 ≠ k) ++ [(k, w)] }) s
  else s

/-- The word that a job programs, not verified. -/
def cutJob (j : PJob) (w : Nat) (data : BitVec 72) (s : State) : State :=
  if closing j then cutRecord w data s else noteIntent w (cutWord w data s)

/-- A word left by PROG_FAIL (R456): as a cut word, but not blank. -/
def failWord (j : PJob) (w : Nat) (data : BitVec 72) (s : State) : State :=
  let s := cutJob j w data s
  if blank (prmRaw s w) then
    let b := someBit (~~~data) s
    setRaw w (prmRaw b.2 w &&& ~~~b.1) b.2
  else s

/-- The listed words of a sector. -/
def sectorWords (s : State) (k : Nat) : List (Nat × BitVec 72) := s.prm.arr.filter fun e => e.1 / 256 = k

/-- A sector after some of its erase pulses: each bit holds its old value or 1. -/
def cutSector (k : Nat) (s : State) : State :=
  (sectorWords s k).foldl (fun s e =>
    let d := draw72 s
    setRaw e.1 (e.2 ||| d.1) d.2) s

/-- An erased sector. -/
def eraseSector (k : Nat) (s : State) : State :=
  modPrm (fun p => { p with arr := p.arr.filter fun e => e.1 / 256 ≠ k }) s

/-- Zero bits among the stored bits of a sector. -/
def zeroCount (s : State) (k : Nat) : Nat := ((sectorWords s k).map fun e => 72 - popCount e.2).sum

/-! ## Sector states, protection, the window (R461, R464, R465) -/

def sectState (s : State) (k : Nat) : BitVec 2 := tget 0 k s.prm.sect
def setSect (k : Nat) (x : BitVec 2) (s : State) : State :=
  modPrm (fun p => { p with sect := tset 0 k x p.sect }) s

def journalSector (k : Nat) : Bool := 4092 ≤ k

/-- Write-protected, or a journal sector. -/
def prmProtected (s : State) (k : Nat) : Bool := journalSector k || (tget 0 (k / 32) s.prm.wp).getLsbD (k % 32)

/-- SUSPECT or ERASING. -/
def prmSuspect (s : State) (k : Nat) : Bool := sectState s k = 1 || sectState s k = 2

/-- The physical sector at rotation `n` of the window. -/
def windowSector (s : State) (n : Nat) : Nat := s.prm.winBase.toNat + (s.prm.winHead.toNat + n) % 72

/-- The word that PRM_ADDR names; none is a RANGE fault. -/
def prmTarget (s : State) : Option Nat :=
  let a := s.prm.word
  if !s.prm.win then some a.toNat
  else if !s.prm.winEn || fld a 14 6 ≠ 0 then none
  else some (256 * windowSector s (fld a 8 6).toNat + (fld a 0 8).toNat)

/-! ## Operations -/

def progLike : PKind → Bool
  | .erase _ => false
  | _ => true

/-- NEST of PRM_STATUS (R463). -/
def prmNest (s : State) : Nat :=
  match s.prm.op with
  | some o => if progLike o.kind then (if s.prm.susp.isEmpty then 1 else 4) else 2
  | none => match s.prm.susp with
    | [] => 0
    | [o] => if progLike o.kind then 5 else 3
    | _ => 6

/-- Sector of the running or suspended erase. -/
def prmESector (s : State) : BitVec 12 :=
  match (s.prm.op.toList ++ s.prm.susp).findSome? fun o => (match o.kind with
      | .erase k => some k
      | _ => none) with
  | some k => BitVec.ofNat 12 k
  | none => 0

/-- A journal record (R459). -/
def recWord (typ : BitVec 4) (seq : BitVec 28) (arg sector : BitVec 12) : W64 :=
  let w := at_ 60 typ ||| at_ 32 seq ||| at_ 12 arg ||| at_ 0 sector
  w ||| at_ 24 ((wordBytes 8 w).foldl (· ^^^ ·) 0)

/-- The jobs of a move to the next journal sector: CARRY for each open intent recorded there, JERASE, the erase,
JHEAD. -/
def moveJobs (s : State) : List PJob :=
  let j := 4092 + (s.prm.jSector - 4092 + 1) % 4
  (s.prm.jOpen.filter fun e => e.2 / 256 = j).map (fun e => PJob.record 6 0 (BitVec.ofNat 12 e.1) true) ++
    [.record 5 0 (BitVec.ofNat 12 j) true, .erase j, .jhead j]

/-- SEQ of a record: of its failed words, unless another record has been written since, else the next. -/
def recSeq (o : POp) (s : State) : BitVec 28 :=
  match o.again with
  | some q => if q + 1 = s.prm.jSeq then q else s.prm.jSeq
  | none => s.prm.jSeq

/-- The next journal word, with SEQ, taken for a record whose first pulse begins. -/
def takeRecord (typ : BitVec 4) (arg sector : BitVec 12) (o : POp) (s : State) : State :=
  let w := 256 * s.prm.jSector + s.prm.jPos
  let q := recSeq o s
  let d := withParity (recWord typ q arg sector)
  modPrm (fun p => { p with
    jPos := p.jPos + 1, jSeq := q + 1, op := some { o with cur := some (w, d), pulses := 0, again := some q } }) s

/-- The job at the head of an operation runs; none where a record finds no word left in its journal sector. -/
def runJob (o : POp) (s : State) : Option State :=
  match o.jobs with
  | .word w d :: _ => some (modPrm (fun p => { p with op := some { o with cur := some (w, d), pulses := 0 } }) s)
  | .record typ arg k _ :: _ => if 255 < s.prm.jPos then none else some (takeRecord typ arg k o s)
  | .jhead k :: _ =>
    let d := withParity (recWord 4 s.prm.jSeq 0 (BitVec.ofNat 12 k))
    some (modPrm (fun p => { p with jSeq := p.jSeq + 1, op := some { o with cur := some (256 * k, d), pulses := 0 } }) s)
  | _ => some (modPrm (fun p => { p with op := some { o with cur := none, pulses := 0 } }) s)

/-- `runJob`, but a record that finds no free word outside the 17 kept ones moves the journal first. -/
def tryJob (o : POp) (s : State) : Option State :=
  match o.jobs with
  | .record _ _ _ false :: _ =>
    if 238 < s.prm.jPos then runJob { o with jobs := moveJobs s ++ o.jobs, tries := 0, held := o.tries, again := none } s
    else runJob o s
  | _ => runJob o s

/-- An operation waits for the release of the detector with its next job (R458): no word and no SEQ is taken yet. -/
def awaitRelease (o : POp) (s : State) : State :=
  modPrm (fun p => { p with op := some { o with cur := none, pulses := 0 } }) s

/-- The ROTATE record of a window enabled while the array was busy is written now (R465). -/
def startDue (s : State) : State :=
  if s.prm.winDue && (prmNest s = 0 || prmNest s = 3) then
    let s := modPrm (fun p => { p with winDue := false }) s
    let o : POp := { kind := .window, jobs := [.record 3 (s.prm.winHead.setWidth 12) s.prm.winBase false] }
    if s.prm.tripped then awaitRelease o s else (tryJob o s).getD s
  else s

/-- The running operation ends with RESULT `r`; the record of a PRM_WINDOW_BASE write is no command and leaves
RESULT (R454). -/
def endOp (r : BitVec 4) (s : State) : State :=
  let r := if s.prm.op.any (·.kind = .window) then s.prm.result else r
  startDue (modPrm (fun p => { p with op := none, suspend := false, result := r }) s)

/-- The running operation fails: an erase after its intent leaves its sector SUSPECT (R457). -/
def failOp (o : POp) (s : State) : State :=
  match o.kind with
  | .erase k => endOp 7 (if sectState s k = 1 then setSect k 2 s else s)
  | _ => endOp 6 s

/-- The job at the head of an operation begins, or waits for the release of the detector. Where the 17 kept words of the
journal sector are used up, the operation fails as one whose record could not be written (log entry 127). -/
def beginJob (o : POp) (s : State) : State :=
  if s.prm.tripped then awaitRelease o s
  else (tryJob o s).getD (failOp o (modPrm (fun p => { p with op := some o }) s))

/-- The job writes the JHEAD of a journal move. -/
def isHead : PJob → Bool
  | .jhead _ => true
  | _ => false

/-- What a job has done when it is verified. -/
def jobEffect (o : POp) (w : Nat) : PJob → State → State
  | .record 1 _ k _, s =>
    setSect k.toNat 1 (modPrm (fun p => { p with jOpen := p.jOpen.filter (·.1 ≠ k.toNat) ++ [(k.toNat, w)] }) s)
  | .record 2 _ k _, s => setSect k.toNat 0 (modPrm (fun p => { p with jOpen := p.jOpen.filter (·.1 ≠ k.toNat) }) s)
  | .record 6 _ k _, s =>
    modPrm (fun p => { p with jOpen := p.jOpen.map fun e => if e.1 = k.toNat then (e.1, w) else e }) s
  | .record 3 _ _ _, s =>
    match o.kind with
    | .rotate h => modPrm (fun p => { p with winHead := h }) s
    | _ => s
  | .jhead k, s => modPrm (fun p => { p with jSector := k, jPos := 1 }) s
  | .erase k, s => eraseSector k s
  | _, s => s

/-- The head job is done: the next one is due, or the operation ends OK. -/
def jobDone (o : POp) (j : PJob) (w : Nat) (s : State) : State :=
  let s := jobEffect o w j s
  let moved := isHead j
  let o := { o with
    jobs := o.jobs.tail, tries := if moved then o.held else 0, held := if moved then 0 else o.held, cur := none,
    pulses := 0, again := none }
  if o.jobs.isEmpty then endOp 1 s else modPrm (fun p => { p with op := some o }) s

/-- A word was not verified after 8 pulses: a record is due again in the next journal word, three words in all. -/
def wordFail (o : POp) (j : PJob) (w : Nat) (d : BitVec 72) (s : State) : State :=
  let s := failWord j w d s
  match j with
  | .record _ _ _ spare =>
    let n := o.tries + 1
    if 3 ≤ n || (spare && 255 < s.prm.jPos) then failOp o s
    else modPrm (fun p => { p with op := some { o with cur := none, pulses := 0, tries := n } }) s
  | _ => failOp o s

/-- The first pulse of a job that is due begins. -/
def goOn (s : State) : State :=
  match s.prm.op with
  | some o => if o.cur.isNone && o.pulses = 0 then beginJob o s else s
  | none => s

/-- What the pulses of an operation's job leave in the array before it is verified (R458). -/
def unverified (o : POp) (s : State) : State :=
  match o.jobs, o.cur with
  | .erase k :: _, _ => cutSector k s
  | j :: _, some (w, d) => cutJob j w d s
  | _, _ => s

/-- A cut operation's effect on the array and on its sector (R457, R458). `reached`: a pulse of its job has reached
the array since it began or was resumed; a suspended one left its bits in the array when it was suspended. -/
def cutOp (reached : Bool) (o : POp) (s : State) : State :=
  let s := if reached then unverified o s else s
  match o.kind with
  | .erase k => setSect k 2 s
  | _ => s

/-- The detector trips: no pulse begins, the running and the suspended operations end CUT (R458). A pulse runs only
while the detector has not tripped. -/
def tripDetector (s : State) : State :=
  let any := (s.prm.op.toList ++ s.prm.susp).any fun o => decide (o.kind ≠ .window)
  let pulse := !s.prm.tripped
  let s := modPrm (fun p => { p with tripped := true, winDue := false }) s
  let s := match s.prm.op with
    | some o => cutOp pulse o s
    | none => s
  let s := s.prm.susp.foldl (fun s o => cutOp false o s) s
  modPrm (fun p => { p with op := none, susp := [], suspend := false, result := if any then 8 else p.result }) s

/-- A pending suspend may take effect after this pulse (R462): a program-like operation's at any pulse outside a move of
the journal, which ends with its JHEAD (R459), an erase's not while it writes its records. `j` is the job whose pulse has
ended. -/
def canSuspend (o : POp) (j : PJob) : Bool :=
  match o.kind with
  | .erase k => j = .erase k || o.jobs.head? = some (.erase k)
  | _ => !o.jobs.any isHead

/-- After a pulse: an erase stops at a power warning, a pending suspend takes effect, or a job that is due begins. The bits
that the pulses left are in the array where the operation does not go on. -/
def afterPulse (j : PJob) (s : State) : State :=
  match s.prm.op with
  | none => s
  | some o =>
    if s.pfail && !progLike o.kind then endOp 8 (cutOp (o.pulses ≠ 0) o s)
    else if s.prm.suspend && canSuspend o j then
      let s := if o.pulses ≠ 0 then unverified o s else s
      startDue (modPrm (fun p => { p with op := none, susp := o :: p.susp, suspend := false, result := 1 }) s)
    else goOn s

/-- PRM_PULSE_END: a pulse with its verify has ended. -/
def pulseEnd (good : Bool) (s : State) : State :=
  match s.prm.op with
  | none => s
  | some o =>
    if s.prm.tripped then s
    else match o.jobs, o.cur with
      | .erase k :: _, _ =>
        if good then afterPulse (.erase k) (jobDone o (.erase k) 0 s)
        else if 40 ≤ o.pulses + 1 then failOp o (cutSector k s)
        else afterPulse (.erase k) (modPrm (fun p => { p with op := some { o with pulses := o.pulses + 1 } }) s)
      | j :: _, some (w, d) =>
        if good then afterPulse j (jobDone o j w (setRaw w (prmRaw s w &&& d) s))
        else if 8 ≤ o.pulses + 1 then afterPulse j (wordFail o j w d s)
        else afterPulse j (modPrm (fun p => { p with op := some { o with pulses := o.pulses + 1 } }) s)
      | _, _ => s

/-! ## Commands (R454-R466) -/

def setResult (r : BitVec 4) (s : State) : State := modPrm (fun p => { p with result := r }) s

/-- A command: ignored while BUSY, BAD_STATE outside the NEST states that accept it. -/
def prmCmd (nests : List Nat) (f : State → State) (s : State) : State :=
  if s.prm.op.isSome then modPrm (fun p => { p with refused := true }) s
  else if nests.contains (prmNest s) then f s
  else setResult 11 s

/-- READ or a window read touches the sector of a suspended erase or the word of a suspended program (R452). -/
def prmHeld (s : State) (w : Nat) : Bool :=
  s.prm.susp.any fun o => (match o.kind with
    | .erase k => decide (w / 256 = k)
    | _ => false) || o.cur.any fun c => decide (c.1 = w)

/-- READ (R454), of a word that a suspended operation holds too: the data as read and OK or PARITY. DEDUCED: "Reads
follow R452" (R462) sends the reads of the window to R452's refusal (log entry 127). -/
def prmReadCmd (s : State) : State :=
  match prmTarget s with
  | none => setResult 12 s
  | some w =>
    let v := prmRaw s w
    modPrm (fun p => { p with data := rawData v, result := if rawBad v = 0 then 1 else 5 }) s

/-- PROGRAM (R455, R456). -/
def prmProgram (s : State) : State :=
  match prmTarget s with
  | none => setResult 12 s
  | some w =>
    if prmProtected s (w / 256) then setResult 3 s
    else if prmSuspect s (w / 256) then setResult 4 s
    else if !blank (prmRaw s w) then setResult 2 s
    else if s.prm.data = BitVec.allOnes 64 then setResult 1 s
    else beginJob { kind := .program, jobs := [.word w (withParity s.prm.data)] } s

/-- ERASE (R455, R457, R459). -/
def prmErase (s : State) : State :=
  match prmTarget s with
  | none => setResult 12 s
  | some w =>
    let k := w / 256
    if prmProtected s k then setResult 3 s
    else if s.pfail then setResult 9 s
    else if 16 ≤ s.prm.jOpen.length && !s.prm.jOpen.any (·.1 = k) then setResult 10 s
    else
      beginJob { kind := .erase k, jobs := [.record 1 0 (BitVec.ofNat 12 k) false, .erase k,
                                            .record 2 0 (BitVec.ofNat 12 k) false] } s

/-- SUSPEND (R462): taken while an operation runs, else BAD_STATE. -/
def prmSuspend (s : State) : State :=
  if s.prm.op.isSome then modPrm (fun p => { p with suspend := true }) s else setResult 11 s

/-- RESUME (R462): the innermost suspended operation. -/
def prmResume (s : State) : State :=
  match s.prm.susp with
  | [] => s
  | o :: rest => goOn (modPrm (fun p => { p with op := some o, susp := rest, result := 1 }) s)

/-- Word `n` of the factory row (R467). -/
def factoryWord (s : State) (n : Nat) : W64 :=
  if n = 0 then
    at_ 48 1#16 ||| at_ 40 (match s.variant with
      | .j8 => 0x08#8
      | .j4 => 0x04#8) ||| at_ 0 (BitVec.allOnes 40)
  else if n ≤ 3 then Config.factory n
  else if 8 ≤ n ∧ n < 24 then if nChan s ≤ 4 * (n - 8) then 0 else Config.factory n
  else BitVec.allOnes 64

/-- ROTATE (R466). -/
def prmRotate (s : State) : State :=
  let k := windowSector s 64
  if !s.prm.winEn then setResult 12 s
  else if prmProtected s k then setResult 3 s
  else if prmSuspect s k then setResult 4 s
  else if zeroCount s k ≠ 0 then setResult 2 s
  else
    let h := BitVec.ofNat 7 ((s.prm.winHead.toNat + 1) % 72)
    beginJob { kind := .rotate h, jobs := [.record 3 (h.setWidth 12) s.prm.winBase false] } s

/-- A write of PRM_CMD. -/
def prmCommand (code : BitVec 4) (s : State) : State :=
  match code.toNat with
  | 0 => s
  | 1 => prmCmd [0, 3, 5, 6] prmReadCmd s
  | 2 => prmCmd [0, 3] prmProgram s
  | 3 => prmCmd [0] prmErase s
  | 4 => prmSuspend s
  | 5 => prmCmd [3, 5, 6] prmResume s
  | 6 => prmCmd [0, 3, 5, 6]
      (fun s => modPrm (fun p => { p with data := factoryWord s (fld p.word 0 8).toNat, result := 1 }) s) s
  | 7 => prmCmd [0, 3] prmRotate s
  | 8 => prmCmd [0, 3, 5, 6] (fun s => match prmTarget s with
      | none => setResult 12 s
      | some w => modPrm (fun p => { p with data := BitVec.ofNat 64 (zeroCount s (w / 256)), result := 1 }) s) s
  | _ => prmCmd [0, 1, 2, 3, 4, 5, 6] (setResult 13) s

/-- A write of PRM_WINDOW_BASE (R465). -/
def windowBase (en : Bool) (base : BitVec 12) (s : State) : State :=
  if s.prm.winEn then s
  else if !en then modPrm (fun p => { p with winBase := base }) s
  else if 4092 < base.toNat + 72 then modPrm (fun p => { p with winBase := base }) s
  else startDue (modPrm (fun p => { p with winBase := base, winHead := 0, winEn := true, winDue := true }) s)

/-! ## The read window (R452) -/

/-- PRIMER_PARITY of a word read in the bytes of mask `m`; `who` is the DETAIL bit of the reader. -/
def logPrimer (w : Nat) (m : Byte) (who : W64) (s : State) : State :=
  logRec 0x06 true (BitVec.ofNat 32 w) (who ||| at_ 0 (rawBad (prmRaw s w) &&& m)) s

/-- A read of `n` words of the read window from `w`: the data, or an error response. `m` masks the bytes of each word
that are read, and so checked. -/
def windowRead (w n : Nat) (m : Byte) (s : State) : Option (List W64) × State :=
  let ws := (List.range n).map (w + ·)
  if s.prm.op.isSome || ws.any (prmHeld s) then (none, modPrm (fun p => { p with rdBusy := true }) s)
  else match ws.find? fun w => rawBad (prmRaw s w) &&& m ≠ 0 with
    | some w => (none, logPrimer w m 0 (modPrm (fun p => { p with parity := true }) s))
    | none => (some (ws.map fun w => rawData (prmRaw s w)), s)

/-! ## Registers (R461, R463, R465, R471): byte offset from 0x050_0000 -/

def prmRegRead (o : Nat) (s : State) : W64 :=
  let p := s.prm
  if o = 0x08 then flag 31 p.win ||| at_ 0 p.word
  else if o = 0x10 then p.data
  else if o = 0x18 then
    flag 31 p.op.isSome ||| at_ 28 (BitVec.ofNat 3 (prmNest s)) ||| at_ 12 (prmESector s) ||| at_ 8 p.result |||
    flag 2 p.refused ||| flag 1 p.rdBusy ||| flag 0 p.parity
  else if o = 0x20 then flag 31 p.winEn ||| at_ 8 p.winBase ||| at_ 0 p.winHead
  else if o = 0x28 then
    at_ 48 p.dirGen ||| flag 47 p.dirValid ||| flag 46 p.dirCopy ||| flag 40 p.lProgram ||| at_ 36 p.lQuad |||
    at_ 32 p.lReason ||| at_ 16 p.loads ||| at_ 0 p.refusals
  else if 0x1000 ≤ o ∧ o < 0x1400 then at_ 0 (tget 0 ((o - 0x1000) / 8) p.wp)
  else if 0x2000 ≤ o ∧ o < 0x2400 then
    let k := 32 * ((o - 0x2000) / 8)
    (List.range 32).foldl (fun v i => v ||| at_ (2 * i) (sectState s (k + i))) 0
  else 0

/-- A write: `m` the bits written, `v` the stored bits with those replaced, `act` the written bits alone. -/
def prmRegWrite (o : Nat) (m v act : W64) (s : State) : State :=
  if o = 0x00 then (if fld m 0 4 ≠ 0 then prmCommand (fld act 0 4) s else s)
  else if o = 0x08 then modPrm (fun p => { p with win := bit v 31, word := fld v 0 20 }) s
  else if o = 0x10 then modPrm (fun p => { p with data := v }) s
  else if o = 0x18 then modPrm (fun p => { p with
    refused := p.refused && !bit act 2, rdBusy := p.rdBusy && !bit act 1, parity := p.parity && !bit act 0 }) s
  else if o = 0x20 then windowBase (bit v 31) (fld v 8 12) s
  else if 0x1000 ≤ o ∧ o < 0x1400 then
    let j := (o - 0x1000) / 8
    modPrm (fun p => { p with wp := tset 0 j (tget 0 j p.wp ||| fld act 0 32) p.wp }) s
  else s

/-! ## The journal at boot (R460) -/

/-- A journal record read back: word, TYPE, SEQ, ARG, SECTOR. -/
structure JRec where
  w   : Nat
  typ : Nat
  seq : BitVec 28
  arg : BitVec 12
  sec : BitVec 12

/-- The valid record at a journal word; spoiled and blank words give none. -/
def jrec (s : State) (w : Nat) : Option JRec :=
  let v := prmRaw s w
  let d := rawData v
  if recordOk v then some ⟨w, (fld d 60 4).toNat, fld d 32 28, fld d 12 12, fld d 0 12⟩ else none

/-- SEQ `a` is later than `b`, modulo 2^28. -/
def seqAfter (a b : BitVec 28) : Bool := 0 < (a - b).toNat && (a - b).toNat < 2 ^ 27

/-- JHEAD of a journal sector. -/
def jheadOf (s : State) (k : Nat) : Option JRec := (jrec s (256 * k)).filter fun r => r.typ = 4

/-- The later of two records. -/
def later (m : Option JRec) (r : JRec) : Option JRec :=
  match m with
  | some x => if seqAfter r.seq x.seq then some r else some x
  | none => some r

/-- Insert a record in SEQ order. -/
def insertRec (r : JRec) : List JRec → List JRec
  | [] => [r]
  | x :: xs => if seqAfter x.seq r.seq then r :: x :: xs else x :: insertRec r xs

/-- The valid records of the journal in SEQ order, from its listed words. -/
def journal (s : State) : List JRec :=
  ((s.prm.arr.filter fun e => 256 * 4092 ≤ e.1).filterMap fun e => jrec s e.1).foldl (fun l r => insertRec r l) []

/-- The last used word of a sector; none when it is blank. -/
def lastUsed (s : State) (k : Nat) : Option Nat := ((sectorWords s k).map (·.1)).getLast?

/-- The last valid record of a sector. -/
def lastRecord (s : State) (k : Nat) : Option JRec :=
  ((sectorWords s k).filterMap fun e => jrec s e.1).getLast?

/-- A JHEAD is written in word 0 of a journal sector with the given SEQ. -/
def bootHead (k : Nat) (seq : BitVec 28) (s : State) : State :=
  setRaw (256 * k) (withParity (recWord 4 seq 0 (BitVec.ofNat 12 k))) s

/-- The newest JHEAD of the journal. -/
def newestHead (s : State) : Option JRec := ([4092, 4093, 4094, 4095].filterMap (jheadOf s)).foldl later none

/-- The journal erase that the current sector `k` leaves unfinished: its JERASE, where the sector named has no newer
JHEAD (R460, step 2). -/
def unfinished (k : Nat) (s : State) : Option JRec :=
  (lastRecord s k).filter fun r =>
    r.typ = 5 && journalSector r.sec.toNat && !(jheadOf s r.sec.toNat).any fun h => seqAfter h.seq r.seq

/-- The boot must program or erase a journal sector. -/
def bootPulses (s : State) : Bool :=
  match newestHead s with
  | some h => (unfinished (h.w / 256) s).isSome
  | none => true

/-- The loader's scan logs the first word of each 64 B read that fails its parity, with DETAIL bit 9 (R452). -/
def scanJournal (s : State) : State :=
  ((s.prm.arr.filter fun e => 256 * 4092 ≤ e.1 && rawBad e.2 ≠ 0).foldl (fun (a : Option Nat × State) e =>
    if a.1 = some (e.1 / 8) then a else (some (e.1 / 8), logPrimer e.1 0xFF (flag 9 true) a.2)) (none, s)).2

/-- One record replayed. -/
def replay (s : State) (r : JRec) : State :=
  match r.typ with
  | 1 | 6 => modPrm (fun p => { p with jOpen := p.jOpen.filter (·.1 ≠ r.sec.toNat) ++ [(r.sec.toNat, r.w)] }) s
  | 2 => modPrm (fun p => { p with jOpen := p.jOpen.filter (·.1 ≠ r.sec.toNat) }) s
  | 3 => modPrm (fun p => { p with winBase := r.sec, winHead := fld r.arg 0 7, winEn := true }) s
  | _ => s

/-- The journal is scanned and replayed, an unfinished journal erase finished (R460). A store without a valid JHEAD
receives one; its SEQ is a free value (log entry 2) where no record gives one. -/
def journalBoot (s : State) : State :=
  let s := scanJournal s
  let s := match newestHead s with
    | some h => modPrm (fun p => { p with jSector := h.w / 256 }) s
    | none =>
      let d := draw s
      let seq := match (journal d.2).getLast? with
        | some r => r.seq + 1
        | none => fld d.1 0 28
      let t := if blank (prmRaw d.2 (256 * 4092)) then d.2 else eraseSector 4092 d.2
      modPrm (fun p => { p with jSector := 4092 }) (bootHead 4092 seq t)
  let s := match unfinished s.prm.jSector s with
    | some r =>
      let j := r.sec.toNat
      modPrm (fun p => { p with jSector := j }) (bootHead j (r.seq + 1) (eraseSector j s))
    | none => s
  let rs := journal s
  let s := rs.foldl replay (modPrm (fun p => { p with jOpen := [], winEn := false, winBase := 0, winHead := 0 }) s)
  let sect := s.prm.jOpen.foldl (fun m e => tset 0 e.1 2 m)
    (tsets (0 : BitVec 2) 4092 (List.replicate 4 3) [])
  modPrm (fun p => { p with
    sect := sect, jSeq := match rs.getLast? with
      | some r => r.seq + 1
      | none => 0,
    jPos := match lastUsed s p.jSector with
      | some w => w % 256 + 1
      | none => 0 }) s

/-! ## The directory (R468, R469) -/

/-- A loader read of words: a parity error is logged with DETAIL bit 9, and the read fails. -/
def loaderWords (w n : Nat) (s : State) : Option (List W64) × State :=
  let ws := (List.range n).map (w + ·)
  match ws.find? fun w => rawBad (prmRaw s w) ≠ 0 with
  | some w => (none, logPrimer w 0xFF (flag 9 true) s)
  | none => (some (ws.map fun w => rawData (prmRaw s w)), s)

/-- The words of a directory copy that is accepted. -/
def dirCopy (k : Nat) (s : State) : Option (List W64) × State :=
  let r := loaderWords (256 * k) 256 s
  match r.1 with
  | some ws =>
    let w0 := ws.getD 0 0
    let good := fld w0 48 16 = 0x5A44 && fld w0 0 16 = 1 && sectState r.2 k = 0 &&
      fld (ws.getD 1 0) 0 32 = crc32 (wordsBytes (w0 :: ws.drop 2))
    (if good then some ws else none, r.2)
  | none => (none, r.2)

/-- Entries of an accepted copy. -/
def dirEntries (ws : List W64) : List DirEnt :=
  (List.range 63).map fun e => { w0 := ws.getD (4 + 4 * e) 0, w1 := ws.getD (5 + 4 * e) 0 }

/-- Both copies are read and one is accepted (R469). -/
def directoryBoot (s : State) : State :=
  let a := dirCopy 0 s
  let b := dirCopy 1 a.2
  let gen := fun (ws : List W64) => fld (ws.getD 0 0) 32 16
  let take := fun (c : Bool) (ws : List W64) (s : State) => modPrm (fun p => { p with
    dirGen := gen ws, dirValid := true, dirCopy := c, dir := dirEntries ws }) s
  match a.1, b.1 with
  | some x, some y =>
    let d := (gen y - gen x).toNat
    if 1 ≤ d ∧ d ≤ 32767 then take true y b.2 else take false x b.2
  | some x, none => take false x b.2
  | none, some y => take true y b.2
  | none, none => modPrm (fun p => { p with dirValid := false, dir := [], lReason := 8 }) b.2

/-! ## Commands of the table -/

/-- PRM_PULSE_END (R456, R457, R462). -/
def execPrmPulseEnd (good : Bool) (s : State) : Out := .next (pulseEnd good s)

/-- BROWN_OUT_DETECTOR_TRIP (R458). -/
def execBrownOutDetectorTrip (s : State) : Out := .next (tripDetector s)

/-- BROWN_OUT_DETECTOR_RELEASE (R458): with BROWNOUT low and reset released. The job that waits for it begins. -/
def execBrownOutDetectorRelease (s : State) : Out :=
  .next (if s.brownout || s.gctl.boot = .inReset || !s.prm.tripped then s
    else goOn (modPrm (fun p => { p with tripped := false }) s))

end Sys2Proof.Machine
end

