-- ==== Sys2Proof/Machine/Power.lean ====
section
/-! DEFINITION. Power and start-up of the domains (R84, R431, R444, R446, R514-R520), patches and fence fills
(R173, R174, R216), the resets (R503-R508) and the boot (R81, R82, R510). -/

namespace Sys2Proof.Machine

open Sys2Proof

/-! ## Power-up of a quad (R514) -/

/-- Trace records at power-up: each is a zero record or a stale one, whose SEQ_LO is free and matches no written
SEQ (R272, log entry 20). -/
def staleTrace : List (Nat × List W64) → State → Tab (List W64) × State
  | [], s => ([], s)
  | (k, ws) :: rest, s =>
    let d := draw s
    let r := staleTrace rest d.2
    let lo := if fld d.1 0 24 = fld (ws.getD 0 0) 32 24 then fld d.1 0 24 + 1 else fld d.1 0 24
    let ws := ws.set 3 (merge (ws.getD 3 0) (at_ 0 lo) (at_ 0 (BitVec.allOnes 24)))
    (if bit d.1 63 then (k, ws) :: r.1 else r.1, r.2)

/-- A channel of a quad that has just received its power: cleared, its pins driven, WP_N low, the die table copied
into scratch from `uid` (R96, R199, R431, R514 step 4). -/
def clearChannel (c : Chan) (s : State) : State :=
  let tr := staleTrace (chan s c).plb.trace s
  let uid := (List.range 64).flatMap fun j => wordBytes 8 (tget 0 j (chan tr.2 c).ctl.uid)
  modChan c (fun ch => { ctl := ch.ctl, reg := { wpPend := true }, pins := { hiz := false },
                         plb := { trace := tr.1 }, scratch := { bytes := cells 0 0x3E00 uid } }) tr.2

/-- A channel whose quad loses its power: pins high-impedance, everything but its CTL fields lost. -/
def dropChannel (c : Chan) (s : State) : State :=
  modChan c (fun ch => { ctl := ch.ctl, plb := { trace := ch.plb.trace } }) s

/-- The stores of a quad are unloaded; CTL keeps its copy of the VALID bits (R99). -/
def dropStores (q : BitVec 4) (s : State) : State := modQuad q (fun x => { x with pstore := [], slots := [] }) s

/-- What STG held is lost: staging, the words of the streams, the Render contexts (R296, R401). RND_CFG, RND_STATUS and
RND_CTX_SEL keep their values (DESIGN CHOICE, log entry 173). -/
def dropStg (s : State) : State :=
  let s := { s with stg := {}, rnd := { s.rnd with ctx := [], fetch := [], busy := none, queue := [] } }
  (List.range 4).foldl (fun s i => modStrm i (fun x => { x with words := [], reserved := 0 }) s) s

/-- ISO[d] is asserted, then PWR_REQ[d] lowered (R84). -/
def isolate (d : Nat) (s : State) : State :=
  let s := setReq d false (setIso d true s)
  if d < 4 then (if d = 1 then dropStg s else s)
  else dropStores (BitVec.ofNat 4 (d - 4)) ((chansOf (d - 4)).foldl (fun s c => dropChannel c s) s)

def grantAll (s : State) : State := (List.range 4).foldl (fun s i => grantServe i s) s

/-- PWR_GNT[d] has risen: isolation and reset are released (R84). A quad is cleared and waits for the loader, a
decoder bank is ON, STG is initialised next. -/
def grantRise (d : Nat) (s : State) : State :=
  if d = 0 || 20 ≤ d || !bit s.pwr.req d || bit s.pwr.gnt d then s
  else
    let s := setIso d false { s with pwr := { s.pwr with gnt := setBit s.pwr.gnt d true } }
    if d = 1 then grantAll s
    else if d < 4 then softLook (upDone d s)
    else
      let s := (chansOf (d - 4)).foldl (fun s c => clearChannel c s) s
      { s with pwr := { s.pwr with loadQ := s.pwr.loadQ ++ [d - 4] } }

/-! ## Images (R469-R471) -/

/-- The lowest-numbered directory entry of a kind that serves quad `q`. -/
def imageEntry (s : State) (kind : BitVec 4) (q : Nat) : Option DirEnt :=
  s.prm.dir.find? fun e => fld e.w0 60 4 = kind && bit e.w0 (40 + q)

/-- FIRST_SECTOR and LENGTH. -/
def imageFirst (e : DirEnt) : Nat := (fld e.w0 28 12).toNat
def imageLen (e : DirEnt) : Nat := (fld e.w1 0 32).toNat

/-- Some sector of the image is SUSPECT, ERASING or JOURNAL, or does not exist. -/
def imageSectorsBad (s : State) (e : DirEnt) : Bool :=
  (List.range ((min (imageLen e) 1048576 + 255) / 256)).any fun i =>
    4096 ≤ imageFirst e + i || sectState s (imageFirst e + i) ≠ 0

/-- Header word 0 or a reserved header bit is wrong. -/
def headerBad (prog : Bool) (ws : List W64) : Bool :=
  let w0 := ws.getD 0 0
  fld w0 48 16 ≠ (if prog then 0x5A50 else 0x5A55) || fld w0 1 7 ≠ 0 ||
  (if prog then fld (ws.getD 1 0) 27 37 ≠ 0
   else fld (ws.getD 1 0) 25 39 ≠ 0 || fld (ws.getD 1 0) 13 3 ≠ 0) ||
  (if prog then (ws.drop 2).take 14 else (ws.drop 10).take 6).any (· ≠ 0)

/-- Instructions or microwords, and slots or dispatch entries. -/
def imageCounts (prog : Bool) (ws : List W64) : Nat × Nat :=
  let w := ws.getD 1 0
  if prog then ((fld w 0 16).toNat, (fld w 16 11).toNat) else ((fld w 0 13).toNat, (fld w 16 9).toNat)

/-- A count is out of range, or LENGTH disagrees with the counts. -/
def countsBad (prog : Bool) (len : Nat) (ws : List W64) : Bool :=
  let n := imageCounts prog ws
  if prog then n.1 = 0 || 32768 < n.1 || 1024 < n.2 || len ≠ 16 + n.1 + n.2
  else n.1 = 0 || 4096 < n.1 || 256 < n.2 || len ≠ 16 + 2 * n.1 + n.2

/-- TROWEL_VER of the header exceeds the block's (R119). -/
def versionBad (s : State) (ws : List W64) : Bool :=
  (fld (feature s.variant 0) 56 8).toNat < (fld (ws.getD 0 0) 8 8).toNat

/-- Words of an image as stored, parity aside. -/
def imageWords (s : State) (e : DirEnt) : List W64 :=
  (List.range (min (imageLen e) 1048576)).map fun i => rawData (prmRaw s (256 * imageFirst e + i))

/-- The loader reads and checks an image (R471): its words, or the reason for which it is refused. Where several
reasons hold, which of them is shown is a free value (log entry 2). -/
def checkImage (prog : Bool) (q : Nat) (s : State) : (Nat ⊕ List W64) × State :=
  if !s.prm.dirValid then (.inl 8, s)
  else match imageEntry s (if prog then 2 else 1) q with
    | none => (.inl 1, s)
    | some e =>
      let sect := imageSectorsBad s e
      let r := if sect then (some [], s) else loaderWords (256 * imageFirst e) (imageLen e) s
      let ws := imageWords s e
      let reasons := (if headerBad prog ws then [2] else []) ++ (if countsBad prog (imageLen e) ws then [3] else []) ++
        (if crc32 (wordsBytes ws) ≠ fld e.w1 32 32 then [4] else []) ++ (if r.1.isNone then [5] else []) ++
        (if sect then [6] else []) ++ (if versionBad s ws then [7] else [])
      match reasons with
      | [] => (.inr ws, r.2)
      | [x] => (.inl x, r.2)
      | xs =>
        let d := draw r.2
        (.inl (xs.getD (d.1.toNat % xs.length) 1), d.2)

/-- A refused image (R471, R515): the quad loses its power without quiescence; entries waiting for it complete
OFFLINE. -/
def refuseLoad (prog : Bool) (q reason : Nat) (s : State) : State :=
  let d := 4 + q
  let s := modPrm (fun p => { p with lProgram := prog, lQuad := BitVec.ofNat 4 q, lReason := BitVec.ofNat 4 reason,
                                     refusals := satInc p.refusals }) s
  let s := setDue d [] (setDom d .draining (isolate d s))
  let s := setOn d false { s with pwr := { s.pwr with
    wakeEn := setBit s.pwr.wakeEn d false, loadFail := setBit s.pwr.loadFail q true, once := setBit s.pwr.once q true,
    noOut := setBit s.pwr.noOut d true } }
  (s.qe.store.filter fun e => e.stage = .waitWake && !e.isRem && (eCh e).toNat / 4 = q).foldl
    (fun s e => failEntry e.id 0x09 0 s) s

/-- A store word with fresh check bits. -/
def storeWords {n : Nat} (a : Nat) (ws : List (BitVec n)) : Tab SWord :=
  (ws.zipIdx a).map fun p => (p.2, { w := p.1.setWidth 128 })

/-- Pairs of Primer words as microwords, the low word first. -/
def pairWords : List W64 → List (BitVec 128)
  | lo :: hi :: rest => (lo.setWidth 128 ||| (hi.setWidth 128 <<< 64)) :: pairWords rest
  | _ => []

/-- The microcode image goes into the stores of a channel, its header into CH_UCODE_VER and CH_FENCE_CLASS, the slot
of RETRAIN into CH_CAL_ENTRY (R118, R171, R172, R217, R470). -/
def loadMicro (c : Chan) (ws : List W64) (s : State) : State :=
  let n := imageCounts false ws
  let w0 := ws.getD 0 0
  modChan c (fun ch => { ch with
    cstore := storeWords 0 (pairWords ((ws.drop 16).take (2 * n.1))),
    disp := storeWords 0 (((ws.drop (16 + 2 * n.1)).take n.2).map fun w => fld w 0 32),
    ctl := { ch.ctl with fclass := cells 0 0 ((ws.drop 2).take 8), calEntry := 1 },
    reg := { ch.reg with build := fld w0 32 16, major := fld w0 24 8, minor := fld w0 16 8, patches := 0,
                         user := bit w0 0, corr := false, uncorr := false, loaded := true } }) s

/-- The program image goes into the quad's program store and program entry table; CTL copies the VALID bits. -/
def loadProgram (q : BitVec 4) (ws : List W64) (s : State) : State :=
  let n := imageCounts true ws
  let slots := ((ws.drop (16 + n.1)).take n.2).map fun w => fld w 0 32
  modQuad q (fun x => { x with
    pstore := storeWords 0 ((ws.drop 16).take n.1), slots := cells 0 0 slots,
    library := Config.emioth ws, known := true, valid := cells false 0 (slots.map fun v => bit v 15) }) s

/-- The quad has its stores: its records become STALE but for its first power-up, a calibration start is due where one
is STALE, its engines RUN and are at a boundary, and the domain is ON (R52, R514 steps 6 and 7, R521). -/
def quadRuns (q : Nat) (s : State) : State :=
  let again := bit s.pwr.once q
  let s := { s with pwr := { s.pwr with once := setBit s.pwr.once q true, loadFail := setBit s.pwr.loadFail q false },
                    prm := { s.prm with loads := satInc s.prm.loads } }
  let s := (chansOf q).foldl (fun s c =>
    let s := if again then staleAll c s else if anyStale s c then wantCalib c s else s
    atRest c (modChan c (fun ch => { ch with engine := 1 }) s)) s
  upDone (4 + q) s

/-- QUAD_LOAD: the loader serves the quads in the order of their grants, while no Primer command runs (R452, R514). Both
images are read and checked before a store word is written (R469). -/
def quadLoad (q : BitVec 4) (s : State) : State :=
  if s.pwr.loadQ.head? ≠ some q.toNat || !ready s || s.prm.op.isSome then s
  else
    let s := { s with pwr := { s.pwr with loadQ := s.pwr.loadQ.tail } }
    let m := checkImage false q.toNat s
    match m.1 with
    | .inl r => refuseLoad false q.toNat r m.2
    | .inr mw =>
      let p := checkImage true q.toNat m.2
      match p.1 with
      | .inl r => refuseLoad true q.toNat r p.2
      | .inr pw => quadRuns q.toNat (loadProgram q pw ((chansOf q.toNat).foldl (fun s c => loadMicro c mw s) p.2))

/-! ## STG (R431, R444-R446) -/

/-- Spare rows in use in a bank: VALID entries that no later one of the bank replaces. -/
def sparesOf (s : State) (b : Nat) : BitVec 5 :=
  let es := (List.range 16).map fun j => fld (s.intg.fuse.getD (4 * b + j / 4) 0) (16 * (j % 4)) 16
  let rows := es.filterMap fun e => if bit e 15 then some (fld e 0 13) else none
  if s.intg.fuseBad then 0 else BitVec.ofNat 5 rows.eraseDups.length

/-- The spare-row map is applied: SPARES and the REPAIR_SUMMARY records. -/
def applySpares (s : State) : State :=
  (List.range 16).foldl (fun s b =>
    let n := sparesOf s b
    let s := { s with intg := { s.intg with spares := tset 0 b n s.intg.spares } }
    if n = 0 then s else logRec 0x12 false (BitVec.ofNat 32 b) (at_ 0 n) s) s

/-- Banks whose retirement is recorded and has not taken force: it does, with a BANK_RETIRED record each (R446). -/
def retireForce (s : State) : State :=
  let new := (List.range 16).filter fun b => bit s.intg.retired b && !bit s.intg.inForce b
  new.foldl (fun s b => logRec 0x10 false (BitVec.ofNat 32 b) (at_ 0 s.intg.retired) s)
    { s with intg := { s.intg with inForce := s.intg.retired } }

/-- STG_INIT_END: the spare rows are applied, staging is zero, the pools are built afresh, STG is ON. -/
def stgInitEnd (s : State) : State :=
  if domSt s 1 ≠ .requested || !powered s 1 then s
  else upDone 1 (rebuildPools (retireForce (applySpares { s with stg := {} })))

/-! ## Quiescence and power-down (R84, R516, R519) -/

/-- A quad is quiescent: threads IDLE, no routine, no soft handoff, no fill, no patch. -/
def quadQuiet (s : State) (q : Nat) : Bool :=
  (chansOf q).all (fun c =>
    (List.range 8).all (fun t => idle (thr s c (BitVec.ofNat 3 t))) && (routines s c).isEmpty &&
    (chan s c).slot.isNone && !(chan s c).reg.filling && (chan s c).reg.pState = 0) &&
  !(s.soft.queue.any fun h => h.c.toNat / 4 = q) && !(s.soft.dec.any fun h => h.2.c.toNat / 4 = q)

/-- STG is quiescent: no transfer of a DMA engine, no Render command, no Hawk request being served. -/
def stgQuiet (s : State) : Bool := s.xfer.isEmpty && s.rnd.busy.isNone && s.rnd.queue.isEmpty

def quiet (s : State) (d : Nat) : Bool :=
  if d = 1 then stgQuiet s
  else if d < 4 then !(s.soft.dec.any fun h => bankDom h.1 = d)
  else quadQuiet s (d - 4)

/-- CH_DIE_UID is copied from scratch to CTL (R516), each byte with its parity check (R430). -/
def saveUid (c : Chan) (s : State) : State :=
  let r := readMem (.scr c) 0x3E00 512 (rqChan c) s
  modChan c (fun ch => { ch with ctl := { ch.ctl with uid := cells 0 0 (bytesWords 64 (plain r.1)) } }) r.2

/-- A window read or a HAWK_ALLOC read that waits ends with 0. -/
def waitEnds (s : State) : State :=
  match s.port.wait with
  | none | some .sync => s
  | some _ => respond [{ ok := true }] { s with port := { s.port with wait := none } }

/-- Allocations of entries that wait are withdrawn and handled under R333, and the reads that wait for STG end. -/
def stgWithdraw (s : State) : State :=
  let ids := s.hawk.waiting.filterMap fun r => match r.who with
    | .entry id => some id
    | .thread _ _ | .port => none
  let s := { s with hawk := { s.hawk with waiting := [] } }
  waitEnds (ids.foldl (fun s id => wakeOrFail id 1 .waitStg false s) s)

/-- QUIESCENCE: a draining domain is quiet; it is isolated, and its power is given back or STG goes to retention. -/
def quiescence (d : Nat) (s : State) : State :=
  if d = 0 || 20 ≤ d || domSt s d ≠ .draining || bit s.pwr.iso d || !ready s || !quiet s d then s
  else if d = 1 then
    let s := stgWithdraw s
    if s.pwr.retDrain then { setIso 1 true s with pwr := { (setIso 1 true s).pwr with retReq := true } }
    else isolate 1 s
  else if d < 4 then softLook (isolate d s)
  else isolate d ((chansOf (d - 4)).foldl (fun s c => saveUid c s) s)

/-- OUTCOME of a sleep that is done: DONE_REWOKEN where a wake lost to it, else DONE (R519). -/
def sleepDone (s : State) (d : Nat) : BitVec 3 := if (dueOf s d).head? = some .wake then 3 else 1

/-- PWR_GNT[d] has fallen: the domain is OFF, its sleep has its outcome, and a wake that lost powers it up again
(R517, R519). Grants asked back by a cold reset only fall (R508). -/
def grantFall (d : Nat) (s : State) : State :=
  if d = 0 || 20 ≤ d || bit s.pwr.req d || !bit s.pwr.gnt d then s
  else
    let s := { s with pwr := { s.pwr with gnt := setBit s.pwr.gnt d false } }
    if domSt s d ≠ .draining then runWants s
    else
      let s := if bit s.pwr.noOut d then s else setOutcome d (sleepDone s d) s
      let s := { s with pwr := { s.pwr with noOut := setBit s.pwr.noOut d false } }
      serveDue d (setDom d .off (if d = 1 then dropStg s else s))

/-- RET_GNT answers RET_REQ: STG enters or leaves retention, which keeps its contents (R84, R431, R512). After a cold
reset, which has ended the retention, it only falls. -/
def retGrant (level : Bool) (s : State) : State :=
  if s.pwr.retReq ≠ level || s.pwr.retGnt = level then s
  else
    let s := { s with pwr := { s.pwr with retGnt := level } }
    if level then
      serveDue 1 (setOutcome 1 (sleepDone s 1) (setDom 1 .off { s with pwr := { s.pwr with
        retained := true, retDrain := false } }))
    else if s.pwr.retained && domSt s 1 = .requested then
      let s := grantAll (setIso 1 false { s with pwr := { s.pwr with retained := false } })
      let new := s.intg.inForce ≠ s.intg.retired
      let s := retireForce s
      upDone 1 (if new then withholdStart s else s)
    else s

/-! ## PWR_DOMAIN_CTRL (R512) -/

/-- Domain `d` exists in the variant (R2). -/
def domThere (s : State) (d : Nat) : Bool := 1 ≤ d && d < 4 + nQuad s

/-- RET is set: a retention request, which gives way to a wake of STG that wins (R517, R519). Of an STG that is off or
going off it requests nothing. -/
def retSet (s : State) : State :=
  let on := fun (s : State) => { s with pwr := { s.pwr with ret := true } }
  match domSt s 1 with
  | .on =>
    let r := wakeWins 1 s
    if r.1 then setOutcome 1 2 r.2 else sleepReq 1 .retain (on r.2)
  | .off => if s.pwr.retained then on s else s
  | _ => if lastReq s 1 = .wake then ask 1 .retain (on s) else s

/-- RET is cleared: retention ends, or ends as soon as it has been reached (R517). -/
def retClear (s : State) : State :=
  let s := { s with pwr := { s.pwr with ret := false } }
  if domSt s 1 = .off && s.pwr.retained then stgUp s
  else if lastReq s 1 = .retain then ask 1 .wake s
  else s

/-- A write of PWR_DOMAIN_CTRL: each changed ON bit in the order of the domains, then RET where the write changes it. -/
def domainCtrl (v : W64) (s : State) : State :=
  let ret := s.pwr.ret
  let s := (List.range 19).foldl (fun s i =>
    let d := i + 1
    if !domThere s d || bit s.pwr.on d = bit v d then s
    else if bit v d then autoWake d s
    else sleepWrite d s) s
  let s := if ret = bit v 32 then s else if bit v 32 then retSet s else retClear s
  softLook s

/-! ## Patches and fills (R173, R174, R216) -/

/-- A write of CH_PATCH with GO while STATE is IDLE: WAITING, or COPYING at once with no routine running. RESULT keeps
the outcome of the patch before until this one ends. -/
def patchGo (c : Chan) (v : W64) (s : State) : State :=
  let disp := bit v 58
  let n := (fld v 45 13).toNat
  let src := (fld v 13 20).toNat
  let bad := n = 0 || (if disp then 256 else 4096) < (fld v 33 12).toNat + n ||
    1048576 < src + (if disp then n else 2 * n)
  let idleBus := (chan s c).cur.isNone
  modReg c (fun r => { r with pDisp := disp, pCount := fld v 45 13, pTarget := fld v 33 12, pSrc := fld v 13 20,
                              pState := if bad then 0 else if idleBus then 2 else 1,
                              pResult := if bad then 3 else r.pResult }) s

/-- Words of a patch are copied in ascending order until one fails its parity (DETAIL bit 8): whether all were. -/
def patchWords (c : Chan) (disp : Bool) : (n : Nat) → (src dst : Nat) → State → Bool × State
  | 0, _, _, s => (true, s)
  | n + 1, src, dst, s =>
    let ws := if disp then [src] else [src, src + 1]
    match ws.find? fun w => rawBad (prmRaw s w) ≠ 0 with
    | some w => (false, logPrimer w 0xFF (flag 8 true) s)
    | none =>
      let lo := rawData (prmRaw s src)
      let hi := rawData (prmRaw s (src + 1))
      let v := if disp then (fld lo 0 32).setWidth 128 else lo.setWidth 128 ||| (hi.setWidth 128 <<< 64)
      let x : SWord := { w := v }
      patchWords c disp n (src + ws.length) (dst + 1) (modChan c (fun ch =>
        if disp then { ch with disp := tput dst x ch.disp } else { ch with cstore := tput dst x ch.cstore }) s)

/-- PATCH_COPY: the patch is COPYING, no routine runs and no Primer command is in the way: the words are copied (R174,
R452). -/
def patchCopy (c : Chan) (s : State) : State :=
  let r := (chan s c).reg
  if r.pState ≠ 2 || (chan s c).cur.isSome || s.prm.op.isSome then s
  else
    let k := patchWords c r.pDisp r.pCount.toNat r.pSrc.toNat r.pTarget.toNat s
    dopRetries c (modReg c (fun r => { r with
      pState := 0, pResult := if k.1 then 1 else 2, patches := if k.1 then satInc r.patches else r.patches }) k.2)

/-- FENCE_FILL_END: every entry of the region has FILL_VALUE, and the DOPs that wait go on. While STG is off nothing
is written (log entry 22). -/
def fillEnd (c : Chan) (s : State) : State :=
  if !(chan s c).reg.filling then s
  else dopRetries c (modReg c (fun r => { r with filling := false }) (if stgOn s then fillRegion c s else s))

/-- A fill cut by a reset: the entries of the steps done are written. How many they are is a free value. -/
def cutFill (c : Chan) (s : State) : State :=
  if !(chan s c).reg.filling || !stgOn s then s
  else
    let d := draw s
    let x := (chan s c).ctl
    let n := d.1.toNat % (2 ^ (ctxLog2 s c + ebLog2 s c) / 4 + 1)
    stgWrite (x.fBase.toNat * 4096) (clean (List.replicate (4 * n) (wordBytes 2 (x.fill.setWidth 64))).flatten)
      (rqChan c) d.2

/-! ## Resets (R503-R508) -/

/-- Transactions in flight at the port complete with an OK response, reads with 0, each word of a burst (R505). -/
def portReset (s : State) : State :=
  let none_ : PResp := { ok := true }
  let held := s.port.held.map fun r => if r.form = .burst && !r.write then { none_ with words := List.replicate 8 0 } else none_
  { s with port := { resp := (if s.port.wait.isSome then [none_] else []) ++ held } }

/-- The credits of an input stream that a reset withdraws (R401, R505). -/
def lateWords (x : Strm) : Strm := { late := x.credits + x.late }

/-- Every register and memory at its value after a cold reset. The inputs from outside, TIME, the Primer array, the
free values and the waiting commands stay, and the trace rings, whose records a power-up may find stale (R272). -/
def coldState (cause : Byte) (boot : Boot) (s : State) : State :=
  let s := portReset (tripDetector s)
  { variant := s.variant, time := s.time, free := s.free, pfail := s.pfail, brownout := s.brownout,
    gctl := { cause := cause, boot := boot }, prm := { arr := s.prm.arr },
    str := (s.str.filter (·.1 < 2)).map fun e => (e.1, lateWords e.2),
    pwr := { gnt := s.pwr.gnt, retGnt := s.pwr.retGnt },
    intg := { fuseAt := s.time, upset := s.intg.upset },
    ch := s.ch.map fun e => (e.1, { plb := { trace := e.2.plb.trace } }), port := s.port, pending := s.pending }

/-- A register cold reset: every grant but CTL's is asked back (R508). -/
def coldReset (s : State) : State :=
  let t := coldState 3 .init s
  { t with gctl := { t.gctl with coldAt := some s.time } }

/-- Whether a warm reset write gives way to a cold one of the same step (R504). A step is shorter than the 1 ns of TIME,
so whether a cold reset of this TIME shares the write's step is a free value (log entry 157). -/
def coldWins (s : State) : Bool × State :=
  if s.gctl.coldAt = some s.time then (bit (draw s).1 0, (draw s).2) else (false, s)

/-- A channel of a powered quad at a warm reset (R198, R199, R506, R507). -/
def warmChannel (c : Chan) (s : State) : State :=
  let s := cutFill c s
  modChan c (fun ch =>
    let r := ch.reg
    { ctl := ch.ctl, engine := ch.engine, flags := ch.flags, scratch := ch.scratch, cwb := ch.cwb,
      cstore := ch.cstore, disp := ch.disp, lib := ch.lib,
      reg := { key := r.key, bypass := r.bypass, softIter := r.softIter, hardIter := r.hardIter, zeros := r.zeros,
               llr := r.llr, faultPc := r.faultPc, faultT := r.faultT, faultC := r.faultC, build := r.build,
               major := r.major, minor := r.minor, patches := r.patches, user := r.user, corr := r.corr,
               uncorr := r.uncorr, loaded := r.loaded, wpNow := r.wpNow },
      pins := { hiz := false, wp := ch.pins.wp },
      plb := { acc := ch.plb.acc, ofs := ch.plb.ofs, frozen := ch.plb.frozen, feStart := ch.plb.feStart,
               feZl := ch.plb.feZl, trace := ch.plb.trace },
      tb := { pend := ch.tb.pend, line := ch.tb.line, phy := ch.tb.phy, dly := ch.tb.dly } }) s

/-- Streams at a reset: STR_CFG stays (R401). -/
def warmStream (x : Strm) : Strm :=
  { rdWait := x.rdWait, post := x.post, freezeEn := x.freezeEn, burstMax := x.burstMax, unit := x.unit,
    thresh := x.thresh, late := x.credits + x.late }

/-- The interrupt controller at a warm reset (R428). -/
def warmIc (x : Ic) : Ic :=
  { mask := x.mask, prio := x.prio, target := x.target,
    hold := x.hold.map fun e => (e.1, { value := e.2.value }),
    proc := x.proc.map fun e => (e.1, { vbase := e.2.vbase, enable := e.2.enable, base := e.2.base }) }

/-- The Lath at a warm reset (R494). -/
def warmLath (x : Lath) : Lath :=
  { node := x.node, path := x.path, epoch := x.epoch + 1, timeout := x.timeout, dateline := x.dateline,
    topo := x.topo, nodes := x.nodes,
    port := x.port.map fun e => (e.1, { enable := e.2.enable, maxRate := e.2.maxRate }) }

/-- A register warm reset (R506, R507). A warm reset during a cold boot restarts that boot at INIT (R504). No queue counts
as created after it (DESIGN CHOICE, log entry 175). -/
def warmReset (s : State) : State :=
  let s := portReset (tripDetector s)
  let s := ((List.range 64).filter fun c => quadUp s (BitVec.ofNat 6 c)).foldl
    (fun s c => warmChannel (BitVec.ofNat 6 c) s) s
  let g := s.gctl
  let n := s.intg
  let p := s.prm
  { variant := s.variant, time := s.time, free := s.free, pfail := s.pfail, brownout := s.brownout,
    gctl := { cause := 4, warms := satInc g.warms, boot := .init, warmBoot := ready s || g.warmBoot, qmode := g.qmode,
              evidence := g.evidence, hRemote := g.hRemote, hCause := g.hCause, hIndex := g.hIndex, hSq := g.hSq,
              hTime := g.hTime, hEntry := g.hEntry },
    pwr := { s.pwr with loadFail := 0 },
    tok := { quadMax := s.tok.quadMax, hold := s.tok.hold, total := s.tok.total },
    cal := { count := s.cal.count, last := s.cal.last, ch := s.cal.ch, die := s.cal.die },
    srv := { next := s.srv.next, prev := s.srv.prev },
    ic := warmIc s.ic,
    str := s.str.map fun e => (e.1, warmStream e.2),
    hawk := { pool := s.hawk.pool.map fun e => (e.1, { e.2 with busy := false }) },
    rnd := { fetchTmo := s.rnd.fetchTmo },
    qe := { ctxBase := s.qe.ctxBase },
    plb := { deadband := s.plb.deadband, ki := s.plb.ki, hi := s.plb.hi, lo := s.plb.lo, feLimit := s.plb.feLimit,
             feTime := s.plb.feTime, tPost := s.plb.tPost, tFreeze := s.plb.tFreeze, tLevel := s.plb.tLevel,
             tZone := s.plb.tZone, tDie := s.plb.tDie, tMode := s.plb.tMode, tEnable := s.plb.tEnable },
    intg := { n with sel := 0, view := 0, hits := 0 },
    stg := s.stg,
    prm := { arr := p.arr, win := p.win, word := p.word, data := p.data, result := p.result, dirGen := p.dirGen,
             dirValid := p.dirValid, dirCopy := p.dirCopy, lProgram := p.lProgram, lQuad := p.lQuad,
             lReason := p.lReason, loads := p.loads, refusals := p.refusals, dir := p.dir },
    lath := warmLath s.lath, quad := s.quad, ch := s.ch, port := s.port, pending := s.pending }

/-! ## Boot (R81, R82, R510) -/

/-- Time since the fuse block began to deliver, at the start of INIT (R82, R510), in ns. -/
def fuseAge (s : State) : Nat := (s.time - s.intg.fuseAt).toNat

/-- A cold boot whose fuse map is on its way. -/
def fuseOpen (s : State) : Bool :=
  (s.gctl.boot = .init || s.gctl.boot = .fuseWait) && !s.gctl.warmBoot && !s.intg.fuseDone

/-- The delivery has ended: a boot that waits for it goes on. -/
def fuseOver (s : State) : State :=
  let s := { s with intg := { s.intg with fuseDone := true } }
  if s.gctl.boot = .fuseWait then { s with gctl := { s.gctl with boot := .journal } } else s

/-- A fault of the delivery: no repair is applied, FUSE_FAULT is logged (R82). -/
def fuseFault (detail : W64) (s : State) : State :=
  fuseOver (logRec 0x0C true 0 detail { s with intg := { s.intg with fuseBad := true } })

/-- FUSE_WORD: word 64 carries the CRC of the others. A word that comes after 100 µs comes too late. -/
def fuseWord (w : W64) (s : State) : State :=
  if !fuseOpen s || 100000 < fuseAge s then s
  else if s.intg.fuse.length < 64 then { s with intg := { s.intg with fuse := s.intg.fuse ++ [w] } }
  else if crc32 (wordsBytes s.intg.fuse) = fld w 0 32 then fuseOver s
  else fuseFault 1 s

/-- FUSE_TIMEOUT: words are missing at 100 µs. -/
def fuseTimeout (s : State) : State := if fuseOpen s && 100000 ≤ fuseAge s then fuseFault 2 s else s

/-- BOOT_INIT_END: at the end of a warm reset the pools are built afresh (R385) and the level sources are sampled (R409,
R428). -/
def bootInitEnd (s : State) : State :=
  if s.gctl.boot ≠ .init then s
  else
    let s := if s.gctl.warmBoot then rebuildPools s else s
    let s := if s.gctl.cause = 4 then resample s else s
    { s with gctl := { s.gctl with
      boot := if s.gctl.warmBoot || s.intg.fuseDone then .journal else .fuseWait } }

/-- BOOT_JOURNAL (R460). A boot that must program or erase waits until pulses may begin (R458). -/
def bootJournal (s : State) : State :=
  if s.gctl.boot ≠ .journal || (s.prm.tripped && bootPulses s) then s
  else
    let s := journalBoot s
    { s with gctl := { s.gctl with boot := .directory } }

/-- BOOT_DIRECTORY (R469): the block is READY; its enabled Lath ports train (R494), idle channels are at a boundary. -/
def bootDirectory (s : State) : State :=
  if s.gctl.boot ≠ .directory then s
  else
    let s := directoryBoot s
    let s := trainAll { s with gctl := { s.gctl with boot := .ready, warmBoot := false } }
    (List.range 64).foldl (fun s c =>
      if (chan s (BitVec.ofNat 6 c)).engine = 1 then atRest (BitVec.ofNat 6 c) s else s) s

/-! ## Commands of the table -/

/-- PWR_GRANT_RISE (R84). -/
def execPwrGrantRise (d : Nat) (s : State) : Out := .next (grantRise d s)

/-- PWR_GRANT_FALL (R84). -/
def execPwrGrantFall (d : Nat) (s : State) : Out := .next (grantFall d s)

/-- RET_GRANT (R84). -/
def execRetGrant (level : Bool) (s : State) : Out := .next (retGrant level s)

/-- QUIESCENCE (R516). -/
def execQuiescence (d : Nat) (s : State) : Out := .next (quiescence d s)

/-- QUAD_LOAD (R514, R515). -/
def execQuadLoad (q : BitVec 4) (s : State) : Out := .next (quadLoad q s)

/-- STG_INIT_END (R431). -/
def execStgInitEnd (s : State) : Out := .next (stgInitEnd s)

/-- PFAIL_RISE (R79, R520). A post made during a reset is lost; the end of INIT samples the level (R428). -/
def execPfailRise (s : State) : Out :=
  .next (if s.pfail then s
    else
      let s := { s with pfail := true }
      if s.gctl.boot = .inReset || s.gctl.boot = .init then s else post srcPfail s)

/-- PFAIL_FALL (R520). -/
def execPfailFall (s : State) : Out := .next { s with pfail := false }

/-- BROWNOUT_RISE (R80, R504): the block is held in reset. -/
def execBrownoutRise (s : State) : Out :=
  .next (if s.brownout then s else coldState 2 .inReset { s with brownout := true })

/-- BROWNOUT_FALL (R80, R503): a cold start; the power manager has removed every other grant. -/
def execBrownoutFall (s : State) : Out :=
  .next (if !s.brownout then s
    else coldState 2 .init { s with brownout := false, pwr := { s.pwr with gnt := 1, retGnt := false } })

/-- POWER_ON_RESET (R503): PWR_GNT[0] rises. Held in reset while BROWNOUT is high (R504). -/
def execPowerOnReset (s : State) : Out :=
  .next (coldState 1 (if s.brownout then .inReset else .init)
    { s with pwr := { s.pwr with gnt := 1, retGnt := false } })

/-- FUSE_WORD (R81). -/
def execFuseWord (w : W64) (s : State) : Out := .next (fuseWord w s)

/-- FUSE_TIMEOUT (R82). -/
def execFuseTimeout (s : State) : Out := .next (fuseTimeout s)

/-- BOOT_INIT_END (R510). -/
def execBootInitEnd (s : State) : Out := .next (bootInitEnd s)

/-- BOOT_JOURNAL (R460). -/
def execBootJournal (s : State) : Out := .next (bootJournal s)

/-- BOOT_DIRECTORY (R469). -/
def execBootDirectory (s : State) : Out := .next (bootDirectory s)

/-- PATCH_COPY (R174). -/
def execPatchCopy (c : Chan) (s : State) : Out := .next (patchCopy c s)

/-- FENCE_FILL_END (R216). -/
def execFenceFillEnd (c : Chan) (s : State) : Out := .next (fillEnd c s)

end Sys2Proof.Machine
end

