-- ==== Sys2Proof/Machine/Integrity.lean ====
section
/-! DEFINITION. Bank retirement, the split-access test window, and the INT_ registers (R386, R437-R446). -/

namespace Sys2Proof.Machine

open Sys2Proof

def modIntg (f : Intg → Intg) (s : State) : State := { s with intg := f s.intg }

/-! ## Bank retirement (R445, R446) -/

/-- A write of 1 bits to RETIRED: stored; with STG working it takes force at once and the pools begin to withhold,
else at the next power-up. -/
def retireBanks (bits : BitVec 16) (s : State) : State :=
  let s := modIntg (fun g => { g with retired := g.retired ||| bits }) s
  if stgOn s && s.intg.inForce ≠ s.intg.retired then withholdStart (retireForce s) else s

/-- INT_BANK_RETIRE as read. PENDING while a pool still removes its withheld buffers. -/
def retireWord (s : State) : W64 :=
  at_ 32 s.intg.hits ||| flag 16 ((List.range 6).any fun k => (pool s k).busy) ||| at_ 0 s.intg.retired

/-! ## Split-access test window (R437, R438): `o` is the window offset -/

/-- Staging address of window offset `o`. -/
def splitAddr (s : State) (o : Nat) : Nat := s.intg.sel.toNat * 2097152 + o

/-- The stored parity bit of a staging byte. -/
def parityBit (s : State) (a : Nat) : Bool := oddParity (rawByte s .stg a) != tget false a s.stg.bad

/-- The 8 B word at window offset `o` as the CHECK_BITS view shows it. -/
def checkBits (s : State) (a : Nat) : W64 :=
  (List.range 8).foldl (fun v i => v ||| flag i (parityBit s (a + i))) (flag 8 (markOf s .stg a))

/-- One 8 B word of the window, `n` bytes from byte `lo` of it checked in the CHECKED view. -/
def splitWord (o lo n : Nat) (s : State) : W64 × State :=
  let a := splitAddr s o
  if !stgOn s || s.intg.view = 0 then (0, s)
  else if retiredAt s .stg a then (0, hit 1 s)
  else match s.intg.view.toNat with
    | 1 =>
      let r := readMem .stg (a + lo) n rqPort s
      (bytesWord (plain r.1) <<< (8 * lo), r.2)
    | 2 => (bytesWord ((List.range 8).map fun i => rawByte s .stg (a + i)), s)
    | _ =>
      let s := checkGroup .stg a rqPort s
      (checkBits s a, s)

/-- A write of the bytes of the 8 B word at window offset `o` that the mask `m` covers. -/
def splitWrite (o : Nat) (m v : W64) (s : State) : State :=
  let a := splitAddr s o
  let ks := (List.range 8).filter fun i => fld m (8 * i) 8 ≠ 0
  if !stgOn s || s.intg.view = 0 then s
  else if retiredAt s .stg a then hit 1 s
  else match s.intg.view.toNat, ks with
    | _, [] => s
    | 1, k :: _ => writeMem .stg (a + k) (clean (ks.map fun i => fld v (8 * i) 8)) rqPort s
    | 2, ks => ks.foldl (fun s i =>
        let p := parityBit s (a + i)
        let b := fld v (8 * i) 8
        modRam .stg (fun r => { r with bytes := tset 0 (a + i) b r.bytes,
                                       bad := tset false (a + i) (p != oddParity b) r.bad }) s) s
    | _, _ =>
      if fld m 0 8 = 0 then s
      else
        let s := (List.range 8).foldl (fun s i => modRam .stg (fun r => { r with
          bad := tset false (a + i) (bit v i != oddParity (tget 0 (a + i) r.bytes)) r.bad }) s) s
        setMark .stg a (bit v 8) (checkGroup .stg a rqPort s)

/-! ## Registers (R437, R441-R443, R445): byte offset from 0x006_0000 -/

/-- INT_ERRLOG. -/
def errLog (s : State) : W64 :=
  at_ 56 s.intg.fKind ||| at_ 48 s.intg.count ||| at_ 40 s.intg.dropped ||| flag 39 s.intg.valid ||| at_ 0 s.intg.fLoc

def intRead (o : Nat) (s : State) : W64 :=
  if o = 0x00 then errLog s
  else if o = 0x08 then at_ 2 s.intg.sel ||| at_ 0 s.intg.view
  else if o = 0x10 then retireWord s
  else if o = 0x18 then s.intg.eTime
  else if 0x100 ≤ o ∧ o < 0x180 then
    let b := (o - 0x100) / 8
    at_ 48 (tget 0 b s.intg.spares) ||| at_ 0 (tget 0 b s.intg.errors)
  else 0

/-- What a read clears: the RC fields that the read bits `m` cover whole. -/
def intReadAct (o : Nat) (m : W64) (s : State) : State :=
  if o = 0x00 then
    modIntg (fun g =>
      let g := if bit m 32 then { g with fKind := 0, count := 0, dropped := 0, valid := false } else g
      if bit m 0 then { g with fLoc := 0 } else g) s
  else if o = 0x10 && bit m 32 then modIntg (fun g => { g with hits := 0 }) s
  else s

/-- A write: `m` the bits written, `v` the stored bits with those replaced, `act` the written bits alone. -/
def intWrite (o : Nat) (v act : W64) (s : State) : State :=
  if o = 0x08 then modIntg (fun g => { g with sel := fld v 2 5, view := fld v 0 2 }) s
  else if o = 0x10 then retireBanks (fld act 0 16) s
  else s

end Sys2Proof.Machine
end

