-- ==== Sys2Proof/Machine/Interrupt.lean ====
section
/-! DEFINITION. The interrupt controller: eligibility and placement (R411, R412), taken (R413), withdrawal
(R414), EOI (R416), hold-off (R418), and the IC_ registers (R421-R427). -/

namespace Sys2Proof.Machine

open Sys2Proof

/-- Processors present: PROC_MASK of GCTL_FEAT2 (R114), the same on both variants. -/
def procMask : BitVec 16 := 0xFFFF

/-- The highest level in ACTIVE; 0 when none. -/
def topLevel (a : BitVec 16) : Nat := ((List.range 16).filter a.getLsbD).foldl max 0

/-- RUNPRIO of a processor (R415). -/
def runPrio (x : Proc) : Nat := max x.base.toNat (topLevel x.active)

def holdOf (s : State) (g : Nat) : Hold := tget {} g s.ic.hold

/-- Source `n` is presented at a processor. -/
def presented (s : State) (n : Nat) : Bool :=
  (List.range 16).any fun p => (proc s p).pres.any fun x => decide (x.src = n)

/-- The bits set in a word of the pending array: their source numbers, ascending. -/
def wordSources (w : Nat × W64) : List Nat :=
  ((List.range 64).filter w.2.getLsbD).map fun b => 64 * w.1 + b

/-- The pending sources, ascending. -/
def pendingSrcs (s : State) : List Nat := s.ic.pend.flatMap wordSources

/-- Source `n` is eligible (R411). -/
def eligible (s : State) (n : Nat) : Bool :=
  n < nSrc && pendOf s n && !maskOf s n && prioOf s n ≠ 0 && !(holdOf s (n / 64)).running && !presented s n

/-- Processor `p` can accept source `n` (R411). -/
def canAccept (s : State) (n p : Nat) : Bool :=
  let x := proc s p
  let q := (prioOf s n).toNat
  bit (targetOf s n) p && bit procMask p && x.enable && runPrio x < q &&
  match x.pres with
  | none => true
  | some v => v.prio.toNat < q

/-- The eligible sources that some processor can accept. -/
def candidates (s : State) : List Nat :=
  (pendingSrcs s).filter fun n => eligible s n && (List.range 16).any (canAccept s n)

/-- The least number of a list above `last`, or the least of all where none is: ascending, wrapping. -/
def firstAfter (last : Nat) (xs : List Nat) : Option Nat := ((xs.filter (last < ·)).min?).orElse fun _ => xs.min?

/-- The source that is placed next (R412). -/
def pickSource (s : State) : Option Nat :=
  let cs := candidates s
  let q := cs.foldl (fun m n => max m (prioOf s n).toNat) 0
  firstAfter (tget 132095 q s.ic.lastSrc) (cs.filter fun n => (prioOf s n).toNat = q)

/-- The processor at which source `n` is placed (R412). -/
def pickProc (s : State) (n : Nat) : Option Nat :=
  let ps := (List.range 16).filter (canAccept s n)
  let r := ps.foldl (fun m p => min m (runPrio (proc s p))) 16
  firstAfter s.ic.lastProc (ps.filter fun p => runPrio (proc s p) = r)

/-- The vector address of source `n` at processor `p` (R412), modulo 2^64. -/
def vectorAddr (s : State) (n p : Nat) : W64 :=
  ((proc s p).vbase.setWidth 64 <<< 4) + BitVec.ofNat 64 (16 * n)

/-- One round of R412: a lower vector at the chosen processor is withdrawn. -/
def place (s : State) : State :=
  match pickSource s with
  | none => s
  | some n =>
    match pickProc s n with
    | none => s
    | some p => modProc p (fun x => { x with pres := some ⟨n, prioOf s n, vectorAddr s n p, false⟩ }) s

/-- Rounds of R412 until nothing can be placed. `fuel` bounds them. -/
def placeAll : (fuel : Nat) → State → State
  | 0, s => s
  | fuel + 1, s => if (candidates s).isEmpty then s else placeAll fuel (place s)

/-- The withdrawals that are due complete (R69, R414). -/
def withdrawDue (s : State) : State :=
  { s with ic := { s.ic with proc := s.ic.proc.map fun e =>
    (e.1, { e.2 with pres := e.2.pres.filter fun v => !v.due }) } }

/-- The vectors at processors that satisfy `f` are to be withdrawn (R414). -/
def markDue (f : Nat → Pres → Bool) (s : State) : State :=
  { s with ic := { s.ic with proc := s.ic.proc.map fun e =>
    (e.1, { e.2 with pres := e.2.pres.map fun v => { v with due := v.due || f e.1 v } }) } }

/-- A waiting IC_MASK_SYNC read ends once no presented vector has its source masked (R420). -/
def syncServe (s : State) : State :=
  match s.port.wait with
  | some .sync =>
    if (List.range 16).any fun p => (proc s p).pres.any fun v => maskOf s v.src then s
    else
      respond [{ ok := true, value := at_ 0 s.ic.escaped }]
        { s with ic := { s.ic with escaped := 0 }, port := { s.port with wait := none } }
  | _ => s

/-- Group `g`'s hold-off starts at a taken (R418). -/
def startHold (g : Nat) (s : State) : State :=
  let h := holdOf s g
  if h.value = 0 then
    { s with ic := { s.ic with hold := tset {} g { h with running := false } s.ic.hold } }
  else
    let h' : Hold := { h with running := true, until_ := s.time + BitVec.ofNat 64 (16 * h.value.toNat) }
    markDue (fun _ v => v.src / 64 = g) { s with ic := { s.ic with hold := tput g h' s.ic.hold } }

/-- TAKEN at processor `p` (R413). -/
def icTaken (p : Nat) (s : State) : State :=
  match (proc s p).pres with
  | none => s
  | some v =>
    let masked := maskOf s v.src
    let s := setPend v.src false s
    let s := modProc p (fun x => { x with active := setBit x.active v.prio.toNat true, pres := none,
                                          lastTaken := BitVec.ofNat 18 v.src }) s
    let s := { s with ic := { s.ic with
      lastSrc := tput v.prio.toNat v.src s.ic.lastSrc, lastProc := p,
      escaped := if masked then setBit s.ic.escaped p true else s.ic.escaped } }
    startHold (v.src / 64) s

/-- A group's hold-off ends at the first TIME sample at or after its end time (R418). -/
def holdEnd (g : Nat) (s : State) : State :=
  let h := holdOf s g
  if h.running && h.until_ ≤ s.time then
    { s with ic := { s.ic with hold := tput g { h with running := false } s.ic.hold } }
  else s

/-! ## Registers -/

/-- A write of IC_MSG (R408). -/
def icMsg (src : BitVec 18) (s : State) : State :=
  let n := src.toNat
  if nSrc ≤ n || isLevel n || isReservedSrc n then
    { s with ic := { s.ic with badMsg := true, badSrc := if s.ic.badMsg then s.ic.badSrc else src } }
  else post n s

/-- A write of IC_EOI[p] (R416). -/
def icEoi (p : Nat) (level : BitVec 4) (s : State) : State :=
  let x := proc s p
  if level = 0 || !bit x.active level.toNat then
    { s with ic := { s.ic with badEoi := true,
                               eoiProc := if s.ic.badEoi then s.ic.eoiProc else BitVec.ofNat 4 p } }
  else
    placeAll 256 (resample
      (modProc p (fun x => { x with active := setBit x.active level.toNat false }) s))

/-- Bits of IC_PEND word `w` that read 0 and ignore writes: reserved function sources (R410). -/
def pendFixed (w : Nat) : W64 :=
  if w = 2048 then 0xFFFFFFFFFFFFE000 else if 2049 ≤ w ∧ w ≤ 2051 then BitVec.allOnes 64 else 0

/-- Register at byte offset `o` of the controller's range. -/
def icRead (o : Nat) (s : State) : W64 :=
  let ic := s.ic
  if o = 0x8 then at_ 0 ic.escaped
  else if o = 0x10 then at_ 32 ic.badSrc ||| at_ 16 ic.eoiProc ||| flag 1 ic.badEoi ||| flag 0 ic.badMsg
  else if 0x1000 ≤ o ∧ o < 0x1400 then
    let p := (o - 0x1000) / 64
    let x := proc s p
    if !bit procMask p then 0
    else match (o - 0x1000) % 64 with
      | 0x00 => at_ 4 x.vbase ||| flag 0 x.enable
      | 0x08 => at_ 32 (x.active &&& 0xFFFE) ||| at_ 16 (BitVec.ofNat 4 (popCount (x.active &&& 0xFFFE))) |||
                at_ 8 x.base ||| at_ 0 (BitVec.ofNat 4 (runPrio x))
      | 0x18 => (match x.pres with
          | some v => flag 63 true ||| at_ 56 v.prio ||| at_ 32 (BitVec.ofNat 18 v.src)
          | none => 0) ||| at_ 0 x.lastTaken
      | _ => 0
  else if 0x4000 ≤ o ∧ o < 0x8080 then tget (BitVec.allOnes 64) ((o - 0x4000) / 8) ic.mask
  else if 0xC000 ≤ o ∧ o < 0x10080 then tget 0 ((o - 0xC000) / 8) ic.pend
  else if 0x14000 ≤ o ∧ o < 0x18080 then
    let h := holdOf s ((o - 0x14000) / 8)
    flag 16 h.running ||| at_ 0 h.value
  else if 0x20000 ≤ o ∧ o < 0x30200 then tget 0 ((o - 0x20000) / 8) ic.prio
  else if 0x38000 ≤ o ∧ o < 0x78800 then tget 0 ((o - 0x38000) / 8) ic.target
  else 0

/-- A write at byte offset `o`: `m` the bits written, `v` the stored bits with those replaced, `act` the written
bits alone. -/
def icWrite (o : Nat) (m v act : W64) (s : State) : State :=
  let ic := s.ic
  if o = 0x0 then (if fld m 0 18 ≠ 0 then icMsg (fld act 0 18) s else s)
  else if o = 0x10 then
    { s with ic := { ic with badMsg := ic.badMsg && !bit act 0, badEoi := ic.badEoi && !bit act 1 } }
  else if 0x1000 ≤ o ∧ o < 0x1400 then
    let p := (o - 0x1000) / 64
    if !bit procMask p then s
    else match (o - 0x1000) % 64 with
      | 0x00 => markDue (fun k _ => k = p) (modProc p (fun x => { x with vbase := fld v 4 60, enable := bit v 0 }) s)
      | 0x08 =>
        let s := modProc p (fun x => { x with base := fld v 8 4 }) s
        markDue (fun k w => k = p && w.prio.toNat ≤ runPrio (proc s p)) s
      | 0x10 => if fld m 0 4 ≠ 0 then icEoi p (fld act 0 4) s else s
      | _ => s
  else if 0x4000 ≤ o ∧ o < 0x8080 then
    let s := { s with ic := { ic with mask := tset (BitVec.allOnes 64) ((o - 0x4000) / 8) v ic.mask } }
    markDue (fun _ x => maskOf s x.src) s
  else if 0xC000 ≤ o ∧ o < 0x10080 then
    let w := (o - 0xC000) / 8
    let s := { s with ic := { ic with pend := tset 0 w (v &&& ~~~pendFixed w) ic.pend } }
    markDue (fun _ x => !pendOf s x.src) s
  else if 0x14000 ≤ o ∧ o < 0x18080 then
    let g := (o - 0x14000) / 8
    { s with ic := { ic with hold := tset {} g { holdOf s g with value := fld v 0 16 } ic.hold } }
  else if 0x20000 ≤ o ∧ o < 0x30200 then
    let w := (o - 0x20000) / 8
    markDue (fun _ x => x.src / 16 = w && fld m (4 * (x.src % 16)) 4 ≠ 0)
      { s with ic := { ic with prio := tset 0 w v ic.prio } }
  else if 0x38000 ≤ o ∧ o < 0x78800 then
    let s := { s with ic := { ic with target := tset 0 ((o - 0x38000) / 8) v ic.target } }
    markDue (fun p x => !bit (targetOf s x.src) p) s
  else s

end Sys2Proof.Machine
end

