-- ==== Sys2Proof/Machine/Lath.lean ====
section
/-! DEFINITION. The Lath ring as far as this node receives: the link layer and its training, routing, remote entries
at both ends, probes, and the LATH_ registers (R472-R502). -/

namespace Sys2Proof.Machine

open Sys2Proof

def modLath (f : Lath → Lath) (s : State) : State := { s with lath := f s.lath }

/-- LATE_RSP (R487). -/
def lateRsp (s : State) : State := modLath (fun l => { l with lateRsp := true }) s

/-- CFG_REJECT (R492, R496, R502). -/
def cfgReject (s : State) : State := modLath (fun l => { l with cfgReject := true }) s

/-! ## Links (R474, R475, R478) -/

/-- A link that was UP goes DOWN: every frame in the port's buffers is discarded, through traffic included. -/
def linkDown (x : BitVec 2) (s : State) : State :=
  let p := lport s x
  let s := startTimers (reqTags p.txq) (p.txq.foldl (fun s q => giveQueued q s) s)
  let s := modLath (fun l => { l with port := l.port.map fun e =>
    (e.1, { e.2 with txq := e.2.txq.filter fun q => q.k ≠ x.toNat }) }) s
  lathEvent 2 x 0 (modLport x (fun p => { p with
    link := .down, downs := satInc p.downs, txq := [], replay := [], replays := 0, nak := false,
    ackDue := false, rx := [], give := [0, 0, 0, 0] }) s)

/-- The link goes DOWN, and trains again while ENABLE is set. -/
def linkFail (x : BitVec 2) (s : State) : State := trainStart x (linkDown x s)

/-! ## Departures (R486, R487, R493) -/

/-- A remote entry ends REMOTE_LOST; an ABORT of it that waits ends ABORT_LATE (R488). -/
def loseEntry (t : Nat) (s : State) : State :=
  match s.lath.table.find? (·.1 = t) with
  | none => s
  | some (_, r) =>
    let s := modLath (fun l => { l with table := tdel t l.table }) s
    let s := if r.done then s else failEntry r.entry 0x0A 0 s
    match r.abort with
    | some id => abortOutcome id false s
    | none => s

/-- An ADMITTED peer becomes DEPARTED: LATH_EVENT, and Render is told (R304, R493). -/
def depart (n : BitVec 16) (s : State) : State :=
  if (admitted s n).isNone then s
  else renderDepart n (lathEvent 4 0 n (modLath (fun l => { l with nodes := l.nodes.map fun e =>
    (e.1, if e.2.node = n && e.2.st = 1 then { e.2 with st := 2 } else e.2) }) s))

/-- The timers of the entries sent to a node start again (R486). -/
def restart (n : BitVec 16) (s : State) : State :=
  modLath (fun l => { l with table := l.table.map fun e =>
    (e.1, if e.2.node = n && e.2.start.isSome then { e.2 with start := some s.time, limit := timeoutNs s }
      else e.2) }) s

/-- What any frame from a node means for the entries sent there: a new EPOCH loses those recorded under another, and
their timers start again (R486, R487). -/
def heard (n epoch : BitVec 16) (s : State) : State :=
  let old := s.lath.table.filter fun e => e.2.node = n && e.2.epoch.any (· ≠ epoch)
  restart n (if old.isEmpty then s
    else depart n (lathEvent 5 0 n (old.foldl (fun s e => loseEntry e.1 s) s)))

/-! ## Where an arriving frame goes -/

/-- Where an arriving frame goes (R482, R483). -/
def routeOf (s : State) (x : BitVec 2) (f : Frame) : Hop :=
  if f.pathMode then (if isTree s then pathHop s f.route else .drop)
  else
    let h := (fld f.route 0 16).toNat
    if h = 1 then .deliver
    else if h = 0 || 2 ≤ x.toNat then .drop
    else .out (1 - x)

def reservedType (f : Frame) : Bool := f.typ = 0 || 13 ≤ f.typ.toNat

/-- A frame that ends here leaves its buffer (R479). -/
def drained (x : BitVec 2) (f : Frame) (s : State) : State := giveBack x (frameBuf f) (frameCredits f) s

/-! ## At the target (R485) -/

def payloadWord (f : Frame) (i : Nat) : W64 := bytesWord ((f.payload.drop (8 * i)).take 8)

/-- The entry held for node `n` under a TAG. -/
def heldFor (s : State) (n : BitVec 16) (tag : BitVec 12) : Option Entry :=
  s.qe.store.find? fun e => match e.kind with
    | .remoteIn src t _ _ => src = n && t = tag
    | _ => false

def holdsFrom (s : State) (n : BitVec 16) : Bool :=
  s.qe.store.any fun e => match e.kind with
    | .remoteIn src _ _ _ => src = n
    | _ => false

/-- Any node table entry that names a node, ADMITTED or not. -/
def routeBack (s : State) (n : BitVec 16) : Option LNode :=
  (s.lath.nodes.find? fun e => e.2.node = n && n ≠ 0).map (·.2)

/-- A refusal of an unadmitted SRC: REJECT NOT_ADMITTED as long as a route back exists. -/
def refuseIn (f : Frame) (s : State) : State :=
  let s := modLath (fun l => { l with refusedIn := true }) s
  match routeBack s f.src with
  | some e => sendRoute e.mode e.port e.route (mkFrame s 5 true f.src (fTag f) 1 0 []) s
  | none => s

/-- A REQUEST at its target; none while the entry store has no place. -/
def requestIn (x : BitVec 2) (f : Frame) (s : State) : Option State :=
  let ws := (List.range 8).map (payloadWord f)
  let e : Entry := { id := s.qe.nextId, words := ws, kind := .remoteIn f.src (fTag f) x f.pathMode }
  let reject := fun (code : Byte) => some (sendNode f.src (mkFrame s 5 true f.src (fTag f) code 0 []) s)
  if s.gctl.halted then some s
  else if (admitted s f.src).isNone || s.lath.node = 0 then some (refuseIn f s)
  else if nChan s ≤ (eCh e).toNat then reject 3
  else if (quad s (eQuad e)).known && !slotValid s (eQuad e) (eOpcode e) then reject 2
  else if 4096 ≤ storeUsed s + storeDue s then none
  else
    let s := if holdsFrom s f.src then s
      else modLath (fun l => { l with beat := tput f.src.toNat (s.time, timeoutNs s / 4) l.beat }) s
    let s := addEntry { e with stage := if eDir e = 0 then .ready else .needBuf }
      { s with qe := { s.qe with nextId := s.qe.nextId + 1 } }
    some (sendNode f.src (mkFrame s 3 true f.src (fTag f) 0 0 []) s)

/-- The chunks of a DATA frame with their marks (R433, R485). -/
def dataChunks (f : Frame) : List (Byte × Bool) :=
  f.payload.zipIdx.map fun b => (b.1, bit f.mask (b.2 / 64))

/-- DATA of a REQUEST: into the buffer of the entry; none before the buffer is there. -/
def dataIn (x : BitVec 2) (f : Frame) (s : State) : Option State :=
  match heldFor s f.src (fTag f) with
  | none => some s
  | some e =>
    if e.stage = .needBuf || e.stage = .waitBuf || e.stage = .waitStg then none
    else if e.stage ≠ .dataIn then some s
    else
      let got := tget 0 e.id s.lath.inData
      let s := bufWrite e.handle got (dataChunks f) (rqLath x) s
      let got := got + f.payload.length
      if sentBytes e ≤ got then
        some (modEntry e.id (fun e => { e with stage := .ready }) (modLath (fun l => { l with inData := tdel e.id l.inData }) s))
      else some (modLath (fun l => { l with inData := tput e.id got l.inData }) s)

/-- An ABORT at the target: decided, and answered with ABORT_RESULT (R488). -/
def abortIn (f : Frame) (s : State) : State :=
  if s.gctl.halted then s
  else
    let r := match heldFor s f.src (fTag f) with
      | some e => abortEntry e.id s
      | none => (false, s)
    sendNode f.src (mkFrame r.2 7 true f.src (fTag f) (if r.1 then 0 else 1) 0 []) r.2

/-! ## At the fetching node (R485, R487, R488) -/

/-- The entry in flight that a response names; none for a late response. -/
def inFlight (s : State) (f : Frame) : Option (Remote × Entry) :=
  match s.lath.table.find? (·.1 = (fTag f).toNat) with
  | some (_, r) =>
    if r.done || s.gctl.halted || r.epoch.any (· ≠ fEpoch f) then none else (entryOf s r.entry).map fun e => (r, e)
  | none => none

def modRemote (tag : BitVec 12) (g : Remote → Remote) (s : State) : State :=
  modLath (fun l => { l with table := l.table.map fun e => (e.1, if e.1 = tag.toNat then g e.2 else e.2) }) s

/-- DATA of a response: into the buffer of the entry. -/
def dataBack (x : BitVec 2) (f : Frame) (s : State) : State :=
  match inFlight s f with
  | none => lateRsp s
  | some (r, e) =>
    if eDir e ≠ 2 || e.handle = 0 then s
    else modRemote (fTag f) (fun r => { r with got := r.got + f.payload.length })
      (bufWrite e.handle r.got (dataChunks f) (rqLath x) s)

/-- ACCEPT: the target's EPOCH is recorded. -/
def acceptBack (f : Frame) (s : State) : State :=
  match inFlight s f with
  | none => lateRsp s
  | some _ => modRemote (fTag f) (fun r => { r with epoch := some (fEpoch f) }) s

/-- The slot of an entry that has completed is free, unless the answer to an ABORT is still to come. -/
def freeSlot (tag : BitVec 12) (r : Remote) (s : State) : State :=
  if r.abort.isSome || r.fetchAbort then modRemote tag (fun r => { r with done := true }) s
  else modLath (fun l => { l with table := tdel tag.toNat l.table }) s

/-- COMPLETE: the bytes received go to the host, and the entry has its status and result (R436, R485 step 7). -/
def completeBack (f : Frame) (s : State) : State :=
  match inFlight s f with
  | none => lateRsp s
  | some (r, e) =>
    let s := freeSlot (fTag f) r s
    let res : BitVec 32 := fld (payloadWord f 0) 0 32
    if e.kind ≠ .host then endFetch e e.handle (fCode f) s
    else if eDir e = 2 && r.got ≠ 0 then
      startXfer e.id e.sq false (eDmode e) (eDaddr e) (min r.got (eDlen e)) e.frags e.handle
        (modEntry e.id (fun e => { e with stage := .dataOut, status := fCode f, result := res }) s)
    else finishEntry e.id (fCode f) res (freeEntryBuffer e.handle s)

/-- REJECT: NOT_ADMITTED loses the entry and its node; the others halt the block (R334, R492). -/
def rejectBack (f : Frame) (s : State) : State :=
  match inFlight s f with
  | none => lateRsp s
  | some (r, e) =>
    if fCode f = 1 then depart r.node (loseEntry (fTag f).toNat s)
    else if fCode f = 2 || fCode f = 3 then
      let s := freeSlot (fTag f) r s
      if e.kind = .host then halt (fCode f) e.sq e.index e.words true s else endFetch e e.handle 0x19 s
    else s

/-- ABORT_RESULT: the ABORT ends OK or ABORT_LATE; the one of a member fetch ends nothing more (R298). -/
def abortBack (f : Frame) (s : State) : State :=
  match s.lath.table.find? (·.1 = (fTag f).toNat) with
  | none => lateRsp s
  | some (_, r) =>
    if s.gctl.halted || !(r.abort.isSome || r.fetchAbort) then lateRsp s
    else
      let s := if r.done then modLath (fun l => { l with table := tdel (fTag f).toNat l.table }) s
        else modRemote (fTag f) (fun r => { r with abort := none, fetchAbort := false }) s
      match r.abort with
      | some id => abortOutcome id (fCode f = 0) s
      | none => s

/-! ## Timers -/

/-- HEARTBEAT_TIMER: an interval has passed and entries are held for the node (R486). A halted node sends none. -/
def heartbeat (n : BitVec 16) (s : State) : State :=
  match s.lath.beat.find? (·.1 = n.toNat) with
  | none => s
  | some (_, b) =>
    if s.gctl.halted || !holdsFrom s n || (s.time - b.1).toNat < b.2 then s
    else sendNode n (mkFrame s 8 true n 0 0 0 [])
      (modLath (fun l => { l with beat := tput n.toNat (s.time, timeoutNs s / 4) l.beat }) s)

/-- REMOTE_TIMEOUT: the timer of a TAG has expired. -/
def remoteTimeout (tag : BitVec 12) (s : State) : State :=
  match s.lath.table.find? (·.1 = tag.toNat) with
  | none => s
  | some (_, r) =>
    match r.start with
    | none => s
    | some t =>
      if (s.time - t).toNat < r.limit then s
      else
        let s := loseEntry tag.toNat s
        if r.done then s else depart r.node s

/-! ## Probes (R477, R499) -/

/-- Payload of PROBE_REPLY and HELLO: NODE and EPOCH, the unique identifier. -/
def idPayload (s : State) : List Byte :=
  wordsBytes ([at_ 48 s.lath.node ||| at_ 32 s.lath.epoch, factoryWord s 1, factoryWord s 2] ++ List.replicate 5 0)

/-- A PROBE is answered along its return route; in hop mode that leaves by the port on which it came. -/
def probeIn (x : BitVec 2) (f : Frame) (s : State) : State :=
  sendRoute f.pathMode x (fld (payloadWord f 0) 0 32) (mkFrame s 10 true f.src (fTag f) 0 0 (idPayload s)) s

/-- The probe ends. -/
def probeEnd (r : BitVec 2) (res : W64) (s : State) : State :=
  lathEvent 6 0 0 (modLath (fun l => { l with pBusy := false, pResult := r, pRes := res }) s)

def probeReply (f : Frame) (s : State) : State :=
  if !s.lath.pBusy then s
  else
    let w := payloadWord f 0
    probeEnd 1 (merge (at_ 0 (fld (payloadWord f 1) 0 32)) w (at_ 32 (BitVec.allOnes 32))) s

def probeTimeout (s : State) : State :=
  if !s.lath.pBusy || (s.time - s.lath.pStart).toNat < s.lath.pLimit then s else probeEnd 2 s.lath.pRes s

/-! ## LINK frames, and the receive buffers (R478, R479) -/

/-- The LINK frame a port sends: the highest SEQ received good, NAK, and the credits to return (R477). -/
def linkFrame (s : State) (p : LPort) : Frame :=
  let cr := p.give.zipIdx.foldl (fun w g => w ||| at_ (8 * g.2) (BitVec.ofNat 8 g.1)) (0 : W64)
  sealFrame { mkFrame s 12 false 0 0 0 0 [] with word1 := at_ 48 p.rxSeq ||| flag 47 p.nak ||| cr }

/-- A port that is UP and owes its peer an ACK, a NAK or credits sends a LINK frame. -/
def linkOut (x : BitVec 2) (s : State) : State :=
  let p := lport s x
  if isUp s x && (p.ackDue || p.nak || p.give.any (· ≠ 0)) then
    modLport x (fun p => { p with sent := p.sent ++ [linkFrame s p], ackDue := false, nak := false,
                                  give := [0, 0, 0, 0] }) s
  else s

/-- What a frame delivered here does, by its TYPE; none while it must wait in its buffer. -/
def frameEffect (x : BitVec 2) (f : Frame) (s : State) : Option State :=
  match f.typ.toNat with
  | 1 => requestIn x f s
  | 2 => if f.cls then some (dataBack x f s) else if s.gctl.halted then some s else dataIn x f s
  | 3 => some (acceptBack f s)
  | 4 => some (completeBack f s)
  | 5 => some (rejectBack f s)
  | 6 => some (abortIn f s)
  | 7 => some (abortBack f s)
  | 9 => some (probeIn x f s)
  | 10 => some (probeReply f s)
  | _ => some s

/-- A delivered frame names this node, or is taken whatever it names (R484); a REQUEST that reaches a node without a
number is refused (R492). -/
def forMe (s : State) (f : Frame) : Bool :=
  fDst f = s.lath.node || f.typ = 9 || (f.typ = 1 && s.lath.node = 0)

/-- A frame that ends here: taken, or misdelivered (R484). -/
def frameHere (x : BitVec 2) (f : Frame) (s : State) : Option State :=
  if forMe s f then frameEffect x f s else some (modLath (fun l => { l with misdel := true }) s)

/-- A frame at the head of a receive buffer: it ends here, is forwarded, or is discarded. Its place becomes free when
it is taken, or when the forwarded frame has left (R479). -/
def rxEffect (x : BitVec 2) (f : Frame) (s : State) : Option State :=
  if reservedType f then some (drained x f (discardFrame s))
  else match routeOf s x f with
    | .deliver => (frameHere x f s).map (drained x f)
    | .drop => some (drained x f (discardFrame s))
    | .out y => some (
        let g := { f with route := if f.pathMode then f.route else f.route - 1,
                          laneB := isRing s && (f.laneB || s.lath.dateline) }
        enqueue y { k := x.toNat, inB := f.laneB, f := g } s)

/-- The head of receive buffer `b` of port `x` is taken, if it need not wait. -/
def takeHead (s : State) (x : BitVec 2) (b : Nat) : Option State :=
  match takeFirst (fun f => frameBuf f = b) (lport s x).rx with
  | none => none
  | some (f, rest) => rxEffect x f (modLport x (fun p => { p with rx := rest }) s)

/-- The first frame that this node sent to itself is taken. -/
def takeLoop (s : State) : Option State :=
  match s.lath.loop with
  | [] => none
  | f :: rest => frameHere 0 f (modLath (fun l => { l with loop := rest }) s)

/-- One waiting frame that can be taken is taken. -/
def lathStep (s : State) : Option State :=
  match ((List.range 12).findSome? fun i => takeHead s (BitVec.ofNat 2 (i / 4)) (i % 4)) with
  | some t => some t
  | none => takeLoop s

/-- Frames are taken while any can be; `fuel` bounds them. -/
def lathRun : (fuel : Nat) → State → State
  | 0, s => s
  | fuel + 1, s =>
    match lathStep s with
    | none => s
    | some t => lathRun fuel t

/-- Every waiting frame that can be taken is taken, and the ports send the LINK frames they owe. A frame sent to this
node itself adds at most one more. -/
def lathGo (s : State) : State :=
  let n := (s.lath.port.map fun p => p.2.rx.length).sum + s.lath.loop.length
  linkOut 2 (linkOut 1 (linkOut 0 (lathRun (2 * n) s)))

/-- The link layer's part of an arrival (R478): a frame that fails its CRC is discarded with every later one until
the replay, and a NAK is sent; a frame out of sequence is discarded; any other enters its receive buffer. -/
def arrive (x : BitVec 2) (f : Frame) (s : State) : State :=
  if !isUp s x then s
  else if !frameOk f then lathGo (modLport x (fun p => { p with crcErr := satInc p.crcErr, nak := true }) s)
  else if f.seq ≠ (lport s x).rxSeq + 1 then s
  else
    let s := modLport x (fun p => { p with rxSeq := f.seq, ackDue := true, rx := p.rx ++ [f] }) s
    lathGo (if !reservedType f && routeOf s x f = .deliver && forMe s f then heard f.src (fEpoch f) s else s)

/-- A frame of type `t` that ends at this node arrives. -/
def deliverAs (t : BitVec 4) (x : BitVec 2) (f : Frame) (s : State) : State :=
  if f.typ ≠ t || routeOf s x f ≠ .deliver then s else arrive x f s

/-- LATH_FRAME_FORWARD: a frame of a reserved TYPE, or one that does not end here, arrives. -/
def forward (x : BitVec 2) (f : Frame) (s : State) : State :=
  if f.typ = 11 || f.typ = 12 || (!reservedType f && routeOf s x f = .deliver) then s else arrive x f s

/-! ## Training, HELLO and LINK (R475, R478) -/

/-- Highest rate of a port (R500): the reserved code acts as 2. -/
def maxRate (p : LPort) : Nat := min 2 p.maxRate.toNat

/-- The HELLO frame of this node. -/
def helloFrame (s : State) : Frame := sealFrame (mkFrame s 11 false 0 0 0 0 (idPayload s))

/-- The climb has ended at rate `r`: the port sends its HELLO. -/
def sayHello (x : BitVec 2) (r : BitVec 2) (s : State) : State :=
  modLport x (fun p => { p with rate := r, link := .hello, sent := p.sent ++ [helloFrame s] }) s

/-- LINK_TRAIN_STEP: the 20 µs at the rate being tried are over, and it has passed, or has failed on either side. -/
def trainStep (x : BitVec 2) (pass : Bool) (s : State) : State :=
  let p := lport s x
  match p.link with
  | .training r =>
    if (s.time - p.since).toNat < 20000 then s
    else if pass then
      if r.toNat < maxRate p then modLport x (fun p => { p with rate := r, link := .training (r + 1), since := s.time }) s
      else sayHello x r s
    else if r = 0 then modLport x (fun p => { p with link := .down, retry := true, since := s.time }) s
    else sayHello x (r - 1) s
  | _ => s

/-- LINK_TRAIN_RETRY: 1 ms after the failure at 800 MT/s the port trains again. -/
def trainRetry (x : BitVec 2) (s : State) : State :=
  let p := lport s x
  if p.retry && 1000000 ≤ (s.time - p.since).toNat then trainStart x s else s

/-- LATH_PORT_CTL is written (R500). -/
def portCtl (x : BitVec 2) (v : W64) (s : State) : State :=
  let s := modLport x (fun p => { p with enable := bit v 0, maxRate := fld v 1 2 }) s
  if bit v 0 then (if (lport s x).retry then s else trainStart x s)
  else
    let s := if isUp s x then linkDown x s else s
    modLport x (fun p => { p with link := .down, retry := false, txq := [], replay := [], rx := [] }) s

/-- HELLO: a trained link comes UP; a neighbour that names a node not ADMITTED here is reported. -/
def helloIn (x : BitVec 2) (f : Frame) (s : State) : State :=
  let p := lport s x
  if f.typ ≠ 11 || (p.link ≠ .hello && p.link ≠ .up) then s
  else if !frameOk f then modLport x (fun p => { p with crcErr := satInc p.crcErr }) s
  else
    let w := payloadWord f 0
    let n : BitVec 16 := fld w 48 16
    let s := modLport x (fun p => { p with link := .up, peer := n, peerEp := fld w 32 16 }) s
    let s := if p.link = .hello then lathEvent 1 x 0 s else s
    let s := heard f.src (fEpoch f) s
    if n ≠ 0 && (admitted s n).isNone then lathEvent 3 x n s else s

/-- Frames of the replay buffer that an ACK does not cover. -/
def unacked (ack : BitVec 16) (fs : List Frame) : List Frame := fs.filter fun f => 32768 ≤ (ack - f.seq).toNat

/-- A NAK: everything that is not acknowledged is sent again; the ninth takes the link DOWN. -/
def replayAll (x : BitVec 2) (s : State) : State :=
  let p := lport s x
  if p.replay.isEmpty then s
  else if 8 ≤ p.replays then linkFail x s
  else modLport x (fun p => { p with replays := p.replays + 1, sent := p.sent ++ p.replay }) s

/-- LINK: the timers of entries sent to the neighbour start again, an ACK frees the replay buffer, a NAK starts a
replay, credits return (R478, R479, R486). -/
def linkIn (x : BitVec 2) (f : Frame) (s : State) : State :=
  if f.typ ≠ 12 || !isUp s x then s
  else if !frameOk f then lathGo (modLport x (fun p => { p with crcErr := satInc p.crcErr, nak := true }) s)
  else
    let w := f.word1
    let s := restart f.src (modLport x (fun p =>
      let left := unacked (fld w 48 16) p.replay
      { p with replay := left, replays := if left.length < p.replay.length then 0 else p.replays,
               cred := p.cred.zipIdx.map fun c => c.1 + (fld w (8 * c.2) 8).toNat }) s)
    lathGo (pumpLath x (if bit w 47 then replayAll x s else s))

/-! ## The pins of a port (R473, R474) -/

/-- What a port drives: high impedance, its idle levels (TXD low, TXS_T low, TXS_C high), or a running link, whose
data and strobe levels follow the frames and patterns it sends. -/
inductive LathTx where
  | hiz
  | levels (txd : BitVec 16) (txsT txsC : Bool)
  | running
  deriving DecidableEq, Repr

/-- The pins of port `x` (R474): high impedance while CTL is without power, idle while ENABLE is 0, the link is DOWN
or a reset is in force. -/
def lathTx (s : State) (x : BitVec 2) : LathTx :=
  if !bit s.pwr.gnt 0 then .hiz
  else if !(lport s x).enable || (lport s x).link = .down || s.gctl.boot = .inReset then .levels 0 false true
  else .running

/-- LATH_PROBE with GO: the payload holds the return route, in the layout of LATH_PROBE. A write while BUSY is
ignored (R497, R499). -/
def probeGo (v : W64) (s : State) : State :=
  if s.lath.pBusy then cfgReject s
  else
    let s := modLath (fun l => { l with pMode := bit v 45, pPort := fld v 32 2, pRoute := fld v 0 32 }) s
    if !bit v 63 then s
    else
      let l := s.lath
      let back := flag 45 l.pMode ||| at_ 0 (if l.pMode then l.path else l.pRoute)
      let f := mkFrame s 9 false 0 0 0 0 (wordsBytes (back :: List.replicate 7 0))
      lathGo <| sendRoute l.pMode l.pPort l.pRoute f
        { s with lath := { l with pBusy := true, pResult := 0, pStart := s.time, pLimit := timeoutNs s } }

/-! ## Registers (R492, R495-R502): byte offset from 0x007_0000 -/

/-- Entries of this node in flight, those that hold their slot and are not sent yet among them, and entries held for
others (R485, R497). -/
def remoteOut (s : State) : Nat := s.lath.table.countP (fun e => !e.2.done) + s.qe.store.countP (·.slot.isSome)
def remoteIn (s : State) : Nat := s.qe.store.countP fun e => match e.kind with
  | .remoteIn _ _ _ _ => true
  | _ => false

def linkCode : LSt → BitVec 2
  | .down => 0
  | .training _ => 1
  | .hello => 1
  | .up => 2

def lathNode (s : State) (i : Nat) : LNode := tget {} i s.lath.nodes

def lathRead (o : Nat) (s : State) : W64 :=
  let l := s.lath
  if o = 0x00 then at_ 48 l.node ||| at_ 32 l.epoch ||| at_ 0 l.path
  else if o = 0x08 then at_ 16 l.timeout ||| flag 2 l.dateline ||| at_ 0 l.topo
  else if o = 0x10 then
    at_ 48 (BitVec.ofNat 13 (remoteOut s)) ||| at_ 32 (BitVec.ofNat 13 (remoteIn s)) ||| flag 4 l.misdel |||
    flag 3 l.discarded ||| flag 2 l.lateRsp ||| flag 1 l.refusedIn ||| flag 0 l.cfgReject
  else if o = 0x18 then
    at_ 56 l.eKind ||| at_ 48 l.eCount ||| flag 47 l.eValid ||| at_ 40 l.ePort ||| at_ 16 l.eNode
  else if o = 0x20 then
    flag 62 l.pBusy ||| at_ 60 l.pResult ||| flag 45 l.pMode ||| at_ 32 l.pPort ||| at_ 0 l.pRoute
  else if o = 0x28 then l.pRes
  else if 0x100 ≤ o ∧ o < 0x160 then
    let p := lport s (BitVec.ofNat 2 ((o - 0x100) / 0x20))
    match (o - 0x100) % 0x20 with
    | 0 => at_ 1 p.maxRate ||| flag 0 p.enable
    | 8 => at_ 48 p.peer ||| at_ 32 p.peerEp ||| at_ 24 p.crcErr ||| at_ 16 p.downs ||| at_ 8 p.rate |||
           at_ 0 (linkCode p.link)
    | _ => 0
  else if 0x8000 ≤ o ∧ o < 0x10000 then
    let e := lathNode s ((o - 0x8000) / 8)
    at_ 48 e.node ||| at_ 46 e.st ||| flag 45 e.mode ||| at_ 32 e.port ||| at_ 0 e.route
  else 0

/-- What a read clears: the RC fields that the read bits `m` cover whole. -/
def lathReadAct (o : Nat) (m : W64) (s : State) : State :=
  if o = 0x18 then
    modLath (fun l =>
      let l := if bit m 32 then { l with eKind := 0, eCount := 0, eValid := false, ePort := 0 } else l
      if bit m 0 then { l with eNode := 0 } else l) s
  else if 0x100 ≤ o && o < 0x160 && (o - 0x100) % 0x20 = 8 && bit m 0 then
    modLport (BitVec.ofNat 2 ((o - 0x100) / 0x20)) (fun p => { p with crcErr := 0, downs := 0 }) s
  else s

/-- A write of LATH_SELF (R492). -/
def selfWrite (m v : W64) (s : State) : State :=
  let s := modLath (fun l => { l with path := fld v 0 32 }) s
  if !bit m 48 then s
  else if remoteOut s ≠ 0 || remoteIn s ≠ 0 then cfgReject s
  else modLath (fun l => { l with node := fld v 48 16 }) s

/-- A write of LATH_CFG (R496). A change of TOPO lets an enabled port that it now uses train. -/
def cfgWrite (m v : W64) (s : State) : State :=
  let s := modLath (fun l => { l with timeout := fld v 16 10 }) s
  if !bit m 0 then s
  else if s.lath.port.any fun p => p.2.link ≠ .down then cfgReject s
  else
    let s := modLath (fun l => { l with dateline := bit v 2, topo := fld v 0 2 }) s
    [0, 1, 2].foldl (fun s i => if (lport s (BitVec.ofNat 2 i)).retry then s else trainStart (BitVec.ofNat 2 i) s) s

/-- A write of LATH_NODE[i] that must be refused (R502). -/
def nodeBad (s : State) (i : Nat) (e : LNode) : Bool :=
  e.st = 3 || (e.st = 1 &&
    (e.node = 0 || e.node = s.lath.node || s.lath.nodes.any (fun k => k.1 ≠ i && k.2.node = e.node && k.2.st = 1) ||
     e.mode ≠ isTree s ||
     (if e.mode then !pathValid e.route
      else fld e.route 0 16 = 0 || fld e.route 16 16 ≠ 0 || 2 ≤ e.port.toNat)))

def nodeWrite (i : Nat) (v : W64) (s : State) : State :=
  let e : LNode := { node := fld v 48 16, st := fld v 46 2, mode := bit v 45, port := fld v 32 2, route := fld v 0 32 }
  if nodeBad s i e then cfgReject s
  else modLath (fun l => { l with nodes := tset {} i e l.nodes }) s

/-- A write: `m` the bits written, `v` the stored bits with those replaced, `act` the written bits alone. -/
def lathWrite (o : Nat) (m v act : W64) (s : State) : State :=
  if o = 0x00 then selfWrite m v s
  else if o = 0x08 then cfgWrite m v s
  else if o = 0x10 then modLath (fun l => { l with
    misdel := l.misdel && !bit act 4, discarded := l.discarded && !bit act 3, lateRsp := l.lateRsp && !bit act 2,
    refusedIn := l.refusedIn && !bit act 1, cfgReject := l.cfgReject && !bit act 0 }) s
  else if o = 0x20 then probeGo (v ||| (act &&& flag 63 true)) s
  else if 0x100 ≤ o ∧ o < 0x160 ∧ (o - 0x100) % 0x20 = 0 then
    if bit m 0 then portCtl (BitVec.ofNat 2 ((o - 0x100) / 0x20)) v s else s
  else if 0x8000 ≤ o ∧ o < 0x10000 then nodeWrite ((o - 0x8000) / 8) v s
  else s

/-! ## Commands of the table -/

/-- LATH_REQUEST (R485). -/
def execLathRequest (x : BitVec 2) (f : Frame) (s : State) : Out := .next (deliverAs 1 x f s)

/-- LATH_DATA (R485). -/
def execLathData (x : BitVec 2) (f : Frame) (s : State) : Out := .next (deliverAs 2 x f s)

/-- LATH_ACCEPT (R487). -/
def execLathAccept (x : BitVec 2) (f : Frame) (s : State) : Out := .next (deliverAs 3 x f s)

/-- LATH_COMPLETE (R485). -/
def execLathComplete (x : BitVec 2) (f : Frame) (s : State) : Out := .next (deliverAs 4 x f s)

/-- LATH_REJECT (R485). -/
def execLathReject (x : BitVec 2) (f : Frame) (s : State) : Out := .next (deliverAs 5 x f s)

/-- LATH_ABORT (R488). -/
def execLathAbort (x : BitVec 2) (f : Frame) (s : State) : Out := .next (deliverAs 6 x f s)

/-- LATH_ABORT_RESULT (R488). -/
def execLathAbortResult (x : BitVec 2) (f : Frame) (s : State) : Out := .next (deliverAs 7 x f s)

/-- LATH_HEARTBEAT (R486): every frame restarts the timers; a heartbeat does nothing else. -/
def execLathHeartbeat (x : BitVec 2) (f : Frame) (s : State) : Out := .next (deliverAs 8 x f s)

/-- LATH_PROBE (R477). -/
def execLathProbe (x : BitVec 2) (f : Frame) (s : State) : Out := .next (deliverAs 9 x f s)

/-- LATH_PROBE_REPLY (R499). -/
def execLathProbeReply (x : BitVec 2) (f : Frame) (s : State) : Out := .next (deliverAs 10 x f s)

/-- LATH_HELLO (R475, R498). -/
def execLathHello (x : BitVec 2) (f : Frame) (s : State) : Out := .next (helloIn x f s)

/-- LATH_LINK (R478, R479). -/
def execLathLink (x : BitVec 2) (f : Frame) (s : State) : Out := .next (linkIn x f s)

/-- LATH_FRAME_FORWARD (R482, R483). -/
def execLathFrameForward (x : BitVec 2) (f : Frame) (s : State) : Out := .next (forward x f s)

/-- LINK_TRAIN_STEP (R475). -/
def execLinkTrainStep (x : BitVec 2) (pass : Bool) (s : State) : Out := .next (trainStep x pass s)

/-- LINK_TRAIN_RETRY (R475). -/
def execLinkTrainRetry (x : BitVec 2) (s : State) : Out :=
  .next (trainRetry x s)

/-- HEARTBEAT_TIMER (R486). -/
def execHeartbeatTimer (node : BitVec 16) (s : State) : Out := .next (heartbeat node s)

/-- REMOTE_TIMEOUT (R486). -/
def execRemoteTimeout (tag : BitVec 12) (s : State) : Out := .next (remoteTimeout tag s)

/-- PROBE_TIMEOUT (R499). -/
def execProbeTimeout (s : State) : Out := .next (probeTimeout s)

/-- LATH_NO_LINK (R474): the peer's pins are at the idle levels. -/
def execLathNoLink (x : BitVec 2) (s : State) : Out := .next (if isUp s x then linkFail x s else s)

end Sys2Proof.Machine
end

