-- ==== Sys2Proof/Machine/Streams.lean ====
section
/-! DEFINITION. Streams: producer words, enable, flush, window reads, the trace freeze, and the STR_ registers
(R389-R405). -/

namespace Sys2Proof.Machine

open Sys2Proof

/-! ## Window reads (R394, R395) -/

/-- A waiting window read of stream `i` ends without a word: fabric error response, value 0, RD_EXPIRED. -/
def windowExpire (i : BitVec 2) (s : State) : State :=
  respond [{ ok := false }] (modStrm i.toNat (fun x => { x with rdExpired := true })
    { s with port := { s.port with wait := none } })

/-- An engine serves stream `i` (R366, R394): its list is enabled, or a burst of it is in flight. -/
def served (s : State) (i : BitVec 2) : Bool :=
  0 < (strm s i.toNat).reserved || (List.range 4).any fun e => (eng s (BitVec.ofNat 2 e)).senable && (eng s (BitVec.ofNat 2 e)).stream = i

/-- RD_WAIT of the waiting read has passed since it was accepted. -/
def windowDue (s : State) (i : BitVec 2) (since : W64) : Bool :=
  let w := (strm s i.toNat).rdWait.toNat
  w ≠ 0 && w * 1000 ≤ (s.time - since).toNat

/-! ## Enable and flush (R389, R397) -/

/-- ENABLE takes `b`. -/
def strEnable (i : Nat) (b : Bool) (s : State) : State := grantServe i (modStrm i (fun x => { x with enable := b }) s)

/-- A locator names the pop end of stream `i`. -/
def popsFrom (ra : W64) (i : Nat) : Bool := fld ra 60 4 = 3 && (fld ra 0 2).toNat = i

/-- The pop MOVEs of a stream end with the bytes moved so far. -/
def endPops (i : Nat) (s : State) : State :=
  (List.range 64).foldl (fun s c => (List.range 8).foldl (fun s t =>
    let c := BitVec.ofNat 6 c
    let t := BitVec.ofNat 3 t
    match (thr s c t).wait with
    | .move ra _ _ moved _ _ =>
      if popsFrom ra i then
        recognise c t (finishWait c t (rD (waitWord s c t)) (BitVec.ofNat 64 moved) (unlockPop c t i s))
      else s
    | _ => s) s) s

/-- FLUSH: the held words are discarded, except those reserved by a burst; a cut packet goes into trim. -/
def strFlush (i : BitVec 2) (s : State) : State :=
  let x := strm s i.toNat
  let n := x.words.length - x.reserved
  let s := modStrm i.toNat (fun x => { x with
    words := x.words.take x.reserved, discarded := satAdd x.discarded n,
    trim := x.trim || 0 < x.partLen, flushTrim := x.flushTrim || 0 < x.partLen }) s
  let s := endPops i.toNat (grant i.toNat s)
  match s.port.wait with
  | some (.window k _) => if k = i then windowExpire i s else s
  | _ => s

/-! ## Producers (R389, R400) -/

/-- A word offered on a stream input. After a reset, until credits are granted again, it is taken for one sent against an
earlier credit while any of those is left, and is discarded (R505, log entry 112). Without a credit it waits, not
acknowledged, until a place frees; its producer offers no other meanwhile. -/
def streamWordIn (i : BitVec 2) (w : W64) (em : Bool) (s : State) : State :=
  if 2 ≤ i.toNat then s
  else if (strm s i.toNat).credits ≠ 0 then acceptWord i.toNat ⟨w, em, false⟩ s
  else if (strm s i.toNat).late ≠ 0 && !grants s i.toNat then
    sendWord i.toNat ⟨w, em, false⟩ (modStrm i.toNat (fun x => { x with late := x.late - 1 }) s)
  else modStrm i.toNat (fun x => { x with offer := x.offer.orElse fun _ => some ⟨w, em, false⟩ }) s

/-- A servo fault message starts the freeze of S0 (R400). -/
def traceFreeze (s : State) : State :=
  let x := strm s 0
  if !x.freezeEn || x.freezing || x.frozen then s
  else if x.post = 0 && x.partLen = 0 then modStrm 0 (fun x => freeze { x with left := 0 }) s
  else modStrm 0 (fun x => { x with freezing := true, left := x.post }) s

/-! ## Registers (R402-R405): register `k` at window + 8k -/

def strRegRead (i : BitVec 2) (k : Nat) (s : State) : W64 :=
  let x := strm s i.toNat
  match k with
  | 0 => flag 0 x.enable
  | 1 => at_ 48 x.rdWait ||| at_ 40 x.post ||| flag 39 x.freezeEn ||| at_ 32 x.burstMax ||| flag 16 x.unit |||
         at_ 0 x.thresh
  | 2 => flag 63 x.lastEm ||| at_ 48 (BitVec.ofNat 9 x.credits) ||| at_ 32 (BitVec.ofNat 9 (headLen x)) |||
         at_ 16 (BitVec.ofNat 9 (packets x)) ||| at_ 0 (BitVec.ofNat 9 x.words.length)
  | 3 => at_ 48 x.discarded ||| at_ 8 x.left ||| flag 6 x.dropped ||| flag 5 x.frozen ||| flag 4 x.freezing |||
         flag 3 x.forcedEnd ||| flag 2 x.flushTrim ||| flag 1 x.rdExpired ||| flag 0 x.crossed
  | _ => 0

/-- A write: `m` the bits written, `v` the stored bits with those replaced, `act` the written bits alone. -/
def strRegWrite (i : BitVec 2) (k : Nat) (m v act : W64) (s : State) : State :=
  match k with
  | 0 =>
    let s := if bit m 0 then strEnable i.toNat (bit v 0) s else s
    if bit act 1 then strFlush i s else s
  | 1 => modStrm i.toNat (fun x => { x with
      rdWait := fld v 48 16, post := fld v 40 8, freezeEn := bit v 39, burstMax := fld v 32 5,
      unit := bit v 16, thresh := fld v 0 9 }) s
  | 3 =>
    let s := modStrm i.toNat (fun x => { x with
      dropped := x.dropped && !bit act 6, frozen := x.frozen && !bit act 5,
      forcedEnd := x.forcedEnd && !bit act 3, flushTrim := x.flushTrim && !bit act 2,
      rdExpired := x.rdExpired && !bit act 1, crossed := x.crossed && !bit act 0 }) s
    grantServe i.toNat s
  | _ => s

end Sys2Proof.Machine
end

