-- ==== Sys2Proof/Machine/Registers.lean ====
section
/-! DEFINITION. The registers of the aperture, unit by unit (R85-R87): GCTL, PWR, CAL, SRV, QE, DMA, HAWK, PLB
and the channel windows. Each read function gives a register's value at a byte offset within its unit's range;
each write function takes the bits written `m`, the value `v` that the register's stored bits would take, and the
written bits alone `act` (0 elsewhere), so that a field acts or is stored as R59 says. -/

namespace Sys2Proof.Machine

open Sys2Proof

/-! ## GCTL -/

def bootCode : Boot → BitVec 3
  | .inReset => 0
  | .init => 1
  | .fuseWait => 2
  | .journal => 3
  | .directory => 4
  | .ready => 5

/-- GCTL_HALT_STATUS (R347). -/
def haltStatus (s : State) : W64 :=
  let g := s.gctl
  flag 63 g.halted ||| flag 62 g.evidence ||| flag 61 g.hRemote ||| at_ 48 g.hCause ||| at_ 32 g.hIndex |||
  at_ 14 g.hSq

/-- GCTL_SOFT_STATE (R257). -/
def softState (s : State) : W64 :=
  at_ 32 s.soft.maxWait ||| at_ 16 (BitVec.ofNat 12 s.soft.queue.length) |||
  s.soft.dec.foldl (fun v e => v ||| flag e.1 true) 0

def gctlRead (o : Nat) (s : State) : W64 :=
  let g := s.gctl
  if o = 0x00 then Config.gctlId
  else if 0x08 ≤ o ∧ o ≤ 0x20 then feature s.variant ((o - 8) / 8)
  else if o = 0x40 then flag 0 g.queues
  else if o = 0x48 then at_ 32 g.cause ||| at_ 16 g.warms ||| at_ 0 (bootCode g.boot)
  else if o = 0x50 then flag 0 g.qmode
  else if o = 0x80 then haltStatus s
  else if o = 0x88 then g.hTime
  else if 0xC0 ≤ o ∧ o < 0x100 then g.hEntry.getD ((o - 0xC0) / 8) 0
  else if o = 0x100 then softState s
  else 0

/-- GCTL_HALT_STATUS.EVIDENCE written with 1: the evidence goes, unless the block is halted (R347). -/
def clearEvidence (s : State) : State :=
  if s.gctl.halted then s
  else { s with gctl := { s.gctl with evidence := false, hRemote := false, hCause := 0, hIndex := 0, hSq := 0,
                                      hTime := 0, hEntry := [] } }

/-- GCTL_RESET written with its KEY (R503, R504): COLD prevails. Held in reset, the block ignores it. -/
def resetWrite (act : W64) (s : State) : State :=
  if s.gctl.boot = .inReset || fld act 56 8 ≠ 0xA5 then s
  else if bit act 49 then coldReset s
  else if bit act 48 then
    let r := coldWins s
    if r.1 then r.2 else warmReset r.2
  else s

def gctlWrite (o : Nat) (v act : W64) (s : State) : State :=
  if o = 0x40 then { s with gctl := { s.gctl with queues := bit v 0 } }
  else if o = 0x50 then if anyQueue s then s else { s with gctl := { s.gctl with qmode := bit v 0 } }
  else if o = 0x80 then if bit act 62 then clearEvidence s else s
  else s

/-! ## PWR (R222, R223, R512-R520) -/

def domCode : DomSt → BitVec 2
  | .off => 0
  | .requested => 1
  | .on => 2
  | .draining => 3

/-- PWR_DOMAIN_STATE (R513). -/
def domainState (s : State) : W64 :=
  let p := s.pwr
  (List.range 20).foldl (fun v d => v ||| at_ (2 * d) (domCode (domSt s d)))
    (flag 63 s.brownout ||| flag 62 s.pfail ||| flag 61 (p.retained && domSt s 1 = .off) ||| at_ 40 p.loadFail)

/-- PWR_TOKEN_STATE (R223). -/
def tokenState (s : State) : W64 :=
  at_ 32 s.tok.maxWait ||| at_ 16 (BitVec.ofNat 16 s.tok.waiting.length) ||| at_ 0 (BitVec.ofNat 8 s.tok.out.length)

def pwrRead (o : Nat) (s : State) : W64 :=
  let p := s.pwr
  match o with
  | 0x00 => flag 32 p.ret ||| at_ 0 p.on
  | 0x08 => domainState s
  | 0x10 => at_ 0 p.wakeEn
  | 0x18 => p.outcome.foldl (fun v e => v ||| at_ (3 * e.1) e.2) 0
  | 0x20 => flag 1 p.noFetch ||| flag 0 p.noPump
  | 0x40 => at_ 32 s.tok.quadMax ||| at_ 16 s.tok.hold ||| at_ 0 s.tok.total
  | 0x48 => tokenState s
  | _ => 0

/-- Wake bits that exist in the variant (R2, R518). -/
def wakeBits (s : State) : BitVec 20 :=
  (List.range 20).foldl (fun v d => if domThere s d then setBit v d true else v) 0

def pwrWrite (o : Nat) (v : W64) (s : State) : State :=
  match o with
  | 0x00 => domainCtrl v s
  | 0x10 => { s with pwr := { s.pwr with wakeEn := fld v 0 20 &&& wakeBits s } }
  | 0x20 => { s with pwr := { s.pwr with noFetch := bit v 1, noPump := bit v 0 } }
  | 0x40 => { s with tok := { s.tok with quadMax := fld v 32 8, hold := fld v 16 16, total := fld v 0 8 } }
  | _ => s

/-! ## CAL control (R55-R58) and SRV (R72-R75) -/

def calRead (o : Nat) (s : State) : W64 :=
  let c := s.cal
  match o with
  | 0x00 => at_ 32 c.drift ||| at_ 16 c.period ||| at_ 0 c.mode
  | 0x08 => at_ 32 c.lastCh ||| at_ 0 c.count
  | 0x10 => c.last
  | 0x18 => flag 4 c.badMode ||| flag 3 c.wreject ||| flag 2 c.mfault ||| flag 1 c.sdrift
  | _ => 0

def calWrite (o : Nat) (m v act : W64) (s : State) : State :=
  let c := s.cal
  match o with
  | 0x00 =>
    let s := { s with cal := { c with drift := fld v 32 16, period := fld v 16 16, mode := fld v 0 2 } }
    if bit m 0 && fld act 0 2 = 3 then post srcCal { s with cal := { s.cal with badMode := true } } else s
  | 0x18 => { s with cal := { c with badMode := c.badMode && !bit act 4, wreject := c.wreject && !bit act 3,
                                     mfault := c.mfault && !bit act 2, sdrift := c.sdrift && !bit act 1 } }
  | _ => s

/-- SRV_FAULT_INFO (R75). -/
def srvFault (s : State) : W64 :=
  at_ 32 s.srv.fCount ||| flag 31 s.srv.fValid ||| at_ 8 s.srv.fLoop ||| at_ 0 s.srv.fMech

def srvRead (o : Nat) (s : State) : W64 :=
  let x := s.srv
  match o with
  | 0x00 => flag 33 x.dqEn ||| flag 32 x.pumpEn ||| at_ 16 x.post ||| at_ 0 x.pre
  | 0x08 => x.next
  | 0x10 => x.prev
  | 0x18 => flag 0 x.late
  | 0x20 => srvFault s
  | _ => 0

/-- A read of SRV_FAULT_INFO clears the fields that it covers. -/
def srvReadAct (o : Nat) (m : W64) (s : State) : State :=
  if o ≠ 0x20 then s
  else
    let s := if bit m 32 then { s with srv := { s.srv with fCount := 0 } } else s
    if bit m 0 then { s with srv := { s.srv with fValid := false, fLoop := 0, fMech := 0 } } else s

def srvWrite (o : Nat) (v act : W64) (s : State) : State :=
  let x := s.srv
  match o with
  | 0x00 => { s with srv := { x with dqEn := bit v 33, pumpEn := bit v 32, post := fld v 16 16, pre := fld v 0 16 } }
  | 0x18 => { s with srv := { x with late := x.late && !bit act 0 } }
  | _ => s

/-! ## QE (R350-R354) -/

def qeRead (o : Nat) (s : State) : W64 :=
  let q := s.qe
  match o with
  | 0x00 => at_ 12 q.ctxBase
  | 0x10 => flag 63 q.busy.isSome ||| at_ 61 q.result ||| at_ 0 q.reason
  | 0x18 =>
    flag 41 q.dbCq ||| at_ 24 q.dbQueue ||| flag 23 q.ctxCq ||| at_ 6 q.ctxQueue ||| flag 3 q.ctxError |||
    flag 2 q.badDoor ||| flag 1 q.idxError ||| flag 0 q.cqStall
  | 0x20 =>
    at_ 48 (BitVec.ofNat 11 q.cbuf.length) ||| at_ 32 (BitVec.ofNat 13 (storeUsed s)) |||
    at_ 16 (BitVec.ofNat 13 q.lru.length)
  | _ => 0

def qeWrite (o : Nat) (m v act : W64) (s : State) : State :=
  let q := s.qe
  match o with
  | 0x00 => if anyQueue s then s else { s with qe := { q with ctxBase := fld v 12 36 } }
  | 0x08 => if bit m 63 then qctl (fld act 62 2) (bit act 17) (fld act 0 17) s else s
  | 0x18 => { s with qe := { q with
      ctxError := q.ctxError && !bit act 3, badDoor := q.badDoor && !bit act 2,
      idxError := q.idxError && !bit act 1, cqStall := q.cqStall && !bit act 0 } }
  | _ => s

/-! ## DMA (R367-R372): `o` from the engine's base -/

def sstCode : SSt → BitVec 2
  | .idle => 0
  | .running => 1
  | .waitOwn => 2
  | .stopped => 3

def dmaRead (e : BitVec 2) (o : Nat) (s : State) : W64 :=
  let g := eng s e
  match o with
  | 0x00 => at_ 1 g.stream ||| flag 0 g.senable
  | 0x08 => at_ 0 g.slist
  | 0x18 =>
    at_ 32 (sstCode g.st) |||
    at_ 16 (BitVec.ofNat 4 (min 15 (working s e).length)) |||
    at_ 8 g.sreason ||| flag 2 g.srefused ||| flag 1 g.sfault
  | 0x20 => g.bytesIn
  | 0x28 => g.bytesOut
  | _ => 0

/-- A write of DMA_CTRL: STREAM is ignored while SENABLE is 1 (R368). -/
def dmaCtrl (e : BitVec 2) (v : W64) (s : State) : State :=
  let g := eng s e
  let s := if g.senable then s else modEng e (fun g => { g with stream := fld v 1 2 }) s
  if bit v 0 = g.senable then s else if bit v 0 then senableSet e s else senableClear e s

def dmaWrite (e : BitVec 2) (o : Nat) (m v act : W64) (s : State) : State :=
  match o with
  | 0x00 => if bit m 0 then dmaCtrl e v s else s
  | 0x08 => if (eng s e).senable then s else modEng e (fun g => { g with slist := fld v 5 43 ++ 0#5 }) s
  | 0x10 => sdoor e s
  | 0x18 => modEng e (fun g => { g with srefused := g.srefused && !bit act 2, sfault := g.sfault && !bit act 1 }) s
  | _ => s

/-! ## HAWK (R375-R386) -/

/-- HAWK_POOL_CFG[k] (R375). -/
def poolWord (p : Pool) : W64 := flag 63 p.enable ||| at_ 44 p.count ||| at_ 26 p.low ||| at_ 6 p.base

/-- CFG_REJECT is set (R376). -/
def poolReject (s : State) : State := { s with hawk := { s.hawk with cfgReject := true } }

/-- A write of HAWK_POOL_CFG[k] (R376, R385). -/
def poolCfg (k : Nat) (v : W64) (s : State) : State :=
  let p := pool s k
  let n : BitVec 18 := fld v 44 18
  let b : BitVec 20 := fld v 6 20
  let s' := modPool k (fun p => { p with count := n, low := fld v 26 18, base := b }) s
  if p.enable then
    if n ≠ p.count || b ≠ p.base then poolReject s
    else if bit v 63 then s'
    else serveWaiting (modPool k (fun p => { p with enable := false, free := [], busy := false }) s')
  else if !bit v 63 then s'
  else if n = 0 || stgSize < 64 * b.toNat + n.toNat * poolSize k then poolReject s'
  else serveWaiting (rebuildPool k (modPool k (fun p => { p with enable := true }) s'))

def hawkRead (o : Nat) (s : State) : W64 :=
  let h := s.hawk
  if o < 0x30 then poolWord (pool s (o / 8))
  else if 0x300 ≤ o ∧ o < 0x330 then
    let k := (o - 0x300) / 8
    at_ 32 (BitVec.ofNat 19 (withheldCount s k)) ||| at_ 0 (BitVec.ofNat 19 (pool s k).free.length)
  else if o = 0x400 then at_ 32 h.badValue ||| at_ 6 h.low ||| flag 1 h.cfgReject ||| flag 0 h.badHandle
  else if o = 0x408 then at_ 32 (BitVec.ofNat 10 (hawkWaits s))
  else 0

def hawkWrite (o : Nat) (m v act : W64) (s : State) : State :=
  let h := s.hawk
  if o < 0x30 then poolCfg (o / 8) v s
  else if 0x200 ≤ o ∧ o < 0x230 then
    if bit m 0 then freeBuffer (fld act 0 32) (some ((o - 0x200) / 8)) s else s
  else if o = 0x400 then { s with hawk := { h with
    low := h.low &&& ~~~fld act 6 6, cfgReject := h.cfgReject && !bit act 1, badHandle := h.badHandle && !bit act 0 } }
  else s

/-! ## PLB (R260, R264-R270) -/

/-- PLB_FAULT_INFO (R269). -/
def plbFaultWord (s : State) : W64 :=
  let p := s.plb
  at_ 40 p.fCount ||| flag 39 p.fValid ||| at_ 29 p.fCh ||| at_ 23 p.fDie ||| at_ 19 p.fZone ||| at_ 15 p.fLevel |||
  flag 14 p.fClamp

def plbRead (o : Nat) (s : State) : W64 :=
  let p := s.plb
  if o = 0x00 then at_ 32 p.deadband ||| at_ 16 p.ki
  else if o = 0x08 then at_ 56 p.hi ||| at_ 48 p.lo ||| at_ 16 p.feLimit
  else if o = 0x10 then at_ 0 p.feTime
  else if o = 0x18 then
    at_ 32 p.tPost ||| flag 24 p.tFreeze ||| at_ 20 p.tLevel ||| at_ 16 p.tZone ||| at_ 8 p.tDie ||| at_ 1 p.tMode |||
    flag 0 p.tEnable
  else if o = 0x20 then plbFaultWord s
  else if o = 0x28 then p.fTime
  else if 0x40 ≤ o ∧ o < 0xC0 then at_ 0 (tget 0 ((o - 0x40) / 8) p.map)
  else 0

/-- A read of PLB_FAULT_INFO clears the fields that it covers; CH lies across the halves. -/
def plbReadAct (o : Nat) (m : W64) (s : State) : State :=
  if o ≠ 0x20 then s
  else
    let s := if bit m 32 then { s with plb := { s.plb with fCount := 0, fValid := false } } else s
    let s := if bit m 0 then { s with plb := { s.plb with fDie := 0, fZone := 0, fLevel := 0, fClamp := false } } else s
    if bit m 0 && bit m 32 then { s with plb := { s.plb with fCh := 0 } } else s

def plbWrite (o : Nat) (v : W64) (s : State) : State :=
  let p := s.plb
  if o = 0x00 then { s with plb := { p with deadband := fld v 32 16, ki := fld v 16 12 } }
  else if o = 0x08 then { s with plb := { p with hi := fld v 56 8, lo := fld v 48 8, feLimit := fld v 16 16 } }
  else if o = 0x10 then { s with plb := { p with feTime := fld v 0 32 } }
  else if o = 0x18 then { s with plb := { p with
    tPost := fld v 32 8, tFreeze := bit v 24, tLevel := fld v 20 4, tZone := fld v 16 4, tDie := fld v 8 6,
    tMode := fld v 1 2, tEnable := bit v 0 } }
  else if 0x40 ≤ o ∧ o < 0xC0 then { s with plb := { p with map := tset 0 ((o - 0x40) / 8) (fld v 0 32) p.map } }
  else s

/-! ## Channel windows: `o` from the window's base. The quad has power (R62). -/

/-- THREAD[t] of CH_STATE (R117). -/
def threadCode (x : Thread) : BitVec 3 :=
  if x.calib then 6
  else if x.handler then 5
  else match x.wait with
    | .none => if x.run then 1 else if x.ending.isSome then 2 else 0
    | .dop _ _ => 3
    | .dopw _ => 3
    | .time _ _ => 4
    | .event _ _ => 4
    | .endPlace => if x.dop = .out then 3 else 2
    | _ => 2

/-- ENGINE of CH_STATE (R117). -/
def engineCode (s : State) (c : Chan) : BitVec 2 :=
  let x := (chan s c).engine
  if x = 1 && (domSt s (4 + (quadOf c).toNat) = .draining ||
      (s.cal.mode = 1 && (calStarts s c || interrupted s c))) then 2 else x

/-- CH_STATE (R117). -/
def chState (s : State) (c : Chan) : W64 :=
  let r := (chan s c).reg
  (List.range 8).foldl (fun v t => v ||| at_ (3 * t) (threadCode (thr s c (BitVec.ofNat 3 t))))
    (at_ 40 r.faultPc ||| at_ 36 r.faultT ||| at_ 32 r.faultC ||| at_ 24 (engineCode s c))

/-- ACT of CH_DIE[j] (R204). -/
def actCode (s : State) (c : Chan) (j : Ctx) : BitVec 3 :=
  let rs := ((routines s c).map (·.2)).filter fun r => r.die = j && r.started
  if rs.any (·.heldBy.isSome) then 4
  else if rs.any (·.st = .running) then 1
  else if rs.any (·.st = .yielded) then 2
  else if rs.any (·.st = .parked) then 3
  else 0

/-- CH_DIE[j] (R201). -/
def dieWord (s : State) (c : Chan) (j : Ctx) : W64 :=
  let d := dieCtl s c j
  at_ 20 d.page ||| at_ 16 d.plane ||| flag 12 d.fenceEn ||| at_ 8 (actCode s c j) |||
  at_ 4 (tget 0 j.toNat (chan s c).lastC) ||| at_ 0 d.dstate

/-- A write of CH_DIE[j] (R201, R203): FOREIGN to ACTIVE admits the die. -/
def dieWrite (c : Chan) (j : Ctx) (v : W64) (s : State) : State :=
  let d := dieCtl s c j
  let n : DieCtl := { dstate := fld v 0 2, fenceEn := bit v 12, plane := fld v 16 2, page := fld v 20 4 }
  let s := modChan c (fun ch => { ch with ctl := { ch.ctl with die := tset {} j.toNat n ch.ctl.die } }) s
  if d.dstate = 2 ∧ n.dstate = 1 then plbResetDie c j s else s

/-- CH_PATCH (R173). -/
def patchWord (r : ChReg) : W64 :=
  at_ 62 r.pState ||| at_ 60 r.pResult ||| flag 58 r.pDisp ||| at_ 45 r.pCount ||| at_ 33 r.pTarget ||| at_ 13 r.pSrc

/-- CH_PINCTL (R200). -/
def pinctlWord (x : Channel) : W64 := flag 2 x.reg.wpPend ||| flag 1 x.reg.wpNow ||| flag 0 x.ctl.wpLevel

/-- A write of WP_LEVEL: it takes force at the next qualifying boundary (R200). -/
def pinctl (c : Chan) (b : Bool) (s : State) : State :=
  atRest c (modChan c (fun ch => { ch with ctl := { ch.ctl with wpLevel := b },
                                           reg := { ch.reg with wpPend := true } }) s)

/-- CH_FENCE_CFG (R216). -/
def fenceCfg (x : Channel) : W64 :=
  flag 63 x.reg.filling ||| at_ 46 x.ctl.fill ||| at_ 40 x.ctl.ebLog2 ||| at_ 34 x.ctl.ctxLog2 ||| at_ 12 x.ctl.fBase

/-- A write of CH_FENCE_CFG (R216). -/
def fenceCfgWrite (c : Chan) (v act : W64) (s : State) : State :=
  modChan c (fun ch => { ch with
    ctl := { ch.ctl with fill := fld v 46 16, ebLog2 := fld v 40 4, ctxLog2 := fld v 34 3, fBase := fld v 12 14 },
    reg := { ch.reg with filling := ch.reg.filling || bit act 62 } }) s

/-- The entry that CH_FENCE_ADDR names, when an access reaches one (R217). -/
def fenceAt (s : State) (c : Chan) : Option (Ctx × Nat) :=
  let r := (chan s c).reg
  if stgOn s && inRegion s c r.fCtx && r.fIdx.toNat < 2 ^ ebLog2 s c then some (r.fCtx, r.fIdx.toNat) else none

/-- A read of CH_FENCE_DATA (R217). -/
def fenceDataRead (c : Chan) (s : State) : W64 × State :=
  match fenceAt s c with
  | none => (0xFFFF, s)
  | some (j, f) =>
    let r := fenceRead c 0 j f s
    (at_ 0 r.1, r.2)

/-- A write of CH_FENCE_DATA (R217). -/
def fenceDataWrite (c : Chan) (v : BitVec 16) (s : State) : State :=
  match fenceAt s c with
  | none => s
  | some (j, f) => fenceWrite c 0 j f v s

/-- CH_LDPC_STAT (R256). -/
def ldpcStat (r : ChReg) : W64 := at_ 48 r.hardFail ||| at_ 32 r.softOk ||| at_ 16 r.softFail ||| at_ 0 r.noBank

/-- CH_PLB_TRACE_PTR (R272). -/
def tracePtr (p : ChPlb) : W64 :=
  at_ 32 p.seq ||| at_ 10 p.left ||| flag 9 p.tFrozen ||| flag 8 p.wrapped ||| at_ 0 p.wptr

/-- A register of the window other than CH_FENCE_DATA and the views of scratch. -/
def chRead (c : Chan) (o : Nat) (s : State) : W64 :=
  let x := chan s c
  let r := x.reg
  if o = 0x00 then chState s c
  else if o = 0x08 then
    at_ 32 r.build ||| at_ 24 r.major ||| at_ 16 r.minor ||| at_ 8 r.patches ||| flag 3 r.user ||| flag 2 r.corr |||
    flag 1 r.uncorr ||| flag 0 r.loaded
  else if o = 0x10 then at_ 0 x.ctl.calEntry
  else if o = 0x18 then patchWord r
  else if o = 0x20 then at_ 0 x.ctl.pump
  else if o = 0x28 then pinctlWord x
  else if o = 0x30 then fenceCfg x
  else if o = 0x38 then at_ 16 r.fIdx ||| at_ 0 r.fCtx
  else if o = 0x48 then flag 32 r.bypass ||| at_ 0 r.key
  else if o = 0x50 then at_ 24 r.softIter ||| at_ 16 r.hardIter ||| at_ 0 r.zeros
  else if o = 0x58 then r.llr
  else if o = 0x60 then ldpcStat r
  else if o = 0x68 then tracePtr x.plb
  else if 0x80 ≤ o ∧ o < 0xC0 then tget 0 ((o - 0x80) / 8) x.ctl.fclass
  else if 0x200 ≤ o ∧ o < 0x400 then dieWord s c (BitVec.ofNat 6 ((o - 0x200) / 8))
  else if 0x2000 ≤ o ∧ o < 0x4000 then
    let k := (o - 0x2000) / 8
    (tget [] (k / 4) x.plb.trace).getD (k % 4) 0
  else 0

/-- A read of CH_LDPC_STAT clears the fields that it covers (R256). -/
def chReadAct (c : Chan) (o : Nat) (m : W64) (s : State) : State :=
  if o ≠ 0x60 then s
  else
    let s := if bit m 32 then modReg c (fun r => { r with hardFail := 0, softOk := 0 }) s else s
    if bit m 0 then modReg c (fun r => { r with softFail := 0, noBank := 0 }) s else s

/-- A write of a register of the window other than CH_FENCE_DATA and the views of scratch. -/
def chWrite (c : Chan) (o : Nat) (m v act : W64) (s : State) : State :=
  let ctl := fun (f : ChCtl → ChCtl) => modChan c (fun ch => { ch with ctl := f ch.ctl }) s
  if o = 0x08 then modReg c (fun r => { r with corr := r.corr && !bit act 2, uncorr := r.uncorr && !bit act 1 }) s
  else if o = 0x10 then ctl fun x => { x with calEntry := fld v 0 10 }
  else if o = 0x18 then if bit act 59 && (chan s c).reg.pState = 0 then patchGo c v s else s
  else if o = 0x20 then ctl fun x => { x with pump := fld v 0 32 }
  else if o = 0x28 then if bit m 0 then pinctl c (bit v 0) s else s
  else if o = 0x30 then fenceCfgWrite c v act s
  else if o = 0x38 then modReg c (fun r => { r with fIdx := fld v 16 14, fCtx := fld v 0 6 }) s
  else if o = 0x48 then modReg c (fun r => { r with bypass := bit v 32, key := fld v 0 32 }) s
  else if o = 0x50 then
    modReg c (fun r => { r with softIter := fld v 24 6, hardIter := fld v 16 6, zeros := fld v 0 12 }) s
  else if o = 0x58 then modReg c (fun r => { r with llr := v &&& 0x3F3F3F3F3F3F3F3F }) s
  else if o = 0x68 then
    if bit act 9 then modChan c (fun ch => { ch with plb := { ch.plb with tFrozen := false } }) s else s
  else if 0x80 ≤ o ∧ o < 0xC0 then ctl fun x => { x with fclass := tset 0 ((o - 0x80) / 8) v x.fclass }
  else if 0x200 ≤ o ∧ o < 0x400 then if bit m 0 then dieWrite c (BitVec.ofNat 6 ((o - 0x200) / 8)) v s else s
  else s

/-- Scratch address that CH_DIE_UID[j] and CH_DIE_SEEN[j] view (R522). -/
def viewAddr (o : Nat) : Option Nat :=
  if 0x400 ≤ o ∧ o < 0x600 then some (0x3E00 + (o - 0x400))
  else if 0x600 ≤ o ∧ o < 0x800 then some (0x3C00 + (o - 0x600))
  else none

end Sys2Proof.Machine
end

