-- ==== Sys2Proof/Machine/Port.lean ====
section
/-! DEFINITION. The register port: access forms and responses (R59-R62), the aperture (R85-R87), the boot's lockout
(R510), reads that wait (R61, R395, R420), and the commands that are register port accesses. -/

namespace Sys2Proof.Machine

open Sys2Proof

/-! ## Forms (R59) -/

/-- The bits of a register that a 64-bit or 32-bit access covers. A 32-bit access uses its own byte lanes of the
data. -/
def formMask : Acc → W64
  | .full => BitVec.allOnes 64
  | .low => 0xFFFFFFFF
  | .high => 0xFFFFFFFF00000000
  | .burst => 0
  | .other => 0

/-- Ranges that accept burst reads: the split-access window and the Primer read window. -/
def burstRange (o : Nat) : Bool := 0x600000 ≤ o && o < 0x1000000

/-- The access has no effect and receives a fabric error response. -/
def formBad (r : PReq) : Bool :=
  match r.form with
  | .other => true
  | .burst => r.write || !burstRange r.off || r.off % 64 ≠ 0
  | _ => r.off % 8 ≠ 0

/-! ## The aperture: reads -/

/-- Channel and offset of an address in the channel windows. -/
def windowOf (o : Nat) : Chan × Nat := (BitVec.ofNat 6 ((o - 0x300000) / 0x4000), (o - 0x300000) % 0x4000)

/-- STG has power, so that the addresses held in it answer (R62). -/
def stgThere (s : State) : Bool := powered s 1

/-- The value of the register at offset `o` of the aperture, for registers whose value is read without an action. -/
def regRead (o : Nat) (s : State) : W64 :=
  if o < 0x1000 then gctlRead o s
  else if o < 0x2000 then pwrRead (o - 0x1000) s
  else if o < 0x3000 then calRead (o - 0x2000) s
  else if o < 0x4000 then srvRead (o - 0x3000) s
  else if o < 0x10000 then 0
  else if o < 0x20000 then qeRead (o - 0x10000) s
  else if o < 0x30000 then dmaRead (BitVec.ofNat 2 ((o - 0x20000) / 0x4000)) ((o - 0x20000) % 0x4000) s
  else if o < 0x40000 then if stgThere s then hawkRead (o - 0x30000) s else 0
  else if o < 0x50000 then if stgThere s then rndRead (o - 0x40000) s else 0
  else if o < 0x60000 then plbRead (o - 0x50000) s
  else if o < 0x70000 then intRead (o - 0x60000) s
  else if o < 0x80000 then lathRead (o - 0x70000) s
  else if o < 0xA8100 then readSet ((o - 0x80000) / 8) s
  else if o < 0x300000 then 0
  else if o < 0x400000 then
    let w := windowOf o
    if quadUp s w.1 then chRead w.1 w.2 s else 0
  else if o < 0x480000 then icRead (o - 0x400000) s
  else if o < 0x500000 then
    let k := (o - 0x480000) % 0x20000
    if k < 0x1000 then strRegRead (BitVec.ofNat 2 ((o - 0x480000) / 0x20000)) (k / 8) s else 0
  else if o < 0x600000 then prmRegRead (o - 0x500000) s
  else 0

/-- What a read of the bits `m` clears (R8, R59). -/
def regReadAct (o : Nat) (m : W64) (s : State) : State :=
  if o = 0x100 then if bit m 32 then { s with soft := { s.soft with maxWait := 0 } } else s
  else if o = 0x1048 then if bit m 32 then { s with tok := { s.tok with maxWait := 0 } } else s
  else if o = 0x3020 then srvReadAct 0x20 m s
  else if o = 0x50020 then plbReadAct 0x20 m s
  else if 0x60000 ≤ o ∧ o < 0x70000 then intReadAct (o - 0x60000) m s
  else if 0x70000 ≤ o ∧ o < 0x80000 then lathReadAct (o - 0x70000) m s
  else if 0x300000 ≤ o ∧ o < 0x400000 then
    let w := windowOf o
    if quadUp s w.1 then chReadAct w.1 w.2 m s else s
  else if 0x480000 ≤ o ∧ o < 0x500000 ∧ (o - 0x480000) % 0x20000 = 0x18 then
    if bit m 48 then modStrm ((o - 0x480000) / 0x20000) (fun x => { x with discarded := 0 }) s else s
  else s

/-- A read with an action of its own: CH_FENCE_DATA (R217), the views of scratch (R522), the
split-access window (R438). None: a register without one. `m` holds the bits read. -/
def actRead (o : Nat) (m : W64) (s : State) : Option (W64 × State) :=
  if 0x300000 ≤ o ∧ o < 0x400000 then
    let w := windowOf o
    if !quadUp s w.1 then none
    else if w.2 = 0x40 then some (if bit m 0 then fenceDataRead w.1 s else (0, s))
    else match viewAddr w.2 with
      | some a =>
        let lo := if bit m 0 then 0 else 4
        let n := if bit m 0 && bit m 32 then 8 else 4
        let r := readMem (.scr w.1) (a + lo) n rqPort s
        some (bytesWord (plain r.1) <<< (8 * lo), r.2)
      | none => none
  else if 0x600000 ≤ o ∧ o < 0x800000 then
    let lo := if bit m 0 then 0 else 4
    let n := if bit m 0 && bit m 32 then 8 else 4
    some (splitWord (o - 0x600000) lo n s)
  else none

/-! ## The aperture: writes -/

/-- A write of the bits `m` of the register at offset `o`; `d` holds them. -/
def regWrite (o : Nat) (m d : W64) (s : State) : State :=
  let act := d &&& m
  let v := merge (regRead o s) d m
  if o < 0x1000 then if o = 0x48 then resetWrite act s else gctlWrite o v act s
  else if o < 0x2000 then pwrWrite (o - 0x1000) v s
  else if o < 0x3000 then calWrite (o - 0x2000) m v act s
  else if o < 0x4000 then srvWrite (o - 0x3000) v act s
  else if o < 0x10000 then s
  else if o < 0x20000 then qeWrite (o - 0x10000) m v act s
  else if o < 0x30000 then dmaWrite (BitVec.ofNat 2 ((o - 0x20000) / 0x4000)) ((o - 0x20000) % 0x4000) m v act s
  else if o < 0x40000 then if stgThere s then renderOn (hawkWrite (o - 0x30000) m v act s) else s
  else if o < 0x50000 then if stgThere s then rndWrite (o - 0x40000) v act s else s
  else if o < 0x60000 then plbWrite (o - 0x50000) v s
  else if o < 0x70000 then intWrite (o - 0x60000) v act s
  else if o < 0x80000 then lathWrite (o - 0x70000) m v act s
  else if o < 0xA8100 then writeSet ((o - 0x80000) / 8) v s
  else if o < 0x100000 then s
  else if o < 0x200000 then if bit m 0 then doorbell (ctxKey false (BitVec.ofNat 17 ((o - 0x100000) / 8))) (fld d 0 16) s else s
  else if o < 0x300000 then if bit m 0 then doorbell (ctxKey true (BitVec.ofNat 17 ((o - 0x200000) / 8))) (fld d 0 16) s else s
  else if o < 0x400000 then
    let w := windowOf o
    if !quadUp s w.1 then s
    else if w.2 = 0x40 then if bit m 0 then fenceDataWrite w.1 (fld d 0 16) s else s
    else match viewAddr w.2 with
      | some a =>
        let lo := if bit m 0 then 0 else 4
        let n := if bit m 0 && bit m 32 then 8 else 4
        writeMem (.scr w.1) (a + lo) (clean (((wordBytes 8 d).drop lo).take n)) rqPort s
      | none => chWrite w.1 w.2 m v act s
  else if o < 0x480000 then icWrite (o - 0x400000) m v act s
  else if o < 0x500000 then
    let k := (o - 0x480000) % 0x20000
    if k < 0x1000 then strRegWrite (BitVec.ofNat 2 ((o - 0x480000) / 0x20000)) (k / 8) m v act s else s
  else if o < 0x600000 then prmRegWrite (o - 0x500000) m v act s
  else if o < 0x800000 then splitWrite (o - 0x600000) m d s
  else s

/-! ## One transaction -/

/-- A response leaves the port. -/
def answer (p : PResp) (s : State) : State := { s with port := { s.port with resp := s.port.resp ++ [p] } }

/-- The registers that read their values before READY (R510). -/
def bootReadable (o : Nat) : Bool := o ≤ 0x20 || o = 0x48 || o = 0x1008

/-- A burst read of eight words. -/
def burstRead (o : Nat) (s : State) : PResp × State :=
  if o < 0x800000 then
    let r := (List.range 8).foldl (fun (p : List W64 × State) i =>
      let x := splitWord (o - 0x600000 + 8 * i) 0 8 p.2
      (p.1 ++ [x.1], x.2)) ([], s)
    ({ ok := true, words := r.1 }, r.2)
  else
    match windowRead ((o - 0x800000) / 8) 8 0xFF s with
    | (some ws, s) => ({ ok := true, words := ws }, s)
    | (none, s) => ({ ok := false, words := List.replicate 8 0 }, s)

/-- A read of a stream data window (R394, R395): its head word, an error response, or a wait. -/
def dataWindow (i : BitVec 2) (k : Nat) (f : Acc) (s : State) : State :=
  if k ≠ 0x10000 || f ≠ .full || !stgThere s then answer { ok := true } s
  else if served s i then answer { ok := false } s
  else match windowPop i.toNat s with
    | some (w, s) => answer { ok := true, value := w } s
    | none => { s with port := { s.port with wait := some (.window i s.time) } }

/-- A read of HAWK_ALLOC[k] (R383): the handle, 0 when nothing fits, or a wait while the pool serves no request (R31,
R386). -/
def hawkAlloc (k : Nat) (s : State) : State :=
  match alloc k false s with
  | some (h, s) => answer { ok := true, value := h.setWidth 64 } s
  | none =>
    if allocBusy k false s then
      joinWaiting { who := .port, pool := k, fall := false, wait := false }
        { s with port := { s.port with wait := some .alloc } }
    else answer { ok := true } s

/-- A read of IC_MASK_SYNC (R420): its low half waits. -/
def maskSync (f : Acc) (s : State) : State :=
  if f = .high then answer { ok := true } s
  else
    let old := s.port.resp
    let s := syncServe { s with port := { s.port with wait := some .sync, resp := [] } }
    { s with port := { s.port with resp := old ++ s.port.resp } }

/-- The bytes of a word that a form reads, one bit each (R59). -/
def formBytes (f : Acc) : Byte :=
  match f with
  | .low => 0x0F
  | .high => 0xF0
  | _ => 0xFF

/-- A read, its form accepted and the boot at READY. -/
def portRead (o : Nat) (f : Acc) (s : State) : State :=
  let m := formMask f
  if f = .burst then
    let r := burstRead o s
    answer r.1 r.2
  else if o = 0x400008 then maskSync f s
  else if 0x30100 ≤ o ∧ o < 0x30130 ∧ bit m 0 ∧ stgThere s then hawkAlloc ((o - 0x30100) / 8) s
  else if 0x480000 ≤ o ∧ o < 0x500000 ∧ 0x10000 ≤ (o - 0x480000) % 0x20000 then
    dataWindow (BitVec.ofNat 2 ((o - 0x480000) / 0x20000)) ((o - 0x480000) % 0x20000) f s
  else if 0x800000 ≤ o then
    match windowRead ((o - 0x800000) / 8) 1 (formBytes f) s with
    | (some ws, s) => answer { ok := true, value := ws.getD 0 0 &&& m } s
    | (none, s) => answer { ok := false } s
  else match actRead o m s with
    | some (v, s) => answer { ok := true, value := v &&& m } s
    | none => answer { ok := true, value := regRead o s &&& m } (regReadAct o m s)

/-- One transaction, in port order. An address above the aperture never reaches the block (R7). A reset ends the
transactions held behind the write that asked for it (R505). -/
def portAct (r : PReq) (s : State) : State :=
  if 0x1000000 ≤ r.off then s
  else if formBad r then answer { ok := false, words := if r.form = .burst then List.replicate 8 0 else [] } s
  else if !ready s then
    if r.write then
      if r.off = 0x48 then
        let old := s.port.resp
        let t := resetWrite (r.data &&& formMask r.form) { s with port := { s.port with resp := [] } }
        { t with port := { t.port with resp := old ++ { ok := true } :: t.port.resp } }
      else answer { ok := true } s
    else if r.form = .burst then answer { ok := true, words := List.replicate 8 0 } s
    else answer { ok := true, value := if bootReadable r.off then regRead r.off s &&& formMask r.form else 0 } s
  else if r.write then
    let old := s.port.resp
    let t := regWrite r.off (formMask r.form) r.data { s with port := { s.port with resp := [] } }
    { t with port := { t.port with resp := old ++ { ok := true } :: t.port.resp } }
  else portRead r.off r.form s

/-- The held transactions proceed, in order, until a read waits. `fuel` bounds them. -/
def portGoFuel : (fuel : Nat) → State → State
  | 0, s => s
  | fuel + 1, s =>
    if s.port.wait.isSome then s
    else match s.port.held with
      | [] => s
      | r :: rest => portGoFuel fuel (portAct r { s with port := { s.port with held := rest } })

def portGo (s : State) : State := portGoFuel s.port.held.length s

/-- A transaction reaches the port. With 16 outstanding the port takes no more (R61). -/
def portSubmit (r : PReq) (s : State) : State :=
  let s := { s with port := { s.port with resp := [] } }
  if s.port.wait.isSome && 15 ≤ s.port.held.length then s
  else portGo { s with port := { s.port with held := s.port.held ++ [r] } }

def putReg (off : Nat) (a : Acc) (v : W64) (s : State) : Out :=
  .next (portSubmit { write := true, off := off, form := a, data := v } s)

def getReg (off : Nat) (a : Acc) (s : State) : Out := .next (portSubmit { write := false, off := off, form := a } s)

/-- Base of a channel's window and of a stream's window (R85). -/
def chBase (c : Chan) : Nat := 0x300000 + 0x4000 * c.toNat
def strBase (i : BitVec 2) : Nat := 0x480000 + 0x20000 * i.toNat

/-- The written word of QE_QCTL (R351). -/
def qctlWord (cmd : BitVec 2) (cq : Bool) (q : QNum) : W64 := at_ 62 cmd ||| flag 17 cq ||| at_ 0 q

/-- The written word of GCTL_RESET with its KEY (R509). -/
def resetWord (cold warm : Bool) : W64 := at_ 56 0xA5#8 ||| flag 49 cold ||| flag 48 warm

/-! ## Writes -/

/-- SQ_TAIL_DOORBELL (R314). -/
def execSqTailDoorbell (n : QNum) (a : Acc) (v : W64) (s : State) : Out := putReg (0x100000 + 8 * n.toNat) a v s

/-- CQ_HEAD_DOORBELL (R314). -/
def execCqHeadDoorbell (n : QNum) (a : Acc) (v : W64) (s : State) : Out := putReg (0x200000 + 8 * n.toNat) a v s

/-- REGISTER_WRITE (R8). -/
def execRegisterWrite (off : Nat) (a : Acc) (v : W64) (s : State) : Out := putReg off a v s

/-- CAL_RECORD_WRITE (R49): word `w` of the calibration set. -/
def execCalRecordWrite (w : Nat) (a : Acc) (v : W64) (s : State) : Out := putReg (0x80000 + 8 * w) a v s

/-- IC_MSG_WRITE (R408). -/
def execIcMsgWrite (a : Acc) (v : W64) (s : State) : Out := putReg 0x400000 a v s

/-- IC_EOI_WRITE (R416). -/
def execIcEoiWrite (p : BitVec 4) (a : Acc) (v : W64) (s : State) : Out := putReg (0x401010 + 0x40 * p.toNat) a v s

/-- HAWK_FREE_WRITE (R379, R384). -/
def execHawkFreeWrite (k : Nat) (a : Acc) (v : W64) (s : State) : Out := putReg (0x30200 + 8 * k) a v s

/-- HAWK_POOL_CFG_WRITE (R376). -/
def execHawkPoolCfgWrite (k : Nat) (a : Acc) (v : W64) (s : State) : Out := putReg (0x30000 + 8 * k) a v s

/-- FLUSH (R397): STR_CTRL written with FLUSH set. -/
def execFlush (i : BitVec 2) (a : Acc) (v : W64) (s : State) : Out := putReg (strBase i) a (v ||| flag 1 true) s

/-- STREAM_ENABLE_WRITE (R389, R402). -/
def execStreamEnableWrite (i : BitVec 2) (a : Acc) (v : W64) (s : State) : Out := putReg (strBase i) a v s

/-- DMA_SDOOR_WRITE (R367, R370). -/
def execDmaSdoorWrite (e : BitVec 2) (a : Acc) (v : W64) (s : State) : Out :=
  putReg (0x20010 + 0x4000 * e.toNat) a v s

/-- SENABLE_WRITE (R367, R368). -/
def execSenableWrite (e : BitVec 2) (a : Acc) (v : W64) (s : State) : Out := putReg (0x20000 + 0x4000 * e.toNat) a v s

/-- QE_QCTL ENABLE (R351). -/
def execQeQctlEnable (cq : Bool) (q : QNum) (a : Acc) (s : State) : Out := putReg 0x10008 a (qctlWord 1 cq q) s

/-- QE_QCTL DISABLE (R351). -/
def execQeQctlDisable (cq : Bool) (q : QNum) (a : Acc) (s : State) : Out := putReg 0x10008 a (qctlWord 2 cq q) s

/-- QE_QCTL with the reserved command 3 (R351). -/
def execQeQctlReserved (cq : Bool) (q : QNum) (a : Acc) (s : State) : Out := putReg 0x10008 a (qctlWord 3 cq q) s

/-- REGISTER_COLD_RESET (R508). -/
def execRegisterColdReset (warmToo : Bool) (a : Acc) (s : State) : Out := putReg 0x48 a (resetWord true warmToo) s

/-- REGISTER_WARM_RESET (R506). -/
def execRegisterWarmReset (a : Acc) (s : State) : Out := putReg 0x48 a (resetWord false true) s

/-- HALT_EVIDENCE_CLEAR (R347). -/
def execHaltEvidenceClear (a : Acc) (s : State) : Out := putReg 0x80 a (flag 62 true) s

/-- CH_PATCH written with GO (R173). -/
def execChPatchGo (c : Chan) (a : Acc) (v : W64) (s : State) : Out := putReg (chBase c + 0x18) a (v ||| flag 59 true) s

/-- FENCE_FILL (R216): CH_FENCE_CFG written with FILL. -/
def execFenceFill (c : Chan) (a : Acc) (v : W64) (s : State) : Out := putReg (chBase c + 0x30) a (v ||| flag 62 true) s

/-- CH_FENCE_DATA_WRITE (R217). -/
def execChFenceDataWrite (c : Chan) (a : Acc) (v : W64) (s : State) : Out := putReg (chBase c + 0x40) a v s

/-- CH_DIE_WRITE (R201, R203). -/
def execChDieWrite (c : Chan) (j : Ctx) (a : Acc) (v : W64) (s : State) : Out :=
  putReg (chBase c + 0x200 + 8 * j.toNat) a v s

/-- CH_PINCTL_WRITE (R200). -/
def execChPinctlWrite (c : Chan) (a : Acc) (v : W64) (s : State) : Out := putReg (chBase c + 0x28) a v s

/-- PWR_DOMAIN_ON (R512): a write of PWR_DOMAIN_CTRL. -/
def execPwrDomainOn (a : Acc) (v : W64) (s : State) : Out := putReg 0x1000 a v s

/-- PWR_DOMAIN_SLEEP (R512): a write of PWR_DOMAIN_CTRL. -/
def execPwrDomainSleep (a : Acc) (v : W64) (s : State) : Out := putReg 0x1000 a v s

/-- PWR_RETENTION_REQUEST (R512): a write of PWR_DOMAIN_CTRL. -/
def execPwrRetentionRequest (a : Acc) (v : W64) (s : State) : Out := putReg 0x1000 a v s

/-- INT_BANK_RETIRE_WRITE (R445). -/
def execIntBankRetireWrite (a : Acc) (v : W64) (s : State) : Out := putReg 0x60010 a v s

/-- SPLIT_WINDOW_WRITE (R438). -/
def execSplitWindowWrite (o : BitVec 21) (a : Acc) (v : W64) (s : State) : Out := putReg (0x600000 + o.toNat) a v s

/-- PRM NOP (R454). -/
def execPrmNop (a : Acc) (s : State) : Out := putReg 0x500000 a 0 s

/-- PRM READ (R454). -/
def execPrmRead (a : Acc) (s : State) : Out := putReg 0x500000 a 1 s

/-- PRM PROGRAM (R456). -/
def execPrmProgram (a : Acc) (s : State) : Out := putReg 0x500000 a 2 s

/-- PRM ERASE (R457). -/
def execPrmErase (a : Acc) (s : State) : Out := putReg 0x500000 a 3 s

/-- PRM SUSPEND (R462). -/
def execPrmSuspend (a : Acc) (s : State) : Out := putReg 0x500000 a 4 s

/-- PRM RESUME (R462). -/
def execPrmResume (a : Acc) (s : State) : Out := putReg 0x500000 a 5 s

/-- PRM READ_FACTORY (R467). -/
def execPrmReadFactory (a : Acc) (s : State) : Out := putReg 0x500000 a 6 s

/-- PRM ROTATE (R466). -/
def execPrmRotate (a : Acc) (s : State) : Out := putReg 0x500000 a 7 s

/-- PRM ERASE_VERIFY (R454). -/
def execPrmEraseVerify (a : Acc) (s : State) : Out := putReg 0x500000 a 8 s

/-- A reserved code of PRM_CMD (R455). -/
def execPrmReservedCmd (code : BitVec 4) (a : Acc) (s : State) : Out := putReg 0x500000 a (at_ 0 code) s

/-- PRM_WINDOW_BASE written with ENABLE (R465). -/
def execPrmWindowEnable (a : Acc) (v : W64) (s : State) : Out := putReg 0x500020 a (v ||| flag 31 true) s

/-- LATH_PROBE written with GO (R499). -/
def execLathProbeGo (a : Acc) (v : W64) (s : State) : Out := putReg 0x70020 a (v ||| flag 63 true) s

/-- LATH_SELF_WRITE (R492). -/
def execLathSelfWrite (a : Acc) (v : W64) (s : State) : Out := putReg 0x70000 a v s

/-- LATH_NODE_WRITE (R502). -/
def execLathNodeWrite (i : BitVec 12) (a : Acc) (v : W64) (s : State) : Out := putReg (0x78000 + 8 * i.toNat) a v s

/-- LATH_PORT_ENABLE (R500): a write of LATH_PORT_CTL[x]. -/
def execLathPortEnable (x : BitVec 2) (a : Acc) (v : W64) (s : State) : Out := putReg (0x70100 + 0x20 * x.toNat) a v s

/-! ## Reads that act -/

/-- IC_MASK_SYNC_READ (R420). -/
def execIcMaskSyncRead (a : Acc) (s : State) : Out := getReg 0x400008 a s

/-- HAWK_ALLOC_READ (R383). -/
def execHawkAllocRead (k : Nat) (a : Acc) (s : State) : Out := getReg (0x30100 + 8 * k) a s

/-- STREAM_DATA_WINDOW_READ (R394): byte `o` of the window. -/
def execStreamDataWindowRead (i : BitVec 2) (o : BitVec 16) (a : Acc) (s : State) : Out :=
  getReg (strBase i + 0x10000 + o.toNat) a s

/-- CH_FENCE_DATA_READ (R217). -/
def execChFenceDataRead (c : Chan) (a : Acc) (s : State) : Out := getReg (chBase c + 0x40) a s

/-- SPLIT_WINDOW_READ (R438). -/
def execSplitWindowRead (o : BitVec 21) (a : Acc) (s : State) : Out := getReg (0x600000 + o.toNat) a s

/-- PRIMER_WINDOW_READ (R452). -/
def execPrimerWindowRead (w : BitVec 20) (a : Acc) (s : State) : Out := getReg (0x800000 + 8 * w.toNat) a s

/-- SRV_FAULT_INFO_READ (R75). -/
def execSrvFaultInfoRead (a : Acc) (s : State) : Out := getReg 0x3020 a s

/-- PLB_FAULT_INFO_READ (R269). -/
def execPlbFaultInfoRead (a : Acc) (s : State) : Out := getReg 0x50020 a s

/-- LATH_EVENT_READ (R498). -/
def execLathEventRead (a : Acc) (s : State) : Out := getReg 0x70018 a s

/-- INT_ERRLOG_READ (R441). -/
def execIntErrlogRead (a : Acc) (s : State) : Out := getReg 0x60000 a s

/-- CH_LDPC_STAT_READ (R256). -/
def execChLdpcStatRead (c : Chan) (a : Acc) (s : State) : Out := getReg (chBase c + 0x60) a s

/-- STR_STATUS_READ (R405). -/
def execStrStatusRead (i : BitVec 2) (a : Acc) (s : State) : Out := getReg (strBase i + 0x18) a s

/-- GCTL_SOFT_STATE_READ (R257). -/
def execGctlSoftStateRead (a : Acc) (s : State) : Out := getReg 0x100 a s

/-- PWR_TOKEN_STATE_READ (R223). -/
def execPwrTokenStateRead (a : Acc) (s : State) : Out := getReg 0x1048 a s

/-- INT_BANK_RETIRE_READ (R445). -/
def execIntBankRetireRead (a : Acc) (s : State) : Out := getReg 0x60010 a s

/-- LATH_PORT_STATE_READ (R501). -/
def execLathPortStateRead (x : BitVec 2) (a : Acc) (s : State) : Out := getReg (0x70108 + 0x20 * x.toNat) a s

end Sys2Proof.Machine
end

