-- ==== Sys2Proof/Machine/Events.lean ====
section
/-! DEFINITION. What reaches the block from the units around it: stream words, servo instants and fault messages,
the vector ports, and the ends of hold-offs and of window reads (R69, R72-R75, R389, R395, R412-R418). -/

namespace Sys2Proof.Machine

open Sys2Proof

/-- A sample instant is published (R72, R73): LATE when its guard has begun and not ended. -/
def srvPublish (n : W64) (s : State) : State :=
  let x := s.srv
  let late := n ≠ 0 && n.toNat < s.time.toNat + x.pre.toNat && s.time.toNat < n.toNat + x.post.toNat
  { s with srv := { x with next := n, prev := x.next, late := x.late || late } }

/-- The servo fault message (R75, R400). While a reset is in force it is discarded (R505). -/
def servoFault (mech : BitVec 3) (loop : BitVec 4) (s : State) : State :=
  if s.gctl.boot = .inReset || s.gctl.boot = .init then s
  else
    let x := s.srv
    traceFreeze (post srcServo { s with srv := { x with
      fCount := satInc x.fCount, fValid := true, fLoop := if x.fValid then x.fLoop else loop,
      fMech := if x.fValid then x.fMech else mech } })

/-- Some presented vector has its withdrawal decided and not yet made. -/
def withdrawing (s : State) : Bool := s.ic.proc.any fun e => e.2.pres.any fun v => v.due

/-- A step of the controller: where withdrawals are decided, their VEC_REQ fall (R414, steps 6 and 7); otherwise a
source is placed (R412). VEC_REQ stays low while a reset is in force (R505). -/
def icPresent (s : State) : State :=
  if s.gctl.boot = .inReset || s.gctl.boot = .init then s
  else portGo (syncServe (if withdrawing s then withdrawDue s else place s))

/-- A waiting window read has reached RD_WAIT (R395). -/
def rdWaitExpiry (s : State) : State :=
  match s.port.wait with
  | some (.window i since) => if windowDue s i since then portGo (windowExpire i s) else s
  | _ => s

/-- POOL_WITHHOLD_END (R386): what waited for the pool goes on, Render's OPEN and the register port among it. -/
def execPoolWithholdEnd (k : Nat) (s : State) : Out :=
  .next (if k < 6 then portGo (renderOn (withholdEnd k s)) else s)

/-- RD_WAIT_EXPIRY (R395). -/
def execRdWaitExpiry (s : State) : Out := .next (rdWaitExpiry s)

/-- STREAM_WORD_IN (R389): a word on stream input S0 or S1. -/
def execStreamWordIn (i : BitVec 2) (w : W64) (em : Bool) (s : State) : Out := .next (portGo (streamWordIn i w em s))

/-- SRV_PUBLISH (R72). -/
def execSrvPublish (n : W64) (s : State) : Out := .next (srvPublish n s)

/-- SERVO_FAULT_MSG (R75). -/
def execServoFaultMsg (mech : BitVec 3) (loopCode : BitVec 4) (s : State) : Out := .next (servoFault mech loopCode s)

/-- IC_PRESENT (R412). -/
def execIcPresent (s : State) : Out := .next (icPresent s)

/-- TAKEN (R413). -/
def execTaken (p : BitVec 4) (s : State) : Out := .next (portGo (syncServe (icTaken p.toNat s)))

/-- HOLDOFF_EXPIRY (R418). -/
def execHoldoffExpiry (g : Nat) (s : State) : Out := .next (if g < 2064 then holdEnd g s else s)

end Sys2Proof.Machine
end

