-- ==== Sys2Proof/Machine/Dispatch.lean ====
section
/-! DEFINITION. One arm for each command: one direct call of its meaning. -/

namespace Sys2Proof.Machine

open Sys2Proof

/-- The effect of a command on everything but the queue. -/
def exec (i : Instr) (s : State) : Host.Outcome State Fault Refusal :=
  match i with
  | .sqTailDoorbell n a v => Sys2Proof.Machine.execSqTailDoorbell n a v s
  | .cqHeadDoorbell n a v => Sys2Proof.Machine.execCqHeadDoorbell n a v s
  | .registerWrite off a v => Sys2Proof.Machine.execRegisterWrite off a v s
  | .calRecordWrite w a v => Sys2Proof.Machine.execCalRecordWrite w a v s
  | .icMsgWrite a v => Sys2Proof.Machine.execIcMsgWrite a v s
  | .icMaskSyncRead a => Sys2Proof.Machine.execIcMaskSyncRead a s
  | .icEoiWrite p a v => Sys2Proof.Machine.execIcEoiWrite p a v s
  | .hawkAllocRead k a => Sys2Proof.Machine.execHawkAllocRead k a s
  | .hawkFreeWrite k a v => Sys2Proof.Machine.execHawkFreeWrite k a v s
  | .hawkPoolCfgWrite k a v => Sys2Proof.Machine.execHawkPoolCfgWrite k a v s
  | .streamDataWindowRead k1 o a => Sys2Proof.Machine.execStreamDataWindowRead k1 o a s
  | .rdWaitExpiry => Sys2Proof.Machine.execRdWaitExpiry s
  | .flush k1 a v => Sys2Proof.Machine.execFlush k1 a v s
  | .streamEnableWrite k1 a v => Sys2Proof.Machine.execStreamEnableWrite k1 a v s
  | .dmaSdoorWrite e a v => Sys2Proof.Machine.execDmaSdoorWrite e a v s
  | .senableWrite e a v => Sys2Proof.Machine.execSenableWrite e a v s
  | .qeQctlEnable cq q a => Sys2Proof.Machine.execQeQctlEnable cq q a s
  | .qeQctlDisable cq q a => Sys2Proof.Machine.execQeQctlDisable cq q a s
  | .qeQctlReserved cq q a => Sys2Proof.Machine.execQeQctlReserved cq q a s
  | .registerColdReset warmToo a => Sys2Proof.Machine.execRegisterColdReset warmToo a s
  | .registerWarmReset a => Sys2Proof.Machine.execRegisterWarmReset a s
  | .haltEvidenceClear a => Sys2Proof.Machine.execHaltEvidenceClear a s
  | .chPatchGo c a v => Sys2Proof.Machine.execChPatchGo c a v s
  | .patchCopy c => Sys2Proof.Machine.execPatchCopy c s
  | .fenceFill c a v => Sys2Proof.Machine.execFenceFill c a v s
  | .fenceFillEnd c => Sys2Proof.Machine.execFenceFillEnd c s
  | .chFenceDataRead c a => Sys2Proof.Machine.execChFenceDataRead c a s
  | .chFenceDataWrite c a v => Sys2Proof.Machine.execChFenceDataWrite c a v s
  | .chDieWrite c j a v => Sys2Proof.Machine.execChDieWrite c j a v s
  | .chPinctlWrite c a v => Sys2Proof.Machine.execChPinctlWrite c a v s
  | .pwrDomainOn a v => Sys2Proof.Machine.execPwrDomainOn a v s
  | .pwrDomainSleep a v => Sys2Proof.Machine.execPwrDomainSleep a v s
  | .pwrRetentionRequest a v => Sys2Proof.Machine.execPwrRetentionRequest a v s
  | .intBankRetireWrite a v => Sys2Proof.Machine.execIntBankRetireWrite a v s
  | .poolWithholdEnd k => Sys2Proof.Machine.execPoolWithholdEnd k s
  | .splitWindowRead o a => Sys2Proof.Machine.execSplitWindowRead o a s
  | .splitWindowWrite o a v => Sys2Proof.Machine.execSplitWindowWrite o a v s
  | .primerWindowRead w a => Sys2Proof.Machine.execPrimerWindowRead w a s
  | .prmNop a => Sys2Proof.Machine.execPrmNop a s
  | .prmRead a => Sys2Proof.Machine.execPrmRead a s
  | .prmProgram a => Sys2Proof.Machine.execPrmProgram a s
  | .prmErase a => Sys2Proof.Machine.execPrmErase a s
  | .prmSuspend a => Sys2Proof.Machine.execPrmSuspend a s
  | .prmResume a => Sys2Proof.Machine.execPrmResume a s
  | .prmReadFactory a => Sys2Proof.Machine.execPrmReadFactory a s
  | .prmRotate a => Sys2Proof.Machine.execPrmRotate a s
  | .prmEraseVerify a => Sys2Proof.Machine.execPrmEraseVerify a s
  | .prmReservedCmd code a => Sys2Proof.Machine.execPrmReservedCmd code a s
  | .prmPulseEnd good => Sys2Proof.Machine.execPrmPulseEnd good s
  | .prmWindowEnable a v => Sys2Proof.Machine.execPrmWindowEnable a v s
  | .lathProbeGo a v => Sys2Proof.Machine.execLathProbeGo a v s
  | .probeTimeout => Sys2Proof.Machine.execProbeTimeout s
  | .lathSelfWrite a v => Sys2Proof.Machine.execLathSelfWrite a v s
  | .lathNodeWrite k2 a v => Sys2Proof.Machine.execLathNodeWrite k2 a v s
  | .lathPortEnable x a v => Sys2Proof.Machine.execLathPortEnable x a v s
  | .srvFaultInfoRead a => Sys2Proof.Machine.execSrvFaultInfoRead a s
  | .plbFaultInfoRead a => Sys2Proof.Machine.execPlbFaultInfoRead a s
  | .lathEventRead a => Sys2Proof.Machine.execLathEventRead a s
  | .intErrlogRead a => Sys2Proof.Machine.execIntErrlogRead a s
  | .chLdpcStatRead c a => Sys2Proof.Machine.execChLdpcStatRead c a s
  | .strStatusRead k1 a => Sys2Proof.Machine.execStrStatusRead k1 a s
  | .gctlSoftStateRead a => Sys2Proof.Machine.execGctlSoftStateRead a s
  | .pwrTokenStateRead a => Sys2Proof.Machine.execPwrTokenStateRead a s
  | .intBankRetireRead a => Sys2Proof.Machine.execIntBankRetireRead a s
  | .lathPortStateRead x a => Sys2Proof.Machine.execLathPortStateRead x a s
  | .add c t => Sys2Proof.Machine.execAdd c t s
  | .addi c t => Sys2Proof.Machine.execAddi c t s
  | .sub c t => Sys2Proof.Machine.execSub c t s
  | .subi c t => Sys2Proof.Machine.execSubi c t s
  | .and c t => Sys2Proof.Machine.execAnd c t s
  | .andi c t => Sys2Proof.Machine.execAndi c t s
  | .or c t => Sys2Proof.Machine.execOr c t s
  | .ori c t => Sys2Proof.Machine.execOri c t s
  | .xor c t => Sys2Proof.Machine.execXor c t s
  | .xori c t => Sys2Proof.Machine.execXori c t s
  | .shl c t => Sys2Proof.Machine.execShl c t s
  | .shli c t => Sys2Proof.Machine.execShli c t s
  | .shr c t => Sys2Proof.Machine.execShr c t s
  | .shri c t => Sys2Proof.Machine.execShri c t s
  | .sar c t => Sys2Proof.Machine.execSar c t s
  | .sari c t => Sys2Proof.Machine.execSari c t s
  | .ror c t => Sys2Proof.Machine.execRor c t s
  | .rori c t => Sys2Proof.Machine.execRori c t s
  | .minu c t => Sys2Proof.Machine.execMinu c t s
  | .maxu c t => Sys2Proof.Machine.execMaxu c t s
  | .popc c t => Sys2Proof.Machine.execPopc c t s
  | .clz c t => Sys2Proof.Machine.execClz c t s
  | .ctz c t => Sys2Proof.Machine.execCtz c t s
  | .extr c t => Sys2Proof.Machine.execExtr c t s
  | .insr c t => Sys2Proof.Machine.execInsr c t s
  | .mul c t => Sys2Proof.Machine.execMul c t s
  | .mulhu c t => Sys2Proof.Machine.execMulhu c t s
  | .muli c t => Sys2Proof.Machine.execMuli c t s
  | .mov c t => Sys2Proof.Machine.execMov c t s
  | .limm c t => Sys2Proof.Machine.execLimm c t s
  | .seq c t => Sys2Proof.Machine.execSeq c t s
  | .seqi c t => Sys2Proof.Machine.execSeqi c t s
  | .sne c t => Sys2Proof.Machine.execSne c t s
  | .snei c t => Sys2Proof.Machine.execSnei c t s
  | .slt c t => Sys2Proof.Machine.execSlt c t s
  | .slti c t => Sys2Proof.Machine.execSlti c t s
  | .sltu c t => Sys2Proof.Machine.execSltu c t s
  | .sltui c t => Sys2Proof.Machine.execSltui c t s
  | .sle c t => Sys2Proof.Machine.execSle c t s
  | .slei c t => Sys2Proof.Machine.execSlei c t s
  | .sleu c t => Sys2Proof.Machine.execSleu c t s
  | .sleui c t => Sys2Proof.Machine.execSleui c t s
  | .br c t => Sys2Proof.Machine.execBr c t s
  | .cb c t => Sys2Proof.Machine.execCb c t s
  | .call c t => Sys2Proof.Machine.execCall c t s
  | .callr c t => Sys2Proof.Machine.execCallr c t s
  | .ret c t => Sys2Proof.Machine.execRet c t s
  | .evret c t => Sys2Proof.Machine.execEvret c t s
  | .ld c t => Sys2Proof.Machine.execLd c t s
  | .lds c t => Sys2Proof.Machine.execLds c t s
  | .st c t => Sys2Proof.Machine.execSt c t s
  | .swap c t => Sys2Proof.Machine.execSwap c t s
  | .fadd c t => Sys2Proof.Machine.execFadd c t s
  | .dop c t => Sys2Proof.Machine.execDop c t s
  | .dopw c t => Sys2Proof.Machine.execDopw c t s
  | .dopt c t => Sys2Proof.Machine.execDopt c t s
  | .prgr c t => Sys2Proof.Machine.execPrgr c t s
  | .calcommitChange c t => Sys2Proof.Machine.execCalcommitChange c t s
  | .calcommitRevalidate c t => Sys2Proof.Machine.execCalcommitRevalidate c t s
  | .move c t => Sys2Proof.Machine.execMove c t s
  | .halloc c t => Sys2Proof.Machine.execHalloc c t s
  | .hfree c t => Sys2Proof.Machine.execHfree c t s
  | .openCtx c t => Sys2Proof.Machine.execOpenCtx c t s
  | .accumulate c t => Sys2Proof.Machine.execAccumulate c t s
  | .parityOut c t => Sys2Proof.Machine.execParityOut c t s
  | .rebuild c t => Sys2Proof.Machine.execRebuild c t s
  | .release c t => Sys2Proof.Machine.execRelease c t s
  | .closeCtx c t => Sys2Proof.Machine.execCloseCtx c t s
  | .renderFetchEnd id pos pg => Sys2Proof.Machine.execRenderFetchEnd id pos pg s
  | .renderFetchTimeout id pos pg => Sys2Proof.Machine.execRenderFetchTimeout id pos pg s
  | .plbrd c t => Sys2Proof.Machine.execPlbrd c t s
  | .plbwr c t => Sys2Proof.Machine.execPlbwr c t s
  | .plbrst c t => Sys2Proof.Machine.execPlbrst c t s
  | .plbfrzFreeze c t => Sys2Proof.Machine.execPlbfrzFreeze c t s
  | .plbfrzResume c t => Sys2Proof.Machine.execPlbfrzResume c t s
  | .qpost c t => Sys2Proof.Machine.execQpost c t s
  | .endProg c t => Sys2Proof.Machine.execEndProg c t s
  | .feat c t => Sys2Proof.Machine.execFeat c t s
  | .time c t => Sys2Proof.Machine.execTime c t s
  | .waitt c t => Sys2Proof.Machine.execWaitt c t s
  | .waittExpiry c t => Sys2Proof.Machine.execWaittExpiry c t s
  | .waite c t => Sys2Proof.Machine.execWaite c t s
  | .sigset c t => Sys2Proof.Machine.execSigset c t s
  | .nop c t => Sys2Proof.Machine.execNop c t s
  | .dadd c t => Sys2Proof.Machine.execDadd c t s
  | .dsub c t => Sys2Proof.Machine.execDsub c t s
  | .dadj c t => Sys2Proof.Machine.execDadj c t s
  | .bcd2bin c t => Sys2Proof.Machine.execBcd2bin c t s
  | .bin2bcd c t => Sys2Proof.Machine.execBin2bcd c t s
  | .msfadd c t => Sys2Proof.Machine.execMsfadd c t s
  | .msfsub c t => Sys2Proof.Machine.execMsfsub c t s
  | .msf2n c t => Sys2Proof.Machine.execMsf2n c t s
  | .n2msf c t => Sys2Proof.Machine.execN2msf c t s
  | .dslt c t => Sys2Proof.Machine.execDslt c t s
  | .abort => Sys2Proof.Machine.execAbort s
  | .entryTakenByThread c => Sys2Proof.Machine.execEntryTakenByThread c s
  | .calibrationStart c => Sys2Proof.Machine.execCalibrationStart c s
  | .routineStart c => Sys2Proof.Machine.execRoutineStart c s
  | .idle c => Sys2Proof.Machine.execIdle c s
  | .cmd c => Sys2Proof.Machine.execCmd c s
  | .addr c => Sys2Proof.Machine.execAddr c s
  | .din c => Sys2Proof.Machine.execDin c s
  | .dout c d => Sys2Proof.Machine.execDout c d s
  | .stat c b => Sys2Proof.Machine.execStat c b s
  | .trainOut c d => Sys2Proof.Machine.execTrainOut c d s
  | .trainIn c => Sys2Proof.Machine.execTrainIn c s
  | .softHandoff c => Sys2Proof.Machine.execSoftHandoff c s
  | .routineEnd c d => Sys2Proof.Machine.execRoutineEnd c d s
  | .outcomeWrite c t => Sys2Proof.Machine.execOutcomeWrite c t s
  | .parkExpiry c t => Sys2Proof.Machine.execParkExpiry c t s
  | .readyTimeout c t => Sys2Proof.Machine.execReadyTimeout c t s
  | .routineKill c t => Sys2Proof.Machine.execRoutineKill c t s
  | .pumpStartAdmit => Sys2Proof.Machine.execPumpStartAdmit s
  | .dqGuardRelease c d => Sys2Proof.Machine.execDqGuardRelease c d s
  | .tokenReturn => Sys2Proof.Machine.execTokenReturn s
  | .hardDecodeEnd c => Sys2Proof.Machine.execHardDecodeEnd c s
  | .softAssign => Sys2Proof.Machine.execSoftAssign s
  | .softDecodeEnd k => Sys2Proof.Machine.execSoftDecodeEnd k s
  | .calWindowOpen c => Sys2Proof.Machine.execCalWindowOpen c s
  | .calMeasureEnd c laps => Sys2Proof.Machine.execCalMeasureEnd c laps s
  | .fetchTurn => Sys2Proof.Machine.execFetchTurn s
  | .entryCheck k r => Sys2Proof.Machine.execEntryCheck k r s
  | .contextReadDone cq q r => Sys2Proof.Machine.execContextReadDone cq q r s
  | .contextWriteResponse cq q r => Sys2Proof.Machine.execContextWriteResponse cq q r s
  | .fragmentTableReadDone id r => Sys2Proof.Machine.execFragmentTableReadDone id r s
  | .entryBufferAlloc id => Sys2Proof.Machine.execEntryBufferAlloc id s
  | .entryDispatch id => Sys2Proof.Machine.execEntryDispatch id s
  | .completionPost id => Sys2Proof.Machine.execCompletionPost id s
  | .completionWriteResponse q r => Sys2Proof.Machine.execCompletionWriteResponse q r s
  | .batchPost sq => Sys2Proof.Machine.execBatchPost sq s
  | .batchTimeExpiry sq => Sys2Proof.Machine.execBatchTimeExpiry sq s
  | .indexPublish cq q e => Sys2Proof.Machine.execIndexPublish cq q e s
  | .adminNop => Sys2Proof.Machine.execAdminNop s
  | .createCq => Sys2Proof.Machine.execCreateCq s
  | .createSq => Sys2Proof.Machine.execCreateSq s
  | .deleteSq => Sys2Proof.Machine.execDeleteSq s
  | .deleteCq => Sys2Proof.Machine.execDeleteCq s
  | .disableSq => Sys2Proof.Machine.execDisableSq s
  | .enableSq => Sys2Proof.Machine.execEnableSq s
  | .setArb => Sys2Proof.Machine.execSetArb s
  | .dmaDescriptorReadDone x r => Sys2Proof.Machine.execDmaDescriptorReadDone x r s
  | .dmaDataResponse x k2 j r => Sys2Proof.Machine.execDmaDataResponse x k2 j r s
  | .dmaWritebackResponse x k2 err => Sys2Proof.Machine.execDmaWritebackResponse x k2 err s
  | .dmaStreamBurst e => Sys2Proof.Machine.execDmaStreamBurst e s
  | .streamWordIn k1 w em => Sys2Proof.Machine.execStreamWordIn k1 w em s
  | .srvPublish n => Sys2Proof.Machine.execSrvPublish n s
  | .servoFaultMsg mech loopCode => Sys2Proof.Machine.execServoFaultMsg mech loopCode s
  | .icPresent => Sys2Proof.Machine.execIcPresent s
  | .taken p => Sys2Proof.Machine.execTaken p s
  | .holdoffExpiry g => Sys2Proof.Machine.execHoldoffExpiry g s
  | .pwrGrantRise d => Sys2Proof.Machine.execPwrGrantRise d s
  | .pwrGrantFall d => Sys2Proof.Machine.execPwrGrantFall d s
  | .retGrant level => Sys2Proof.Machine.execRetGrant level s
  | .quiescence d => Sys2Proof.Machine.execQuiescence d s
  | .quadLoad q => Sys2Proof.Machine.execQuadLoad q s
  | .stgInitEnd => Sys2Proof.Machine.execStgInitEnd s
  | .pfailRise => Sys2Proof.Machine.execPfailRise s
  | .pfailFall => Sys2Proof.Machine.execPfailFall s
  | .brownoutRise => Sys2Proof.Machine.execBrownoutRise s
  | .brownoutFall => Sys2Proof.Machine.execBrownoutFall s
  | .powerOnReset => Sys2Proof.Machine.execPowerOnReset s
  | .fuseWord w => Sys2Proof.Machine.execFuseWord w s
  | .fuseTimeout => Sys2Proof.Machine.execFuseTimeout s
  | .bootInitEnd => Sys2Proof.Machine.execBootInitEnd s
  | .bootJournal => Sys2Proof.Machine.execBootJournal s
  | .bootDirectory => Sys2Proof.Machine.execBootDirectory s
  | .lathRequest x f => Sys2Proof.Machine.execLathRequest x f s
  | .lathData x f => Sys2Proof.Machine.execLathData x f s
  | .lathAccept x f => Sys2Proof.Machine.execLathAccept x f s
  | .lathComplete x f => Sys2Proof.Machine.execLathComplete x f s
  | .lathReject x f => Sys2Proof.Machine.execLathReject x f s
  | .lathAbort x f => Sys2Proof.Machine.execLathAbort x f s
  | .lathAbortResult x f => Sys2Proof.Machine.execLathAbortResult x f s
  | .lathHeartbeat x f => Sys2Proof.Machine.execLathHeartbeat x f s
  | .lathProbe x f => Sys2Proof.Machine.execLathProbe x f s
  | .lathProbeReply x f => Sys2Proof.Machine.execLathProbeReply x f s
  | .lathHello x f => Sys2Proof.Machine.execLathHello x f s
  | .lathLink x f => Sys2Proof.Machine.execLathLink x f s
  | .lathFrameForward x f => Sys2Proof.Machine.execLathFrameForward x f s
  | .linkTrainStep x pass => Sys2Proof.Machine.execLinkTrainStep x pass s
  | .linkTrainRetry x => Sys2Proof.Machine.execLinkTrainRetry x s
  | .heartbeatTimer node => Sys2Proof.Machine.execHeartbeatTimer node s
  | .remoteTimeout tag => Sys2Proof.Machine.execRemoteTimeout tag s
  | .brownOutDetectorTrip => Sys2Proof.Machine.execBrownOutDetectorTrip s
  | .brownOutDetectorRelease => Sys2Proof.Machine.execBrownOutDetectorRelease s
  | .lathNoLink x => Sys2Proof.Machine.execLathNoLink x s

end Sys2Proof.Machine
end

