-- ==== Sys2Proof/Machine/Step.lean ====
section
/-! DEFINITION. One step: the command at the front of the queue, or one tick of TIME on an empty queue. -/

namespace Sys2Proof.Machine

open Sys2Proof

/-- One step of the block. On an empty queue TIME advances by one, and the Lath frames that wait in their buffers and
the register port's held transactions proceed (R61, R70, R485; log entries 14, 126). -/
def step (s : State) : Host.Outcome State Fault Refusal :=
  match s.pending with
  | [] => .next (portGo (lathGo { s with time := s.time + 1 }))
  | c :: cs => exec c { s with pending := cs }

/-- The state with the command that a word spells at the front of its queue. -/
def State.withFetchWord (s : State) (nbits w : Nat) : State :=
  match decodeTableWord nbits w with
  | some c => { s with pending := c :: s.pending }
  | none => s

end Sys2Proof.Machine
end

