-- ==== Sys2Proof/Safety.lean ====
section
/-! DEFINITION. What counts as a safe run: every command finds an effect, and every step keeps the invariants of
the state. -/

namespace Sys2Proof.Machine

/-- A step that ends in a next state. -/
def completes (s : State) : Prop := ∃ t, step s = .next t

/-- The tables of a checked memory are in canonical form: keys strictly rising, no entry equal to what an unlisted
key reads as (byte 0x00, parity good, no mark). -/
def Ram.wf (r : Ram) : Bool := twf 0 r.bytes && twf false r.bad && twf false r.mark && twf false r.group

/-- Staging, every channel's scratch and every channel's codeword buffers are in canonical form. -/
def Memory.wf (s : State) : Bool := s.stg.wf && s.ch.all fun e => e.2.scratch.wf && e.2.cwb.wf

/-- No stream holds more words than its 256 places, counting each credit granted as a place (R387, R389). -/
def StreamsFit (s : State) : Prop := ∀ e ∈ s.str, e.2.words.length + e.2.credits ≤ 256

end Sys2Proof.Machine
end

