-- ==== Sys2Proof/Certificates/Slice0/Obligations.lean ====
section
/-! DEFINITION. The statements for the provers. `Sys2Proof.Spec` holds the words they are written in, and the parts of
the statements that have several: each cites the rules of spec/ it follows, and the entry of the log where it rests on
a choice of the model. A clause whose conclusion is that a command leaves the state as it is, because its moment is not
there, rests on log entry 24 in every statement. -/

namespace Sys2Proof.Spec

open Sys2Proof Sys2Proof.Machine

/-- Thread `t` of channel `c` issues the word `w`: its engine issues and it is the thread's turn (R88), the fetch gives
`w` and leaves `u` (R97), every field of `w` is one its row defines (R105), no branch, call, return, EVRET or END
stands in a delay slot (R109), and no ABORT is raised first: one that is pending waits for its handler or for the delay
slot (R103, R145). -/
structure Issues (c : Chan) (t : Thr) (w : W64) (s u : State) : Prop where
  runs : engineRuns s c = true
  turn : turnOf (chan s c) = some t.toNat
  fetch : fetchInstr (quadOf c) (thr s c t).pc s = (some w, u)
  sound : legal w = true
  slot : noSlot w = true → (thr s c t).after = none
  calm : (thr s c t).abortP = true → (thr s c t).handler = true ∨ (thr s c t).after ≠ none

/-- The state in which an instruction acts: its thread issued last, and the results of the thread whose distance has
elapsed have landed (R88, R107). -/
def acting (c : Chan) (t : Thr) (u : State) : State :=
  modThr c t ageFlights (modChan c (fun ch => { ch with lastT := t }) u)

/-- Reading g<r> gives `v`: the register, or the value of a write to it that is still pending (R108). Only the count of
the free values drawn may differ between `x` and `y`. -/
def Reads (c : Chan) (t : Thr) (r : BitVec 5) (v : W64) (x y : State) : Prop :=
  v ∈ readChoices (thr x c t) r ∧ ∃ n, y = { x with free := n }

/-- The thread goes to its next instruction, `v` on its way to g<rd> at distance `d` (R107). An ABORT that is pending
is recognised there (R104). -/
def writes (c : Chan) (t : Thr) (rd : BitVec 5) (v : W64) (d : Nat) (x : State) : State :=
  recognise c t (modThr c t (fun th => advance (launch rd v d th)) x)

/-- The thread goes to its next instruction, where a pending ABORT is recognised. -/
def goesOn (c : Chan) (t : Thr) (x : State) : State := recognise c t (modThr c t advance x)

/-- A value of 64 bits that holds a number modulo 2^64. -/
def nat64 (n : Nat) : W64 := BitVec.ofNat 64 n

/-- A number modulo 2^64 in two's complement. -/
def int64 (i : Int) : W64 := BitVec.ofInt 64 i

/-- 1 if a condition holds, else 0 (R124). -/
def holds (p : Prop) [Decidable p] : W64 := if p then 1 else 0

/-- IMM32 (word bits 31-0), sign-extended to 64 bits. -/
def immediate (w : W64) : W64 := int64 ((w.toNat : Int) % 2 ^ 32 - if 2 ^ 31 ≤ w.toNat % 2 ^ 32 then 2 ^ 32 else 0)

/-- The bits `lo` to `lo + len - 1` of a word as a number. -/
def bits (w : W64) (lo len : Nat) : Nat := w.toNat / 2 ^ lo % 2 ^ len

/-! ## R122 and R124 as tables -/

/-- A row: its command, its opcode, its result distance, its operation. -/
structure Row2 where
  cmd : Chan → Thr → Instr
  op : Nat
  dist : Nat
  f : W64 → W64 → W64

/-- The operations of R122 on two numbers below 2^64. -/
def sumOf (a b : W64) : W64 := nat64 (a.toNat + b.toNat)
def differenceOf (a b : W64) : W64 := int64 (a.toNat - b.toNat : Int)
def productOf (a b : W64) : W64 := nat64 (a.toNat * b.toNat)
def upperProduct (a b : W64) : W64 := nat64 (a.toNat * b.toNat / 2 ^ 64)
def shiftedLeft (a b : W64) : W64 := nat64 (a.toNat * 2 ^ (b.toNat % 64))
def shiftedRight (a b : W64) : W64 := nat64 (a.toNat / 2 ^ (b.toNat % 64))
def shiftedSigned (a b : W64) : W64 := int64 (a.toInt / 2 ^ (b.toNat % 64))
def rotatedRight (a b : W64) : W64 :=
  nat64 (a.toNat / 2 ^ (b.toNat % 64) + a.toNat % 2 ^ (b.toNat % 64) * 2 ^ (64 - b.toNat % 64))

/-- The rows of R122 and R124 with two register sources. -/
def rowsR : List Row2 :=
  [⟨.add, 0x00, 1, sumOf⟩, ⟨.sub, 0x02, 1, differenceOf⟩, ⟨.and, 0x04, 1, (· &&& ·)⟩, ⟨.or, 0x06, 1, (· ||| ·)⟩,
   ⟨.xor, 0x08, 1, (· ^^^ ·)⟩, ⟨.shl, 0x0A, 1, shiftedLeft⟩, ⟨.shr, 0x0C, 1, shiftedRight⟩,
   ⟨.sar, 0x0E, 1, shiftedSigned⟩, ⟨.ror, 0x10, 1, rotatedRight⟩,
   ⟨.minu, 0x12, 1, fun a b => nat64 (min a.toNat b.toNat)⟩, ⟨.maxu, 0x13, 1, fun a b => nat64 (max a.toNat b.toNat)⟩,
   ⟨.mul, 0x20, 4, productOf⟩, ⟨.mulhu, 0x21, 4, upperProduct⟩,
   ⟨.seq, 0x30, 1, fun a b => holds (a.toNat = b.toNat)⟩, ⟨.sne, 0x32, 1, fun a b => holds (a.toNat ≠ b.toNat)⟩,
   ⟨.slt, 0x34, 1, fun a b => holds (a.toInt < b.toInt)⟩, ⟨.sltu, 0x36, 1, fun a b => holds (a.toNat < b.toNat)⟩,
   ⟨.sle, 0x38, 1, fun a b => holds (a.toInt ≤ b.toInt)⟩, ⟨.sleu, 0x3A, 1, fun a b => holds (a.toNat ≤ b.toNat)⟩]

/-- The rows of R122 and R124 with a register and an immediate. -/
def rowsI : List Row2 :=
  [⟨.addi, 0x01, 1, sumOf⟩, ⟨.subi, 0x03, 1, differenceOf⟩, ⟨.andi, 0x05, 1, (· &&& ·)⟩, ⟨.ori, 0x07, 1, (· ||| ·)⟩,
   ⟨.xori, 0x09, 1, (· ^^^ ·)⟩, ⟨.shli, 0x0B, 1, shiftedLeft⟩, ⟨.shri, 0x0D, 1, shiftedRight⟩,
   ⟨.sari, 0x0F, 1, shiftedSigned⟩, ⟨.rori, 0x11, 1, rotatedRight⟩, ⟨.muli, 0x22, 4, productOf⟩,
   ⟨.seqi, 0x31, 1, fun a b => holds (a.toNat = b.toNat)⟩, ⟨.snei, 0x33, 1, fun a b => holds (a.toNat ≠ b.toNat)⟩,
   ⟨.slti, 0x35, 1, fun a b => holds (a.toInt < b.toInt)⟩, ⟨.sltui, 0x37, 1, fun a b => holds (a.toNat < b.toNat)⟩,
   ⟨.slei, 0x39, 1, fun a b => holds (a.toInt ≤ b.toInt)⟩, ⟨.sleui, 0x3B, 1, fun a b => holds (a.toNat ≤ b.toNat)⟩]

/-- A row with one source: its command, its opcode, its result distance, what its result is for the word and the
source. -/
structure Row1 where
  cmd : Chan → Thr → Instr
  op : Nat
  dist : Nat
  result : W64 → W64 → W64 → Prop

/-- The rows of R122 with one register source. -/
def rowsU : List Row1 :=
  [⟨.popc, 0x14, 1, fun _ a r => r.toNat = ((List.range 64).filter fun i => a.toNat / 2 ^ i % 2 = 1).length⟩,
   ⟨.clz, 0x15, 1, fun _ a r => r.toNat ≤ 64 ∧ a.toNat < 2 ^ (64 - r.toNat) ∧ (r.toNat < 64 → 2 ^ (63 - r.toNat) ≤ a.toNat)⟩,
   ⟨.ctz, 0x16, 1, fun _ a r => r.toNat ≤ 64 ∧ a.toNat % 2 ^ r.toNat = 0 ∧
     (r.toNat < 64 → a.toNat % 2 ^ (r.toNat + 1) ≠ 0)⟩,
   ⟨.extr, 0x17, 1, fun w a r => r.toNat = bits a (bits w 38 6) (bits w 32 6 + 1)⟩,
   ⟨.mov, 0x28, 1, fun _ a r => r = a⟩]

/-! ## Packed decimal (R146-R149) -/

/-- Digit `i` of a value. -/
def digitAt (a : W64) (i : Nat) : Nat := a.toNat / 16 ^ i % 16

/-- The low `n` digits are valid. -/
def Decimal (n : Nat) (a : W64) : Prop := ∀ i < n, digitAt a i ≤ 9

/-- The sum, over the low `n` digits, of each digit times its weight. -/
def decimal (n : Nat) (a : W64) : Nat := ((List.range n).map fun i => digitAt a i * 10 ^ i).sum

/-- The result holds the `n` BCD digits of `v`, with the carry or borrow `k` in bit 4n when n < 16 and 0 above. -/
def BcdOf (n v k : Nat) (r : W64) : Prop :=
  (∀ i < n, digitAt r i = v / 10 ^ i % 10) ∧ r.toNat / 16 ^ n = if n < 16 then k else 0

/-- The value that stands for an invalid input or a result that cannot be represented (R146). -/
def invalidResult : W64 := 0xFFFFFFFFFFFFFFFF

/-- FN[4:0], the digit count. -/
def digitCount (w : W64) : Nat := bits w 32 5

/-- An MSF value and its frame count (R149's layout; the spec's example of MSFADD reads it otherwise: log entry 123). -/
def Msf (a : W64) : Prop := Decimal 8 a ∧ a.toNat < 2 ^ 32 ∧ bits a 12 4 * 10 + bits a 8 4 ≤ 59 ∧ bits a 4 4 * 10 + bits a 0 4 ≤ 74
def frames (a : W64) : Nat :=
  ((bits a 28 4 * 1000 + bits a 24 4 * 100 + bits a 20 4 * 10 + bits a 16 4) * 60 + (bits a 12 4 * 10 + bits a 8 4)) * 75 +
  (bits a 4 4 * 10 + bits a 0 4)

/-- The MSF value of `n` frames, `k` in bit 32. -/
def MsfOf (n k : Nat) (r : W64) : Prop := ∃ m : W64, Msf m ∧ frames m = n ∧ r.toNat = m.toNat + k * 2 ^ 32

/-- A decimal row with two sources. -/
structure RowD where
  cmd : Chan → Thr → Instr
  op : Nat
  valid : W64 → W64 → W64 → Prop
  result : W64 → W64 → W64 → W64 → Prop

/-- DADD, DSUB, MSFADD, MSFSUB, DSLT: when their inputs are valid and what the result then is. -/
def rowsD2 : List RowD :=
  [⟨.dadd, 0xB0, fun w a b => Decimal (digitCount w) a ∧ Decimal (digitCount w) b,
    fun w a b r => BcdOf (digitCount w) (decimal (digitCount w) a + decimal (digitCount w) b)
      ((decimal (digitCount w) a + decimal (digitCount w) b) / 10 ^ digitCount w) r⟩,
   ⟨.dsub, 0xB1, fun w a b => Decimal (digitCount w) a ∧ Decimal (digitCount w) b,
    fun w a b r => BcdOf (digitCount w) (10 ^ digitCount w + decimal (digitCount w) a - decimal (digitCount w) b)
      (if decimal (digitCount w) a < decimal (digitCount w) b then 1 else 0) r⟩,
   ⟨.msfadd, 0xB5, fun _ a b => Msf a ∧ Msf b,
    fun _ a b r => MsfOf ((frames a + frames b) % 45000000) ((frames a + frames b) / 45000000) r⟩,
   ⟨.msfsub, 0xB6, fun _ a b => Msf a ∧ Msf b,
    fun _ a b r => MsfOf ((45000000 + frames a - frames b) % 45000000) (if frames a < frames b then 1 else 0) r⟩,
   ⟨.dslt, 0xB9, fun w a b => Decimal (digitCount w) a ∧ Decimal (digitCount w) b,
    fun w a b r => r = holds (decimal (digitCount w) a < decimal (digitCount w) b)⟩]

/-- A decimal row with one source. -/
structure RowD1 where
  cmd : Chan → Thr → Instr
  op : Nat
  valid : W64 → W64 → Prop
  result : W64 → W64 → W64 → Prop

/-- DADJ, BCD2BIN, BIN2BCD, MSF2N, N2MSF. -/
def rowsD1 : List RowD1 :=
  [⟨.dadj, 0xB2, fun _ _ => True, fun w a r => BcdOf (digitCount w) (decimal (digitCount w) a)
      (decimal (digitCount w) a / 10 ^ digitCount w) r⟩,
   ⟨.bcd2bin, 0xB3, fun w a => Decimal (digitCount w) a, fun w a r => r.toNat = decimal (digitCount w) a⟩,
   ⟨.bin2bcd, 0xB4, fun w a => a.toNat < 10 ^ digitCount w, fun w a r => BcdOf (digitCount w) a.toNat 0 r⟩,
   ⟨.msf2n, 0xB7, fun _ a => Msf a, fun _ a r => r.toNat = frames a⟩,
   ⟨.n2msf, 0xB8, fun _ a => a.toNat ≤ 44999999, fun _ a r => MsfOf a.toNat 0 r⟩]

/-- R122, R124: each row with two register sources gives its value at its distance. -/
def TwoSourceResult : Prop :=
  ∀ r ∈ rowsR, ∀ (c : Chan) (t : Thr) (w : W64) (s u : State), Issues c t w s u → (opc w).toNat = r.op →
    ∃ a b x y, Reads c t (rA w) a (acting c t u) x ∧ Reads c t (rB w) b x y ∧
      exec (r.cmd c t) s = .next (writes c t (rD w) (r.f a b) r.dist y)

/-- R122, R124: each row with an immediate gives its value at its distance; imm is IMM32, sign-extended. -/
def ImmediateResult : Prop :=
  ∀ r ∈ rowsI, ∀ (c : Chan) (t : Thr) (w : W64) (s u : State), Issues c t w s u → (opc w).toNat = r.op →
    ∃ a x, Reads c t (rA w) a (acting c t u) x ∧
      exec (r.cmd c t) s = .next (writes c t (rD w) (r.f a (immediate w)) r.dist x)

/-- R122: POPC, CLZ, CTZ, EXTR and MOV. -/
def OneSourceResult : Prop :=
  ∀ r ∈ rowsU, ∀ (c : Chan) (t : Thr) (w : W64) (s u : State), Issues c t w s u → (opc w).toNat = r.op →
    ∃ a v x, Reads c t (rA w) a (acting c t u) x ∧ r.result w a v ∧
      exec (r.cmd c t) s = .next (writes c t (rD w) v r.dist x)

/-- R122, R123: INSR replaces a field of RD and LIMM loads 48 bits, or the upper 16 beside the lower 48 of RD. -/
def InsertResult : Prop :=
  ∀ (c : Chan) (t : Thr) (w : W64) (s u : State), Issues c t w s u →
    ((opc w).toNat = 0x18 → ∃ a d x y, Reads c t (rA w) a (acting c t u) x ∧ Reads c t (rD w) d x y ∧
      exec (.insr c t) s = .next (writes c t (rD w)
        (nat64 (bits d 0 (bits w 38 6) + a.toNat % 2 ^ (bits w 32 6 + 1) * 2 ^ bits w 38 6 +
          d.toNat / 2 ^ (bits w 38 6 + bits w 32 6 + 1) * 2 ^ (bits w 38 6 + bits w 32 6 + 1))) 1 y)) ∧
    ((opc w).toNat = 0x2F → bits w 48 1 = 0 →
      exec (.limm c t) s = .next (writes c t (rD w) (nat64 (bits w 0 48)) 1 (acting c t u))) ∧
    ((opc w).toNat = 0x2F → bits w 48 1 = 1 → ∃ d x, Reads c t (rD w) d (acting c t u) x ∧
      exec (.limm c t) s = .next (writes c t (rD w) (nat64 (bits w 0 16 * 2 ^ 48 + bits d 0 48)) 1 x))

/-! ## Branches (R125) -/

/-- The conditions of BR and CB. -/
def BrTaken (k : Nat) (a : W64) : Prop :=
  k = 0 ∨ (k = 1 ∧ a.toNat = 0) ∨ (k = 2 ∧ a.toNat ≠ 0) ∨ (k = 3 ∧ a.toInt < 0) ∨ (k = 4 ∧ 0 ≤ a.toInt)
def CbTaken (k : Nat) (a b : W64) : Prop :=
  (k = 0 ∧ a.toNat = b.toNat) ∨ (k = 1 ∧ a.toNat ≠ b.toNat) ∨ (k = 2 ∧ a.toInt < b.toInt) ∨
  (k = 3 ∧ b.toInt ≤ a.toInt) ∨ (k = 4 ∧ a.toNat < b.toNat) ∨ (k = 5 ∧ b.toNat ≤ a.toNat)

/-- The thread takes the delay slot at b + 1 and then goes on at `next`. -/
def branches (c : Chan) (t : Thr) (next : Nat) (x : State) : State :=
  modThr c t (fun th => { th with pc := th.pc + 1, after := some (BitVec.ofNat 15 next) }) x

/-- The index of the instruction that a thread issues. -/
def pcOf (c : Chan) (t : Thr) (s : State) : Nat := (thr s c t).pc.toNat

/-! ## Memory -/

/-- The value of bytes, the lowest address first. -/
def number : List Byte → Nat
  | [] => 0
  | b :: bs => b.toNat + 256 * number bs

/-- The `n` low bytes of a value, the lowest first, from an unmarked source. -/
def lowBytes (n : Nat) (v : W64) : List (Byte × Bool) :=
  (List.range n).map fun i => (BitVec.ofNat 8 (v.toNat / 256 ^ i), false)

/-- R94: an access of `n` bytes is aligned to its size and lies inside scratch. -/
def Fits (a : W64) (n : Nat) : Prop := a.toNat % n = 0 ∧ a.toNat + n ≤ 65536

/-- The number of bytes that SIZE names. -/
def accessSize (w : W64) : Nat := 2 ^ bits w 44 2

/-- The bytes of scratch that an access reads, with the mark of their chunk, and the state the read leaves. -/
def readsScratch (c : Chan) (t : Thr) (a n : Nat) (x : State) : List (Byte × Bool) × State :=
  readMem (.scr c) a n (rqThr c t) x

/-- Bytes written to scratch. -/
def writesScratch (c : Chan) (t : Thr) (a : Nat) (bs : List (Byte × Bool)) (x : State) : State :=
  writeMem (.scr c) a bs (rqThr c t) x

/-- An event of a code, its detail and the pc of its instruction (R103). -/
def event (c : Chan) (t : Thr) (code : BitVec 4) (detail : W64) (x : State) : State :=
  raiseEvent c t code detail (thr x c t).pc x

/-- Some byte lies in a marked chunk. -/
def Poisoned (r : List (Byte × Bool)) : Prop := ∃ b ∈ r, b.2 = true

/-- Sign extension of a number of `n` bytes. -/
def signed (n v : Nat) : W64 := int64 (if 2 ^ (8 * n - 1) ≤ v then (v : Int) - 2 ^ (8 * n) else v)

/-- What an access to scratch at RA + OFFSET answers (R128, R129): ADDRESS, POISON, or `k` with the address, the value
and the state. -/
def Access (c : Chan) (t : Thr) (w : W64) (x : State) (a : W64) (out : Out) (k : Nat → Nat → State → Prop) : Prop :=
  (¬ Fits (a + immediate w) (accessSize w) → out = .next (event c t 2 (a + immediate w) x)) ∧
  (Fits (a + immediate w) (accessSize w) →
    (Poisoned (readsScratch c t (a + immediate w).toNat (accessSize w) x).1 →
      out = .next (event c t 4 (nat64 ((a + immediate w).toNat / 64 * 64))
        (readsScratch c t (a + immediate w).toNat (accessSize w) x).2)) ∧
    (¬ Poisoned (readsScratch c t (a + immediate w).toNat (accessSize w) x).1 →
      k (a + immediate w).toNat (number ((readsScratch c t (a + immediate w).toNat (accessSize w) x).1.map (·.1)))
        (readsScratch c t (a + immediate w).toNat (accessSize w) x).2))

/-! ## Waits -/

/-- A wait ends with g<rd> := v: what was pending has landed, and the thread goes on (R110). -/
def waitsOut (c : Chan) (t : Thr) (rd : BitVec 5) (v : W64) (x : State) : State :=
  recognise c t (modThr c t (fun th => advance { setReg rd v (landAll th) with wait := .none }) x)

/-- The thread waits in its instruction; what was pending has landed (R110). -/
def waits (c : Chan) (t : Thr) (k : TWait) (x : State) : State :=
  modThr c t (fun th => { landAll th with wait := k }) x

/-- R125: BR, CB and RET take the delay slot at b + 1, then go to the target or to b + 2. -/
def BranchResult : Prop :=
  ∀ (c : Chan) (t : Thr) (w : W64) (s u : State), Issues c t w s u →
    ((opc w).toNat = 0x40 → ∃ a x, (bits w 42 4 = 0 ∧ x = acting c t u ∨ Reads c t (bA w) a (acting c t u) x) ∧
      (BrTaken (bits w 42 4) a → exec (.br c t) s = .next (branches c t (bits w 0 15) x)) ∧
      (¬ BrTaken (bits w 42 4) a → exec (.br c t) s = .next (branches c t (pcOf c t s + 2) x))) ∧
    ((opc w).toNat = 0x41 → ∃ a b x y, Reads c t (bA w) a (acting c t u) x ∧ Reads c t (bB w) b x y ∧
      (CbTaken (bits w 42 4) a b → exec (.cb c t) s = .next (branches c t (bits w 0 15) y)) ∧
      (¬ CbTaken (bits w 42 4) a b → exec (.cb c t) s = .next (branches c t (pcOf c t s + 2) y))) ∧
    ((opc w).toNat = 0x44 → ∃ a x, Reads c t (rA w) a (acting c t u) x ∧
      exec (.ret c t) s = .next (branches c t (bits a 0 15) x))

/-- R109, R125: an instruction in the delay slot goes on at the target of its branch, and the thread has no branch left;
any other goes on at the index after its own. -/
def SlotGoesOn : Prop :=
  ∀ (c : Chan) (t : Thr) (rd : BitVec 5) (v : W64) (d : Nat) (x : State) (n : BitVec 15),
    n = (match (thr x c t).after with
      | some k => k
      | none => (thr x c t).pc + 1) →
    (thr x c t).abortP = false →
    ∀ y ∈ [goesOn c t x, writes c t rd v d x, waitsOut c t rd v x], (thr y c t).pc = n ∧ (thr y c t).after = none

/-- R125, R126: CALL and CALLR also launch g31 := b + 2 (log entry 13: as a 64-bit sum) at distance 1. -/
def CallResult : Prop :=
  ∀ (c : Chan) (t : Thr) (w : W64) (s u : State), Issues c t w s u →
    ((opc w).toNat = 0x42 → exec (.call c t) s = .next (branches c t (bits w 0 15)
      (modThr c t (launch 31 (nat64 (pcOf c t s + 2)) 1) (acting c t u)))) ∧
    ((opc w).toNat = 0x43 → ∃ a x, Reads c t (rA w) a (acting c t u) x ∧
      exec (.callr c t) s = .next (branches c t (bits a 0 15) (modThr c t (launch 31 (nat64 (pcOf c t s + 2)) 1) x)))

/-- R128, R129: LD and LDS raise ADDRESS or POISON, or give the value at distance 3, which LD zero-extends and LDS
sign-extends. -/
def LoadResult : Prop :=
  ∀ (c : Chan) (t : Thr) (w : W64) (s u : State), Issues c t w s u →
    ((opc w).toNat = 0x50 → ∃ a x, Reads c t (rA w) a (acting c t u) x ∧
      Access c t w x a (exec (.ld c t) s) fun _ v y => exec (.ld c t) s = .next (writes c t (rD w) (nat64 v) 3 y)) ∧
    ((opc w).toNat = 0x51 → ∃ a x, Reads c t (rA w) a (acting c t u) x ∧
      Access c t w x a (exec (.lds c t) s) fun _ v y =>
        exec (.lds c t) s = .next (writes c t (rD w) (signed (accessSize w) v) 3 y))

/-- R128, R129: ST, SWAP and FADD; the bytes stored are those of the access alone. That SWAP and FADD of fewer than 8 B
zero-extend the old value is the model's choice (log entry 172). -/
def StoreResult : Prop :=
  ∀ (c : Chan) (t : Thr) (w : W64) (s u : State), Issues c t w s u →
    ((opc w).toNat = 0x52 → ∃ a d x y, Reads c t (rA w) a (acting c t u) x ∧ Reads c t (rD w) d x y ∧
      (¬ Fits (a + immediate w) (accessSize w) → exec (.st c t) s = .next (event c t 2 (a + immediate w) y)) ∧
      (Fits (a + immediate w) (accessSize w) → exec (.st c t) s = .next (goesOn c t
        (writesScratch c t (a + immediate w).toNat (lowBytes (accessSize w) d) y)))) ∧
    ((opc w).toNat = 0x53 → ∃ a x, Reads c t (rA w) a (acting c t u) x ∧
      Access c t w x a (exec (.swap c t) s) fun p v y => ∃ d z, Reads c t (rD w) d y z ∧
        exec (.swap c t) s = .next (writes c t (rD w) (nat64 v) 3 (writesScratch c t p (lowBytes (accessSize w) d) z))) ∧
    ((opc w).toNat = 0x54 → ∃ a x, Reads c t (rA w) a (acting c t u) x ∧
      Access c t w x a (exec (.fadd c t) s) fun p v y => ∃ d z, Reads c t (rD w) d y z ∧
        exec (.fadd c t) s = .next (writes c t (rD w) (nat64 v) 3
          (writesScratch c t p (lowBytes (accessSize w) (nat64 (v + d.toNat))) z)))

/-- R127: EVRET outside a handler is a NOP; inside, issue continues at the event pc word, or ABORT is raised there. -/
def EventReturn : Prop :=
  ∀ (c : Chan) (t : Thr) (w : W64) (s u : State), Issues c t w s u → (opc w).toNat = 0x46 →
    ((thr s c t).handler = false → exec (.evret c t) s = .next (goesOn c t (acting c t u))) ∧
    ((thr s c t).handler = true → ∀ r, r = readsScratch c t (0x8048 + 0x1000 * t.toNat) 8 (acting c t u) →
      ((thr s c t).abortP = false → exec (.evret c t) s = .next (modThr c t
        (fun th => { th with handler := false, pc := BitVec.ofNat 15 (number (r.1.map (·.1))) }) r.2)) ∧
      ((thr s c t).abortP = true → exec (.evret c t) s = .next (event c t 5 0 (modThr c t
        (fun th => { th with handler := false, pc := BitVec.ofNat 15 (number (r.1.map (·.1))), abortP := false,
                             aborted := true }) r.2))))

/-- R131, R143: NOP, FEAT, TIME, DOPT and PRGR. -/
def ThreadReads : Prop :=
  ∀ (c : Chan) (t : Thr) (w : W64) (s u : State), Issues c t w s u →
    ((opc w).toNat = 0xAF → exec (.nop c t) s = .next (goesOn c t (acting c t u))) ∧
    ((opc w).toNat = 0xA0 → bits w 0 4 = 4 → exec (.feat c t) s = .next (writes c t (rD w)
      (nat64 (c.toNat + c.toNat / 4 * 2 ^ 8 + t.toNat * 2 ^ 12 + s.lath.node.toNat * 2 ^ 16)) 2 (acting c t u))) ∧
    ((opc w).toNat = 0xA0 → bits w 0 4 ≠ 4 → exec (.feat c t) s = .next (writes c t (rD w)
      (feature s.variant (bits w 0 4)) 2 (acting c t u))) ∧
    ((opc w).toNat = 0xA1 → exec (.time c t) s = .next (waitsOut c t (rD w) s.time (acting c t u))) ∧
    ((opc w).toNat = 0x62 → exec (.dopt c t) s = .next (writes c t (rD w)
      (holds ((thr s c t).dop ≠ .out)) 1 (acting c t u))) ∧
    ((opc w).toNat = 0x63 → exec (.prgr c t) s = .next (writes c t (rD w) (thr s c t).prg 2 (acting c t u)))

/-- R132, R143, R144: WAITT, WAITE, SIGSET and DOPW end at once or wait. That a DOP whose record went STALE before its
start raises CAL_INVALID at DOPW is log entry 138. -/
def ThreadWaits : Prop :=
  ∀ (c : Chan) (t : Thr) (w : W64) (s u : State), Issues c t w s u →
    ((opc w).toNat = 0xA2 → ∃ a x, Reads c t (rA w) a (acting c t u) x ∧
      (a.toNat ≤ s.time.toNat → exec (.waitt c t) s = .next (waitsOut c t (rD w) s.time x)) ∧
      (s.time.toNat < a.toNat → exec (.waitt c t) s = .next (waits c t (.time (rD w) a) x))) ∧
    ((opc w).toNat = 0xA3 →
      ((chan s c).flags &&& BitVec.ofNat 16 (bits w 0 16) ≠ 0 → exec (.waite c t) s = .next (waitsOut c t (rD w)
        (nat64 ((chan s c).flags &&& BitVec.ofNat 16 (bits w 0 16)).toNat)
        (modChan c (fun ch => { ch with flags := ch.flags &&& ~~~(BitVec.ofNat 16 (bits w 0 16)) }) (acting c t u)))) ∧
      ((chan s c).flags &&& BitVec.ofNat 16 (bits w 0 16) = 0 → exec (.waite c t) s = .next (waits c t
        (.event (rD w) (BitVec.ofNat 16 (bits w 0 16)))
        (modChan c (fun ch => { ch with evq := ch.evq ++ [t] }) (acting c t u))))) ∧
    ((opc w).toNat = 0xA4 → exec (.sigset c t) s = .next (goesOn c t (releaseWaits c (chan s c).evq
      (modChan c (fun ch => { ch with flags := ch.flags ||| BitVec.ofNat 16 (bits w 0 16) }) (acting c t u))))) ∧
    ((opc w).toNat = 0x61 →
      (∀ v, (thr s c t).dop = .done v → exec (.dopw c t) s = .next (waitsOut c t (rD w) v (acting c t u))) ∧
      ((thr s c t).dop = .none → exec (.dopw c t) s = .next (waitsOut c t (rD w) 0 (acting c t u))) ∧
      ((thr s c t).dop = .out → exec (.dopw c t) s = .next (waits c t (.dopw (rD w)) (acting c t u))) ∧
      (∀ j, (thr s c t).dop = .timeout j →
        exec (.dopw c t) s = .next (event c t 6 (nat64 (64 * c.toNat + j.toNat)) (acting c t u))) ∧
      (∀ j, (thr s c t).dop = .calBad j →
        exec (.dopw c t) s = .next (event c t 3 (nat64 (64 * c.toNat + j.toNat)) (acting c t u))))

/-- R143, R144: WAITT ends once TIME has reached its bound; a flag set releases the first waiter, which consumes it.
-/
def WaitsEnd : Prop :=
  ∀ (c : Chan) (t : Thr) (s : State), engineRuns s c = true →
    (∀ rd v, (thr s c t).wait = .time rd v → v.toNat ≤ s.time.toNat →
      exec (.waittExpiry c t) s = .next (waitsOut c t rd s.time s)) ∧
    (∀ rd m ts (f : BitVec 16), (thr s c t).wait = .event rd m → (chan s c).flags = f → f &&& m ≠ 0 →
      releaseWaits c (t :: ts) s = releaseWaits c ts (finishWait c t rd (nat64 (f &&& m).toNat)
        (modChan c (fun ch => { ch with flags := f &&& ~~~m, evq := ch.evq.filter (· ≠ t) }) s)))

/-- The writes of a thread to g<r> that are pending, in issue order. -/
def pendingTo (r : BitVec 5) (th : Thread) : List Flight := th.flight.filter fun f => decide (f.reg = r)

/-- Pending writes one instruction later. -/
def nearer (fs : List Flight) : List Flight := fs.map fun f => { f with left := f.left - 1 }

/-- R93, R107, R108, R110: the registers of a thread. g0 reads as zero and takes no write. A result is pending until its
distance has elapsed; until then a read meets the register or a pending value, and then the value. Of several that are
pending the latest whose distance has elapsed is the register's, and those before it are past. A wait and an event let all
land, the latest last. -/
def RegisterFile : Prop :=
  ∀ (th : Thread) (r q : BitVec 5) (v : W64) (d : Nat),
    (regOf th 0 = 0 ∧ setReg 0 v th = th ∧ launch 0 v d th = th) ∧
    (r ≠ 0 → regOf (setReg r v th) r = v ∧ (q ≠ r → regOf (setReg r v th) q = regOf th q)) ∧
    (r ≠ 0 → launch r v d th = { th with flight := th.flight ++ [{ reg := r, val := v, left := d }] }) ∧
    (v ∈ readChoices th r ↔ v = regOf th r ∨ ∃ f ∈ th.flight, f.reg = r ∧ f.val = v) ∧
    (r ≠ 0 →
      ((∀ f ∈ pendingTo r th, 2 ≤ f.left) → regOf (ageFlights th) r = regOf th r ∧
        pendingTo r (ageFlights th) = nearer (pendingTo r th)) ∧
      (∀ a f b, pendingTo r th = a ++ f :: b → f.left ≤ 1 → (∀ g ∈ b, 2 ≤ g.left) →
        regOf (ageFlights th) r = f.val ∧ pendingTo r (ageFlights th) = nearer b) ∧
      (pendingTo r th = [] → 1 ≤ d → ∀ k t, t = Nat.repeat ageFlights k (launch r v d th) →
        (k < d → readChoices t r = [regOf th r, v]) ∧ (d ≤ k → readChoices t r = [v])) ∧
      (pendingTo r th = [] → regOf (landAll th) r = regOf th r) ∧
      (∀ a f, pendingTo r th = a ++ [f] → regOf (landAll th) r = f.val)) ∧
    (landAll th).flight = []

/-- The read offset that a selector names (R139). -/
def plbPlace (a : W64) : Nat := 256 * bits a 0 6 + 16 * bits a 8 4 + bits a 12 4

/-- A value clamped to [LO, HI] (R263, R265); a reserved pair LO > HI gives 0. -/
def plbClamped (s : State) (v : Int) : Int :=
  if s.plb.hi.toInt < s.plb.lo.toInt then 0 else max s.plb.lo.toInt (min s.plb.hi.toInt v)

/-- The commands of RCMD by their code (R138). -/
def rcmds : List (Nat × (Chan → Thr → Instr)) :=
  [(0, .openCtx), (1, .accumulate), (2, .parityOut), (3, .rebuild), (4, .release), (5, .closeCtx)]

/-- The Render unit's answer to a command: a status word, or none while its fetches run. -/
def answers (k : Nat) (a b : W64) (x : State) : Option W64 × State := rServe k a b x

/-- A status word: VALUE and CODE (R290). -/
def status (value code : Nat) : W64 := nat64 (value % 2 ^ 32 * 2 ^ 32 + code)

/-- R133: CALCOMMIT checks its address, its marks and its record, then commits. -/
def CommitResult : Prop :=
  ∀ (c : Chan) (t : Thr) (w : W64) (s u : State), Issues c t w s u → (opc w).toNat = 0x64 →
    ∀ cmd, cmd = (if bits w 32 1 = 0 then Instr.calcommitChange c t else .calcommitRevalidate c t) →
    ∃ a b x y, Reads c t (rA w) a (acting c t u) x ∧ Reads c t (rB w) b x y ∧
      ∀ n, n = (if bits b 12 1 = 1 then 32 else 512) →
      (¬ (a.toNat % 8 = 0 ∧ a.toNat + n ≤ 65536) → exec cmd s = .next (event c t 2 a y)) ∧
      (a.toNat % 8 = 0 ∧ a.toNat + n ≤ 65536 → ∀ r, r = readsScratch c t a.toNat n y →
        (∀ i, (∃ b, r.1[i]? = some (b, true)) → (∀ j < i, ∀ b, r.1[j]? ≠ some (b, true)) →
          exec cmd s = .next (event c t 4 (nat64 ((a.toNat + i) / 64 * 64)) r.2)) ∧
        (¬ Poisoned r.1 →
          (bits b 13 51 ≠ 0 ∨ (bits b 12 1 = 1 ∧ bits b 6 6 ≠ c.toNat) ∨ (bits b 12 1 = 0 ∧ bits b 0 6 ≠ c.toNat) →
            exec cmd s = .next (waitsOut c t (rD w) 2 r.2)) ∧
          (bits b 13 51 = 0 → bits b 12 1 = 1 → bits b 6 6 = c.toNat → ∀ k, k = commitDie (bits b 0 12)
              (decide (bits w 32 1 = 0)) (bytesWords 64 (plain r.1)) r.2 →
            exec cmd s = .next (waitsOut c t (rD w) (if k.1 then 1 else 0) k.2)) ∧
          (bits b 13 51 = 0 → bits b 12 1 = 0 → bits b 0 6 = c.toNat → ∀ k, k = commitCh c
              (decide (bits w 32 1 = 0)) (bytesWords 64 (plain r.1)) r.2 →
            exec cmd s = .next (waitsOut c t (rD w) (if k.1 then 1 else 0) k.2))))

/-- R48: what a commit of a channel record leaves in it: the image of a CHANGE, VALID, DRIFT cleared, the training counts
copied; it counts when a field differs. At an idle channel a boundary follows, where a swap of the delay lines that waits
takes place. -/
def ChannelCommit : Prop :=
  ∀ (c : Chan) (b : Bool) (ws : List W64) (s : State) (k : Bool × State), k = commitCh c b ws s → ∃ z r, r = chRec z c ∧
    k.2 = atRest c z ∧ (chan z c).tb = (chan s c).tb ∧
    ((chan s c).tb.pend = none → chRec k.2 c = r ∧ k.2.cal = z.cal ∧ k.2.ic = z.ic) ∧
    r.st = 1 ∧ r.drift = false ∧ r.trainA = (chRec s c).nowA ∧ r.trainB = (chRec s c).nowB ∧
    r.commits = (chRec s c).commits + (if k.1 then 1 else 0) ∧
    (b = true →
      r.phy.toNat = bits (ws.getD 3 0) 0 24 ∧
      (∀ i, 1 ≤ i → i ≤ 31 → (tget 0 i r.dly).toNat = bits (ws.getD (8 + i) 0) 0 32) ∧
      (r.phy ≠ (chRec s c).phy ∨ (∃ i, tget 0 i r.dly ≠ tget 0 i (chRec s c).dly) → k.1 = true)) ∧
    (b = false → k.1 = false ∧ r.phy = (chRec s c).phy ∧ r.dly = (chRec s c).dly) ∧
    (k.1 = true → z.cal.count = s.cal.count + 1 ∧ z.cal.last = s.time ∧ z.cal.lastCh.toNat = c.toNat ∧
      pendOf z 131078 = true) ∧
    (k.1 = false → z.cal.count = s.cal.count ∧ z.cal.last = s.cal.last)

/-- R39, R50, R53: a swap of the delay lines that waits takes place at the boundary of an idle channel, with the drift check
of the line that comes into use; a channel that is not idle is at no boundary. A drift check against a trained count of 0 has
a free value as its result (log entry 16). -/
def SwapAtRest : Prop :=
  ∀ (c : Chan) (z : State) (n old : BitVec 16) (x r : ChRec), (chan z c).tb.pend = some n → x = chRec z c →
    r = chRec (atRest c z) c → old = (if (chan z c).tb.line then x.trainB else x.trainA) →
    (chanThere z c = false ∨ quadUp z c = false ∨ (chan z c).cur ≠ none → atRest c z = z) ∧
    (chanThere z c = true → quadUp z c = true → (chan z c).cur = none → (chan (atRest c z) c).tb.pend = none ∧
      r.active = (chan z c).tb.line ∧
      (r.active = false → r.nowA = n ∧ r.nowB = x.nowB) ∧ (r.active = true → r.nowB = n ∧ r.nowA = x.nowA) ∧
      (z.cal.drift = 0 ∨ (old ≠ 0 ∧
          (max n.toNat old.toNat - min n.toNat old.toNat) * 1000000 ≤ z.cal.drift.toNat * old.toNat) →
        r.st = x.st ∧ r.drift = x.drift) ∧
      (z.cal.drift ≠ 0 → old ≠ 0 →
        z.cal.drift.toNat * old.toNat < (max n.toNat old.toNat - min n.toNat old.toNat) * 1000000 →
        r.st = 2 ∧ r.drift = true ∧ (atRest c z).cal.sdrift = true ∧ pendOf (atRest c z) 131078 = true))

/-- R47, R48: what a CHANGE and a REVALIDATE commit leave in a die record and in CAL_COUNT. -/
def CommitEffect : Prop :=
  ∀ (c : Chan) (i : Nat) (ws : List W64) (s : State),
    (∀ r, r = dieRec (commitDie i true ws s).2 i →
      r.st = 1 ∧ r.mts.toNat = bits (ws.getD 0 0) 32 16 ∧ r.iface.toNat = bits (ws.getD 0 0) 4 4 ∧
      r.w1.toNat = bits (ws.getD 1 0) 0 48 ∧ r.deskew = ws.getD 2 0) ∧
    (∀ k, k = commitDie i true ws s → k.1 = true →
      k.2.cal.count = s.cal.count + 1 ∧ k.2.cal.last = s.time ∧ k.2.cal.lastCh.toNat = i / 64 % 64 ∧
      pendOf k.2 131078 = true) ∧
    (∀ k, k = commitDie i false ws s → k.1 = false ∧
      dieRec k.2 i = { dieRec s i with st := 1 } ∧ k.2.cal.count = s.cal.count) ∧
    (∀ k, k = commitCh c false ws s → k.1 = false ∧ k.2.cal.count = s.cal.count)

/-- R131, R153, R213: DOP waits, raises CAL_INVALID, is refused with code 3 or 4, or is accepted. That CAL_INVALID leaves
the thread's DOP state as it was is the model's choice (log entry 169). -/
def DopResult : Prop :=
  ∀ (c : Chan) (t : Thr) (w : W64) (s u : State), Issues c t w s u → (opc w).toNat = 0x60 →
    ∃ a b x y, Reads c t (rA w) a (acting c t u) x ∧ Reads c t (rB w) b x y ∧
    ((thr s c t).dop = .out ∨ (chan s c).reg.pState ≠ 0 → exec (.dop c t) s = .next (waits c t (.dop a b) y)) ∧
    ((thr s c t).dop ≠ .out → (chan s c).reg.pState = 0 →
      ∀ j k f z, j = BitVec.ofNat 6 (bits a 0 6) → k = BitVec.ofNat 8 (bits w 0 8) → fetchStore c true (bits w 0 8) y = (f, z) →
      (f = none → exec (.dop c t) s = .next (goesOn c t (refuseDop c t k j 3 z))) ∧
      (∀ v e cls, f = some v → e = v.setWidth 32 →
          cls = (if (dieCtl z c j).fenceEn then fenceClass z c k else 0) →
        (entValid e = false ∨ ctxAccepts (dieCtl z c j) (entTrain e) = false ∨ cls = 3 →
          exec (.dop c t) s = .next (goesOn c t (refuseDop c t k j 3 z))) ∧
        (entValid e = true → ctxAccepts (dieCtl z c j) (entTrain e) = true → cls ≠ 3 →
          (entXfer e = true → entTrain e = false → calOk z c j = false →
            exec (.dop c t) s = .next (event c t 3 (nat64 (64 * c.toNat + bits a 0 6))
              (noteOut c t .calInvalid false (fenceClass z c k) z))) ∧
          (entXfer e = false ∨ entTrain e = true ∨ calOk z c j = true →
            (cls = 0 → exec (.dop c t) s = .next (goesOn c t (acceptDop c t w a b e 0 z))) ∧
            (cls ≠ 0 → (chan z c).reg.filling = true → exec (.dop c t) s = .next (waits c t (.dop a b) z)) ∧
            (cls ≠ 0 → (chan z c).reg.filling = false →
              ∀ r, r = fenceAccept c t cls j b (BitVec.ofNat 24 (bits w 8 24)) z →
              (r.1 = true → exec (.dop c t) s = .next (goesOn c t (acceptDop c t w a b e cls r.2))) ∧
              (r.1 = false → exec (.dop c t) s = .next (goesOn c t (refuseDop c t k j 4 r.2))))))))

/-- R90, R132, R153, R210: what an accepted and a refused DOP leave in the thread. PRIO is the instruction's, 0 in a
calibration that the block started; an image whose DOPs have other PRIO values than those of R210 is not the library's
(log entry 125). -/
def DopStart : Prop :=
  ∀ (c : Chan) (t : Thr) (w a b : W64) (e : BitVec 32) (cls : BitVec 2) (j : Ctx) (n : Byte) (k : BitVec 4) (s : State),
    (∀ th, th = thr (acceptDop c t w a b e cls s) c t → th.dop = .out ∧ th.prg = 0 ∧
      ∃ r, th.rtn = some r ∧ r.num.toNat = bits w 0 8 ∧ r.die.toNat = bits a 0 6 ∧
        r.prio.toNat = (if (thr s c t).calib then 0 else bits w 38 2) ∧ r.order = (chan s c).order ∧
        r.a = b ∧ r.m.toNat = bits w 8 24 ∧ r.upc.toNat = e.toNat % 2 ^ 12) ∧
    (∀ op, libRun s c (thr s c t) = some op → (quad (acceptDop c t w a b e cls s) (quadOf c)).library =
      ((thr s c t).calib || dopPrio op (BitVec.ofNat 2 (bits w 38 2)))) ∧
    (∀ th, th = thr (refuseDop c t n j k s) c t → th.dop = .done (nat64 (k.toNat * 2 ^ 8)) ∧ th.rtn = (thr s c t).rtn)

/-- R141, R338: QPOST raises ADDRESS or POISON, answers 1, waits for room, or posts the image. -/
def QpostResult : Prop :=
  ∀ (c : Chan) (t : Thr) (w : W64) (s u : State), Issues c t w s u → (opc w).toNat = 0x98 →
    ∃ a b x y, Reads c t (rA w) a (acting c t u) x ∧ Reads c t (rB w) b x y ∧
      (¬ (b.toNat % 16 = 0 ∧ b.toNat + 16 ≤ 65536) → exec (.qpost c t) s = .next (event c t 2 b y)) ∧
      (b.toNat % 16 = 0 ∧ b.toNat + 16 ≤ 65536 → ∀ r, r = readsScratch c t b.toNat 16 y →
        (Poisoned r.1 → exec (.qpost c t) s = .next (event c t 4 (nat64 (b.toNat / 64 * 64)) r.2)) ∧
        (¬ Poisoned r.1 → (qctx r.2 (131072 + bits a 0 17)).enabled = false →
          exec (.qpost c t) s = .next (waitsOut c t (rD w) 1 r.2)) ∧
        (¬ Poisoned r.1 → (qctx r.2 (131072 + bits a 0 17)).enabled = true → 1024 ≤ cbufUsed r.2 →
          exec (.qpost c t) s = .next (waits c t (.qpost a b) r.2)) ∧
        (¬ Poisoned r.1 → (qctx r.2 (131072 + bits a 0 17)).enabled = true → cbufUsed r.2 < 1024 →
          ∃ p : Cpl, p.cq.toNat = bits a 0 17 ∧ p.result.toNat = number ((r.1.map (·.1)).take 4) ∧
            p.cid.toNat = number (((r.1.map (·.1)).drop 4).take 2) ∧
            (statusOk p.status = true) ∧
            (statusOk ((r.1.map (·.1)).getD 8 0) = true → p.status = (r.1.map (·.1)).getD 8 0) ∧
            (statusOk ((r.1.map (·.1)).getD 8 0) = false → p.status = 0x08) ∧
            exec (.qpost c t) s = .next (waitsOut c t (rD w) 0 (putCpl p r.2))))

/-- R101, R103, R142: END raises a pending ABORT of its handler, else ends the program with its status. -/
def EndResult : Prop :=
  ∀ (c : Chan) (t : Thr) (w : W64) (s u : State), Issues c t w s u → (opc w).toNat = 0x9F → (thr s c t).ending = none →
    ∃ a b x y, Reads c t (rA w) a (acting c t u) x ∧ Reads c t (rB w) b x y ∧
      ((thr s c t).handler = true → (thr s c t).abortP = true → exec (.endProg c t) s = .next (event c t 5 0
        (modThr c t (fun th => { th with handler := false, abortP := false, aborted := true }) y))) ∧
      ((thr s c t).handler = false ∨ (thr s c t).abortP = false →
        (statusOk (BitVec.ofNat 8 (bits a 0 8)) = true → exec (.endProg c t) s = .next (tryEnd c t
          (setEnding c t (BitVec.ofNat 8 (bits a 0 8)) (some (BitVec.ofNat 32 (bits b 0 32))) y))) ∧
        (statusOk (BitVec.ofNat 8 (bits a 0 8)) = false → exec (.endProg c t) s = .next (tryEnd c t
          (setEnding c t 0x08 (some (BitVec.ofNat 32 (bits b 0 32))) (recordFault c t 1 (thr s c t).pc y)))))

/-- The registers and words of a thread that is idle (R93). -/
def Idle (c : Chan) (t : Thr) (s : State) : Prop := thr s c t = {}

/-- R93, R101, R298, R328, R338, R346, R392, R485: what an END leaves once its moment is there. It waits while its routine
is outstanding, while a packet of its own waits to be closed, and without a place in the completion buffer. Else its thread
is idle and its entry has its status and RESULT: FROM_BLOCK data is moved from the buffer that HANDLE in the frame names, or
the buffer is freed, also where DIR is NONE (log entry 54), and the entry finished; the entry of another node goes to it as
DATA and COMPLETE, and a member fetch waits for its RENDER_FETCH_END with its status and buffer. A halted block only idles
the thread. `p` is the state once the packet is closed. What the library's program reports is `endOutcome` (log entry
125). -/
def EndEffect : Prop :=
  ∀ (c : Chan) (t : Thr) (st : Byte) (res : Option (BitVec 32)) (s p : State) (th : Thread), th = thr s c t →
    th.ending = some (st, res) →
    p = (if (strm s 2).pushLock = some (c, t)
      then modStrm 2 (fun x => { x with pushLock := none, forcedEnd := true }) (acceptWord 2 ⟨0, true, false⟩ s) else s) →
    (th.dop = .out → exec (.endProg c t) s = .next s) ∧
    (th.dop ≠ .out → (strm s 2).pushLock = some (c, t) → (strm s 2).credits = 0 → exec (.endProg c t) s = .next s) ∧
    (th.dop ≠ .out → (strm s 2).pushLock ≠ some (c, t) ∨ (strm s 2).credits ≠ 0 → s.gctl.halted = true →
      exec (.endProg c t) s = .next (toIdle c t p) ∧ Idle c t (toIdle c t p)) ∧
    (th.dop ≠ .out → (strm s 2).pushLock ≠ some (c, t) ∨ (strm s 2).credits ≠ 0 → s.gctl.halted = false →
      (th.calib = true → exec (.endProg c t) s = .next (toIdle c t p) ∧ Idle c t (toIdle c t p)) ∧
      (∀ id e, th.calib = false → th.entry = some id → entryOf s id = some e →
        (1024 ≤ cbufUsed s → exec (.endProg c t) s = .next p) ∧
        (cbufUsed s < 1024 → ∃ code out y r h,
          (code, out) = endOutcome s c th (if th.aborted then 0x08 else st)
            (res.getD (BitVec.ofNat 32 (bits th.lastOut 0 16))) ∧
          (th.byEvent = true ∨ (quad s (quadOf c)).library = false → code = (if th.aborted then 0x08 else st) ∧
            out = res.getD (BitVec.ofNat 32 (bits th.lastOut 0 16))) ∧
          Idle c t y ∧ (chan y c).scratch = (chan p c).scratch ∧
          r = readMem (.scr c) (0x8000 + 0x1000 * t.toNat + 0x2C) 4 rqQe y ∧ h = BitVec.ofNat 32 (number (r.1.map (·.1))) ∧
          (e.kind = .host → ∃ z, Idle c t z ∧ z.qe.held = p.qe.held + 1 ∧
            (∃ f, entryOf z id = some f ∧ f.held = true ∧ f.handle = h ∧ f.status = code ∧ f.result = out) ∧
            (bits (eword e 0) 50 2 = 2 → h ≠ 0 → exec (.endProg c t) s = .next (startXfer id e.sq false (eDmode e)
              (eDaddr e) (eDlen e) e.frags h (modEntry id (fun f => { f with stage := .dataOut }) z))) ∧
            (bits (eword e 0) 50 2 ≠ 2 ∨ h = 0 →
              exec (.endProg c t) s = .next (finishEntry id code out (freeEntryBuffer h z)))) ∧
          (∀ src tag q m d, e.kind = .remoteIn src tag q m →
            d = (if bits (eword e 0) 50 2 = 2 ∧ h ≠ 0 then bufRead h 0 (eDlen e) (rqLath q) r.2 else ([], r.2)) →
            exec (.endProg c t) s =
              .next (dropEntry e.id (freeEntryBuffer h (sendComplete src tag code out d.1 d.2)))) ∧
          (e.kind = .fetch → ∀ z, z = dropEntry e.id r.2 →
            ((∃ f ∈ r.2.rnd.fetch, f.entry = e.id ∧ f.done = none ∧ f.fin = none) → exec (.endProg c t) s =
              .next { z with rnd := { z.rnd with fetch := z.rnd.fetch.map fun f =>
                if f.entry = e.id ∧ f.done = none then { f with done := some (code, h) } else f } }) ∧
            ((∀ f ∈ r.2.rnd.fetch, f.entry = e.id → f.done = none → f.fin ≠ none) →
              exec (.endProg c t) s = .next (freeEntryBuffer h z))))))

/-- R138, R295: RCMD joins the unit's queue while it is busy (log entry 49), else gives its status word, or waits: a REBUILD
for its fetches, an OPEN for a pool whose withheld buffers are being removed (R386, log entry 177). -/
def RenderResult : Prop :=
  ∀ e ∈ rcmds, ∀ (c : Chan) (t : Thr) (w : W64) (s u : State), Issues c t w s u → (opc w).toNat = 0x88 → bits w 32 4 = e.1 →
    ∃ a b x y, Reads c t (rA w) a (acting c t u) x ∧ Reads c t (rB w) b x y ∧
      (s.rnd.busy ≠ none → exec (e.2 c t) s = .next (waits c t (.unit_ a b 0)
        { y with rnd := { y.rnd with queue := y.rnd.queue ++ [⟨c, t, e.1, a, b⟩] } })) ∧
      (s.rnd.busy = none →
        (∀ v z, answers e.1 a b y = (some v, z) → exec (e.2 c t) s = .next (waitsOut c t (rD w) v z)) ∧
        (∀ z, answers e.1 a b y = (none, z) → exec (e.2 c t) s = .next (waits c t (.rebuild (rD w) a b)
          { z with rnd := { z.rnd with busy := some ⟨c, t, e.1, a, b⟩ } })))

/-- R288-R294, R431: status words of Render's commands in each phase of a context. BAD_ARG of OPEN with SERIAL 0 is log entry
51; VALUE 0 beside an error code, and which code goes first where several hold, are the model's choice (log entry 165). -/
def RenderStatus : Prop :=
  ∀ (a b : W64) (s : State) (i n : Nat), i = bits a 0 10 → n = bits a 16 6 →
    (stgOn s = false → ∀ k < 6, answers k a b s = (some (status 0 11), s)) ∧
    (stgOn s = true →
      (¬ (bits a 0 4 = 5 ∧ 1 ≤ bits a 10 6 ∧ bits a 10 6 + bits a 8 2 + 1 ≤ 64 ∧ bits a 32 32 ≠ 0) →
        answers 0 a b s = (some (status 0 6), s)) ∧
      ((rctx s i).phase = .free → ∀ k ∈ [1, 2, 3, 4, 5], answers k a b s = (some (status 0 4), s)) ∧
      ((rctx s i).phase = .solved → answers 1 a b s = (some (status 0 5), s) ∧ answers 3 a b s = (some (status 0 5), s)) ∧
      ((rctx s i).phase = .read → answers 2 a b s = (some (status 0 5), s) ∧ answers 4 a b s = (some (status 0 5), s) ∧
        ∃ z, answers 5 a b s = (some (status 0 0), z) ∧ (rctx z i).phase = .free) ∧
      ((rctx s i).phase = .acc ∨ (rctx s i).phase = .solved → n < tagN (rctx s i).tag →
        (bit (rctx s i).repM n = true → answers 4 a b s = (some (status 0 7), s)) ∧
        (bit (rctx s i).repM n = false → ∃ z, answers 4 a b s = (some (status (popCount (rctx z i).repM) 0), z) ∧
          bit (rctx z i).repM n = true ∧ bit (rctx z i).failM n = bit a 24)))

/-- R298: a member fetch that ends is settled; one past its time sets FETCH_TMO, aborts its entry and is settled as
lost. A remote fetch is noted as aborted in its row of the table (R487). -/
def RenderFetch : Prop :=
  ∀ (id : BitVec 10) (pos : Ctx) (pg : BitVec 4) (s : State) (f : RFetch),
    fetchOf s id.toNat pos.toNat pg.toNat = some f →
    (∀ st h, f.done = some (st, h) → exec (.renderFetchEnd id pos pg) s =
      .next (fetchOver id.toNat pos.toNat pg.toNat (decide (st = 0x00 ∨ st = 0x01)) s)) ∧
    (∀ x, f.done = none → f.due.toNat ≤ s.time.toNat → x = { s with rnd := { s.rnd with sTmo := true } } →
      (entryOf s f.entry = none → exec (.renderFetchTimeout id pos pg) s =
        .next (fetchOver id.toNat pos.toNat pg.toNat false x)) ∧
      (∀ e, entryOf s f.entry = some e → (∀ g, e.stage ≠ .remote g) → exec (.renderFetchTimeout id pos pg) s =
        .next (fetchOver id.toNat pos.toNat pg.toNat false (abortEntry f.entry x).2)) ∧
      (∀ e g, entryOf s f.entry = some e → e.stage = .remote g → exec (.renderFetchTimeout id pos pg) s =
        .next (fetchOver id.toNat pos.toNat pg.toNat false
          (sendNode (eNode e) (mkFrame x 6 false (eNode e) g 0 0 []) { x with lath := { x.lath with
            table := x.lath.table.map fun r =>
              (r.1, if r.1 = g.toNat then { r.2 with fetchAbort := true } else r.2) } }))))

/-! ## The register port -/

/-- No read waits at the register port, no transaction is held behind one, and the block is READY (R61, R510). -/
structure PortFree (s : State) : Prop where
  wait : s.port.wait = none
  held : s.port.held = []
  boot : s.gctl.boot = .ready

/-- A 64-bit access or a 32-bit access of one half (R59). -/
def Word (a : Acc) : Prop := a = .full ∨ a = .low ∨ a = .high

/-- The bits of the register that an access covers. -/
def covered : Acc → W64
  | .full => 0xFFFFFFFFFFFFFFFF
  | .low => 0x00000000FFFFFFFF
  | .high => 0xFFFFFFFF00000000
  | _ => 0

/-- The bytes of the register that an access covers. -/
def coveredBytes : Acc → Byte
  | .full => 0xFF
  | .low => 0x0F
  | .high => 0xF0
  | _ => 0

/-- A word with the bits that an access covers taken from the data. -/
def stored (a : Acc) (old v : W64) : W64 := (old &&& ~~~covered a) ||| (v &&& covered a)

/-- The bits of the data that an access covers, 0 elsewhere. -/
def given (a : Acc) (v : W64) : W64 := v &&& covered a

/-- The port has taken the transaction: the responses of the step before are gone. -/
def atPort (s : State) : State := { s with port := { s.port with resp := [] } }

/-- The write ends with an OK response, its effect `x`. -/
def wrote (x : State) : Out := .next { x with port := { x.port with resp := { ok := true } :: x.port.resp } }

/-- The read ends with an OK response and the value `v`. -/
def returns (v : W64) (x : State) : Out := .next { x with port := { x.port with resp := x.port.resp ++ [{ ok := true, value := v }] } }

/-- The access ends with a fabric error response. -/
def fails (ws : List W64) (x : State) : Out := .next { x with port := { x.port with resp := [{ ok := false, words := ws }] } }

/-- A register write or read by its aperture offset, as it stands in the commands that carry one. -/
def readOff (o : Nat) : Option (Acc → Instr) :=
  if o = 0x3020 then some .srvFaultInfoRead
  else if o = 0x50020 then some .plbFaultInfoRead
  else if o = 0x70018 then some .lathEventRead
  else if o = 0x60000 then some .intErrlogRead
  else if o = 0x60010 then some .intBankRetireRead
  else if o = 0x100 then some .gctlSoftStateRead
  else if o = 0x1048 then some .pwrTokenStateRead
  else if o = 0x400008 then some .icMaskSyncRead
  else none

/-- No Lath frame waits in a receive buffer, and no port owes its peer an ACK, a NAK or credits (R478, R479). -/
structure LathQuiet (s : State) : Prop where
  loop : s.lath.loop = []
  rx : ∀ x : BitVec 2, (lport s x).rx = []
  owed : ∀ x : BitVec 2, isUp s x = true →
    (lport s x).ackDue = false ∧ (lport s x).nak = false ∧ ∀ g ∈ (lport s x).give, g = 0

/-- On an empty queue a step is one tick of TIME, at which Lath frames and port transactions that wait go on (the
model's choice: log entries 14, 126). -/
def EmptyQueueTick : Prop :=
  ∀ s : State, s.pending = [] →
    step s = .next (portGo (lathGo { s with time := s.time + 1 })) ∧
    ((s.port.wait = none → s.port.held = []) → LathQuiet s → step s = .next { s with time := s.time + 1 })

/-- The invariants hold at reset, and the queue is empty. -/
def ResetKeepsInvariants : Prop :=
  StreamsFit State.reset ∧ Memory.wf State.reset = true ∧ State.reset.pending = []

/-- The table gives no row bits, so no word spells a command. -/
def NoCommandWord : Prop :=
  ∀ (n w : Nat) (s : State), decodeTableWord n w = none ∧ s.withFetchWord n w = s

/-- R8, R59: a misaligned access and a form a register does not take get the error response and have no effect; an offset
names a 64-bit register for the 32-bit forms too (log entry 25). -/
def AccessForms : Prop :=
  ∀ (o : Nat) (v : W64) (s : State), PortFree s → o < 0x1000000 →
    (∀ a, Word a → o % 8 ≠ 0 → exec (.registerWrite o a v) s = fails [] (atPort s)) ∧
    exec (.registerWrite o .other v) s = fails [] (atPort s) ∧
    exec (.registerWrite o .burst v) s = fails (List.replicate 8 0) (atPort s) ∧
    (∀ a f, readOff o = some f → a = .burst ∨ a = .other →
      exec (f a) s = fails (if a = .burst then List.replicate 8 0 else []) (atPort s))

/-- R510: before READY a write is ignored and a read gives 0, each with an OK response (log entry 27). -/
def BeforeReady : Prop :=
  ∀ (o : Nat) (a : Acc) (v : W64) (s : State), s.port.wait = none → s.port.held = [] → s.gctl.boot ≠ .ready →
    o < 0x1000000 → o % 8 = 0 → Word a → o ≠ 0x48 →
    exec (.registerWrite o a v) s = wrote (atPort s) ∧
    (∀ f, readOff o = some f → exec (f a) s = returns 0 (atPort s))

/-- R61: behind a read that waits, transactions are held; beyond the places none is accepted (log entry 26). -/
def PortHolds : Prop :=
  ∀ (o : Nat) (a : Acc) (v : W64) (s : State), s.port.wait ≠ none →
    (s.port.held.length < 15 → exec (.registerWrite o a v) s = .next { s with port := { s.port with
      resp := [], held := s.port.held ++ [{ write := true, off := o, form := a, data := v }] } }) ∧
    (15 ≤ s.port.held.length → exec (.registerWrite o a v) s = .next (atPort s))

/-- R407: a post sets its own source's pending bit and no other. -/
def PostSetsPend : Prop :=
  ∀ (n k : Nat) (s : State), pendOf (post n s) k = (decide (k = n) || pendOf s k)

/-- R408: a write of IC_MSG posts SOURCE, or is ignored and recorded. -/
def MessageWrite : Prop :=
  ∀ (a : Acc) (v : W64) (n : Nat) (s : State), PortFree s → a = .full ∨ a = .low → n = bits v 0 18 →
    (n < 132096 → n ≠ 131073 → n ≠ 131084 → ¬ (131085 ≤ n ∧ n ≤ 131327) →
      exec (.icMsgWrite a v) s = wrote (post n (atPort s))) ∧
    (132096 ≤ n ∨ n = 131073 ∨ n = 131084 ∨ (131085 ≤ n ∧ n ≤ 131327) →
      exec (.icMsgWrite a v) s = wrote { atPort s with ic := { s.ic with
        badMsg := true, badSrc := if s.ic.badMsg then s.ic.badSrc else BitVec.ofNat 18 n } })

/-- R416: a write of IC_EOI removes LEVEL, re-samples and places in rounds of R412, of which 256 are enough (log entry 32),
or is ignored and recorded. -/
def EndOfInterrupt : Prop :=
  ∀ (p : BitVec 4) (a : Acc) (v : W64) (l : Nat) (s : State), PortFree s → a = .full ∨ a = .low → l = bits v 0 4 →
    (l = 0 ∨ bit (proc s p.toNat).active l = false → exec (.icEoiWrite p a v) s = wrote { atPort s with ic := { s.ic with
      badEoi := true, eoiProc := if s.ic.badEoi then s.ic.eoiProc else p } }) ∧
    (l ≠ 0 → bit (proc s p.toNat).active l = true → exec (.icEoiWrite p a v) s = wrote (placeAll 256 (resample
      (modProc p.toNat (fun x => { x with active := setBit x.active l false }) (atPort s)))))

/-- R413, R418: what TAKEN does to the pending bit, the stack, the rotation, the hold-off and ESCAPED. -/
def TakenEffect : Prop :=
  ∀ (p : BitVec 4) (x : Pres) (s : State), (proc s p.toNat).pres = some x → s.port.wait = none → s.port.held = [] →
    x.src < 132096 →
    ∃ t, exec (.taken p) s = .next t ∧
      (∀ n, pendOf t n = (decide (n ≠ x.src) && pendOf s n)) ∧
      (∀ l < 16, bit (proc t p.toNat).active l = (decide (l = x.prio.toNat) || bit (proc s p.toNat).active l)) ∧
      (proc t p.toNat).pres = none ∧ (proc t p.toNat).lastTaken.toNat = x.src ∧
      tget 132095 x.prio.toNat t.ic.lastSrc = x.src ∧ t.ic.lastProc = p.toNat ∧
      (∀ k < 16, bit t.ic.escaped k = (decide (k = p.toNat) && maskOf s x.src || bit s.ic.escaped k)) ∧
      (∀ h, h = tget {} (x.src / 64) t.ic.hold → h.value = (tget {} (x.src / 64) s.ic.hold).value ∧
        (h.value ≠ 0 → h.running = true ∧ h.until_ = s.time + nat64 (16 * h.value.toNat)))

/-- R69, R412, R414: a withdrawal that is due completes, which leaves the source pending and every other vector
presented; else the source picked is presented with its address (log entry 30). -/
def PresentEffect : Prop :=
  ∀ (s : State), s.gctl.boot ≠ .inReset → s.gctl.boot ≠ .init → s.port.wait = none → s.port.held = [] →
    (withdrawing s = true → exec .icPresent s = .next (withdrawDue s) ∧
      (∀ p, proc (withdrawDue s) p = { proc s p with
        pres := match (proc s p).pres with
          | some x => if x.due = true then none else some x
          | none => none }) ∧
      { withdrawDue s with ic := { (withdrawDue s).ic with proc := s.ic.proc } } = s) ∧
    (withdrawing s = true ↔ ∃ e ∈ s.ic.proc, ∃ x, e.2.pres = some x ∧ x.due = true) ∧
    (withdrawing s = false → exec .icPresent s = .next (place s)) ∧
    (∀ n p, pickSource s = some n → pickProc s n = some p → ∀ x, x = (proc (place s) p).pres →
      ∃ y, x = some y ∧ y.src = n ∧ y.prio = prioOf s n ∧
        y.addr = nat64 ((proc s p).vbase.toNat * 16 + 16 * n))

/-- R418: RUNNING is cleared at a TIME of at least the end time, and not before. -/
def HoldoffEnd : Prop :=
  ∀ (g : Nat) (h : Hold) (s : State), g < 2064 → h = tget {} g s.ic.hold → h.running = true →
    (h.until_.toNat ≤ s.time.toNat → exec (.holdoffExpiry g) s = .next { s with ic := { s.ic with
      hold := tput g { h with running := false } s.ic.hold } }) ∧
    (s.time.toNat < h.until_.toNat → exec (.holdoffExpiry g) s = .next s)

/-- R59, R408, R416, R420: a 32-bit access of the high half of IC_MSG, IC_EOI or IC_MASK_SYNC reaches no field. -/
def HighHalves : Prop :=
  ∀ (p : BitVec 4) (v : W64) (s : State), PortFree s →
    exec (.icMsgWrite .high v) s = wrote (atPort s) ∧ exec (.icEoiWrite p .high v) s = wrote (atPort s) ∧
    exec (.icMaskSyncRead .high) s = returns 0 (atPort s)

/-- R420: IC_MASK_SYNC waits while a masked source is presented, else gives ESCAPED and clears it. -/
def MaskSync : Prop :=
  ∀ (a : Acc) (s : State), PortFree s → a = .full ∨ a = .low →
    ((∃ p < 16, ∃ x, (proc s p).pres = some x ∧ maskOf s x.src = true) →
      exec (.icMaskSyncRead a) s = .next { atPort s with port := { s.port with resp := [], wait := some .sync } }) ∧
    (¬ (∃ p < 16, ∃ x, (proc s p).pres = some x ∧ maskOf s x.src = true) →
      exec (.icMaskSyncRead a) s = returns (nat64 s.ic.escaped.toNat) { atPort s with ic := { s.ic with escaped := 0 } })

/-! ## Registers -/

/-- A register whose fields are stored as written (RW): its offset, the bits that exist, and the state in which it
holds `v`. -/
structure RwReg where
  off : Nat
  has : W64
  put : W64 → State → State

def rwRegs : List RwReg :=
  [⟨0x40, 0x1, fun v s => { s with gctl := { s.gctl with queues := bit v 0 } }⟩,
   ⟨0x1020, 0x3, fun v s => { s with pwr := { s.pwr with noFetch := bit v 1, noPump := bit v 0 } }⟩,
   ⟨0x1040, 0xFFFFFF00FF, fun v s => { s with tok := { s.tok with
      quadMax := fld v 32 8, hold := fld v 16 16, total := fld v 0 8 } }⟩,
   ⟨0x3000, 0x3FFFFFFFF, fun v s => { s with srv := { s.srv with
      dqEn := bit v 33, pumpEn := bit v 32, post := fld v 16 16, pre := fld v 0 16 } }⟩,
   ⟨0x50000, 0xFFFF0FFF0000, fun v s => { s with plb := { s.plb with deadband := fld v 32 16, ki := fld v 16 12 } }⟩,
   ⟨0x50008, 0xFFFF0000FFFF0000, fun v s => { s with plb := { s.plb with
      hi := fld v 56 8, lo := fld v 48 8, feLimit := fld v 16 16 } }⟩,
   ⟨0x50010, 0xFFFFFFFF, fun v s => { s with plb := { s.plb with feTime := fld v 0 32 } }⟩,
   ⟨0x60008, 0x7F, fun v s => { s with intg := { s.intg with sel := fld v 2 5, view := fld v 0 2 } }⟩,
   ⟨0x50018, 0xFF01FF3F07, fun v s => { s with plb := { s.plb with
      tPost := fld v 32 8, tFreeze := bit v 24, tLevel := fld v 20 4, tZone := fld v 16 4, tDie := fld v 8 6,
      tMode := fld v 1 2, tEnable := bit v 0 } }⟩,
   ⟨0x500008, 0x800FFFFF, fun v s => { s with prm := { s.prm with win := bit v 31, word := fld v 0 20 } }⟩,
   ⟨0x500010, 0xFFFFFFFFFFFFFFFF, fun v s => { s with prm := { s.prm with data := v } }⟩]

/-- Registers with flags that a write of 1 clears: the offset and the state after a write of `v`. -/
def clearRegs : List (Nat × (W64 → State → State)) :=
  [(0x2018, fun v s => { s with cal := { s.cal with
      badMode := s.cal.badMode && !bit v 4, wreject := s.cal.wreject && !bit v 3,
      mfault := s.cal.mfault && !bit v 2, sdrift := s.cal.sdrift && !bit v 1 } }),
   (0x3018, fun v s => { s with srv := { s.srv with late := s.srv.late && !bit v 0 } }),
   (0x10018, fun v s => { s with qe := { s.qe with
      ctxError := s.qe.ctxError && !bit v 3, badDoor := s.qe.badDoor && !bit v 2,
      idxError := s.qe.idxError && !bit v 1, cqStall := s.qe.cqStall && !bit v 0 } }),
   (0x400010, fun v s => { s with ic := { s.ic with
      badEoi := s.ic.badEoi && !bit v 1, badMsg := s.ic.badMsg && !bit v 0 } }),
   (0x500018, fun v s => { s with prm := { s.prm with
      refused := s.prm.refused && !bit v 2, rdBusy := s.prm.rdBusy && !bit v 1, parity := s.prm.parity && !bit v 0 } })]

/-- Registers that ignore writes. -/
def readOnly : List Nat :=
  [0x00, 0x08, 0x10, 0x18, 0x20, 0x88, 0x100, 0x1008, 0x1018, 0x1048, 0x2008, 0x2010, 0x3008, 0x3010, 0x3020, 0x10010,
   0x10020, 0x50020, 0x50028, 0x60000, 0x60018, 0x70018, 0x70028, 0x400008, 0x500028]

/-- Registers of one kind: their number, each of them, and the condition without which it ignores writes (R62, and what
its rule says). -/
structure RwKind where
  n : Nat
  reg : Nat → RwReg
  live : Nat → State → Prop

/-- A register of the window of channel `c` at the offset `o`, which ignores writes while its quad has no power. -/
def ofChannel (n : Nat) (o : Nat → Nat) (has : W64) (put : Nat → W64 → Channel → Channel) : RwKind :=
  ⟨64 * n, fun k => ⟨0x300000 + 0x4000 * (k / n) + o (k % n), has,
    fun v s => modChan (BitVec.ofNat 6 (k / n)) (put (k % n) v) s⟩, fun k s => quadUp s (BitVec.ofNat 6 (k / n)) = true⟩

/-- Register kinds whose fields are stored as written: PLB_LEVELMAP (R260), STR_CFG (R403), DMA_SLIST (R369), GCTL_QMODE
(R349), QE_CTX_BASE (R350), RND_CFG and RND_CTX_SEL (R305, R308), and those of a channel: CH_CAL_ENTRY (R118),
CH_PUMP_CMD (R175), CH_FENCE_ADDR (R217), CH_SCRAMBLE_CFG (R253), CH_LDPC_CFG (R254), CH_SOFT_LLR (R255) and
CH_FENCE_CLASS (R217). -/
def rwKinds : List RwKind :=
  [⟨16, fun k => ⟨0x50040 + 8 * k, 0xFFFFFFFF, fun v s => { s with plb := { s.plb with
      map := tset 0 k (fld v 0 32) s.plb.map } }⟩, fun _ _ => True⟩,
   ⟨4, fun k => ⟨0x480008 + 0x20000 * k, 0xFFFFFF9F000101FF, fun v s => modStrm k (fun x => { x with
      rdWait := fld v 48 16, post := fld v 40 8, freezeEn := bit v 39, burstMax := fld v 32 5, unit := bit v 16,
      thresh := fld v 0 9 }) s⟩, fun _ _ => True⟩,
   ⟨4, fun k => ⟨0x20008 + 0x4000 * k, 0xFFFFFFFFFFE0, fun v s => modEng (BitVec.ofNat 2 k) (fun x => { x with
      slist := BitVec.ofNat 48 (bits v 5 43 * 32) }) s⟩, fun k s => (eng s (BitVec.ofNat 2 k)).senable = false⟩,
   ⟨1, fun _ => ⟨0x50, 0x1, fun v s => { s with gctl := { s.gctl with qmode := bit v 0 } }⟩,
     fun _ s => ∀ e ∈ s.qe.ctx, e.2.enabled = false⟩,
   ⟨1, fun _ => ⟨0x10000, 0xFFFFFFFFF000, fun v s => { s with qe := { s.qe with ctxBase := fld v 12 36 } }⟩,
     fun _ s => ∀ e ∈ s.qe.ctx, e.2.enabled = false⟩,
   ⟨1, fun _ => ⟨0x40000, 0xFFFFFFFF, fun v s => { s with rnd := { s.rnd with fetchTmo := fld v 0 32 } }⟩,
     fun _ s => powered s 1 = true⟩,
   ⟨1, fun _ => ⟨0x40018, 0x3FF, fun v s => { s with rnd := { s.rnd with sel := fld v 0 10 } }⟩,
     fun _ s => powered s 1 = true⟩,
   ofChannel 1 (fun _ => 0x10) 0x3FF (fun _ v x => { x with ctl := { x.ctl with calEntry := fld v 0 10 } }),
   ofChannel 1 (fun _ => 0x20) 0xFFFFFFFF (fun _ v x => { x with ctl := { x.ctl with pump := fld v 0 32 } }),
   ofChannel 1 (fun _ => 0x38) 0x3FFF003F (fun _ v x => { x with reg := { x.reg with
     fIdx := fld v 16 14, fCtx := fld v 0 6 } }),
   ofChannel 1 (fun _ => 0x48) 0x1FFFFFFFF (fun _ v x => { x with reg := { x.reg with
     bypass := bit v 32, key := fld v 0 32 } }),
   ofChannel 1 (fun _ => 0x50) 0x3F3F0FFF (fun _ v x => { x with reg := { x.reg with
     softIter := fld v 24 6, hardIter := fld v 16 6, zeros := fld v 0 12 } }),
   ofChannel 1 (fun _ => 0x58) 0x3F3F3F3F3F3F3F3F (fun _ v x => { x with reg := { x.reg with
     llr := v &&& 0x3F3F3F3F3F3F3F3F } }),
   ofChannel 8 (fun k => 0x80 + 8 * k) 0xFFFFFFFFFFFFFFFF (fun k v x => { x with ctl := { x.ctl with
     fclass := tset 0 k v x.ctl.fclass } })]

/-- Registers of one kind with flags that a write of 1 clears: their number, the offset and the state after a write of
`v` of each, and the condition without which it ignores writes. -/
structure ClearKind where
  n : Nat
  off : Nat → Nat
  put : Nat → W64 → State → State
  live : Nat → State → Prop

/-- RND_STATUS (R307), HAWK_STATUS (what it changes an OPEN of Render that waits may find), DMA_STATUS (R371),
CH_UCODE_VER (R172), the ring of CH_PLB_TRACE_PTR (R272), and STR_STATUS (R405), after which a stream that was held gives
credits. -/
def clearKinds : List ClearKind :=
  [⟨1, fun _ => 0x40010, fun _ v s => { s with rnd := { s.rnd with
      sTmo := s.rnd.sTmo && !bit v 3, sDeg := s.rnd.sDeg && !bit v 2, sForced := s.rnd.sForced && !bit v 1,
      sMarked := s.rnd.sMarked && !bit v 0 } }, fun _ s => powered s 1 = true⟩,
   ⟨1, fun _ => 0x30400, fun _ v s => renderOn { s with hawk := { s.hawk with
      low := s.hawk.low &&& ~~~fld v 6 6, cfgReject := s.hawk.cfgReject && !bit v 1,
      badHandle := s.hawk.badHandle && !bit v 0 } }, fun _ s => powered s 1 = true⟩,
   ⟨4, fun k => 0x20018 + 0x4000 * k, fun k v s => modEng (BitVec.ofNat 2 k) (fun g => { g with
      srefused := g.srefused && !bit v 2, sfault := g.sfault && !bit v 1 }) s, fun _ _ => True⟩,
   ⟨64, fun k => 0x300008 + 0x4000 * k, fun k v s => modReg (BitVec.ofNat 6 k) (fun r => { r with
      corr := r.corr && !bit v 2, uncorr := r.uncorr && !bit v 1 }) s, fun k s => quadUp s (BitVec.ofNat 6 k) = true⟩,
   ⟨64, fun k => 0x300068 + 0x4000 * k, fun k v s => if bits v 9 1 = 1 then modPlb (BitVec.ofNat 6 k) (fun p => { p with
      tFrozen := false }) s else s, fun k s => quadUp s (BitVec.ofNat 6 k) = true⟩,
   ⟨4, fun k => 0x480018 + 0x20000 * k, fun k v s => grantServe k (modStrm k (fun x => { x with
      dropped := x.dropped && !bit v 6, frozen := x.frozen && !bit v 5, forcedEnd := x.forcedEnd && !bit v 3,
      flushTrim := x.flushTrim && !bit v 2, rdExpired := x.rdExpired && !bit v 1, crossed := x.crossed && !bit v 0 }) s),
     fun _ _ => True⟩]

/-- R8: RW fields store what is written within the bytes accessed, RW1C flags clear, RO registers ignore writes. -/
def PlainStores : Prop :=
  ∀ (a : Acc) (v : W64) (s : State), PortFree s → Word a →
    (∀ r ∈ rwRegs, exec (.registerWrite r.off a v) s = wrote (r.put (stored a (regRead r.off s) v) (atPort s)) ∧
      regRead r.off (r.put v s) = v &&& r.has) ∧
    (∀ r ∈ clearRegs, exec (.registerWrite r.1 a v) s = wrote (r.2 (given a v) (atPort s))) ∧
    (∀ o ∈ readOnly, exec (.registerWrite o a v) s = wrote (atPort s))

/-- R8, R62, R260, R305, R349, R350, R369: the same for the registers of `rwKinds` and `clearKinds`; one that is not live
ignores writes. -/
def KindStores : Prop :=
  ∀ (a : Acc) (v : W64) (k : Nat) (s : State), PortFree s → Word a →
    (∀ r ∈ rwKinds, k < r.n → ∀ g, g = r.reg k →
      (r.live k s → exec (.registerWrite g.off a v) s = wrote (g.put (stored a (regRead g.off s) v) (atPort s)) ∧
        regRead g.off (g.put v s) = v &&& g.has) ∧
      (¬ r.live k s → exec (.registerWrite g.off a v) s = wrote (atPort s))) ∧
    (∀ r ∈ clearKinds, k < r.n →
      (r.live k s → exec (.registerWrite (r.off k) a v) s = wrote (r.put k (given a v) (atPort s))) ∧
      (¬ r.live k s → exec (.registerWrite (r.off k) a v) s = wrote (atPort s)))

/-- The wake bits of PWR_WAKE_EN that exist: the quads of the variant, the decoder domains, STG (R2, R518). -/
def wakeMask (s : State) : BitVec 20 := if s.variant = .j8 then 0xFFFFE else 0x00FFE

/-- R55, R463, R518: CAL_MODE, whose reserved MODE is reported; PWR_WAKE_EN; PRM_WP, whose bits are only set. -/
def GuardedStores : Prop :=
  ∀ (a : Acc) (v : W64) (s x : State), PortFree s → Word a → x = atPort s →
    (∀ z y, z = stored a (regRead 0x2000 s) v →
      y = { x with cal := { s.cal with drift := fld z 32 16, period := fld z 16 16, mode := fld z 0 2 } } →
      (a = .high ∨ bits v 0 2 ≠ 3 → exec (.registerWrite 0x2000 a v) s = wrote y) ∧
      (a ≠ .high → bits v 0 2 = 3 → exec (.registerWrite 0x2000 a v) s =
        wrote (post 131078 { y with cal := { y.cal with badMode := true } }))) ∧
    (∀ z, z = stored a (regRead 0x1010 s) v → exec (.registerWrite 0x1010 a v) s =
      wrote { x with pwr := { s.pwr with wakeEn := BitVec.ofNat 20 (bits z 0 20) &&& wakeMask s } }) ∧
    (∀ j < 128, exec (.registerWrite (0x501000 + 8 * j) a v) s = wrote { x with prm := { s.prm with
      wp := tset 0 j (tget 0 j s.prm.wp ||| BitVec.ofNat 32 (bits (given a v) 0 32)) s.prm.wp } })

/-- The processors of `t` are those of `y` with each presented vector that `f` holds of marked for its withdrawal. -/
def Withdraws (y : Nat → Proc) (f : Nat → Pres → Bool) (t : State) : Prop :=
  ∀ p, proc t p = { y p with pres := (y p).pres.map fun v => { v with due := v.due || f p v } }

/-- R414: writes of IC_MASK, IC_PEND, IC_PRIO, IC_TARGET, IC_HOLDOFF, IC_VBASE and IC_RUNPRIO, the vectors that each
withdraws, and that nothing else changes. Bits of IC_PEND for reserved sources stay 0. -/
def InterruptStores : Prop :=
  ∀ (o k : Nat) (a : Acc) (v z : W64) (s x : State), PortFree s → Word a → x = atPort s → z = stored a (regRead o s) v →
    (o = 0x404000 + 8 * k → k < 2064 → ∃ t, exec (.registerWrite o a v) s = wrote t ∧
      (∀ n, maskOf t n = if n / 64 = k then bit z (n % 64) else maskOf s n) ∧
      Withdraws (proc s) (fun _ w => maskOf t w.src) t ∧
      { t with ic := { t.ic with mask := s.ic.mask, proc := s.ic.proc } } = x) ∧
    (o = 0x40C000 + 8 * k → k < 2064 → ∃ t, exec (.registerWrite o a v) s = wrote t ∧
      (∀ n, pendOf t n = if n / 64 = k then bit z (n % 64) && !decide (131085 ≤ n ∧ n ≤ 131327) else pendOf s n) ∧
      Withdraws (proc s) (fun _ w => !pendOf t w.src) t ∧
      { t with ic := { t.ic with pend := s.ic.pend, proc := s.ic.proc } } = x) ∧
    (o = 0x414000 + 8 * k → k < 2064 → exec (.registerWrite o a v) s = wrote { x with ic := { s.ic with
      hold := tset {} k { tget {} k s.ic.hold with value := fld z 0 16 } s.ic.hold } }) ∧
    (o = 0x420000 + 8 * k → k < 8256 → ∃ t, exec (.registerWrite o a v) s = wrote t ∧
      (∀ n, (prioOf t n).toNat = if n / 16 = k then bits z (4 * (n % 16)) 4 else (prioOf s n).toNat) ∧
      Withdraws (proc s) (fun _ w => decide (w.src / 16 = k) && decide (bits (covered a) (4 * (w.src % 16)) 4 ≠ 0)) t ∧
      { t with ic := { t.ic with prio := s.ic.prio, proc := s.ic.proc } } = x) ∧
    (o = 0x438000 + 8 * k → k < 33024 → ∃ t, exec (.registerWrite o a v) s = wrote t ∧
      (∀ n, (targetOf t n).toNat = if n / 4 = k then bits z (16 * (n % 4)) 16 else (targetOf s n).toNat) ∧
      Withdraws (proc s) (fun p w => !bit (targetOf t w.src) p) t ∧
      { t with ic := { t.ic with target := s.ic.target, proc := s.ic.proc } } = x) ∧
    (o = 0x401000 + 0x40 * k → k < 16 → ∃ t, exec (.registerWrite o a v) s = wrote t ∧
      Withdraws (fun p => if p = k then { proc s p with vbase := fld z 4 60, enable := bit z 0 } else proc s p)
        (fun p _ => decide (p = k)) t ∧
      { t with ic := { t.ic with proc := s.ic.proc } } = x) ∧
    (o = 0x401008 + 0x40 * k → k < 16 → ∃ t, exec (.registerWrite o a v) s = wrote t ∧
      Withdraws (fun p => if p = k then { proc s p with base := fld z 8 4 } else proc s p)
        (fun p w => decide (p = k) && decide (w.prio.toNat ≤ runPrio (proc t p))) t ∧
      { t with ic := { t.ic with proc := s.ic.proc } } = x)

/-- The access covers the low half of a register, or the high half. -/
def low (a : Acc) : Bool := a != .high
def high (a : Acc) : Bool := a != .low

/-- R75, R223, R257, R269, R441, R445, R498: registers whose read clears, each half with its own fields; CH of
PLB_FAULT_INFO lies across the halves and clears with a read of both. -/
def ReadsClear : Prop :=
  ∀ (a : Acc) (s x : State), PortFree s → Word a → x = atPort s →
    (exec (.srvFaultInfoRead a) s = returns
      ((at_ 32 s.srv.fCount ||| flag 31 s.srv.fValid ||| at_ 8 s.srv.fLoop ||| at_ 0 s.srv.fMech) &&& covered a)
      { x with srv := { s.srv with
        fCount := if high a then 0 else s.srv.fCount, fValid := !low a && s.srv.fValid,
        fLoop := if low a then 0 else s.srv.fLoop, fMech := if low a then 0 else s.srv.fMech } }) ∧
    (exec (.plbFaultInfoRead a) s = returns
      ((at_ 40 s.plb.fCount ||| flag 39 s.plb.fValid ||| at_ 29 s.plb.fCh ||| at_ 23 s.plb.fDie ||| at_ 19 s.plb.fZone |||
        at_ 15 s.plb.fLevel ||| flag 14 s.plb.fClamp) &&& covered a)
      { x with plb := { s.plb with
        fCount := if high a then 0 else s.plb.fCount, fValid := !high a && s.plb.fValid,
        fCh := if a = .full then 0 else s.plb.fCh, fDie := if low a then 0 else s.plb.fDie,
        fZone := if low a then 0 else s.plb.fZone, fLevel := if low a then 0 else s.plb.fLevel,
        fClamp := !low a && s.plb.fClamp } }) ∧
    (exec (.lathEventRead a) s = returns
      ((at_ 56 s.lath.eKind ||| at_ 48 s.lath.eCount ||| flag 47 s.lath.eValid ||| at_ 40 s.lath.ePort |||
        at_ 16 s.lath.eNode) &&& covered a)
      { x with lath := { s.lath with
        eKind := if high a then 0 else s.lath.eKind, eCount := if high a then 0 else s.lath.eCount,
        eValid := !high a && s.lath.eValid, ePort := if high a then 0 else s.lath.ePort,
        eNode := if low a then 0 else s.lath.eNode } }) ∧
    (exec (.intErrlogRead a) s = returns
      ((at_ 56 s.intg.fKind ||| at_ 48 s.intg.count ||| at_ 40 s.intg.dropped ||| flag 39 s.intg.valid |||
        at_ 0 s.intg.fLoc) &&& covered a)
      { x with intg := { s.intg with
        fKind := if high a then 0 else s.intg.fKind, count := if high a then 0 else s.intg.count,
        dropped := if high a then 0 else s.intg.dropped, valid := !high a && s.intg.valid,
        fLoc := if low a then 0 else s.intg.fLoc } }) ∧
    (exec (.intBankRetireRead a) s = returns
      ((at_ 32 s.intg.hits ||| flag 16 ((List.range 6).any fun k => (pool s k).busy) ||| at_ 0 s.intg.retired) &&& covered a)
      { x with intg := { s.intg with hits := if high a then 0 else s.intg.hits } }) ∧
    (∀ v, v = softState s → exec (.gctlSoftStateRead a) s = returns (v &&& covered a)
      { x with soft := { s.soft with maxWait := if high a then 0 else s.soft.maxWait } }) ∧
    (exec (.pwrTokenStateRead a) s = returns
      ((at_ 32 s.tok.maxWait ||| at_ 16 (BitVec.ofNat 16 s.tok.waiting.length) |||
        at_ 0 (BitVec.ofNat 8 s.tok.out.length)) &&& covered a)
      { x with tok := { s.tok with maxWait := if high a then 0 else s.tok.maxWait } })

/-- R256, R405, R501: the same for registers of a channel, a stream and a Lath port. -/
def UnitReadsClear : Prop :=
  ∀ (a : Acc) (s x : State), PortFree s → Word a → x = atPort s →
    (∀ c : Chan, quadUp s c = true → ∀ r, r = (chan s c).reg → ∃ t, exec (.chLdpcStatRead c a) s = returns
      ((at_ 48 r.hardFail ||| at_ 32 r.softOk ||| at_ 16 r.softFail ||| at_ 0 r.noBank) &&& covered a) t ∧
      chan t c = { chan s c with reg := { r with
        hardFail := if high a then 0 else r.hardFail, softOk := if high a then 0 else r.softOk,
        softFail := if low a then 0 else r.softFail, noBank := if low a then 0 else r.noBank } } ∧
      (∀ d : Chan, d ≠ c → chan t d = chan s d) ∧ { t with ch := s.ch } = x) ∧
    (∀ c : Chan, quadUp s c = false → exec (.chLdpcStatRead c a) s = returns 0 x) ∧
    (∀ (i : BitVec 2) (q : Strm), q = strm s i.toNat → ∃ t, exec (.strStatusRead i a) s = returns
      ((at_ 48 q.discarded ||| at_ 8 q.left ||| flag 6 q.dropped ||| flag 5 q.frozen ||| flag 4 q.freezing |||
        flag 3 q.forcedEnd ||| flag 2 q.flushTrim ||| flag 1 q.rdExpired ||| flag 0 q.crossed) &&& covered a) t ∧
      strm t i.toNat = { q with discarded := if high a then 0 else q.discarded } ∧
      (∀ k, k ≠ i.toNat → strm t k = strm s k) ∧ { t with str := s.str } = x) ∧
    (∀ (i : BitVec 2) (p : LPort), i ≠ 3 → p = lport s i → ∃ t, exec (.lathPortStateRead i a) s = returns
      ((at_ 48 p.peer ||| at_ 32 p.peerEp ||| at_ 24 p.crcErr ||| at_ 16 p.downs ||| at_ 8 p.rate |||
        at_ 0 (linkCode p.link)) &&& covered a) t ∧
      lport t i = { p with crcErr := if low a then 0 else p.crcErr, downs := if low a then 0 else p.downs } ∧
      (∀ k, k ≠ i → lport t k = lport s k) ∧ { t with lath := { t.lath with port := s.lath.port } } = x)

/-- QE_STATUS of an ignored doorbell: the first one is recorded (R353). -/
def doorIgnored (cq : Bool) (n : QNum) (s : State) : State :=
  { s with qe := { s.qe with badDoor := true, dbCq := if s.qe.badDoor then s.qe.dbCq else cq,
                             dbQueue := if s.qe.badDoor then s.qe.dbQueue else n } }

/-- QE_QCTL refused with a reason (R352). -/
def qctlRefused (reason : Byte) (s : State) : State :=
  { s with qe := { s.qe with busy := none, result := 2, reason := reason } }

/-- QE_QCTL in progress. -/
def qctlBusy (cq : Bool) (q : QNum) (s : State) : State := { s with qe := { s.qe with busy := some ⟨cq, q⟩ } }

/-- HAWK_STATUS of a refused configuration and of an ignored free (R376, R379). -/
def cfgRefused (s : State) : State := { s with hawk := { s.hawk with cfgReject := true } }
def freeIgnored (h : W64) (s : State) : State :=
  { s with hawk := { s.hawk with
    badHandle := true, badValue := if s.hawk.badHandle then s.hawk.badValue else BitVec.ofNat 32 (bits h 0 32) } }

/-- The pool takes COUNT, LOW and BASE from a written word (R375). -/
def poolFields (v : W64) (p : Pool) : Pool :=
  { p with count := BitVec.ofNat 18 (bits v 44 18), low := BitVec.ofNat 18 (bits v 26 18),
           base := BitVec.ofNat 20 (bits v 6 20) }

/-- R314, R317, R353: a doorbell is ignored and recorded, waits for its context, or moves its index. -/
def Doorbells : Prop :=
  ∀ (n : QNum) (a : Acc) (v : W64) (s x : State) (q : QCtx) (p : BitVec 16), PortFree s → a = .full ∨ a = .low →
    x = atPort s → p = BitVec.ofNat 16 (bits v 0 16) →
    (q = qctx s n.toNat →
      (q.enabled = false → exec (.sqTailDoorbell n a v) s = wrote (doorIgnored false n x)) ∧
      (q.enabled = true → q.cached = false → exec (.sqTailDoorbell n a v) s =
        wrote (askCtx n.toNat (modQctx n.toNat (fun c => { c with door := c.door ++ [p] }) x))) ∧
      (q.enabled = true → q.cached = true →
        (2 ^ bits q.w0 59 5 ≤ p.toNat → exec (.sqTailDoorbell n a v) s = wrote (doorIgnored false n (touch n.toNat x))) ∧
        (p.toNat < 2 ^ bits q.w0 59 5 → exec (.sqTailDoorbell n a v) s =
          wrote (endRound n.toNat (modQctx n.toNat (fun c => { c with tail := p }) (touch n.toNat x)))))) ∧
    (∀ k, k = 131072 + n.toNat → q = qctx s k →
      (q.enabled = false → exec (.cqHeadDoorbell n a v) s = wrote (doorIgnored true n x)) ∧
      (q.enabled = true → q.cached = false → exec (.cqHeadDoorbell n a v) s =
        wrote (askCtx k (modQctx k (fun c => { c with door := c.door ++ [p] }) x))) ∧
      (q.enabled = true → q.cached = true →
        (2 ^ bits q.w0 59 5 ≤ p.toNat → exec (.cqHeadDoorbell n a v) s = wrote (doorIgnored true n (touch k x))) ∧
        (p.toNat < 2 ^ bits q.w0 59 5 → q.head = p → exec (.cqHeadDoorbell n a v) s =
          wrote (modQctx k (fun c => { c with head := p }) (touch k x))) ∧
        (p.toNat < 2 ^ bits q.w0 59 5 → q.head ≠ p → exec (.cqHeadDoorbell n a v) s =
          wrote (drain n (modQctx k (fun c => { c with head := p }) (touch k x))))))

/-- R59: a 32-bit access of the high half of a doorbell reaches no field. QE_QCTL's command is in its high half: the low
half of it does nothing, and the high half alone names queue 0. -/
def QueueHalves : Prop :=
  ∀ (n : QNum) (cq : Bool) (v : W64) (s : State), PortFree s →
    exec (.sqTailDoorbell n .high v) s = wrote (atPort s) ∧ exec (.cqHeadDoorbell n .high v) s = wrote (atPort s) ∧
    (∀ f ∈ [Instr.qeQctlEnable, Instr.qeQctlDisable, Instr.qeQctlReserved],
      exec (f cq n .low) s = wrote (atPort s) ∧ exec (f cq n .high) s = exec (f false 0 .full) s)

/-- R321, R341, R351, R352: QE_QCTL is ignored while one is busy, else it refuses with its reason, reads the context, or
disables the queue, keeping the head at which fetching stopped (log entries 58, 152). -/
def QueueControl : Prop :=
  ∀ (cq : Bool) (q : QNum) (s x : State) (k : Nat), PortFree s → x = atPort s →
    k = (if cq then 131072 + q.toNat else q.toNat) →
    (s.qe.busy ≠ none → exec (.qeQctlEnable cq q .full) s = wrote x ∧ exec (.qeQctlDisable cq q .full) s = wrote x ∧
      exec (.qeQctlReserved cq q .full) s = wrote x) ∧
    (s.qe.busy = none →
    (s.gctl.qmode = true → q ≠ 0 →
      exec (.qeQctlEnable cq q .full) s = wrote (qctlRefused 1 x) ∧
      exec (.qeQctlDisable cq q .full) s = wrote (qctlRefused 1 x) ∧
      exec (.qeQctlReserved cq q .full) s = wrote (qctlRefused 1 x)) ∧
    (s.gctl.qmode = false ∨ q = 0 →
      exec (.qeQctlReserved cq q .full) s = wrote (qctlRefused 7 x) ∧
      ((qctx s k).enabled = true → exec (.qeQctlEnable cq q .full) s = wrote (qctlRefused 3 x)) ∧
      ((qctx s k).enabled = false → exec (.qeQctlEnable cq q .full) s = wrote (askCtx k (qctlBusy cq q x)) ∧
        exec (.qeQctlDisable cq q .full) s = wrote (qctlRefused 3 x)) ∧
      ((qctx s k).enabled = true →
        (cq = false → exec (.qeQctlDisable cq q .full) s = wrote (tryStop k (endRound k (modQctx k (fun c => { c with
            enabled := false,
            stops := c.stops ++ [{ head := c.head, upTo := s.qe.nextId, addr := bits c.w2 4 44 * 16 }] })
          (qctlBusy cq q x))))) ∧
        (cq = true → cqInUse x q = true → exec (.qeQctlDisable cq q .full) s = wrote (qctlRefused 5 x)) ∧
        (cq = true → cqInUse x q = false → exec (.qeQctlDisable cq q .full) s = wrote (stopEnd k
          (modQctx k (fun c => { c with enabled := false }) (qctlBusy cq q x)))))))

/-- R394, R397, R402: STR_CTRL's ENABLE and FLUSH, and reads of the data window. -/
def StreamCommands : Prop :=
  ∀ (i : BitVec 2) (a : Acc) (v : W64) (s x : State) (q : Strm), PortFree s → x = atPort s → q = strm s i.toNat →
    exec (.streamEnableWrite i .high v) s = wrote x ∧ exec (.flush i .high v) s = wrote x ∧
    (a = .full ∨ a = .low →
      (bits v 1 1 = 0 → exec (.streamEnableWrite i a v) s =
        wrote (grant i.toNat (modStrm i.toNat (fun y => { y with enable := bit v 0 }) x))) ∧
      exec (.flush i a v) s = wrote (endPops i.toNat (grant i.toNat (modStrm i.toNat (fun y => { y with
        words := y.words.take y.reserved, discarded := satAdd y.discarded (y.words.length - y.reserved),
        trim := y.trim || decide (0 < y.partLen), flushTrim := y.flushTrim || decide (0 < y.partLen) })
        (grant i.toNat (modStrm i.toNat (fun y => { y with enable := bit v 0 }) x)))))) ∧
    (powered s 1 = true →
      (served s i = true → exec (.streamDataWindowRead i 0 .full) s = fails [] x) ∧
      (served s i = false → q.words = [] → exec (.streamDataWindowRead i 0 .full) s =
        .next { x with port := { x.port with wait := some (.window i s.time) } }) ∧
      (∀ h tl, served s i = false → q.words = h :: tl → exec (.streamDataWindowRead i 0 .full) s = returns h.w
        (modStrm i.toNat (fun y => { y with lastEm := h.em })
          (grant i.toNat (modStrm i.toNat (fun y => { y with words := tl, reserved := y.reserved - 1 }) x)))))

/-- R400, R402, R404: a servo fault message starts the freeze of S0, which each end mark taken brings nearer; a frozen S0
grants no credits, and discards what is sent, until 1 is written to FROZEN. -/
def StreamFreeze : Prop :=
  ∀ (s : State) (q : Strm), q = strm s 0 →
    (∀ m l, s.gctl.boot ≠ .inReset → s.gctl.boot ≠ .init → ∃ t, exec (.servoFaultMsg m l) s = .next t ∧
      (∀ k, k ≠ 0 → strm t k = strm s k) ∧
      (q.freezeEn = false ∨ q.freezing = true ∨ q.frozen = true → strm t 0 = q) ∧
      (q.freezeEn = true → q.freezing = false → q.frozen = false →
        (q.post = 0 → q.partLen = 0 → strm t 0 = { q with frozen := true, left := 0 }) ∧
        (q.post ≠ 0 ∨ q.partLen ≠ 0 → strm t 0 = { q with freezing := true, left := q.post }))) ∧
    (∀ w em, s.port.wait = none → s.port.held = [] → 0 < q.credits → q.offer = none → grants s 0 = true →
      q.trim = false → q.freezing = true → ∃ t, exec (.streamWordIn 0 w em) s = .next t ∧ ∃ y, y = strm t 0 ∧
        y.words = q.words ++ [⟨w, em, false⟩] ∧
        (em = false → y.freezing = true ∧ y.frozen = q.frozen ∧ y.left = q.left) ∧
        (em = true → 1 < q.left.toNat → y.freezing = true ∧ y.frozen = q.frozen ∧ y.left = q.left - 1) ∧
        (em = true → q.left.toNat ≤ 1 → y.freezing = false ∧ y.frozen = true ∧ y.left = 0)) ∧
    (q.frozen = true → grants s 0 = false ∧ (strm (grant 0 s) 0).credits ≤ q.credits) ∧
    (∀ v, PortFree s → q.frozen = true → q.offer = none → bits v 5 1 = 1 → ∃ t,
      exec (.registerWrite 0x480018 .full v) s = wrote t ∧ (strm t 0).frozen = false ∧ (strm t 0).words = q.words ∧
      (q.enable = true → powered s 1 = true → (strm t 0).credits = 256 - q.words.length))

/-- R389, R395, R396, R505: a producer's word is kept, discarded, or waits on its input for a credit and is taken when a
place frees; a word sent against a credit from before a reset is discarded; a window read ends at RD_WAIT (log entry 112).
-/
def StreamInput : Prop :=
  ∀ (i : BitVec 2) (w : W64) (em : Bool) (s : State) (q : Strm), q = strm s i.toNat → s.port.wait = none → s.port.held = [] →
    (2 ≤ i.toNat → exec (.streamWordIn i w em) s = .next s) ∧
    (i.toNat < 2 → q.credits = 0 → q.late = 0 ∨ grants s i.toNat = true → exec (.streamWordIn i w em) s =
      .next (modStrm i.toNat (fun y => { y with offer := some (y.offer.getD ⟨w, em, false⟩) }) s)) ∧
    (i.toNat < 2 → q.credits = 0 → 0 < q.late → grants s i.toNat = false → ∃ t,
      exec (.streamWordIn i w em) s = .next t ∧ ∃ y, y = strm t i.toNat ∧ y.words = q.words ∧ y.credits = 0 ∧
        y.late = q.late - 1 ∧ y.offer = q.offer ∧ y.discarded = satInc q.discarded) ∧
    (∀ sw h tl, q.credits = 0 → q.offer = some sw → q.words = h :: tl → q.words.length ≤ 256 → grants s i.toNat = true →
      q.trim = false → q.freezing = false → ∃ t, popWord i.toNat s = some (h, t) ∧ (strm t i.toNat).words = tl ++ [sw] ∧
        (strm t i.toNat).offer = none ∧ (strm t i.toNat).credits = 256 - (tl.length + 1)) ∧
    (i.toNat < 2 → 0 < q.credits → q.offer = none → grants s i.toNat = true → q.trim = false → q.freezing = false →
      ∃ t, exec (.streamWordIn i w em) s = .next t ∧ ∃ y, y = strm t i.toNat ∧
        y.words = q.words ++ [⟨w, em, false⟩] ∧ y.credits = 255 - q.words.length ∧ y.discarded = q.discarded ∧
        (0 < q.thresh.toNat → q.thresh.toNat ≤ 256 → q.unit = false → q.words.length + 1 = q.thresh.toNat →
          y.crossed = true ∧ pendOf t (131080 + i.toNat) = true)) ∧
    (i.toNat < 2 → 0 < q.credits → q.offer = none → grants s i.toNat = false ∨ q.trim = true →
      ∃ t, exec (.streamWordIn i w em) s = .next t ∧ ∃ y, y = strm t i.toNat ∧
        y.words = q.words ∧ y.discarded = satInc q.discarded ∧ y.trim = (q.trim && !em)) ∧
    (∀ (j : BitVec 2) (since : W64) (u : State), u = { s with port := { s.port with wait := some (.window j since) } } →
      ((strm s j.toNat).rdWait ≠ 0 → (strm s j.toNat).rdWait.toNat * 1000 ≤ (s.time - since).toNat →
        exec .rdWaitExpiry u = .next { modStrm j.toNat (fun y => { y with rdExpired := true }) s with
          port := { s.port with resp := [{ ok := false }] } }) ∧
      ((strm s j.toNat).rdWait = 0 ∨ (s.time - since).toNat < (strm s j.toNat).rdWait.toNat * 1000 →
        exec .rdWaitExpiry u = .next u))

/-- A DMA transaction of `who` is answered: it is the outstanding one `m`, and leaves `y` (R63). -/
def Answered (who : FmWho) (s : State) (m : FmReq) (y : State) : Prop := takeFm who s = some (m, y)

/-- The stream words of an answered write of a burst are popped, of the stream its descriptor names (R399). -/
def poppedWords (x : XferRef) (d : Dsc) (m : FmReq) (s : State) : State :=
  match x with
  | .stream _ => popWords (bits d.w1 0 2) (m.len / 8) s
  | .entry _ => s

/-- The write-back of descriptor `i` stands at `wb`; it has nothing more to issue unless its word 3 is due (R364). -/
def wroteBack (r : XferRef) (i : Nat) (wb : Wb) (s : State) : State :=
  modXfer r (fun y => { y with descs := y.descs.modify i fun d => { d with wb := wb },
                               due := if wb = .word3due then y.due else y.due.filter (· ≠ i) }) s

/-- Engine `k` serves stream `i`: its list is enabled for it, or descriptors of it are not finished (R367). -/
def Serving (s : State) (k : BitVec 2) (i : Nat) : Prop :=
  ((eng s k).senable = true ∧ (eng s k).stream.toNat = i) ∨
  ∃ x, xferOf s (.stream k) = some x ∧ ∃ d ∈ x.descs, bits d.w1 0 2 = i ∧ settled d = false

/-- A domain's request, grant, isolation and state as their bits stand. -/
def gnt (s : State) (d : Nat) : Bool := bit s.pwr.gnt d
def req (s : State) (d : Nat) : Bool := bit s.pwr.req d

/-- Bit `i` of a word set to `b`. -/
def withBit {n : Nat} (w : BitVec n) (i : Nat) (b : Bool) : BitVec n := setBit w i b

/-- R359, R362, R367, R398: an answered descriptor read of a stream list, whose fault is written back at once (log entry
107). -/
def StreamListReads : Prop :=
  ∀ (e : BitVec 2) (s y : State) (m : FmReq) (g : Eng), Answered (.desc (.stream e)) s m y → g = eng y e →
    g.senable = true → g.st = .running →
    exec (.dmaDescriptorReadDone (.stream e) .error) s = .next (stopStream e 7 y) ∧
    (∀ ws d, d = readDsc g.rdAt (ws.getD 0 0) (ws.getD 1 0) (ws.getD 3 0) →
      (bit d.w3 63 = false → exec (.dmaDescriptorReadDone (.stream e) (.words ws)) s =
        .next (modEng e (fun g => { g with st := .waitOwn }) y)) ∧
      (bit d.w3 63 = true →
        (∀ r, streamDscFault g.stream d = some r →
          exec (.dmaDescriptorReadDone (.stream e) (.words ws)) s = .next (refuseStream e r d y)) ∧
        (streamDscFault g.stream d = none → d.link = false →
          exec (.dmaDescriptorReadDone (.stream e) (.words ws)) s = .next (pumpEng e (modEng e
            (fun g => { g with rdAt := g.rdAt + 32, links := 0, arrived := g.arrived + 1,
                               ahead := g.ahead ++ [{ d with no := g.arrived }] }) y))) ∧
        (streamDscFault g.stream d = none → d.link = true →
          (4095 ≤ g.links → exec (.dmaDescriptorReadDone (.stream e) (.words ws)) s = .next (stopStream e 12 y)) ∧
          (g.links < 4095 → d.host % 32 ≠ 0 →
            exec (.dmaDescriptorReadDone (.stream e) (.words ws)) s = .next (stopStream e 4 y)) ∧
          (g.links < 4095 → d.host % 32 = 0 →
            exec (.dmaDescriptorReadDone (.stream e) (.words ws)) s = .next (pumpEng e (modEng e
              (fun g => { g with rdAt := d.host, links := g.links + 1 }) y))))))

/-- A fault of an entry's list before data moves, whose descriptor `index` is written back where it was read (R363). -/
def listFault (id reason index : Nat) (s : State) : State :=
  modXfer (.entry id) (fun x => { x with
    nextAt := none, early := some (reason, index), due := if index < x.descs.length then [index] else [],
    descs := x.descs.modify index fun d => { d with fault := some reason, wb := .open_ } }) s

/-- Descriptor `n` of an entry's list is to be read at `a`: not the 4,097th, and aligned to 32 B (R359). -/
def readNext (id n a : Nat) (s : State) : State :=
  if 4096 ≤ n then listFault id 12 n s
  else if a % 32 ≠ 0 then listFault id 4 n s
  else modXfer (.entry id) (fun x => { x with nextAt := some a }) s

/-- The bytes of the first `k` descriptors, LINKs apart. -/
def running (k : Nat) (ds : List Dsc) : Nat := (((ds.take k).filter fun d => !d.link).map (·.len)).sum

/-- R356-R365: answered data transactions, write-backs and descriptor reads of a transfer; an error response to a word 3
counts as its answer (log entry 128). -/
def DmaResponses : Prop :=
  (∀ (r : XferRef) (i j : Nat) (s y : State) (m : FmReq) (x : Xfer) (d : Dsc), Answered (.data r i j) s m y →
    xferOf s r = some x → x.descs[i]? = some d →
    (m.write = true → exec (.dmaDataResponse r i j .wrote) s = .next (stepXfer r (poppedWords r d m (setTxn r i j .ok false
      (modEng x.eng (fun g => { g with bytesOut := g.bytesOut + nat64 m.len }) y))))) ∧
    (∀ bs ps, m.write = false → bs.length = m.len → exec (.dmaDataResponse r i j (.read bs ps)) s =
      .next (stepXfer r (setTxn r i j .ok (anyMark (beatBytes m.addr bs ps))
        (bufWrite x.handle (d.off + (m.addr - d.host)) (beatBytes m.addr bs ps) (rqDma x.eng)
          (modEng x.eng (fun g => { g with bytesIn := g.bytesIn + nat64 m.len }) y))))) ∧
    exec (.dmaDataResponse r i j .error) s = .next (stepXfer r (poppedWords r d m (setTxn r i j .err false y)))) ∧
  (∀ (r : XferRef) (i : Nat) (s y : State) (m : FmReq) (x : Xfer) (d : Dsc), Answered (.wback r i) s m y →
    xferOf y r = some x → x.descs[i]? = some d → s.gctl.halted = false →
    ∀ (err : Bool) (wb : Wb), (d.wb = .word2 → wb = if err then .failed else .word3due) →
      (d.wb ≠ .word2 → wb = if err then .closedErr else .closed) →
      (∀ id, r = .entry id → exec (.dmaWritebackResponse r i err) s = .next (stepXfer r (wroteBack r i wb y))) ∧
      (∀ e, r = .stream e → exec (.dmaWritebackResponse r i err) s = .next (stepXfer r
        (if wb = .word3due then wroteBack r i wb y else streamSettled e i err (wroteBack r i wb y))))) ∧
  (∀ (r : XferRef) (i a : Nat) (s : State) (x : Xfer) (d : Dsc), xferOf s r = some x → x.descs[i]? = some d →
    d.addr = some a →
    doWork r (.word2 i) s = issueFm { port := x.eng, who := .wback r i, write := true, addr := a + 16, len := 8,
                                      data := wordBytes 8 (dscWord2 x d) }
      (modDsc r i (fun d => { d with wb := .word2 }) s) ∧
    doWork r (.word3 i) s = modXfer r (fun x => { x with due := x.due.filter (· ≠ i) })
      (issueFm { port := x.eng, who := .wback r i, write := true, addr := a + 24, len := 8,
                 data := wordBytes 8 (d.w3 &&& 0x7FFFFFFFFFFFFFFF) } (modDsc r i (fun d => { d with wb := .word3 }) s))) ∧
  (∀ (id : Nat) (s y : State) (m : FmReq) (x : Xfer) (en : Entry) (a : Nat), Answered (.desc (.entry id)) s m y →
    xferOf y (.entry id) = some x → entryOf y id = some en → x.nextAt = some a →
    exec (.dmaDescriptorReadDone (.entry id) .error) s = .next (stepXfer (.entry id) (pumpEng x.eng
      (modXfer (.entry id) (fun z => { z with nextAt := none, early := some (7, x.descs.length), due := [] }) y))) ∧
    (∀ ws d n ds z, d = readDsc a (ws.getD 0 0) (ws.getD 1 0) (ws.getD 3 0) → n = x.descs.length → ds = x.descs ++ [d] →
      z = modXfer (.entry id) (fun x => { x with descs := x.descs ++ [d], nextAt := none }) y → ∀ leaves : State → Prop,
      (∀ t, leaves t ↔ exec (.dmaDescriptorReadDone (.entry id) (.words ws)) s =
        .next (stepXfer (.entry id) (pumpEng x.eng t))) →
      (∀ k, dscFault x.handle x.toBlock d = some k → leaves (listFault id k n z)) ∧
      (dscFault x.handle x.toBlock d = none →
        (d.link = true → leaves (readNext id (n + 1) d.host z)) ∧
        (d.link = false → bit d.w3 61 = false → leaves (readNext id (n + 1) (a + 32) z)) ∧
        (d.link = false → bit d.w3 61 = true →
          (∀ i, running i ds ≤ eDlen en → eDlen en < running (i + 1) ds → leaves (listFault id 6 i z)) ∧
          (running (n + 1) ds < eDlen en → leaves (listFault id 6 n z)) ∧
          (running (n + 1) ds = eDlen en → leaves z)))))

/-- R356, R398, R399: a burst takes its packets and their descriptors, if the first of these is one of the 16 transfers that
the engine works on. -/
def StreamBurst : Prop :=
  ∀ (e : BitVec 2) (s : State) (g : Eng) (q : Strm) (n k : Nat) (ps : List (List SW)), g = eng s e →
    q = strm s g.stream.toNat → n = min (burstMax q) (min (packets q) g.ahead.length) →
    ps = firstPackets n q.words → k = (ps.map List.length).sum →
    g.senable = true → g.bad = none → s.gctl.halted = false → q.enable = true → 0 < n → powered s 1 = true →
    ((XferRef.stream e, some (nextDsc s e)) ∉ working s e → exec (.dmaStreamBurst e) s = .next s) ∧
    ((XferRef.stream e, some (nextDsc s e)) ∈ working s e → ∀ y, y = modEng e (fun g => { g with ahead := g.ahead.drop n })
        (modStrm g.stream.toNat (fun x => { x with reserved := k }) s) →
    (xferOf s (.stream e) = none → exec (.dmaStreamBurst e) s = .next (pumpEng e
      { y with xfer := s.xfer ++ [{ ref := .stream e, eng := e, toBlock := false, data := some (swBytes (q.words.take k)),
                                    descs := burstDescs 0 ps (g.ahead.take n) }] })) ∧
    (∀ x bs, xferOf s (.stream e) = some x → x.data = some bs → (∀ d ∈ x.descs, answered d = true) →
      exec (.dmaStreamBurst e) s = .next (pumpEng e (modXfer (.stream e) (fun z => { z with
        data := some (z.data.getD [] ++ swBytes (q.words.take k)),
        descs := z.descs ++ burstDescs bs.length ps (g.ahead.take n) }) y))))

/-- R503, R504, R508: power-on, register and brown-out resets give the reset state, but for what is outside the block,
what is non-volatile, the trace rings, which a power-up may find stale (R272; log entry 20), the count of credits that the
producers of S0 and S1 still hold (R505; log entry 112), and the TIME of a register cold reset, over which no warm one of its
step prevails (R504; log entry 157). -/
def ColdResets : Prop :=
  ∀ (s x t : State) (cause : Byte) (b : Boot), t = { State.reset with
      variant := s.variant, time := s.time, free := x.free, pfail := s.pfail, brownout := s.brownout,
      gctl := { State.reset.gctl with cause := cause, boot := b }, prm := { State.reset.prm with arr := x.prm.arr },
      intg := { State.reset.intg with fuseAt := s.time, upset := s.intg.upset },
      str := (s.str.filter fun e => decide (e.1 < 2)).map fun e => (e.1, { late := e.2.credits + e.2.late }),
      ch := s.ch.map fun e => (e.1, { plb := { trace := e.2.plb.trace } }), pending := s.pending } →
    (∀ w a, PortFree s → a = .full ∨ a = .high → x = tripDetector (atPort s) → cause = 3 → b = .init →
      exec (.registerColdReset w a) s = wrote { t with
        gctl := { t.gctl with coldAt := some s.time },
        pwr := { t.pwr with gnt := s.pwr.gnt, retGnt := s.pwr.retGnt } }) ∧
    (s.port.wait = none → s.port.held = [] →
      (∀ p, p = { s.pwr with gnt := 1, retGnt := false } → x = tripDetector { s with pwr := p } → cause = 1 →
        b = (if s.brownout then .inReset else .init) → exec .powerOnReset s = .next t) ∧
      (∀ u, s.brownout = false → u = { s with brownout := true } → x = tripDetector u → cause = 2 → b = .inReset →
        exec .brownoutRise s = .next { t with brownout := true, pwr := { t.pwr with gnt := s.pwr.gnt, retGnt := s.pwr.retGnt } }) ∧
      (∀ u, s.brownout = true → u = { s with brownout := false, pwr := { s.pwr with gnt := 1, retGnt := false } } →
        x = tripDetector u → cause = 2 → b = .init → exec .brownoutFall s = .next { t with brownout := false }))

/-- R505-R507: what a warm reset of `s` clears and what it keeps in `t` (log entries 86, 87, 112). -/
def Warmed (s t : State) : Prop :=
    t.gctl.boot = .init ∧ t.gctl.cause = 4 ∧ t.gctl.warms = satInc s.gctl.warms ∧ t.gctl.queues = false ∧
    t.gctl.halted = false ∧ t.gctl.evidence = s.gctl.evidence ∧ t.gctl.hCause = s.gctl.hCause ∧
    t.gctl.hSq = s.gctl.hSq ∧ t.gctl.hIndex = s.gctl.hIndex ∧ t.gctl.hTime = s.gctl.hTime ∧ t.gctl.hEntry = s.gctl.hEntry ∧
    t.time = s.time ∧ t.pwr.st = s.pwr.st ∧ t.pwr.gnt = s.pwr.gnt ∧ t.pwr.on = s.pwr.on ∧
    t.tok = { s.tok with maxWait := 0, out := [], waiting := [] } ∧
    t.cal.ch = s.cal.ch ∧ t.cal.die = s.cal.die ∧ t.cal.count = s.cal.count ∧ t.cal.last = s.cal.last ∧
    t.srv.next = s.srv.next ∧ t.srv.prev = s.srv.prev ∧
    t.ic.mask = s.ic.mask ∧ t.ic.prio = s.ic.prio ∧ t.ic.target = s.ic.target ∧ t.ic.pend = [] ∧ t.ic.lastProc = 15 ∧
    (∀ k, (strm t k).words = [] ∧ (strm t k).credits = 0 ∧ (strm t k).enable = false ∧
      (strm t k).thresh = (strm s k).thresh ∧ (strm t k).late = (strm s k).credits + (strm s k).late) ∧
    t.eng = [] ∧ t.xfer = [] ∧ t.fm = [] ∧ t.qe = { State.reset.qe with ctxBase := s.qe.ctxBase } ∧
    t.soft = {} ∧ t.intg.retired = s.intg.retired ∧ t.intg.inForce = s.intg.inForce ∧ t.lath.epoch = s.lath.epoch + 1 ∧
    t.lath.node = s.lath.node ∧ t.lath.nodes = s.lath.nodes ∧ t.lath.table = [] ∧ t.prm.op = none ∧ t.prm.susp = [] ∧
    t.quad = s.quad ∧
    (∀ c : Chan, quadUp s c = true → (chan t c).thr = [] ∧ (chan t c).cstore = (chan s c).cstore ∧
      (chan t c).scratch = (chan s c).scratch ∧ (chan t c).lib = (chan s c).lib ∧ (chan t c).plb.ofs = (chan s c).plb.ofs ∧
      (chan t c).reg.key = (chan s c).reg.key ∧ (chan t c).pins.wp = (chan s c).pins.wp) ∧
    t.port.resp = [{ ok := true }]

/-- R504, R507: a write of WARM resets, but that one in the step of a cold reset gives way to it; whether a cold reset of
this TIME shares the step is free (log entry 157). -/
def WarmReset : Prop :=
  ∀ (a : Acc) (s : State), PortFree s → a = .full ∨ a = .high →
    (s.gctl.coldAt ≠ some s.time → ∃ t, exec (.registerWarmReset a) s = .next t ∧ Warmed s t) ∧
    (s.gctl.coldAt = some s.time → ∃ t, exec (.registerWarmReset a) s = .next t ∧
      (if bit (Config.free s.free) 0 then wrote { atPort s with free := s.free + 1 } = .next t else Warmed s t))

/-- R79, R80, R347: the PFAIL input and the clearing of the halt evidence (log entry 33). -/
def Warnings : Prop :=
  ∀ (s : State),
    (s.pfail = true → exec .pfailRise s = .next s) ∧
    (s.pfail = false → s.gctl.boot ≠ .inReset → s.gctl.boot ≠ .init →
      exec .pfailRise s = .next (post 131073 { s with pfail := true })) ∧
    (s.pfail = false → s.gctl.boot = .inReset ∨ s.gctl.boot = .init → exec .pfailRise s = .next { s with pfail := true }) ∧
    exec .pfailFall s = .next { s with pfail := false } ∧
    (s.brownout = true → exec .brownoutRise s = .next s) ∧ (s.brownout = false → exec .brownoutFall s = .next s) ∧
    (∀ a, PortFree s → a = .full ∨ a = .high →
      (s.gctl.halted = true → exec (.haltEvidenceClear a) s = wrote (atPort s)) ∧
      (s.gctl.halted = false → exec (.haltEvidenceClear a) s = wrote { atPort s with gctl := { s.gctl with
        evidence := false, hRemote := false, hCause := 0, hIndex := 0, hSq := 0, hTime := 0, hEntry := [] } }))

/-- R81, R82, R458, R460, R469, R510: the fuse words, which count for 100 µs, and the steps of the boot; a boot that
must program or erase waits until pulses may begin. -/
def BootSteps : Prop :=
  ∀ (s : State),
    (∀ w, s.gctl.boot = .init ∨ s.gctl.boot = .fuseWait → s.gctl.warmBoot = false → s.intg.fuseDone = false →
      (100000 < (s.time - s.intg.fuseAt).toNat → exec (.fuseWord w) s = .next s) ∧
      ((s.time - s.intg.fuseAt).toNat ≤ 100000 → s.intg.fuse.length < 64 → exec (.fuseWord w) s =
        .next { s with intg := { s.intg with fuse := s.intg.fuse ++ [w] } }) ∧
      ((s.time - s.intg.fuseAt).toNat ≤ 100000 → 64 ≤ s.intg.fuse.length →
        (crc32 (wordsBytes s.intg.fuse)).toNat = bits w 0 32 → ∃ t, exec (.fuseWord w) s = .next t ∧
          t.intg = { s.intg with fuseDone := true } ∧ t.gctl.boot = (if s.gctl.boot = .fuseWait then .journal else s.gctl.boot)) ∧
      ((s.time - s.intg.fuseAt).toNat ≤ 100000 → 64 ≤ s.intg.fuse.length →
        (crc32 (wordsBytes s.intg.fuse)).toNat ≠ bits w 0 32 → ∃ t, exec (.fuseWord w) s = .next t ∧
          t.intg.fuseBad = true ∧ t.intg.fuseDone = true ∧ pendOf t 131074 = true ∧
          t.gctl.boot = (if s.gctl.boot = .fuseWait then .journal else s.gctl.boot)) ∧
      (100000 ≤ (s.time - s.intg.fuseAt).toNat → ∃ t, exec .fuseTimeout s = .next t ∧ t.intg.fuseBad = true ∧
        t.intg.fuseDone = true ∧ pendOf t 131074 = true) ∧
      ((s.time - s.intg.fuseAt).toNat < 100000 → exec .fuseTimeout s = .next s)) ∧
    (s.gctl.boot = .init → ∃ t, exec .bootInitEnd s = .next t ∧
      t.gctl.boot = (if s.gctl.warmBoot || s.intg.fuseDone then .journal else .fuseWait) ∧
      (s.pfail = true → s.gctl.cause = 4 → pendOf t 131073 = true) ∧
      (s.gctl.cause ≠ 4 → s.gctl.warmBoot = false → ∀ n, pendOf t n = pendOf s n)) ∧
    (s.gctl.boot = .journal → s.prm.tripped = false ∨ bootPulses s = false → exec .bootJournal s =
      .next { journalBoot s with gctl := { s.gctl with boot := .directory } }) ∧
    (s.gctl.boot = .journal → s.prm.tripped = true → bootPulses s = true → exec .bootJournal s = .next s) ∧
    (s.gctl.boot = .directory → ∃ t, exec .bootDirectory s = .next t ∧ t.gctl.boot = .ready ∧ t.gctl.warmBoot = false ∧
      t.prm.dirValid = (directoryBoot s).prm.dirValid ∧ t.prm.dir = (directoryBoot s).prm.dir) ∧
    (s.gctl.boot ≠ .init → exec .bootInitEnd s = .next s) ∧ (s.gctl.boot ≠ .journal → exec .bootJournal s = .next s) ∧
    (s.gctl.boot ≠ .directory → exec .bootDirectory s = .next s)

/-- Register reset values that the spec gives (R55, R74, R222, R264, R268, R260, R403, R424, R509, R512, R513, R520).
-/
def ResetValues : Prop :=
  regRead 0x48 State.reset = nat64 (1 * 2 ^ 32 + 1) ∧ regRead 0x1000 State.reset = 1 ∧ regRead 0x1008 State.reset = 2 ∧
  regRead 0x1020 State.reset = 3 ∧ regRead 0x1040 State.reset = nat64 (4000 * 2 ^ 16 + 8) ∧
  regRead 0x2000 State.reset = nat64 (20000 * 2 ^ 32 + 100 * 2 ^ 16) ∧
  regRead 0x3000 State.reset = nat64 (2 ^ 32 + 400 * 2 ^ 16 + 200) ∧
  regRead 0x50000 State.reset = nat64 (4 * 2 ^ 32 + 64 * 2 ^ 16) ∧ regRead 0x50010 State.reset = 10000 ∧
  regRead 0x50040 State.reset = 1 ∧ regRead 0x404000 State.reset = 0xFFFFFFFFFFFFFFFF ∧
  (∀ k < 4, (strm State.reset k).words = [] ∧ (strm State.reset k).rdWait = 1000 ∧ (strm State.reset k).burstMax = 4) ∧
  (∀ (c : Chan) (t : Thr), (thr State.reset c t).run = false ∧ quadUp State.reset c = false) ∧
  (∀ n, maskOf State.reset n = true ∧ pendOf State.reset n = false ∧ prioOf State.reset n = 0)

/-- A write of PWR_DOMAIN_CTRL with `v` changes bit `d` of ON alone. -/
def ChangesOn (d : Nat) (v : W64) (s : State) : Prop :=
  1 ≤ d ∧ domThere s d = true ∧ bit v d = !bit s.pwr.on d ∧ bit v 32 = s.pwr.ret ∧
  ∀ k, 1 ≤ k → domThere s k = true → k ≠ d → bit v k = bit s.pwr.on k

/-- A wake of domain `d` came at this TIME, and the domain is ON or powering up (R517). -/
def WokeNow (d : Nat) (s : State) : Prop := (domSt s d = .on ∨ domSt s d = .requested) ∧ (d, s.time) ∈ s.pwr.woke

/-- A write of PWR_DOMAIN_CTRL with `v` changes RET alone. -/
def ChangesRet (v : W64) (s : State) : Prop :=
  bit v 32 = !s.pwr.ret ∧ ∀ k, 1 ≤ k → domThere s k = true → bit v k = bit s.pwr.on k

/-- No grant that a cold reset asked back is still to fall (R508): a grant without its request is one of a domain that
drains. -/
def NoStaleGrant (s : State) : Prop :=
  ∀ k, 1 ≤ k → k < 20 → gnt s k = true → req s k = false → domSt s k = .draining

/-- The state with the power sequencer's record changed. -/
def withPwr (f : Pwr → Pwr) (s : State) : State := { s with pwr := f s.pwr }

/-- An auto-wake source of domain `d` met it with its power. -/
def metWake (d : Nat) (s : State) : State :=
  withPwr (fun p => { p with woke := if bit p.wakeEn d then tput d s.time p.woke else p.woke }) s

/-- The state with the CH_DIE fields of context `j` replaced. -/
def withDie (c : Chan) (j : Ctx) (n : DieCtl) (s : State) : State :=
  modChan c (fun ch => { ch with ctl := { ch.ctl with die := tset {} j.toNat n ch.ctl.die } }) s

/-- CH_PATCH: the fields of a written word are out of range (R173). -/
abbrev PatchBad (v : W64) : Prop :=
  bits v 45 13 = 0 ∨ (if bits v 58 1 = 1 then 256 else 4096) < bits v 33 12 + bits v 45 13 ∨
  1048576 < bits v 13 20 + (if bits v 58 1 = 1 then bits v 45 13 else 2 * bits v 45 13)

/-- R84, R514, R516, R519: grants that rise and fall, and quiescence (log entries 78, 89). -/
def PowerHandshakes : Prop :=
  ∀ (d : Nat) (s : State), 1 ≤ d → d < 20 →
    (req s d = true → gnt s d = false → ∀ x, x = withPwr (fun p => { p with
        gnt := withBit p.gnt d true, iso := withBit p.iso d false }) s →
      (d = 1 → exec (.pwrGrantRise d) s = .next (grantAll x)) ∧
      (d = 2 ∨ d = 3 → exec (.pwrGrantRise d) s = .next (softLook (upDone d x))) ∧
      (4 ≤ d → exec (.pwrGrantRise d) s = .next (withPwr (fun p => { p with loadQ := p.loadQ ++ [d - 4] })
        ((chansOf (d - 4)).foldl (fun s c => clearChannel c s) x)))) ∧
    (req s d = false ∨ gnt s d = true → exec (.pwrGrantRise d) s = .next s) ∧
    (req s d = false → gnt s d = true →
      (domSt s d ≠ .draining → exec (.pwrGrantFall d) s =
        .next (runWants (withPwr (fun p => { p with gnt := withBit p.gnt d false }) s))) ∧
      (2 ≤ d → domSt s d = .draining → dueOf s d = [] → bit s.pwr.noOut d = false →
        exec (.pwrGrantFall d) s = .next (withPwr (fun p => { p with
          gnt := withBit p.gnt d false, outcome := tput d 1 p.outcome, noOut := withBit p.noOut d false,
          st := tput d .off p.st }) s))) ∧
    (req s d = true ∨ gnt s d = false → exec (.pwrGrantFall d) s = .next s) ∧
    (domSt s d = .draining → bit s.pwr.iso d = false → s.gctl.boot = .ready → quiet s d = true →
      (d = 1 → s.pwr.retDrain = false → exec (.quiescence d) s = .next (isolate 1 (stgWithdraw s))) ∧
      (d = 1 → s.pwr.retDrain = true → exec (.quiescence d) s = .next (withPwr (fun p => { p with
        iso := withBit p.iso 1 true, retReq := true }) (stgWithdraw s))) ∧
      (d = 2 ∨ d = 3 → exec (.quiescence d) s = .next (softLook (withPwr (fun p => { p with
        iso := withBit p.iso d true, req := withBit p.req d false }) s))) ∧
      (4 ≤ d → exec (.quiescence d) s = .next (isolate d ((chansOf (d - 4)).foldl (fun s c => saveUid c s) s)))) ∧
    (quiet s d = false → exec (.quiescence d) s = .next s)

/-- R385, R431, R446, R508, R514-R516: the loader, the end of STG's start, and retention, whose grant after a cold reset
only falls; PWR_REQ[1] and PWR_GNT[1] stand through it (log entries 19, 81). Requests that wait for the end of one in progress
are log entry 178. -/
def PowerUpWork : Prop :=
  ∀ (s : State),
    (∀ q : BitVec 4, s.pwr.loadQ.head? = some q.toNat → s.gctl.boot = .ready → s.prm.op = none →
      ∀ x, x = withPwr (fun p => { p with loadQ := p.loadQ.tail }) s →
      (∀ r y, checkImage false q.toNat x = (.inl r, y) → exec (.quadLoad q) s = .next (refuseLoad false q.toNat r y)) ∧
      (∀ mw y, checkImage false q.toNat x = (.inr mw, y) →
        (∀ r u, checkImage true q.toNat y = (.inl r, u) → exec (.quadLoad q) s = .next (refuseLoad true q.toNat r u)) ∧
        (∀ pw u, checkImage true q.toNat y = (.inr pw, u) → exec (.quadLoad q) s = .next (quadRuns q.toNat (loadProgram q pw
          ((chansOf q.toNat).foldl (fun s c => loadMicro c mw s) u)))))) ∧
    (∀ q : BitVec 4, s.pwr.loadQ.head? ≠ some q.toNat ∨ s.gctl.boot ≠ .ready → exec (.quadLoad q) s = .next s) ∧
    (domSt s 1 = .requested → powered s 1 = true → exec .stgInitEnd s =
      .next (upDone 1 (rebuildPools (retireForce (applySpares { s with stg := {} }))))) ∧
    (domSt s 1 ≠ .requested → exec .stgInitEnd s = .next s) ∧
    (s.pwr.retReq = true → s.pwr.retGnt = false → dueOf s 1 = [] → exec (.retGrant true) s = .next (withPwr (fun p => { p with
        retGnt := true, retained := true, retDrain := false, st := tput 1 .off p.st, outcome := tput 1 1 p.outcome }) s)) ∧
    (s.pwr.retReq = false → s.pwr.retGnt = true → s.pwr.retained = false ∨ domSt s 1 ≠ .requested →
      exec (.retGrant false) s = .next (withPwr (fun p => { p with retGnt := false }) s)) ∧
    (s.pwr.retReq = false → s.pwr.retGnt = true → s.pwr.retained = true → domSt s 1 = .requested →
      s.intg.inForce = s.intg.retired →
      ∃ t, exec (.retGrant false) s = .next t ∧ t.pwr.retGnt = false ∧ t.pwr.retained = false ∧ t.stg = s.stg ∧
        (dueOf s 1 = [] → domSt t 1 = .on)) ∧
    (∀ b, s.pwr.retReq ≠ b ∨ s.pwr.retGnt = b → exec (.retGrant b) s = .next s)

/-- R59, R173, R200-R203, R216, R217: CH_PATCH, CH_FENCE_CFG, CH_FENCE_DATA, CH_DIE and CH_PINCTL. GO, FILL and the other
fields act in the form that covers them; the rest of the register stays as it was. -/
def ChannelRegisters : Prop :=
  ∀ (c : Chan) (v : W64) (s x : State), PortFree s → x = atPort s → quadUp s c = true →
    (∀ a z, a = .full ∨ a = .high → z = stored a (patchWord (chan s c).reg) v →
      ((chan s c).reg.pState = 0 → exec (.chPatchGo c a v) s = wrote (modReg c (fun r => { r with
        pDisp := decide (bits z 58 1 = 1), pCount := BitVec.ofNat 13 (bits z 45 13),
        pTarget := BitVec.ofNat 12 (bits z 33 12), pSrc := BitVec.ofNat 20 (bits z 13 20),
        pState := if PatchBad z then 0 else if (chan s c).cur = none then 2 else 1,
        pResult := if PatchBad z then 3 else r.pResult }) x)) ∧
      ((chan s c).reg.pState ≠ 0 → exec (.chPatchGo c a v) s = wrote x)) ∧
    exec (.chPatchGo c .low v) s = wrote x ∧
    (∀ a z, Word a → z = stored a (fenceCfg (chan s c)) v → exec (.fenceFill c a v) s = wrote (modChan c (fun ch => { ch with
      ctl := { ch.ctl with fill := BitVec.ofNat 16 (bits z 46 16), ebLog2 := BitVec.ofNat 4 (bits z 40 4),
                           ctxLog2 := BitVec.ofNat 3 (bits z 34 3), fBase := BitVec.ofNat 14 (bits z 12 14) },
      reg := { ch.reg with filling := ch.reg.filling || high a } }) x)) ∧
    exec (.chFenceDataRead c .high) s = returns 0 x ∧ exec (.chFenceDataWrite c .high v) s = wrote x ∧
    (∀ j, exec (.chDieWrite c j .high v) s = wrote x) ∧ exec (.chPinctlWrite c .high v) s = wrote x ∧
    (∀ a, a = .full ∨ a = .low →
      (fenceAt s c = none → exec (.chFenceDataRead c a) s = returns 0xFFFF x ∧
        exec (.chFenceDataWrite c a v) s = wrote x) ∧
      (∀ j f, fenceAt s c = some (j, f) →
        (∀ r, r = fenceRead c 0 j f x → exec (.chFenceDataRead c a) s = returns (nat64 r.1.toNat) r.2) ∧
        exec (.chFenceDataWrite c a v) s = wrote (fenceWrite c 0 j f (BitVec.ofNat 16 (bits v 0 16)) x))) ∧
    (∀ (a : Acc) (j : Ctx) (y : State), a = .full ∨ a = .low → y = withDie c j {
        dstate := BitVec.ofNat 2 (bits v 0 2), fenceEn := bit v 12,
        plane := BitVec.ofNat 2 (bits v 16 2), page := BitVec.ofNat 4 (bits v 20 4) } x →
      ((dieCtl s c j).dstate = 2 → bits v 0 2 = 1 → exec (.chDieWrite c j a v) s = wrote (plbResetDie c j y)) ∧
      ((dieCtl s c j).dstate ≠ 2 ∨ bits v 0 2 ≠ 1 → exec (.chDieWrite c j a v) s = wrote y)) ∧
    (∀ a, a = .full ∨ a = .low → exec (.chPinctlWrite c a v) s = wrote (atRest c (modChan c (fun ch => { ch with
      ctl := { ch.ctl with wpLevel := bit v 0 }, reg := { ch.reg with wpPend := true } }) x)))

/-- R174, R216: a patch that waits copies from the boundary on and ends; a fill ends (log entries 22, 83, 84). -/
def PatchAndFillEnd : Prop :=
  ∀ (c : Chan) (s : State) (r : ChReg), r = (chan s c).reg →
    (r.pState = 1 → (chan (leaveBus c s) c).reg.pState = 2) ∧
    (r.pState = 2 → (chan s c).cur = none → s.prm.op = none →
      ∀ k, k = patchWords c r.pDisp r.pCount.toNat r.pSrc.toNat r.pTarget.toNat s →
        exec (.patchCopy c) s = .next (dopRetries c (modReg c (fun r => { r with
          pState := 0, pResult := if k.1 then 1 else 2, patches := if k.1 then satInc r.patches else r.patches }) k.2))) ∧
    (r.pState ≠ 2 ∨ (chan s c).cur ≠ none ∨ s.prm.op ≠ none → exec (.patchCopy c) s = .next s) ∧
    (r.filling = true → stgOn s = true → exec (.fenceFillEnd c) s =
      .next (dopRetries c (modReg c (fun r => { r with filling := false }) (fillRegion c s)))) ∧
    (r.filling = true → stgOn s = false → exec (.fenceFillEnd c) s =
      .next (dopRetries c (modReg c (fun r => { r with filling := false }) s))) ∧
    (r.filling = false → exec (.fenceFillEnd c) s = .next s)

/-- R45, R46, R49, R58: writes of the calibration set. -/
def CalRecordWrites : Prop :=
  ∀ (a : Acc) (w : Nat) (v z : W64) (s x : State), PortFree s → Word a → x = atPort s → z = stored a (readSet w s) v → 32 ≤ w → w < 20512 →
    (∀ (c : Chan) (k : Nat), w = 32 + 64 * c.toNat + k → k < 64 → chanThere s c = true →
      ((chRec s c).st = 1 → quadUp s c = true → exec (.calRecordWrite w a v) s =
        wrote (post 131078 { x with cal := { s.cal with wreject := true } })) ∧
      ((chRec s c).st ≠ 1 ∨ quadUp s c = false → exec (.calRecordWrite w a v) s = wrote (atRest c (staleCh c
        (modChRec c (fun r =>
          if k = 3 then { r with phy := BitVec.ofNat 24 (bits z 0 24) }
          else if 9 ≤ k ∧ k ≤ 39 then { r with dly := tset 0 (k - 8) (BitVec.ofNat 32 (bits z 0 32)) r.dly }
          else r) x))))) ∧
    (∀ i k, w = 4128 + 4 * i + k → k < 4 → i < 4096 → chanThere s (BitVec.ofNat 6 (i / 64)) = true →
      ((dieRec s i).st = 1 → quadUp s (BitVec.ofNat 6 (i / 64)) = true → exec (.calRecordWrite w a v) s =
        wrote (post 131078 { x with cal := { s.cal with wreject := true } })) ∧
      ((dieRec s i).st ≠ 1 ∨ quadUp s (BitVec.ofNat 6 (i / 64)) = false → exec (.calRecordWrite w a v) s =
        wrote (staleDie i (modDieRec i (fun r =>
          if k = 0 then { r with mts := BitVec.ofNat 16 (bits z 32 16), iface := BitVec.ofNat 4 (bits z 4 4) }
          else if k = 1 then { r with w1 := BitVec.ofNat 48 (bits z 0 48) }
          else if k = 2 then { r with deskew := z } else r) x))))

/-- R386, R445: INT_BANK_RETIRE and the withholding of its buffers (log entry 88). -/
def BankRetirement : Prop :=
  ∀ (a : Acc) (v : W64) (s x : State), PortFree s → Word a → x = { atPort s with intg := { s.intg with
      retired := s.intg.retired ||| BitVec.ofNat 16 (bits (given a v) 0 16) } } →
    (stgOn s = false → exec (.intBankRetireWrite a v) s = wrote x) ∧
    (stgOn s = true → x.intg.retired = s.intg.inForce → exec (.intBankRetireWrite a v) s = wrote x) ∧
    (stgOn s = true → x.intg.retired ≠ s.intg.inForce → ∃ t, exec (.intBankRetireWrite a v) s = wrote t ∧
      t.intg.inForce = x.intg.retired ∧ ∀ k < 6, (pool t k).busy = ((pool s k).enable || (pool s k).busy)) ∧
    (∀ k y, k < 6 → y = modPool k (fun p => { p with
        free := p.free.filter (fun i => !withheld s k i), busy := false }) s →
      ((pool s k).busy = true → exec (.poolWithholdEnd k) s =
        .next (serveWaiting (lowCheck k (pool s k).free.length y))) ∧
      ((pool s k).busy = false → exec (.poolWithholdEnd k) s = .next s))

/-- R59, R437, R438: the split-access window, whose 32-bit forms reach the four bytes at `p + lo`. -/
def SplitWindow : Prop :=
  ∀ (a : Acc) (o : BitVec 21) (v : W64) (s x : State) (p lo n : Nat), PortFree s → Word a → x = atPort s →
    o.toNat % 8 = 0 → p = s.intg.sel.toNat * 2097152 + o.toNat → lo = (if a = .high then 4 else 0) →
    n = (if a = .full then 8 else 4) →
    (stgOn s = false ∨ s.intg.view = 0 → exec (.splitWindowRead o a) s = returns 0 x ∧
      exec (.splitWindowWrite o a v) s = wrote x) ∧
    (stgOn s = true → s.intg.view ≠ 0 → bit s.intg.inForce (p / 4194304 % 16) = true →
      exec (.splitWindowRead o a) s = returns 0 (hit 1 x) ∧ exec (.splitWindowWrite o a v) s = wrote (hit 1 x)) ∧
    (stgOn s = true → bit s.intg.inForce (p / 4194304 % 16) = false →
      (s.intg.view = 1 →
        (∀ r, r = readMem .stg (p + lo) n rqPort x →
          exec (.splitWindowRead o a) s = returns (nat64 (number (r.1.map (·.1)) * 256 ^ lo)) r.2) ∧
        exec (.splitWindowWrite o a v) s =
          wrote (writeMem .stg (p + lo) (lowBytes n (nat64 (v.toNat / 256 ^ lo))) rqPort x)) ∧
      (s.intg.view = 2 → exec (.splitWindowRead o a) s = returns
        (nat64 (number ((List.range 8).map fun i => rawByte s .stg (p + i))) &&& covered a) x ∧
        ∃ t, exec (.splitWindowWrite o a v) s = wrote t ∧
          (∀ i, lo ≤ i → i < lo + n → rawByte t .stg (p + i) = BitVec.ofNat 8 (bits v (8 * i) 8)) ∧
          (∀ i < 8, parityBit t (p + i) = parityBit s (p + i)) ∧
          (∀ q, q < p + lo ∨ p + lo + n ≤ q → rawByte t .stg q = rawByte s .stg q)) ∧
      (s.intg.view = 3 → (tget false (p / 512) s.stg.group = false →
          exec (.splitWindowRead o a) s = returns (checkBits s p &&& covered a) x) ∧
        (tget false (p / 512) s.stg.group = true → ∃ y,
          exec (.splitWindowRead o a) s = returns (checkBits y p &&& covered a) y ∧
          ∀ k < 8, markOf y .stg (p / 512 * 512 + 64 * k) = true) ∧
        (a = .high → exec (.splitWindowWrite o a v) s = wrote x) ∧
        (a ≠ .high → ∃ t, exec (.splitWindowWrite o a v) s = wrote t ∧
          (∀ i < 8, parityBit t (p + i) = bit v i) ∧ markOf t .stg p = bit v 8 ∧
          (∀ q, rawByte t .stg q = rawByte s .stg q))))

/-- The state with the Primer store's record changed. -/
def withPrm (f : Prm → Prm) (s : State) : State := { s with prm := f s.prm }

/-- The commands of PRM_CMD other than NOP and SUSPEND, with the NEST states that accept each (R454). -/
def prmTable (code : BitVec 4) (a : Acc) : List (Instr × List Nat) :=
  [(.prmRead a, [0, 3, 5, 6]), (.prmProgram a, [0, 3]), (.prmErase a, [0]), (.prmResume a, [3, 5, 6]),
   (.prmReadFactory a, [0, 3, 5, 6]), (.prmRotate a, [0, 3]), (.prmEraseVerify a, [0, 3, 5, 6]),
   (.prmReservedCmd code a, [0, 1, 2, 3, 4, 5, 6])]

/-- A record of the journal at its next word, SEQ taken (R459). -/
def recordAt (o : POp) (typ : BitVec 4) (arg sector : BitVec 12) (s : State) : State :=
  withPrm (fun p => { p with
    jPos := p.jPos + 1, jSeq := p.jSeq + 1,
    op := some { o with
      cur := some (256 * p.jSector + p.jPos, withParity (recWord typ p.jSeq arg sector)), pulses := 0,
      again := some p.jSeq } }) s

/-- The journal sector that follows the current one, in rotation. -/
def nextJournal (s : State) : Nat := 4092 + (s.prm.jSector - 4092 + 1) % 4

/-- The jobs of the journal's move to its next sector: a CARRY for each open intent recorded there, JERASE, the erase, the
JHEAD (R459). -/
def journalMove (s : State) : List PJob :=
  (s.prm.jOpen.filterMap fun e =>
    if e.2 / 256 = nextJournal s then some (.record 6 0 (BitVec.ofNat 12 e.1) true) else none) ++
  [.record 5 0 (BitVec.ofNat 12 (nextJournal s)) true, .erase (nextJournal s), .jhead (nextJournal s)]

/-- What the first record of operation `o` does (R459): it takes the next word of the journal sector; where only the 17 kept
words are left, the journal moves first, its own first record taking the word; with none of these left it is not written
(log entry 127). -/
def Recorded (o : POp) (s : State) (out : State → Prop) (fails : Prop) : Prop :=
  ∀ typ arg k rest, o.jobs = .record typ arg k false :: rest →
    (s.prm.jPos ≤ 238 → out (recordAt o typ arg k s)) ∧
    (∀ ty ar se tl, 238 < s.prm.jPos → s.prm.jPos ≤ 255 → journalMove s = .record ty ar se true :: tl →
      out (recordAt { o with jobs := journalMove s ++ o.jobs, tries := 0, held := o.tries } ty ar se s)) ∧
    (255 < s.prm.jPos → fails)

/-- The Primer command ends with RESULT `r`. -/
def prmEnds (r : BitVec 4) (s : State) : State :=
  withPrm (fun p => { p with op := none, suspend := false, result := r }) s

/-- R454, R455: commands of PRM_CMD that are refused, and with which RESULT. -/
def PrimerRefusals : Prop :=
  ∀ (a : Acc) (code : BitVec 4) (s x : State), PortFree s → a = .full ∨ a = .low → x = atPort s → 9 ≤ code.toNat →
    (∀ e ∈ (.prmNop .high, []) :: (.prmSuspend .high, []) :: prmTable code .high, exec e.1 s = wrote x) ∧
    exec (.prmNop a) s = wrote x ∧
    (∀ e ∈ prmTable code a, s.prm.op ≠ none → exec e.1 s = wrote (withPrm (fun p => { p with refused := true }) x)) ∧
    (∀ e ∈ prmTable code a, s.prm.op = none → prmNest s ∉ e.2 →
      exec e.1 s = wrote (withPrm (fun p => { p with result := 11 }) x)) ∧
    (s.prm.op ≠ none → exec (.prmSuspend a) s = wrote (withPrm (fun p => { p with suspend := true }) x)) ∧
    (s.prm.op = none → exec (.prmSuspend a) s = wrote (withPrm (fun p => { p with result := 11 }) x)) ∧
    (s.prm.op = none → exec (.prmReservedCmd code a) s = wrote (withPrm (fun p => { p with result := 13 }) x)) ∧
    (prmTarget s = none → prmNest s = 0 → ∀ i ∈ [Instr.prmRead a, .prmProgram a, .prmErase a, .prmEraseVerify a],
      exec i s = wrote (withPrm (fun p => { p with result := 12 }) x))

/-- The operation waits for the release of the detector: no word and no SEQ is taken (R458). -/
def awaits (o : POp) (s : State) : State := withPrm (fun p => { p with op := some { o with cur := none, pulses := 0 } }) s

/-- R454-R466: READ, ERASE_VERIFY, PROGRAM, ERASE, RESUME, READ_FACTORY and ROTATE (log entries 70, 72, 127). While the
detector is tripped a command is accepted and waits (log entry 74). -/
def PrimerCommands : Prop :=
  ∀ (a : Acc) (w : Nat) (s x : State), PortFree s → a = .full ∨ a = .low → x = atPort s →
    (s.prm.op = none → prmTarget s = some w →
      (exec (.prmRead a) s = wrote (withPrm (fun p => { p with
        data := rawData (prmRaw s w), result := if rawBad (prmRaw s w) = 0 then 1 else 5 }) x)) ∧
      (exec (.prmEraseVerify a) s = wrote (withPrm (fun p => { p with
        data := nat64 (zeroCount s (w / 256)), result := 1 }) x)) ∧
      (∀ r, prmNest s = 0 ∨ prmNest s = 3 → r = (if prmProtected s (w / 256) then some 3 else if prmSuspect s (w / 256) then some 4
            else if prmRaw s w ≠ BitVec.allOnes 72 then some 2
            else if s.prm.data = BitVec.allOnes 64 then some 1 else none : Option (BitVec 4)) →
        (∀ k, r = some k → exec (.prmProgram a) s = wrote (withPrm (fun p => { p with result := k }) x)) ∧
        (r = none → ∀ d, d = withParity s.prm.data →
          (s.prm.tripped = false → exec (.prmProgram a) s = wrote (withPrm (fun p => { p with
            op := some { kind := .program, jobs := [.word w d], cur := some (w, d) } }) x)) ∧
          (s.prm.tripped = true → exec (.prmProgram a) s =
            wrote (awaits { kind := .program, jobs := [.word w d] } x)))) ∧
      (∀ k r, prmNest s = 0 → k = w / 256 → r = (if prmProtected s k then some 3 else if s.pfail then some 9
            else if 16 ≤ s.prm.jOpen.length ∧ ∀ e ∈ s.prm.jOpen, e.1 ≠ k then some 10 else none : Option (BitVec 4)) →
        (∀ q, r = some q → exec (.prmErase a) s = wrote (withPrm (fun p => { p with result := q }) x)) ∧
        (r = none → ∀ o : POp, o = { kind := .erase k, jobs := [.record 1 0 (BitVec.ofNat 12 k) false, .erase k,
              .record 2 0 (BitVec.ofNat 12 k) false] } →
          (s.prm.tripped = false → Recorded o x (fun y => exec (.prmErase a) s = wrote y)
            (sectState s k ≠ 1 → s.prm.winDue = false → exec (.prmErase a) s = wrote (prmEnds 7 x))) ∧
          (s.prm.tripped = true → exec (.prmErase a) s = wrote (awaits o x))))) ∧
    (s.prm.op = none → ∀ o rest y, s.prm.susp = o :: rest →
      y = withPrm (fun p => { p with op := some o, susp := rest, result := 1 }) x →
      (o.cur ≠ none ∨ o.pulses ≠ 0 → exec (.prmResume a) s = wrote y) ∧
      (o.cur = none → o.pulses = 0 → exec (.prmResume a) s = wrote (beginJob o y))) ∧
    (s.prm.op = none → exec (.prmReadFactory a) s = wrote (withPrm (fun p => { p with
      data := factoryWord s (bits p.word.toNat 0 8), result := 1 }) x)) ∧
    (prmNest s = 0 ∨ prmNest s = 3 → ∀ k h r, k = s.prm.winBase.toNat + (s.prm.winHead.toNat + 64) % 72 →
      h = BitVec.ofNat 7 ((s.prm.winHead.toNat + 1) % 72) →
      r = (if s.prm.winEn = false then some 12 else if prmProtected s k then some 3 else if prmSuspect s k then some 4
            else if zeroCount s k ≠ 0 then some 2 else none : Option (BitVec 4)) →
      (∀ q, r = some q → exec (.prmRotate a) s = wrote (withPrm (fun p => { p with result := q }) x)) ∧
      (r = none → ∀ o : POp, o = { kind := .rotate h, jobs := [.record 3 (h.setWidth 12) s.prm.winBase false] } →
        (s.prm.tripped = false → Recorded o x (fun y => exec (.prmRotate a) s = wrote y)
          (s.prm.winDue = false → exec (.prmRotate a) s = wrote (prmEnds 6 x))) ∧
        (s.prm.tripped = true → exec (.prmRotate a) s = wrote (awaits o x))))

/-- R458, R459: how the jobs of an operation begin, none while the detector is tripped, and what a job leaves that is
verified: a record of a move takes the kept words, a JHEAD makes its sector the journal's, an erase leaves its sector
erased. A record of any type whose word failed is written again with its SEQ, in three words at most (the model's reading,
log entry 71: R457 says it of INTENT). -/
def JournalJobs : Prop :=
  ∀ (o : POp) (s : State),
    (s.prm.tripped = true → beginJob o s = awaits o s) ∧
    (s.prm.tripped = false → o.again = none → Recorded o s (fun y => beginJob o s = y) True) ∧
    (∀ typ arg k rest, s.prm.tripped = false → o.again = none → o.jobs = .record typ arg k true :: rest →
      s.prm.jPos ≤ 255 → beginJob o s = recordAt o typ arg k s) ∧
    (∀ k rest, s.prm.tripped = false → o.jobs = .erase k :: rest → beginJob o s = withPrm (fun p => { p with
      op := some { o with cur := none, pulses := 0 } }) s) ∧
    (∀ k rest, s.prm.tripped = false → o.jobs = .jhead k :: rest → beginJob o s = withPrm (fun p => { p with
      jSeq := p.jSeq + 1, op := some { o with
        cur := some (256 * k, withParity (recWord 4 p.jSeq 0 (BitVec.ofNat 12 k))), pulses := 0 } }) s) ∧
    (s.prm.op = some o → s.prm.tripped = false → s.prm.suspend = false → s.pfail = false → ∀ rest, rest ≠ [] →
      ∀ p : POp, p = { o with jobs := rest, tries := 0, cur := none, pulses := 0, again := none } →
      (∀ k, o.jobs = .erase k :: rest → exec (.prmPulseEnd true) s = .next (beginJob p (withPrm (fun q => { q with
        op := some p, arr := q.arr.filter fun e => decide (e.1 / 256 ≠ k) }) s))) ∧
      (∀ k w d, o.jobs = .jhead k :: rest → o.cur = some (w, d) → ∀ h : POp, h = { p with tries := o.held, held := 0 } →
        exec (.prmPulseEnd true) s = .next (beginJob h (withPrm (fun q => { q with
          op := some h, arr := tset (BitVec.allOnes 72) w (prmRaw s w &&& d) q.arr, jSector := k, jPos := 1 }) s))) ∧
      (∀ arg k w d, o.jobs = .record 5 arg k true :: rest → o.cur = some (w, d) →
        exec (.prmPulseEnd true) s = .next (beginJob p (withPrm (fun q => { q with
          op := some p, arr := tset (BitVec.allOnes 72) w (prmRaw s w &&& d) q.arr }) s)))) ∧
    (∀ typ arg k rest w d q, s.prm.op = some o → s.prm.tripped = false → s.prm.suspend = false → s.pfail = false →
      o.jobs = .record typ arg k false :: rest → o.cur = some (w, d) → 7 ≤ o.pulses → o.tries < 2 → s.prm.jPos ≤ 238 →
      o.again = some q → q + 1 = s.prm.jSeq →
      exec (.prmPulseEnd false) s = .next (withPrm (fun p => { p with
        jPos := p.jPos + 1, op := some { o with
          tries := o.tries + 1, pulses := 0,
          cur := some (256 * p.jSector + p.jPos, withParity (recWord typ q arg k)) } })
        (failWord (.record typ arg k false) w d s)))

/-- R454, R456-R458: pulses and the detector. A word left by PROG_FAIL is not blank (R456). After the detector's release a
job that waits begins, and until then none does (log entries 75, 127). -/
def PulseEnds : Prop :=
  ∀ (good : Bool) (o : POp) (s : State),
    (s.prm.op = none ∨ s.prm.tripped = true → exec (.prmPulseEnd good) s = .next s) ∧
    (s.prm.op = some o → s.prm.tripped = false → s.prm.suspend = false → s.prm.winDue = false →
      (∀ w d, o.kind = .program → o.jobs = [.word w d] → o.cur = some (w, d) →
        (exec (.prmPulseEnd true) s = .next (prmEnds 1 (withPrm (fun p => { p with
          arr := tset (BitVec.allOnes 72) w (prmRaw s w &&& d) p.arr }) s))) ∧
        (o.pulses < 7 → exec (.prmPulseEnd false) s = .next (withPrm (fun p => { p with
          op := some { o with pulses := o.pulses + 1 } }) s)) ∧
        (7 ≤ o.pulses → exec (.prmPulseEnd false) s = .next (prmEnds 6 (failWord (.word w d) w d s))) ∧
        (d ≠ BitVec.allOnes 72 → prmRaw (failWord (.word w d) w d s) w ≠ BitVec.allOnes 72)) ∧
      (s.pfail = false → ∀ k r p, o.kind = .erase k → o.jobs = [.erase k, r] →
        p = { o with jobs := [r], tries := 0, cur := none, pulses := 0, again := none } →
        (exec (.prmPulseEnd true) s = .next (beginJob p (withPrm (fun q => { q with
          op := some p, arr := q.arr.filter fun e => decide (e.1 / 256 ≠ k) }) s))) ∧
        (o.pulses < 39 → exec (.prmPulseEnd false) s = .next (withPrm (fun p => { p with
          op := some { o with pulses := o.pulses + 1 } }) s)) ∧
        (39 ≤ o.pulses → sectState s k = 1 → exec (.prmPulseEnd false) s = .next (prmEnds 7 (withPrm (fun p => { p with
          sect := tset 0 k 2 p.sect }) (cutSector k s)))))) ∧
    (∃ t, exec .brownOutDetectorTrip s = .next t ∧ t.prm.tripped = true ∧ t.prm.op = none ∧ t.prm.susp = [] ∧
      t.prm.suspend = false ∧ t.prm.result = (if ∃ o ∈ s.prm.op.toList ++ s.prm.susp, o.kind ≠ .window then 8 else s.prm.result)) ∧
    (s.brownout = false → s.gctl.boot ≠ .inReset → s.prm.tripped = true →
      ∀ x, x = withPrm (fun p => { p with tripped := false }) s →
      (s.prm.op = none ∨ (s.prm.op = some o ∧ (o.cur ≠ none ∨ o.pulses ≠ 0)) →
        exec .brownOutDetectorRelease s = .next x) ∧
      (s.prm.op = some o → o.cur = none → o.pulses = 0 → exec .brownOutDetectorRelease s = .next (beginJob o x))) ∧
    (s.brownout = true ∨ s.gctl.boot = .inReset ∨ s.prm.tripped = false → exec .brownOutDetectorRelease s = .next s)

/-- The running operation has become the innermost suspended one, as `p` (R462). -/
def Suspended (p : POp) (s t : State) : Prop :=
  t.prm.op = none ∧ t.prm.susp = p :: s.prm.susp ∧ t.prm.suspend = false ∧ t.prm.result = 1 ∧ t.prm.sect = s.prm.sect

/-- Sector `k` after erase pulses: a bit that each value listed for its word has stays 1, and no other sector changes. -/
def PartErased (k : Nat) (s t : State) : Prop :=
  (∀ w i, (∀ x, (w, x) ∈ s.prm.arr → x.getLsbD i = true) → i < 72 → (prmRaw t w).getLsbD i = true) ∧
  (∀ w, w / 256 ≠ k → prmRaw t w = prmRaw s w)

/-- R458, R462: a pulse at whose end a SUSPEND takes effect, and one at whose end PFAIL stops an erase, which ends CUT with
its sector SUSPECT. The bits that its pulses have left so far are in the array. -/
def PulsesThatStop : Prop :=
  ∀ (o : POp) (s : State), s.prm.op = some o → s.prm.tripped = false → s.prm.winDue = false →
    (s.prm.suspend = true → ∀ w d, o.kind = .program → o.jobs = [.word w d] → o.cur = some (w, d) →
      exec (.prmPulseEnd true) s = .next (prmEnds 1 (withPrm (fun p => { p with
        arr := tset (BitVec.allOnes 72) w (prmRaw s w &&& d) p.arr }) s)) ∧
      (7 ≤ o.pulses → exec (.prmPulseEnd false) s = .next (prmEnds 6 (failWord (.word w d) w d s))) ∧
      (o.pulses < 7 → ∃ t, exec (.prmPulseEnd false) s = .next t ∧ Suspended { o with pulses := o.pulses + 1 } s t ∧
        (∀ i, (prmRaw t w).getLsbD i = true → (prmRaw s w).getLsbD i = true) ∧
        (∀ i, (prmRaw s w).getLsbD i = true → d.getLsbD i = true → (prmRaw t w).getLsbD i = true) ∧
        (∀ u, u ≠ w → prmRaw t u = prmRaw s u))) ∧
    (∀ k r p, o.kind = .erase k → o.jobs = [.erase k, r] →
      p = { o with jobs := [r], tries := 0, cur := none, pulses := 0, again := none } →
      (s.prm.suspend = true → s.pfail = false →
        exec (.prmPulseEnd true) s = .next (withPrm (fun q => { q with
          op := none, susp := p :: q.susp, suspend := false, result := 1,
          arr := q.arr.filter fun e => decide (e.1 / 256 ≠ k) }) s) ∧
        (o.pulses < 39 → ∃ t, exec (.prmPulseEnd false) s = .next t ∧ Suspended { o with pulses := o.pulses + 1 } s t ∧
          PartErased k s t)) ∧
      (s.pfail = true →
        exec (.prmPulseEnd true) s = .next (prmEnds 8 (withPrm (fun q => { q with
          sect := tset 0 k 2 q.sect, arr := q.arr.filter fun e => decide (e.1 / 256 ≠ k) }) s)) ∧
        (o.pulses < 39 → ∃ t, exec (.prmPulseEnd false) s = .next t ∧ t.prm.op = none ∧ t.prm.susp = s.prm.susp ∧
          t.prm.suspend = false ∧ t.prm.result = 8 ∧ t.prm.sect = tset 0 k 2 s.prm.sect ∧ PartErased k s t)))

/-- The state with the Lath's record changed, and with one port's. -/
def withLath (f : Lath → Lath) (s : State) : State := { s with lath := f s.lath }
def withPort (x : BitVec 2) (f : LPort → LPort) (s : State) : State :=
  withLath (fun l => { l with port := tput x.toNat (f (lport s x)) l.port }) s

/-- The commands of arriving frames by TYPE (R476). -/
def frameCmd (x : BitVec 2) (f : Frame) : List (BitVec 4 × Instr) :=
  [(1, .lathRequest x f), (2, .lathData x f), (3, .lathAccept x f), (4, .lathComplete x f), (5, .lathReject x f),
   (6, .lathAbort x f), (7, .lathAbortResult x f), (8, .lathHeartbeat x f), (9, .lathProbe x f),
   (10, .lathProbeReply x f)]

/-- The frame has entered its receive buffer, its SEQ accepted (R478, R479). -/
def inBuffer (x : BitVec 2) (f : Frame) (s : State) : State :=
  withPort x (fun p => { p with rxSeq := f.seq, ackDue := true, rx := p.rx ++ [f] }) s

/-- A frame of this node's is taken whatever DST names: PROBE, and REQUEST at a node without a number (R484, R492). -/
def Mine (s : State) (f : Frame) : Prop := fDst f = s.lath.node ∨ f.typ = 9 ∨ (f.typ = 1 ∧ s.lath.node = 0)

/-- An arrival that enters its buffer: the port is UP, the frame passes its CRC and has the next SEQ (R478). -/
def Accepted (x : BitVec 2) (f : Frame) (s : State) : Prop :=
  isUp s x = true ∧ frameOk f = true ∧ f.seq = (lport s x).rxSeq + 1

/-- No frame but `f`, at port `x`, waits at this node. -/
def Alone (x : BitVec 2) (f : Frame) (s : State) : Prop :=
  x.toNat < 3 ∧ (∀ k : BitVec 2, k.toNat < 3 → (lport s k).rx = if k = x then [f] else []) ∧
  (s.lath.port.map fun p => p.2.rx.length).sum = 1 ∧ s.lath.loop = []

/-- The ports send the LINK frames they owe (R478, R479). -/
def linksSent (s : State) : State := linkOut 2 (linkOut 1 (linkOut 0 s))

/-- The frame stays in its buffer (R485); its sender's timers have started again (R486). -/
def staysIn (x : BitVec 2) (f : Frame) (s : State) : Out :=
  .next (linksSent (heard f.src (fEpoch f) (inBuffer x f s)))

/-- A frame arrives, is accepted and ends at this node, where no other waits; `y` is the state when its meaning
begins, every timer of its sender started again (R478, R482, R486). -/
def Delivered (x : BitVec 2) (f : Frame) (s y : State) : Prop :=
  Accepted x f s ∧ (routeOf s x f = .deliver ∧ routeOf y x f = .deliver) ∧ (Mine s f ∧ Mine y f) ∧
  Alone x f (heard f.src (fEpoch f) (inBuffer x f s)) ∧
  y = withPort x (fun p => { p with rx := [] }) (heard f.src (fEpoch f) (inBuffer x f s))

/-- The frame leaves its buffer and its credits go back (R479); a frame that its meaning sent to this node itself is
taken, and the LINK frames owed are sent. -/
def leaves (x : BitVec 2) (f : Frame) (s : State) : Out :=
  .next (linksSent (lathRun 1 (giveBack x (frameBuf f) (frameCredits f) s)))

/-- A frame of this node without payload, to the node that `f` came from, with its TAG. -/
def answerTo (f : Frame) (typ : BitVec 4) (code : Byte) (s : State) : State :=
  sendNode f.src (mkFrame s typ true f.src (fTag f) code 0 []) s

/-- A LATH_NODE entry that R502 refuses. -/
def NodeRefused (s : State) (i : Nat) (e : LNode) : Prop :=
  e.st = 3 ∨ (e.st = 1 ∧ (e.node = 0 ∨ e.node = s.lath.node ∨
    (∃ k ∈ s.lath.nodes, k.1 ≠ i ∧ k.2.node = e.node ∧ k.2.st = 1) ∨ e.mode ≠ decide (s.lath.topo = 2) ∨
    (e.mode = true ∧ pathValid e.route = false) ∨
    (e.mode = false ∧ (e.route.toNat % 65536 = 0 ∨ 65536 ≤ e.route.toNat ∨ 2 ≤ e.port.toNat))))

/-- The events of a probe's end (R499). -/
def probeOver (r : BitVec 2) (res : W64) (s : State) : State :=
  lathEvent 6 0 0 (withLath (fun l => { l with pBusy := false, pResult := r, pRes := res }) s)

/-- R474, R475, R477-R479, R498: training, NO_LINK, HELLO and LINK (log entries 93-96, 105). -/
def LathLinks : Prop :=
  ∀ (x : BitVec 2) (f : Frame) (s : State) (p : LPort), p = lport s x →
    (∀ r b, p.link = .training r → (s.time - p.since).toNat < 20000 → exec (.linkTrainStep x b) s = .next s) ∧
    (∀ r hello, p.link = .training r → 20000 ≤ (s.time - p.since).toNat →
      hello = (fun r => withPort x (fun p => { p with
        rate := r, link := .hello, sent := p.sent ++ [sealFrame (mkFrame s 11 false 0 0 0 0 (idPayload s))] }) s) →
      (r.toNat < min 2 p.maxRate.toNat → exec (.linkTrainStep x true) s =
        .next (withPort x (fun p => { p with rate := r, link := .training (r + 1), since := s.time }) s)) ∧
      (min 2 p.maxRate.toNat ≤ r.toNat → exec (.linkTrainStep x true) s = .next (hello r)) ∧
      (r = 0 → exec (.linkTrainStep x false) s =
        .next (withPort x (fun p => { p with link := .down, retry := true, since := s.time }) s)) ∧
      (r ≠ 0 → exec (.linkTrainStep x false) s = .next (hello (r - 1)))) ∧
    (p.retry = true → 1000000 ≤ (s.time - p.since).toNat → exec (.linkTrainRetry x) s = .next (trainStart x s)) ∧
    (p.retry = false ∨ (s.time - p.since).toNat < 1000000 → exec (.linkTrainRetry x) s = .next s) ∧
    (p.link = .up → exec (.lathNoLink x) s = .next (trainStart x (linkDown x s))) ∧
    (p.link ≠ .up → exec (.lathNoLink x) s = .next s) ∧
    (f.typ = 11 → frameOk f = true → p.link = .hello ∨ p.link = .up → ∀ w y, w = payloadWord f 0 →
      y = withPort x (fun p => { p with
        link := .up, peer := BitVec.ofNat 16 (bits w 48 16), peerEp := BitVec.ofNat 16 (bits w 32 16) }) s →
      ∀ z, z = heard f.src (fEpoch f) (if p.link = .hello then lathEvent 1 x 0 y else y) →
      exec (.lathHello x f) s = .next (if bits w 48 16 ≠ 0 ∧ admitted z (BitVec.ofNat 16 (bits w 48 16)) = none
        then lathEvent 3 x (BitVec.ofNat 16 (bits w 48 16)) z else z)) ∧
    (f.typ = 11 → frameOk f = false → p.link = .hello ∨ p.link = .up → exec (.lathHello x f) s =
      .next (withPort x (fun p => { p with crcErr := satInc p.crcErr }) s)) ∧
    (f.typ = 12 → frameOk f = true → p.link = .up → ∀ left y,
      left = p.replay.filter (fun g => decide (32768 ≤ (BitVec.ofNat 16 (bits f.word1 48 16) - g.seq).toNat)) →
      y = restart f.src (withPort x (fun p => { p with
        replay := left, replays := if left.length < p.replay.length then 0 else p.replays,
        cred := p.cred.zipIdx.map fun c => c.1 + bits f.word1 (8 * c.2) 8 }) s) →
      (bit f.word1 47 = false ∨ left = [] → exec (.lathLink x f) s = .next (lathGo (pumpLath x y))) ∧
      (bit f.word1 47 = true → left ≠ [] → (lport y x).replays < 8 → exec (.lathLink x f) s =
        .next (lathGo (pumpLath x (withPort x (fun p => { p with
          replays := p.replays + 1, sent := p.sent ++ p.replay }) y)))) ∧
      (bit f.word1 47 = true → left ≠ [] → 8 ≤ (lport y x).replays → exec (.lathLink x f) s =
        .next (lathGo (trainStart x (linkDown x y))))) ∧
    (f.typ = 12 → frameOk f = false → p.link = .up → exec (.lathLink x f) s =
      .next (lathGo (withPort x (fun p => { p with crcErr := satInc p.crcErr, nak := true }) s)))

/-- R476-R479: the LINK frame a port owes: ACK with the highest SEQ accepted, NAK, the credits to return, and a CRC
that its receiver accepts (log entry 126). -/
def LinkFrames : Prop :=
  ∀ (x : BitVec 2) (s : State) (p : LPort) (a b c d : Nat), p = lport s x → p.give = [a, b, c, d] →
    (isUp s x = true → p.ackDue = true ∨ p.nak = true ∨ p.give ≠ [0, 0, 0, 0] → ∃ l : Frame,
      linkOut x s = withPort x (fun p => { p with
        sent := p.sent ++ [l], ackDue := false, nak := false, give := [0, 0, 0, 0] }) s ∧
      l.typ = 12 ∧ l.cls = false ∧ l.payload = [] ∧ l.src = s.lath.node ∧ frameOk l = true ∧
      bits l.word1 48 16 = p.rxSeq.toNat ∧ bit l.word1 47 = p.nak ∧
      bits l.word1 0 8 = a % 256 ∧ bits l.word1 8 8 = b % 256 ∧ bits l.word1 16 8 = c % 256 ∧
      bits l.word1 24 8 = d % 256) ∧
    (isUp s x = false ∨ (p.ackDue = false ∧ p.nak = false ∧ p.give = [0, 0, 0, 0]) → linkOut x s = s) ∧
    (∀ (fuel : Nat) (t : State),
      (lathStep s = none → lathGo s = linksSent s) ∧ (lathStep s = some t → lathRun (fuel + 1) s = lathRun fuel t))

/-- R486, R499: heartbeats, remote timeouts and the probe's timeout (log entry 99). -/
def LathTimers : Prop :=
  ∀ (n : BitVec 16) (tag : BitVec 12) (s : State),
    (∀ b, s.lath.beat.find? (·.1 = n.toNat) = some (n.toNat, b) → s.gctl.halted = false → holdsFrom s n = true →
      b.2 ≤ (s.time - b.1).toNat → exec (.heartbeatTimer n) s = .next (sendNode n (mkFrame s 8 true n 0 0 0 [])
        (withLath (fun l => { l with beat := tput n.toNat (s.time, timeoutNs s / 4) l.beat }) s))) ∧
    (s.gctl.halted = true ∨ holdsFrom s n = false → exec (.heartbeatTimer n) s = .next s) ∧
    (∀ r t, s.lath.table.find? (·.1 = tag.toNat) = some (tag.toNat, r) → r.start = some t →
      ((s.time - t).toNat < r.limit → exec (.remoteTimeout tag) s = .next s) ∧
      (r.limit ≤ (s.time - t).toNat → r.done = false → exec (.remoteTimeout tag) s =
        .next (depart r.node (loseEntry tag.toNat s)))) ∧
    (s.lath.pBusy = true → s.lath.pLimit ≤ (s.time - s.lath.pStart).toNat →
      exec .probeTimeout s = .next (probeOver 2 s.lath.pRes s)) ∧
    (s.lath.pBusy = false ∨ (s.time - s.lath.pStart).toNat < s.lath.pLimit → exec .probeTimeout s = .next s)

/-- The micro-engine of channel `c` has routine `r` of thread `t` on the bus, with no step under way. -/
def OnBus (c : Chan) (t : Thr) (r : Routine) (s : State) : Prop :=
  chanThere s c = true ∧ quadUp s c = true ∧ (chan s c).cur = some t ∧ rtnOf s c t = some r ∧ r.wait = .none

/-- Its next microword is the legal word `w`; the fetch leaves `y` (R155, R170). -/
def StepAt (c : Chan) (t : Thr) (r : Routine) (w : BitVec 128) (s y : State) : Prop :=
  OnBus c t r s ∧ fetchStore c false r.upc.toNat s = (some w, y) ∧ uLegal w = true

/-- The commands of microword steps with their rows; the die sends `d` (R156). -/
def stepCmd (c : Chan) (d : List Byte) : List (URow × List Byte × Instr) :=
  [(.idle, [], .idle c), (.cmd, [], .cmd c), (.addr, [], .addr c), (.din, [], .din c), (.dout, d, .dout c d),
   (.stat, [d.headD 0], .stat c (d.headD 0)), (.trainOut, d, .trainOut c d), (.trainIn, [], .trainIn c),
   (.soft, [], .softHandoff c), (.end_, d, .routineEnd c d)]

/-- Nothing holds the step back: no pump start, no busy decoder, no handoff limit, no guard (R158). -/
def StepFree (c : Chan) (r : Routine) (w : BitVec 128) (s : State) : Prop :=
  (uBus w = 1 → pumpByte s c (srcByte r w) = false) ∧
  (uBus w = 4 → isCoded w = true → ∀ k ∈ (chan s c).decq, k.buf ≠ stepBuf r w) ∧
  (uBus w = 0 → uDpath w = 2 → r.handoffs < 4) ∧
  (isBurst w = true → s.srv.dqEn = true → guarded s = false)

/-- The end of a step: the registers are loaded, and the next address chosen once a decode that the microword tests
has ended (R158, R242). -/
def stepEnds (c : Chan) (t : Thr) (w : BitVec 128) (x : State) : State :=
  let x := modRtn c t (loadRegs w) x
  if uSeq w ≠ 3 ∧ uCsel w = 9 ∧ (rtnOf x c t).any (fun r => decide (r.decodes ≠ 0)) = true
  then modRtn c t (fun r => { r with wait := .cond }) x else chooseNext c t w x

/-- The further reads of a soft handoff: the `r` buffers after the first (R249). -/
def rereads (h : Handoff) (s : State) : List (List Byte) × State :=
  (List.range h.r.toNat).foldl (fun (a : List (List Byte) × State) i =>
    let x := cwRead h.c (h.buf + BitVec.ofNat 3 (i + 1)) 0 (cwLen h.rate.toNat) rqSoft a.2
    (a.1 ++ [plain x.1], x.2)) ([], s)

/-- The routine goes on at address `a`, unless a kill came within the step. -/
def goesTo (c : Chan) (t : Thr) (a : BitVec 12) (x : State) : State := stepDone c t (some a) x

/-- R36, R39, R40, R52, R58: measurement windows, none of which opens before a pending swap, and calibration starts (log
entry 135). -/
def Calibration : Prop :=
  ∀ (c : Chan) (n : Nat) (s : State),
    (chanThere s c = true → quadUp s c = true → (chan s c).tb.open_ = false → (chan s c).tb.pend = none →
      ((chan s c).tb.begun = false ∨ s.cal.period.toNat ≤ 10 ∨
          s.cal.period.toNat * 1000 ≤ (s.time - (chan s c).tb.start).toNat →
        exec (.calWindowOpen c) s = .next (modChan c (fun ch => { ch with tb := { ch.tb with
          open_ := true, line := !(chRec s c).active, start := s.time, begun := true } }) s)) ∧
      ((chan s c).tb.begun = true → 10 < s.cal.period.toNat →
          (s.time - (chan s c).tb.start).toNat < s.cal.period.toNat * 1000 → exec (.calWindowOpen c) s = .next s)) ∧
    (chanThere s c = false ∨ quadUp s c = false ∨ (chan s c).tb.open_ = true ∨ (chan s c).tb.pend ≠ none →
      exec (.calWindowOpen c) s = .next s) ∧
    (quadUp s c = true → (chan s c).tb.open_ = true → ∀ x, x = modChan c (fun ch => { ch with tb := { ch.tb with
        open_ := false } }) s →
      (n < 2500 ∨ 5500 < n → exec (.calMeasureEnd c n) s =
        .next (staleCh c (post 131078 { x with cal := { s.cal with mfault := true } }))) ∧
      (2500 ≤ n → n ≤ 5500 → exec (.calMeasureEnd c n) s =
        .next (atRest c (modChan c (fun ch => { ch with tb := { ch.tb with pend := some (BitVec.ofNat 16 n) } }) x)))) ∧
    (quadUp s c = false ∨ (chan s c).tb.open_ = false → exec (.calMeasureEnd c n) s = .next s) ∧
    (engineRuns s c = true → (chan s c).calDue = true → s.cal.mode = 1 ∨ s.cal.mode = 2 → ∀ e,
      e = progSlot s c (chan s c).ctl.calEntry →
      (bit e 15 = false → exec (.calibrationStart c) s = .next (modChan c (fun ch => { ch with calDue := false }) s)) ∧
      (bit e 15 = true → freeThread s c = none → exec (.calibrationStart c) s = .next s) ∧
      (∀ t, bit e 15 = true → freeThread s c = some t → ∃ y, exec (.calibrationStart c) s = .next y ∧
        (chan y c).calDue = false ∧ (thr y c t).run = true ∧ (thr y c t).calib = true ∧
        (thr y c t).pc.toNat = e.toNat % 32768 ∧ (thr y c t).entry = none ∧ (thr y c t).handler = false)) ∧
    (engineRuns s c = false ∨ (chan s c).calDue = false ∨ s.cal.mode = 0 ∨ s.cal.mode = 3 →
      exec (.calibrationStart c) s = .next s)

/-- The state with the queue engine's record changed. -/
def withQe (f : Qe → Qe) (s : State) : State := { s with qe := f s.qe }

/-- The entry whose command is next on SQ0, with its queue as R322 and R323 let it be named. -/
def AdminAt (op : Nat) (e : Entry) (s : State) : Prop :=
  adminNext s = some e ∧ (eOpcode e).toNat = op ∧ (op = 7 ∨ s.gctl.qmode = true) ∧ adminQ e ≠ 0

/-- The admin commands other than NOP, with their opcodes (R322). -/
def adminTable : List (Nat × Instr) :=
  [(1, .createCq), (2, .createSq), (3, .deleteSq), (4, .deleteCq), (5, .disableSq), (6, .enableSq), (7, .abort), (8, .setArb)]

/-- The command of entry `e` completes with this status and result. -/
def adminEnds (e : Entry) (st : Byte) (res : Nat) (s : State) : Out := .next (finishEntry e.id st (BitVec.ofNat 32 res) s)

/-- A buffer for entry `e` of number `id` with STG on: it is given one, joins the requests that wait, or finds 64 of them
(R328, R378). -/
def Buffered (id : Nat) (e : Entry) (s : State) (out : State → Prop) : Prop :=
  (64 ≤ entryWaits s → out s) ∧
  (entryWaits s < 64 →
    (∀ h y, alloc (poolFor (eDlen e)) true (metWake 1 s) = some (h, y) → out (deliver (.entry id) h y)) ∧
    (alloc (poolFor (eDlen e)) true (metWake 1 s) = none → out (modEntry id (fun e => { e with stage := .waitBuf })
      { metWake 1 s with hawk := { s.hawk with
        waiting := s.hawk.waiting ++ [{ who := .entry id, pool := poolFor (eDlen e), fall := true }] } })))

/-- What becomes of an entry that needs a buffer: it is given one or waits where STG is on, wakes STG, or completes 0x09
(R333). -/
def Placed (id : Nat) (e : Entry) (s : State) (out : State → Prop) : Prop :=
  (unpowered s 1 = false → s.pwr.ret = false → domSt s 1 = .on → Buffered id e s out) ∧
  (unpowered s 1 = true ∨ s.pwr.ret = true →
    (bit s.pwr.wakeEn 1 = true → out (autoWake 1 (modEntry id (fun e => { e with stage := .waitStg }) s))) ∧
    (bit s.pwr.wakeEn 1 = false → e.kind = .host → out (finishEntry id 0x09 0 (freeEntryBuffer e.handle s))))

/-- A slot of the remote table that neither a row nor an entry of the store holds (R485). -/
def FreeSlot (t : BitVec 12) (s : State) : Prop :=
  (∀ r ∈ s.lath.table, r.1 ≠ t.toNat) ∧ ∀ e ∈ s.qe.store, e.slot ≠ some t

/-- R327-R329, R333, R378, R485: fragment tables, with the details of R329, and buffers of entries; an entry for another node
takes its slot first (which one is free: log entry 2). That a table on both sides of a 4,096 B boundary is read in two parts
(R63) is log entry 55; that their first answer is the first part's is the model's choice (log entry 171). -/
def EntryPreparation : Prop :=
  ∀ (id : Nat) (e : Entry) (s : State), entryOf s id = some e → s.gctl.halted = false →
    (∀ m y, takeFm (.frag id) s = some (m, y) → e.stage = .fragRead →
      (∀ r, r = .error ∨ r = .poisoned → exec (.fragmentTableReadDone id r) s =
        .next (pumpEng 0 (finishEntry id 0x10 4 y))) ∧
      (∀ ws vs fs, vs = e.table ++ ws.take (m.len / 8) → fs = fragsOf (eFcount e) vs →
        ((∃ g ∈ y.fm ++ y.qe.wait, g.who = .frag id) → exec (.fragmentTableReadDone id (.words ws)) s =
          .next (pumpEng 0 (modEntry id (fun e => { e with table := vs }) y))) ∧
        ((∀ g ∈ y.fm ++ y.qe.wait, g.who ≠ .frag id) →
          ((∃ f ∈ fs, f.2 = 0) → exec (.fragmentTableReadDone id (.words ws)) s =
            .next (pumpEng 0 (finishEntry id 0x10 2 y))) ∧
          ((∀ f ∈ fs, f.2 ≠ 0) → (fs.map (·.2)).sum ≠ eDlen e → exec (.fragmentTableReadDone id (.words ws)) s =
            .next (pumpEng 0 (finishEntry id 0x10 1 y))) ∧
          ((∀ f ∈ fs, f.2 ≠ 0) → (fs.map (·.2)).sum = eDlen e → exec (.fragmentTableReadDone id (.words ws)) s =
            .next (pumpEng 0 (modEntry id (fun e => { e with frags := fs, stage := .needBuf }) y)))))) ∧
    (e.stage = .needBuf → e.isRem = false ∨ e.slot ≠ none → Placed id e s fun x => exec (.entryBufferAlloc id) s = .next x) ∧
    (e.stage = .needBuf → e.isRem = true → e.slot = none →
      ((∃ t, FreeSlot t s) → ∃ t n x, FreeSlot t s ∧
        x = modEntry id (fun e => { e with slot := some t }) { s with free := n } ∧
        Placed id e x fun y => exec (.entryBufferAlloc id) s = .next y) ∧
      ((∀ t, ¬ FreeSlot t s) → exec (.entryBufferAlloc id) s = .next s)) ∧
    (e.stage ≠ .needBuf → e.stage ≠ .waitStg → exec (.entryBufferAlloc id) s = .next s)

/-- R89, R99, R333, R334, R485: dispatch to a channel or to another node, for whose data STG has its power (log entries
68, 80, 118, 155). -/
def EntryDispatch : Prop :=
  ∀ (id : Nat) (e : Entry) (s : State), entryOf s id = some e → s.gctl.halted = false →
    ∀ (c : Chan) (d : Nat), c = eCh e → d = 4 + c.toNat / 4 →
    (e.stage ≠ .ready → e.stage ≠ .waitWake → exec (.entryDispatch id) s = .next s) ∧
    (e.stage = .ready ∨ e.stage = .waitWake → e.isRem = true → admitted s (eNode e) = none →
      exec (.entryDispatch id) s = .next (failEntry id 0x0A 0 s)) ∧
    (e.stage = .ready → e.isRem = false ∨ admitted s (eNode e) ≠ none → eDir e ≠ 0 →
      unpowered s 1 = true ∨ s.pwr.ret = true →
      (bit s.pwr.wakeEn 1 = true → exec (.entryDispatch id) s =
        .next (autoWake 1 (modEntry id (fun e => { e with stage := .waitWake }) s))) ∧
      (bit s.pwr.wakeEn 1 = false → e.kind = .host → exec (.entryDispatch id) s =
        .next (finishEntry id 0x09 0 (freeEntryBuffer e.handle s)))) ∧
    (eDir e = 0 ∨ (unpowered s 1 = false ∧ s.pwr.ret = false ∧ domSt s 1 = .on) →
    (e.stage = .ready ∨ e.stage = .waitWake → e.isRem = true → admitted s (eNode e) ≠ none →
      (∀ t, e.slot = some t → exec (.entryDispatch id) s = .next (sendTag e t.toNat s)) ∧
      (e.slot = none → (∃ t, FreeSlot t s) → ∃ t n, FreeSlot t s ∧ exec (.entryDispatch id) s =
        .next (sendTag e t.toNat (modEntry id (fun e => { e with slot := some t }) { s with free := n }))) ∧
      (e.slot = none → (∀ t, ¬ FreeSlot t s) → exec (.entryDispatch id) s = .next s)) ∧
    (e.stage = .ready → e.isRem = false → unpowered s d = true →
      (bit s.pwr.wakeEn d = true → exec (.entryDispatch id) s =
        .next (autoWake d (modEntry id (fun e => { e with stage := .waitWake }) s))) ∧
      (bit s.pwr.wakeEn d = false → e.kind = .host → exec (.entryDispatch id) s =
        .next (finishEntry id 0x09 0 (freeEntryBuffer e.handle s)))) ∧
    (e.stage = .ready ∨ e.stage = .waitWake → e.isRem = false → unpowered s d = false →
      ((chan s c).engine ≠ 1 → exec (.entryDispatch id) s = .next s) ∧
      ((chan s c).engine = 1 → e.kind ≠ .fetch →
        (slotValid s (quadOf c) (eOpcode e) = false → e.kind = .host → exec (.entryDispatch id) s =
          .next (halt 2 e.sq e.index e.words false s)) ∧
        (slotValid s (quadOf c) (eOpcode e) = true →
          ((chan s c).slot = none → exec (.entryDispatch id) s = .next (modEntry id (fun e => { e with stage := .inSlot })
            (modChan c (fun ch => { ch with slot := some id }) (metWake d s)))) ∧
          ((chan s c).slot ≠ none → exec (.entryDispatch id) s =
            .next (modEntry id (fun e => { e with stage := .ready }) s))))))

/-- R320, R336-R338, R341: an entry that is finished is covered by its batch or posted, for the CQ that its SQ named
when it was fetched. -/
def CompletionPosting : Prop :=
  ∀ (id : Nat) (e : Entry) (s : State), entryOf s id = some e → xferOf s (.entry id) = none →
    (e.stage ≠ .finish ∨ s.gctl.halted = true ∨ (e.held = false ∧ 1024 ≤ cbufUsed s) →
      exec (.completionPost id) s = .next s) ∧
    (e.stage = .finish → s.gctl.halted = false → e.held = true ∨ cbufUsed s < 1024 → ∀ x,
      x = dropEntry id (withQe (fun q => { q with held := if e.held then q.held - 1 else q.held }) s) →
      (eBatch e = true → e.status = 0 → e.sq ≠ 0 → exec (.completionPost id) s =
        .next (adminSettle (passFrontier e.sq (withQe (fun q => { q with
          cov := q.cov ++ [{ sq := e.sq, index := e.index, cid := eCid e, order := e.id, cq := e.cq }] }) x)))) ∧
      (eBatch e = false ∨ e.status ≠ 0 ∨ e.sq = 0 → exec (.completionPost id) s =
        .next (adminSettle (passFrontier e.sq (putCpl {
          cq := e.cq, sq := e.sq, cid := eCid e,
          result := e.result, status := e.status, isRem := e.isRem, index := e.index } x)))))

/-- R336, R407: the answer to a completion's write; after a halt no message is posted (log entry 62). -/
def CompletionWrites : Prop :=
  ∀ (q : QNum) (n : Nat) (m : FmReq) (p : Cpl) (rest : List Cpl) (s y z : State) (k : Nat), k = ctxKey true q →
    takeFmAt (.completion q) n s = some (m, y) →
    takeNth (fun p => decide (p.cq = q)) n s.qe.flying = some (p, rest) → z = withQe (fun g => { g with flying := rest }) y →
    exec (.completionWriteResponse q ⟨n, true⟩) s = .next (pumpEng 0 (halt 8 p.sq p.index (bytesWords 2 m.data) false
      (modQctx k (fun x => { x with lost := true }) z))) ∧
    (∀ v u, v = (if (qctx z k).lost then (qctx z k).visible else match rest.find? fun p => decide (p.cq = q) with
        | some f => f.slot
        | none => (qctx z k).tail) →
      u = (if v = (qctx z k).visible then z else idxMoved k (modQctx k (fun x => { x with visible := v }) z)) →
      exec (.completionWriteResponse q ⟨n, false⟩) s =
        .next (pumpEng 0 (if bit (qctx z k).w1 0 = true ∧ z.gctl.halted = false then post q.toNat u else u)))

/-- R316, R337, R341, R343: batches, one for each CQ that their entries were fetched for, and index blocks. A batch goes at
its size or its time and not before, but for a queue with nothing left or one that is deleted. A last index counts as
published also with an error (log entry 65); a queue may be enabled again beside an unfinished disable (log entry 129). -/
def BatchesAndIndexes : Prop :=
  ∀ (sq : QNum) (cq : Bool) (q : QNum) (k : Nat) (s : State), k = ctxKey cq q →
    (s.gctl.halted = false → batchCov s sq ≠ [] → cbufUsed s < 1024 →
      (batchMax s sq ≤ (batchCov s sq).length ∨ batchTime s sq = 0 ∨ oldestOf s sq = none ∨ deleteWaits s sq = true →
        exec (.batchPost sq) s = .next (postBatch sq s)) ∧
      ((batchCov s sq).length < batchMax s sq → batchTime s sq ≠ 0 → oldestOf s sq ≠ none → deleteWaits s sq = false →
        exec (.batchPost sq) s = .next s) ∧
      (∀ c ∈ batchCov s sq, ∀ t, c.passed = some t → 1000 * batchTime s sq ≤ (s.time - t).toNat →
        exec (.batchTimeExpiry sq) s = .next (postBatch sq s)) ∧
      (batchTime s sq ≠ 0 → (∀ c ∈ batchCov s sq, ∀ t, c.passed = some t →
          (s.time - t).toNat < 1000 * batchTime s sq) → exec (.batchTimeExpiry sq) s = .next s)) ∧
    (s.gctl.halted = true ∨ batchCov s sq = [] ∨ 1024 ≤ cbufUsed s →
      exec (.batchPost sq) s = .next s ∧ exec (.batchTimeExpiry sq) s = .next s) ∧
    ((qctx s k).idx.flying = true → exec (.indexPublish cq q .issue) s = .next s) ∧
    (∀ d tl, (qctx s k).idx.flying = false → (qctx s k).idx.final = true → (qctx s k).stops = d :: tl →
      exec (.indexPublish cq q .issue) s =
        .next (issueQe { port := 0, who := .index k, write := true, addr := d.addr, len := 8,
                         data := wordBytes 8 (nat64 (2 ^ 16 + d.head.toNat)) }
          (modQctx k (fun x => { x with idx := { x.idx with
            moved := x.idx.moved && x.enabled, flying := true, last := true } }) s))) ∧
    ((qctx s k).idx.flying = false → (qctx s k).idx.final = false ∨ (qctx s k).stops = [] →
      ((qctx s k).idx.moved = true → exec (.indexPublish cq q .issue) s =
        .next (issueQe { port := 0, who := .index k, write := true, addr := indexAddr (qctx s k).w2, len := 8,
                         data := wordBytes 8 (idxWord s k) }
          (modQctx k (fun x => { x with idx := { x.idx with moved := false, flying := true, last := false } }) s))) ∧
      ((qctx s k).idx.moved = false → exec (.indexPublish cq q .issue) s = .next s)) ∧
    (∀ m y err, takeFm (.index k) s = some (m, y) → ∀ z, z = modQctx k (fun x => { x with
          idx := { x.idx with flying := false, last := false } })
        (if err then withQe (fun g => { g with idxError := true }) y else y) →
      ((qctx y k).idx.last = true →
        exec (.indexPublish cq q (.response err)) s = .next (pumpEng 0 (idxIssue k (tryStop k (stopEnd k z))))) ∧
      ((qctx y k).idx.last = false →
        exec (.indexPublish cq q (.response err)) s = .next (pumpEng 0 (idxIssue k z))))

/-- R322, R323, R341: admin commands that are refused, and the NOP. -/
def AdminRefusals : Prop :=
  ∀ (e : Entry) (s : State),
    (adminNext s = some e → (eOpcode e).toNat = 0 → exec .adminNop s = adminEnds e 0 0 s) ∧
    (∀ a ∈ adminTable, adminNext s = none ∨ (∃ x, adminNext s = some x ∧ (eOpcode x).toNat ≠ a.1) → exec a.2 s = .next s) ∧
    (∀ a ∈ adminTable, adminNext s = some e → (eOpcode e).toNat = a.1 →
      (a.1 ≠ 7 → s.gctl.qmode = false → exec a.2 s = adminEnds e 0x12 1 s) ∧
      (a.1 = 7 ∨ s.gctl.qmode = true → adminQ e = 0 → exec a.2 s = adminEnds e 0x12 2 s)) ∧
    (∀ a ∈ [((3 : Nat), Instr.deleteSq), (5, .disableSq), (6, .enableSq), (8, .setArb)], AdminAt a.1 e s →
      (qctx s (adminQ e).toNat).created = false → exec a.2 s = adminEnds e 0x12 3 s) ∧
    (∀ a ∈ [((1 : Nat), true, Instr.createCq), (2, false, .createSq)], AdminAt a.1 e s →
      (qctx s (ctxKey a.2.1 (adminQ e))).enabled = true →
      exec a.2.2 s = adminEnds e 0x12 3 s)

/-- R322-R325, R341-R343: what the other admin commands do (log entries 63, 64, 129). -/
def AdminCommands : Prop :=
  ∀ (e : Entry) (s : State) (k : Nat) (x : QCtx), k = (adminQ e).toNat → x = qctx s k →
    (∀ a ∈ [((1 : Nat), true, Instr.createCq), (2, false, .createSq)], AdminAt a.1 e s → ∀ j, j = ctxKey a.2.1 (adminQ e) →
      (qctx s j).enabled = false →
      (∀ n, enableFault j [eword e 4, eword e 5, eword e 6, 0] s = some n → exec a.2.2 s = adminEnds e 0x12 n s) ∧
      (enableFault j [eword e 4, eword e 5, eword e 6, 0] s = none → exec a.2.2 s =
        adminEnds e 0 0 (modQctx j (fun x => { x with created := true })
          (enableCtx j 4 [eword e 4, eword e 5, eword e 6, flag 31 a.2.1] s)))) ∧
    (AdminAt 3 e s → x.created = true → ∀ y, y = modEntry e.id (fun e => { e with stage := .deleting, upTo := s.qe.nextId })
        (modQctx k (fun x => { x with created := false }) s) →
      (x.enabled = true → exec .deleteSq s = .next (adminSettle (disableSq k [e.id] y))) ∧
      (x.enabled = false → exec .deleteSq s = .next (adminSettle (waitStop k e.id y)))) ∧
    (AdminAt 4 e s → ∀ j, j = ctxKey true (adminQ e) →
      ((qctx s j).created = false → exec .deleteCq s = adminEnds e 0x12 3 s) ∧
      ((qctx s j).created = true → cqInUse s (adminQ e) = true → exec .deleteCq s = adminEnds e 0x12 5 s) ∧
      ((qctx s j).created = true → cqInUse s (adminQ e) = false → exec .deleteCq s =
        adminEnds e 0 0 (modQctx j (fun x => { x with created := false })
          (if (qctx s j).enabled then disableCq j s else s)))) ∧
    (AdminAt 5 e s → x.created = true →
      (∀ y, y = modEntry e.id (fun e => { e with stage := .disabling, result := BitVec.ofNat 32 x.head.toNat }) s →
        (x.enabled = true → exec .disableSq s = .next (disableSq k [e.id] y)) ∧
        (x.enabled = false → x.stops ≠ [] → exec .disableSq s = .next (waitStop k e.id y))) ∧
      (x.enabled = false → x.stops = [] → exec .disableSq s = adminEnds e 0 x.head.toNat s)) ∧
    (AdminAt 6 e s → x.created = true →
      (x.enabled = true → exec .enableSq s = adminEnds e 0x12 3 s) ∧
      (x.enabled = false → x.cached = true → ∀ ws, ws = [x.w0, x.w1, x.w2,
          at_ 48 (BitVec.ofNat 16 (bits (eword e 3) 0 16)) ||| at_ 32 (BitVec.ofNat 16 (bits (eword e 3) 16 16))] →
        (∀ n, enableFault k ws s = some n → exec .enableSq s = adminEnds e 0x12 n s) ∧
        (enableFault k ws s = none → exec .enableSq s = adminEnds e 0 0 (enableCtx k 1 ws s))) ∧
      (x.enabled = false → x.cached = false → exec .enableSq s =
        .next (askCtx k (modEntry e.id (fun e => { e with stage := .adminRead }) s)))) ∧
    (AdminAt 8 e s → x.created = true →
      (x.cached = true → ∀ w, w = merge x.w1 (eword e 3) (at_ 52 0xFFF#12) → exec .setArb s =
        adminEnds e 0 0 (issueCtxWrite k 1 [w] (modQctx k (fun x => { x with w1 := w }) s))) ∧
      (x.cached = false → exec .setArb s = .next (askCtx k (modEntry e.id (fun e => { e with stage := .adminRead }) s)))) ∧
    (AdminAt 7 e s → ∀ found, found = s.qe.store.find? (fun x => decide (x.kind = .host ∧ x.sq = adminQ e ∧
        (eCid x).toNat = bits (eword e 2) 32 16)) →
      (found = none → exec .abort s = adminEnds e 0x20 0 s) ∧
      (∀ v tag, found = some v → v.stage = .remote tag → exec .abort s = .next (abortRemote e.id tag s)) ∧
      (∀ v, found = some v → (∀ tag, v.stage ≠ .remote tag) → ∀ r, r = abortEntry v.id s →
        exec .abort s = adminEnds e (if r.1 then 0 else 0x20) 0 r.2))

/-- What MOVE leaves after a word: its wait for the next one, or its end with the bytes moved, where a stream's lock is
given up (R130, R136, R393). -/
def movesOn (c : Chan) (t : Thr) (w a b d : W64) (src : Loc) (e : List (Byte × Bool)) (r : Moved) : State :=
  if r.waits = true ∨ (r.last = false ∧ r.n < d.toNat) then waits c t (.move a b d r.n e r.dirty) r.s
  else waitsOut c t (rD w) (nat64 r.n) (moveUnlock c t src r.s)

/-- R130, R136, R392, R393, R433: what one word of a MOVE does: the mark of the chunk it is written into, the locks it
takes, and where it waits (log entry 15 for a copy that overlaps itself). Which word fails its parity on its path is not the
spec's: the field `upset` is the model's choice (log entry 132). -/
def MoveWordEffect : Prop :=
  ∀ (c : Chan) (t : Thr) (sp dp : Sp) (p q k i : Nat) (e : List (Byte × Bool)) (g : Bool) (s : State),
    (∀ r, r = locRead sp (p + k) 8 (rqThr c t) s →
      copyStep c t sp p dp q k [] g s =
        { n := k + 8, dirty := (putWord c t dp q k g r.1 r.2).1, s := (putWord c t dp q k g r.1 r.2).2 } ∧
      (e ≠ [] → (copyWord c t sp p k e s).1 = r.1 ∨ (copyWord c t sp p k e s).1 = (e.drop k).take 8)) ∧
    (∀ ws y f, y = locWrite dp (q + k) ws (rqThr c t) s →
      f = ((g && decide ((q + k) % 64 ≠ 0)) || ws.any (·.2) || decide (s.intg.upset ≠ 0)) →
      putWord c t dp q k g ws s =
        (f, if (q + k + 8) % 64 = 0 ∧ 56 ≤ k ∧ f = false then setMark dp (q + k) false y else y)) ∧
    (∀ last x, x = strm s 2 →
      (x.pushLock ≠ none → x.pushLock ≠ some (c, t) → pushStep c t sp p k last s = { n := k, waits := true, s := s }) ∧
      (x.pushLock = none ∨ x.pushLock = some (c, t) →
        (x.credits = 0 → pushStep c t sp p k last s =
          { n := k, waits := true, s := modStrm 2 (fun x => { x with pushLock := some (c, t) }) s }) ∧
        (x.credits ≠ 0 → ∀ r, r = locRead sp (p + k) 8 (rqThr c t) s → pushStep c t sp p k last s =
          { n := k + 8, s := pushWord c t (nat64 (number (r.1.map (·.1)))) last (r.1.any (·.2)) r.2 }))) ∧
    (∀ l y, l = (strm s i).popLock → y = modStrm i (fun x => { x with popLock := some (c, t) }) s →
      (l ≠ none → l ≠ some (c, t) → popStep c t i dp q k g s = { n := k, waits := true, dirty := g, s := s } ∧
        ∀ m last, passStep c t i k m last s = { n := k, waits := true, s := s }) ∧
      (l = none ∨ l = some (c, t) →
        (popWord i y = none → popStep c t i dp q k g s = { n := k, waits := true, dirty := g, s := y }) ∧
        (∀ v z p, popWord i y = some (v, z) → p = putWord c t dp q k g (lowBytes 8 v.w) z →
          popStep c t i dp q k g s = { n := k + 8, last := v.em, dirty := p.1, s := p.2 }) ∧
        (∀ m last u z v, u = modStrm 2 (fun x => { x with pushLock := some (c, t) }) y →
          (strm y 2).pushLock = none ∨ (strm y 2).pushLock = some (c, t) → (strm u 2).credits ≠ 0 →
          popWord i u = some (v, z) → passStep c t i k m last s =
            { n := k + 8, last := v.em, s := pushWord c t v.w (m && (v.em || last)) v.poison z })))

/-- R130, R134-R136: MOVE raises ADDRESS, moves nothing, or moves its words one by one: between memories, into a stream,
out of one, or from one to another; what one word does (log entries 15, 36). -/
def MoveIssue : Prop :=
  ∀ (c : Chan) (t : Thr) (w : W64) (s u : State), Issues c t w s u → (opc w).toNat = 0x70 →
    ∃ a b d x y z, Reads c t (rA w) a (acting c t u) x ∧ Reads c t (rB w) b x y ∧ Reads c t (rD w) d y z ∧
      ∀ src dst n m, src = locOf z c a d false → dst = locOf z c b d true → n = d.toNat →
        m = decide (bits w 32 1 = 1) →
      (∀ p, src = .address p → exec (.move c t) s = .next (event c t 2 p z)) ∧
      (∀ p, (∀ q, src ≠ .address q) → dst = .address p → exec (.move c t) s = .next (event c t 2 p z)) ∧
      ((∀ q, src ≠ .address q) → (∀ q, dst ≠ .address q) → src = .bad ∨ dst = .bad ∨ moveLenOk d = false →
        exec (.move c t) s = .next (waitsOut c t (rD w) 0 z)) ∧
      (moveLenOk d = true → ∀ e v, readAhead c t src dst n z = (e, v) →
        (∀ sp p dp q, src = .mem sp p → dst = .mem dp q → exec (.move c t) s =
          .next (movesOn c t w a b d src e (copyStep c t sp p dp q 0 e false v))) ∧
        (∀ sp p i, src = .mem sp p → dst = .stream i → exec (.move c t) s =
          .next (movesOn c t w a b d src e (pushStep c t sp p 0 (m && decide (n = 8)) v))) ∧
        (∀ i dp q, src = .stream i → dst = .mem dp q → exec (.move c t) s =
          .next (movesOn c t w a b d src e (popStep c t i dp q 0 false v))) ∧
        (∀ i k, src = .stream i → dst = .stream k → exec (.move c t) s =
          .next (movesOn c t w a b d src e (passStep c t i 0 m (decide (n = 8)) v))))

/-- R130, R136, R392, R393: a MOVE that waits moves its next word when it is sent again. -/
def MoveGoesOn : Prop :=
  ∀ (c : Chan) (t : Thr) (s : State) (w a b d : W64) (k : Nat) (e : List (Byte × Bool)) (g : Bool) (src dst : Loc),
    engineRuns s c = true → (thr s c t).wait = .move a b d k e g → w = waitWord s c t → rowKey w = 0x700 →
    moveLenOk d = true → src = locOf s c a d false → dst = locOf s c b d true →
    (∀ sp p dp q, src = .mem sp p → dst = .mem dp q →
      exec (.move c t) s = .next (movesOn c t w a b d src e (copyStep c t sp p dp q k e g s))) ∧
    (∀ sp p i, src = .mem sp p → dst = .stream i → exec (.move c t) s =
      .next (movesOn c t w a b d src e (pushStep c t sp p k (bit w 32 && decide (k + 8 = d.toNat)) s))) ∧
    (∀ i dp q, src = .stream i → dst = .mem dp q →
      exec (.move c t) s = .next (movesOn c t w a b d src e (popStep c t i dp q k g s))) ∧
    (∀ i j, src = .stream i → dst = .stream j → exec (.move c t) s =
      .next (movesOn c t w a b d src e (passStep c t i k (bit w 32) (decide (k + 8 = d.toNat)) s)))

/-- R38, R180, R187, R197: calibrated delays round up by the count of the line and 500 ppm; what the PHY uses for a die;
the levels of a channel between routines (log entry 134 for a PHY_VREF of 0). -/
def Signalling : Prop :=
  (∀ (n num den : Nat) (d : Delay), 0 < den → d = convert n num den →
    d.taps < 512 ∧ num * 10005 * (n + 1) * 512 ≤ (512 * d.laps + d.taps) * den * 10 ^ 11 ∧
    ∀ k, num * 10005 * (n + 1) * 512 ≤ k * den * 10 ^ 11 → 512 * d.laps + d.taps ≤ k) ∧
  (∀ (c : Chan) (out : Bool) (d : DieRec) (s : State) (p : Phy) (x r : Nat), p = phyOf s c d out →
    x = (chan s c).tb.phy.toNat → r = d.w1.toNat / 2 ^ 40 % 256 →
    p.drive = [48, 40, 34, 30, 60].getD (x % 256) 48 ∧
    p.term = [none, some 240, some 120, some 80, some 60, some 48, some 40].getD (x / 256 % 256) none ∧
    (out = false ∨ r = 0 → p.vref = if 1 ≤ x / 65536 ∧ x / 65536 ≤ 100 then 300 + 5 * (x / 65536) else 550) ∧
    (out = true → r ≠ 0 → p.vref = if r ≤ 100 then 300 + 5 * r else 550)) ∧
  (∀ (c : Chan) (s : State) (p : Pins), p = (chan (idlePins c s) c).pins →
    p.ce0 = true ∧ p.ce1 = true ∧ p.cle = false ∧ p.ale = false ∧ p.we = true ∧ p.re = true ∧ p.dqs = .hiz ∧ p.dq = .hiz ∧
    p.wp = (chan s c).pins.wp)

/-- The commands that issue an instruction of a channel program: a command finds the word that its thread fetches. -/
def issues : List (Chan → Thr → Instr) :=
  rowsR.map (·.cmd) ++ rowsI.map (·.cmd) ++ rowsU.map (·.cmd) ++ rowsD2.map (·.cmd) ++ rowsD1.map (·.cmd) ++
  rcmds.map (·.2) ++
  [.insr, .limm, .br, .cb, .call, .callr, .ret, .evret, .ld, .lds, .st, .swap, .fadd, .dop, .dopw, .dopt, .prgr,
   .calcommitChange, .calcommitRevalidate, .move, .halloc, .hfree, .plbrd, .plbwr, .plbrst, .plbfrzFreeze,
   .plbfrzResume, .qpost, .endProg, .feat, .time, .waitt, .waite, .sigset, .nop]

/-- R122-R124: the reserved fields of the integer, logic, shift, multiply, move and compare instructions and the reserved
opcodes among them; a word with either raises ILLEGAL. -/
def AluWords : Prop :=
  ∀ (w : W64) (n : Nat), n = (opc w).toNat →
    (∀ r ∈ rowsR, n = r.op → (legal w = true ↔ bits w 0 41 = 0)) ∧
    (∀ r ∈ rowsI, n = r.op → (legal w = true ↔ bits w 32 14 = 0 ∧ (n ∈ [0x0B, 0x0D, 0x0F, 0x11] → bits w 6 26 = 0))) ∧
    (n ∈ [0x14, 0x15, 0x16, 0x28] → (legal w = true ↔ bits w 0 46 = 0)) ∧
    (n = 0x17 ∨ n = 0x18 → (legal w = true ↔
      bits w 44 2 = 0 ∧ bits w 0 32 = 0 ∧ bits w 38 6 + (bits w 32 6 + 1) ≤ 64)) ∧
    (n = 0x2F → (legal w = true ↔ bits w 49 2 = 0)) ∧
    ((0x19 ≤ n ∧ n ≤ 0x1F) ∨ (0x23 ≤ n ∧ n ≤ 0x27) ∨ (0x29 ≤ n ∧ n ≤ 0x2E) ∨ (0x3C ≤ n ∧ n ≤ 0x3F) → legal w = false) ∧
    (∀ cmd ∈ issues, ∀ (c : Chan) (t : Thr) (s u : State), engineRuns s c = true → turnOf (chan s c) = some t.toNat →
      (thr s c t).wait = .none → (thr s c t).ending = none →
      ((thr s c t).abortP = true → (thr s c t).handler = true ∨ (thr s c t).after ≠ none) →
      fetchInstr (quadOf c) (thr s c t).pc s = (some w, u) → legal w = false → exec (cmd c t) s = .next (event c t 1 0 (acting c t u)))

/-- The status of R102's last column. -/
def outcomeOf (code : Nat) : Byte :=
  match code with
  | 2 => 0x12
  | 3 => 0x19
  | 4 => 0x1B
  | 6 => 0x1A
  | _ => 0x08

/-- R97, R102-R105, R109: an instruction that cannot issue raises ILLEGAL, and how an event enters its handler or ends
the program; its RESULT is then free (log entry 12), and the target of a branch before it is dropped (log entry 142). -/
def EventEntry : Prop :=
  ∀ (c : Chan) (t : Thr) (s x : State) (code : BitVec 4) (detail : W64),
    (∀ cmd ∈ issues, ∀ w u, engineRuns s c = true → turnOf (chan s c) = some t.toNat →
      (thr s c t).wait = .none → (thr s c t).ending = none →
      ((thr s c t).abortP = true → (thr s c t).handler = true ∨ (thr s c t).after ≠ none) →
      (fetchInstr (quadOf c) (thr s c t).pc s = (none, u) ∨ (fetchInstr (quadOf c) (thr s c t).pc s = (some w, u) ∧
        (legal w = false ∨ (noSlot w = true ∧ (thr s c t).after ≠ none)))) →
      exec (cmd c t) s = .next (event c t 1 0 (acting c t u))) ∧
    (∀ h y f, h = tget 0 (thr x c t).slot.toNat (quad x (quadOf c)).slots → y = event c t code detail x →
      f = 0x8040 + 0x1000 * t.toNat →
      (h.toNat / 2 ^ 31 = 1 → (thr x c t).handler = false →
        (thr y c t).pc.toNat = h.toNat / 2 ^ 16 % 2 ^ 15 ∧ (thr y c t).handler = true ∧
        (thr y c t).wait = .none ∧ (thr y c t).after = none ∧ (thr y c t).flight = [] ∧
        (thr y c t).regs = (landAll (thr x c t)).regs ∧ (thr y c t).run = (thr x c t).run ∧
        (thr y c t).dop = (thr x c t).dop ∧
        (∀ i < 24, rawByte y (.scr c) (f + i) = BitVec.ofNat 8
          ((code.toNat + (thr x c t).pc.toNat * 2 ^ 64 + detail.toNat * 2 ^ 128) / 256 ^ i)) ∧
        (∀ sp p, sp ≠ .scr c ∨ p < f ∨ f + 24 ≤ p → rawByte y sp p = rawByte x sp p)) ∧
      (h.toNat / 2 ^ 31 = 0 ∨ (thr x c t).handler = true → ∃ z, y = endByEvent c t code (thr x c t).pc z ∧
        (∀ i < 24, rawByte z (.scr c) (f + i) = BitVec.ofNat 8
          ((code.toNat + (thr x c t).pc.toNat * 2 ^ 64 + detail.toNat * 2 ^ 128) / 256 ^ i)) ∧ z.qe = x.qe ∧ z.stg = x.stg)) ∧
    (∀ pc w, w = modThr c t (fun th => { th with
          rtn := th.rtn.map (fun r => { r with abortP := true }), byEvent := true })
        (modReg c (fun r => { r with faultPc := pc, faultT := t, faultC := code }) x) →
      (code = 5 ∨ (thr x c t).aborted = true →
        endByEvent c t code pc x = tryEnd c t (setEnding c t (outcomeOf code.toNat) none w)) ∧
      (code ≠ 5 → (thr x c t).aborted = false → ∃ r n, endByEvent c t code pc x = tryEnd c t (setEnding c t (outcomeOf code.toNat) (some r)
        { w with free := n })))

/-- An ABORT is raised before the next instruction of a thread that could issue it outside a handler and outside a delay
slot. -/
def AbortNow (th : Thread) : Prop :=
  th.abortP = true ∧ th.run = true ∧ th.handler = false ∧ th.after = none ∧ th.wait = .none ∧ th.ending = none

/-- R103, R145, R227, R229: what an abort of an entry on this node leaves, with whether it wins. Of a running program ABORT
is pending, its routine is to abort, and a wait without a bound ends with its result; an entry that no thread has taken ends
ABORTED. A HALLOC with WAIT clear that waits for a pool's removal of buffers goes on by its own rule (log entry 177). -/
def AbortOfEntry : Prop :=
  ∀ (c : Chan) (t : Thr) (id : Nat) (s x : State) (e : Entry),
    (AbortNow (thr s c t) → recognise c t s = event c t 5 0 (modThr c t (fun th => { th with
      abortP := false, aborted := true }) s)) ∧
    (¬ AbortNow (thr s c t) → recognise c t s = s) ∧
    (entryOf s id = none → abortEntry id s = (false, s)) ∧
    (entryOf s id = some e →
      (e.aborted = true ∨ (e.isRem = false ∧ powered s (4 + (quadOf (eCh e)).toNat) = false) ∨ e.stage = .finish ∨
          e.stage = .dataOut → abortEntry id s = (false, s)) ∧
      (e.aborted = false → e.isRem = true ∨ powered s (4 + (quadOf (eCh e)).toNat) = true →
        x = modEntry id (fun e => { e with aborted := true }) s →
        (e.stage = .inSlot → abortEntry id s =
          (true, failEntry id 0x08 0 (modChan (eCh e) (fun ch => { ch with slot := none }) x))) ∧
        (e.stage = .waitBuf → abortEntry id s = (true, failEntry id 0x08 0 { x with hawk := { x.hawk with
          waiting := x.hawk.waiting.filter fun r => decide (r.who ≠ .entry id) } })) ∧
        (e.stage = .dataIn → e.kind = .host → abortEntry id s = (true, x)) ∧
        (e.stage = .fragRead ∨ e.stage = .needBuf ∨ e.stage = .ready ∨ e.stage = .waitWake ∨ e.stage = .waitStg ∨
          (e.stage = .dataIn ∧ e.kind ≠ .host) → abortEntry id s = (true, failEntry id 0x08 0 x)) ∧
        (e.stage = .running c t →
          ((thr s c t).ending ≠ none → abortEntry id s = (false, s)) ∧
          ((thr s c t).ending = none → ∀ y, y = modThr c t (fun th => { th with
              abortP := true, aborted := true, rtn := th.rtn.map fun r => { r with abortP := true } }) x →
            ((thr s c t).wait = .none → abortEntry id s = (true, recognise c t y)) ∧
            (∀ rd v, (thr s c t).wait = .time rd v → abortEntry id s = (true, waitsOut c t rd s.time y)) ∧
            (∀ rd m, (thr s c t).wait = .event rd m → abortEntry id s = (true, waitsOut c t rd 0
              (modChan c (fun ch => { ch with evq := ch.evq.filter fun k => decide (k ≠ t) }) y))) ∧
            (∀ rd, (thr s c t).wait = .hawk rd →
              ((∃ r ∈ s.hawk.waiting, r.who = .thread c t ∧ r.wait = true) → abortEntry id s = (true, waitsOut c t rd 0
                { y with hawk := { y.hawk with
                  waiting := y.hawk.waiting.filter fun r => decide (r.who ≠ .thread c t) } })) ∧
              ((∀ r ∈ s.hawk.waiting, r.who = .thread c t → r.wait = false) → abortEntry id s = (true, y))) ∧
            (∀ ra rb n k as d, (thr s c t).wait = .move ra rb n k as d →
              (bits ra 60 4 = 3 ∨ bits rb 60 4 = 3 → abortEntry id s = (true, waitsOut c t (rD (waitWord s c t)) (nat64 k)
                (modStrm (bits ra 0 2) (fun q => { q with
                  popLock := if q.popLock = some (c, t) then none else q.popLock }) y))) ∧
              (bits ra 60 4 ≠ 3 → bits rb 60 4 ≠ 3 → abortEntry id s = (true, y))) ∧
            (∀ a b, (thr s c t).wait = .qpost a b → abortEntry id s = (true, waitsOut c t (rD (waitWord s c t)) 2 y)) ∧
            (∀ a b d, (thr s c t).wait = .unit_ a b d ∨ (thr s c t).wait = .dop a b ∨ (thr s c t).wait = .dopw (rD d) ∨
              (thr s c t).wait = .rebuild (rD d) a b → abortEntry id s = (true, y))))))

/-- R227, R328: an entry of this node's queues that ends before a thread has run it has its status, and its buffer is freed. -/
def EntryFails : Prop :=
  ∀ (id : Nat) (st : Byte) (res : BitVec 32) (s y : State) (e : Entry), entryOf s id = some e → e.kind = .host →
    y = (if e.handle = 0 then s else freeBuffer e.handle none s) →
    failEntry id st res s = modEntry id (fun e => { e with stage := .finish, status := st, result := res, slot := none }) y

end Sys2Proof.Spec

open Sys2Proof Sys2Proof.Machine Sys2Proof.Spec

/-- A step is the command at the front of the queue, with the rest of the queue left. The queue and its order are the
model's choice (log entry 1): the spec's own order of what happens in one step is that of R32. -/
def Obligations.StepRunsFront : Prop :=
  ∀ (c : Instr) (cs : List Instr) (s : State), s.pending = c :: cs → step s = exec c { s with pending := cs }

/-- On an empty queue a step is one tick of TIME; no word spells a command. Each part cites its rules. -/
def Obligations.IdleStep : Prop :=
  Spec.EmptyQueueTick ∧ Spec.NoCommandWord

/-- Every command finds a next state, which leaves the queue and the variant alone; a command whose moment is not there
finds the state as it is (log entry 24, on which every clause `exec … = .next s` of the other statements rests). -/
def Obligations.EveryCommandAnswers : Prop :=
  ∀ (i : Instr) (s : State), ∃ t, exec i s = .next t ∧ t.pending = s.pending ∧ t.variant = s.variant

/-- R387, R389: no step makes a stream hold more words, its credits counted as places, than its 256. -/
def Obligations.StreamsStayInCapacity : Prop := ∀ s t : State, StreamsFit s → step s = .next t → StreamsFit t

/-- Every step keeps the tables of staging, scratch and codeword buffers in canonical form. -/
def Obligations.MemoryStaysCanonical : Prop :=
  ∀ s t : State, Memory.wf s = true → step s = .next t → Memory.wf t = true

/-- What reset leaves: register values of the spec, and the invariants. Each part cites its rules. -/
def Obligations.ResetState : Prop :=
  Spec.ResetValues ∧ Spec.ResetKeepsInvariants

/-- The register port's forms: errors, before READY, and transactions held. Each part cites its rules. -/
def Obligations.PortForms : Prop :=
  Spec.AccessForms ∧ Spec.BeforeReady ∧ Spec.PortHolds

/-- Writes of registers that store fields, clear flags, set bits or are read only, and those of the interrupt controller
with the vectors they withdraw. Each part cites its rules. -/
def Obligations.RegisterStores : Prop :=
  Spec.PlainStores ∧ Spec.KindStores ∧ Spec.GuardedStores ∧ Spec.InterruptStores

/-- Registers whose read clears: the value given and the fields cleared. Each part cites its rules. -/
def Obligations.ReadsThatClear : Prop :=
  Spec.ReadsClear ∧ Spec.UnitReadsClear

/-- R408: IC_MSG posts its source, or is ignored and recorded. -/
def Obligations.Messages : Prop :=
  Spec.MessageWrite

/-- Posts, TAKEN, the presenting of a vector, IC_EOI, the end of a hold-off and IC_MASK_SYNC. Each part cites its rules. -/
def Obligations.Vectors : Prop :=
  Spec.PostSetsPend ∧ Spec.TakenEffect ∧ Spec.PresentEffect ∧ Spec.EndOfInterrupt ∧ Spec.HoldoffEnd ∧ Spec.MaskSync ∧
  Spec.HighHalves

/-- R411, R412: the source picked is eligible, has the highest PRIO and is the first such after LASTSRC, wrapping: none
lies between, and where it is not after LASTSRC it is the least; the processor picked accepts it, has the lowest RUNPRIO,
and is the first such after LASTPROC, wrapping. -/
def Obligations.PickFollowsRule : Prop :=
  ∀ (s : State),
    (pickSource s = none → ∀ m < 132096, eligible s m = true → ∀ p < 16, canAccept s m p = false) ∧
    (∀ n, pickSource s = some n →
      (eligible s n = true ∧ ∃ p < 16, canAccept s n p = true) ∧
      (∀ m < 132096, eligible s m = true → (∃ p < 16, canAccept s m p = true) →
        (prioOf s m).toNat ≤ (prioOf s n).toNat ∧
        (prioOf s m = prioOf s n → ∀ l, l = tget 132095 (prioOf s n).toNat s.ic.lastSrc →
          (l < n → l < m → n ≤ m) ∧ (n ≤ l → m ≤ l ∧ n ≤ m)))) ∧
    (∀ n p, pickProc s n = some p → canAccept s n p = true ∧
      ∀ k < 16, canAccept s n k = true → runPrio (proc s p) ≤ runPrio (proc s k) ∧
        (runPrio (proc s k) = runPrio (proc s p) → (s.ic.lastProc < p → s.ic.lastProc < k → p ≤ k) ∧
          (p ≤ s.ic.lastProc → k ≤ s.ic.lastProc ∧ p ≤ k)))

/-- R122-R124: integer, logic, shift, multiply, move and compare instructions, and the words that raise ILLEGAL. Each part
cites its rules. -/
def Obligations.AluResults : Prop :=
  Spec.TwoSourceResult ∧ Spec.ImmediateResult ∧ Spec.OneSourceResult ∧ Spec.InsertResult ∧ Spec.AluWords

/-- R146-R149: on valid input each decimal row gives its value, else all ones, at distance 2 (log entry 123 for the seconds
and frames of an MSF value). -/
def Obligations.DecimalResult : Prop :=
  ∀ (c : Chan) (t : Thr) (w : W64) (s u : State), Issues c t w s u →
    (∀ r ∈ rowsD2, (opc w).toNat = r.op → ∃ a b v x y, Reads c t (rA w) a (acting c t u) x ∧ Reads c t (rB w) b x y ∧
      (r.valid w a b → r.result w a b v) ∧ (¬ r.valid w a b → v = invalidResult) ∧
      exec (r.cmd c t) s = .next (writes c t (rD w) v 2 y)) ∧
    (∀ r ∈ rowsD1, (opc w).toNat = r.op → ∃ a v x, Reads c t (rA w) a (acting c t u) x ∧
      (r.valid w a → r.result w a v) ∧ (¬ r.valid w a → v = invalidResult) ∧
      exec (r.cmd c t) s = .next (writes c t (rD w) v 2 x))

/-- BR, CB, RET, CALL and CALLR with their delay slot. Each part cites its rules. -/
def Obligations.BranchesAndCalls : Prop :=
  Spec.BranchResult ∧ Spec.CallResult ∧ Spec.SlotGoesOn

/-- LD, LDS, ST, SWAP and FADD on scratch. Each part cites its rules. -/
def Obligations.LoadsAndStores : Prop :=
  Spec.LoadResult ∧ Spec.StoreResult

/-- R94, R128, R129: a read of scratch without bad parity gives its bytes and changes nothing; a write changes its
bytes alone, no mark and no thread, and gives them good parity (R129); a word that fails its parity on the way marks its
chunk (R433), its bytes taken as they are: which word fails is not the spec's (`upset`, log entry 132). -/
def Obligations.ScratchAccess : Prop :=
  ∀ (c : Chan) (t : Thr) (a n : Nat) (bs : List (Byte × Bool)) (s : State), n ∈ [1, 2, 4, 8] → a % n = 0 → bs.length = n →
    (∀ b ∈ bs, b.2 = false) →
    ((∀ i < n, tget false (a + i) (chan s c).scratch.bad = false) →
      readsScratch c t a n s = ((List.range n).map (fun i => (rawByte s (.scr c) (a + i), markOf s (.scr c) a)), s)) ∧
    (∀ (sp : Sp) (p : Nat), rawByte (writesScratch c t a bs s) sp p =
      if sp = .scr c ∧ a ≤ p ∧ p < a + n then (bs.getD (p - a) (0, false)).1 else rawByte s sp p) ∧
    (∀ (sp : Sp) (p : Nat), markOf (writesScratch c t a bs s) sp p =
      if sp = .scr c ∧ p / 64 = a / 64 ∧ s.intg.upset ≠ 0 then true else markOf s sp p) ∧
    (∀ (sp : Sp) (p : Nat), tget false p (ram (writesScratch c t a bs s) sp).bad =
      if sp = .scr c ∧ a ≤ p ∧ p < a + n then false else tget false p (ram s sp).bad) ∧
    (∀ (d : Chan) (k : Thr), thr (writesScratch c t a bs s) d k = thr s d k)

/-- Events: ILLEGAL at issue, entry into the handler or end by event, EVRET, and aborts. Each part cites its rules. -/
def Obligations.EventsOfThreads : Prop :=
  Spec.EventEntry ∧ Spec.EventReturn ∧ Spec.AbortOfEntry ∧ Spec.EntryFails

/-- The registers of a thread, and NOP, FEAT, TIME, WAITT, WAITE, SIGSET, DOPW, DOPT, PRGR and the ends of waits. Each part cites its rules. -/
def Obligations.ThreadServices : Prop :=
  Spec.RegisterFile ∧ Spec.ThreadReads ∧ Spec.ThreadWaits ∧ Spec.WaitsEnd

/-- R139, R263, R265: PLBRD, PLBWR, PLBRST and PLBFRZ. -/
def Obligations.PlumbResult : Prop :=
  ∀ (c : Chan) (t : Thr) (w : W64) (s u : State), Issues c t w s u →
    ((opc w).toNat = 0x90 → ∃ a x, Reads c t (rA w) a (acting c t u) x ∧ exec (.plbrd c t) s = .next
      (waitsOut c t (rD w) (int64 (tget 0 (plbPlace a) (chan s c).plb.ofs).toInt) x)) ∧
    ((opc w).toNat = 0x91 → ∃ a b x y, Reads c t (rA w) a (acting c t u) x ∧ Reads c t (rB w) b x y ∧
      exec (.plbwr c t) s = .next (goesOn c t (modPlb c (fun p => { p with
        ofs := tset 0 (plbPlace a) (BitVec.ofInt 8 (plbClamped s b.toInt)) p.ofs,
        acc := tset 0 (plbPlace a) (BitVec.ofInt 32 (plbClamped s b.toInt * 4096)) p.acc }) y))) ∧
    ((opc w).toNat = 0x92 → ∃ a x, Reads c t (rA w) a (acting c t u) x ∧
      exec (.plbrst c t) s = .next (goesOn c t (modPlb c (fun p => { p with
        ofs := p.ofs.filter (·.1 / 256 ≠ bits a 0 6), acc := p.acc.filter (·.1 / 256 ≠ bits a 0 6),
        frozen := setBit p.frozen (bits a 0 6) false, feStart := tdel (bits a 0 6) p.feStart,
        feZl := tdel (bits a 0 6) p.feZl }) x))) ∧
    ((opc w).toNat = 0x93 → ∃ a x, Reads c t (rA w) a (acting c t u) x ∧
      (bits w 32 1 = 1 → exec (.plbfrzFreeze c t) s = .next (goesOn c t
        (modPlb c (fun p => { p with frozen := setBit p.frozen (bits a 0 6) true }) x))) ∧
      (bits w 32 1 = 0 → exec (.plbfrzResume c t) s = .next (goesOn c t
        (modPlb c (fun p => { p with frozen := setBit p.frozen (bits a 0 6) false }) x))))

/-- R137, R378, R379: HALLOC gives a handle, 0, or waits, without WAIT only for a pool whose withheld buffers are being
removed (R386, log entry 177); HFREE returns the buffer. -/
def Obligations.BufferResult : Prop :=
  ∀ (c : Chan) (t : Thr) (w : W64) (s u : State), Issues c t w s u →
    ((opc w).toNat = 0x80 → ∀ k fall, k = bits w 0 3 → fall = decide (bits w 3 1 = 1) →
      (∀ h y, alloc k fall (acting c t u) = some (h, y) →
        exec (.halloc c t) s = .next (waitsOut c t (rD w) (nat64 h.toNat) y)) ∧
      (alloc k fall (acting c t u) = none → bits w 4 1 = 0 → allocBusy k fall (acting c t u) = false →
        exec (.halloc c t) s = .next (waitsOut c t (rD w) 0 (acting c t u))) ∧
      (alloc k fall (acting c t u) = none → bits w 4 1 = 1 ∨ allocBusy k fall (acting c t u) = true →
        exec (.halloc c t) s = .next (waits c t (.hawk (rD w)) { acting c t u with hawk := { (acting c t u).hawk with
          waiting := (acting c t u).hawk.waiting ++ [⟨.thread c t, k, fall, decide (bits w 4 1 = 1)⟩] } }))) ∧
    ((opc w).toNat = 0x81 → ∃ a x, Reads c t (rA w) a (acting c t u) x ∧
      (bits a 0 32 = 0 → exec (.hfree c t) s = .next (goesOn c t x)) ∧
      (bits a 0 32 ≠ 0 → exec (.hfree c t) s = .next (goesOn c t (freeBuffer (BitVec.ofNat 32 (bits a 0 32)) none x))))

/-- CALCOMMIT: its checks, its result, and what a commit leaves. Each part cites its rules. -/
def Obligations.CalibrationCommit : Prop :=
  Spec.CommitResult ∧ Spec.CommitEffect ∧ Spec.ChannelCommit ∧ Spec.SwapAtRest

/-- DOP: wait, CAL_INVALID, refusal, fence and acceptance. Each part cites its rules. -/
def Obligations.DieOperations : Prop :=
  Spec.DopResult ∧ Spec.DopStart

/-- QPOST and END. Each part cites its rules. -/
def Obligations.ProgramEnds : Prop :=
  Spec.QpostResult ∧ Spec.EndResult ∧ Spec.EndEffect

/-- MOVE: its forms, its words one by one, and what one word does. Each part cites its rules. -/
def Obligations.MoveResult : Prop :=
  Spec.MoveIssue ∧ Spec.MoveGoesOn ∧ Spec.MoveWordEffect

/-- RCMD's commands, their status words, and member fetches. Each part cites its rules. -/
def Obligations.RenderCommands : Prop :=
  Spec.RenderResult ∧ Spec.RenderStatus ∧ Spec.RenderFetch

/-- Doorbells and QE_QCTL. Each part cites its rules. -/
def Obligations.QueueRegisters : Prop :=
  Spec.Doorbells ∧ Spec.QueueControl ∧ Spec.QueueHalves

/-- R375, R376, R379, R382-R386: HAWK_ALLOC, HAWK_FREE and HAWK_POOL_CFG (log entries 28, 29); a read of HAWK_ALLOC waits
while its pool's withheld buffers are removed (log entry 177). What a write changes, an OPEN of Render that waits may find
(`renderOn`). -/
def Obligations.PoolCommands : Prop :=
  ∀ (k : Nat) (a : Acc) (v z : W64) (s x : State) (p : Pool), PortFree s → k < 6 → x = atPort s → p = pool s k →
    powered s 1 = true → z = stored a (poolWord p) v → Word a →
    (a = .high → exec (.hawkAllocRead k a) s = returns 0 x ∧ exec (.hawkFreeWrite k a v) s = wrote (renderOn x)) ∧
    (a = .full ∨ a = .low →
      (∀ i rest, stgOn s = true → p.enable = true → p.busy = false → p.free = i :: rest →
        (∀ r ∈ s.hawk.waiting, r.pool ≠ k ∧ ¬ (r.fall = true ∧ r.pool ≤ k)) →
        ∃ t, exec (.hawkAllocRead k a) s = returns (nat64 (mkHandle k i).toNat) t ∧ pool t k = { p with free := rest } ∧
          (p.low.toNat ≤ rest.length + 1 → rest.length < p.low.toNat → bit t.hawk.low k = true ∧ pendOf t 131077 = true)) ∧
      (stgOn s = false ∨ p.enable = false ∨ p.free = [] → exec (.hawkAllocRead k a) s = returns 0 x) ∧
      (stgOn s = true → p.enable = true → p.free ≠ [] → p.busy = true → exec (.hawkAllocRead k a) s = .next { x with
        port := { x.port with wait := some .alloc },
        hawk := { s.hawk with waiting := s.hawk.waiting ++ [{ who := .port, pool := k, fall := false, wait := false }] } }) ∧
      (∀ i, handlePool (BitVec.ofNat 32 (bits v 0 32)) = some (k, i) → p.enable = true → i < p.count.toNat →
        (withheld s k i = true → exec (.hawkFreeWrite k a v) s = wrote (renderOn x)) ∧
        (withheld s k i = false → p.free.length < 262144 → exec (.hawkFreeWrite k a v) s =
          wrote (renderOn (serveWaiting (modPool k (fun p => { p with free := p.free ++ [i] }) x))))) ∧
      ((∀ i, handlePool (BitVec.ofNat 32 (bits v 0 32)) = some (k, i) → p.enable = false ∨ p.count.toNat ≤ i) →
        exec (.hawkFreeWrite k a v) s = wrote (renderOn (freeIgnored v x)))) ∧
    (p.enable = false →
      (bits z 63 1 = 0 → exec (.hawkPoolCfgWrite k a v) s = wrote (renderOn (modPool k (poolFields z) x))) ∧
      (bits z 63 1 = 1 → bits z 44 18 = 0 ∨ 67108864 < 64 * bits z 6 20 + bits z 44 18 * poolSize k →
        exec (.hawkPoolCfgWrite k a v) s = wrote (renderOn (cfgRefused (modPool k (poolFields z) x)))) ∧
      (bits z 63 1 = 1 → bits z 44 18 ≠ 0 → 64 * bits z 6 20 + bits z 44 18 * poolSize k ≤ 67108864 →
        exec (.hawkPoolCfgWrite k a v) s = wrote (renderOn (serveWaiting (rebuildPool k
          (modPool k (fun p => { p with enable := true }) (modPool k (poolFields z) x))))))) ∧
    (p.enable = true →
      (bits z 44 18 ≠ p.count.toNat ∨ bits z 6 20 ≠ p.base.toNat →
        exec (.hawkPoolCfgWrite k a v) s = wrote (renderOn (cfgRefused x))) ∧
      (bits z 44 18 = p.count.toNat → bits z 6 20 = p.base.toNat →
        (bits z 63 1 = 1 → exec (.hawkPoolCfgWrite k a v) s = wrote (renderOn (modPool k (poolFields z) x))) ∧
        (bits z 63 1 = 0 → exec (.hawkPoolCfgWrite k a v) s = wrote (renderOn (serveWaiting
          (modPool k (fun p => { p with enable := false, free := [], busy := false }) (modPool k (poolFields z) x)))))))

/-- Streams: ENABLE, FLUSH, window reads, the freeze of S0 and producer words. Each part cites its rules. -/
def Obligations.StreamCommands : Prop :=
  Spec.StreamCommands ∧ Spec.StreamFreeze ∧ Spec.StreamInput

/-- R367, R368, R370: DMA_SDOOR and DMA_CTRL. -/
def Obligations.DmaCommands : Prop :=
  ∀ (e : BitVec 2) (a : Acc) (v : W64) (s x : State) (g : Eng), PortFree s → Word a → x = atPort s → g = eng s e →
    (g.st = .waitOwn → exec (.dmaSdoorWrite e a v) s = wrote (pumpEng e (modEng e (fun g => { g with st := .running }) x))) ∧
    (g.st ≠ .waitOwn → exec (.dmaSdoorWrite e a v) s = wrote x) ∧
    exec (.senableWrite e .high v) s = wrote x ∧
    (a = .full ∨ a = .low →
    (g.senable = false → bits v 0 1 = 1 →
      (bits v 1 2 < 2 ∨ (∃ k, k ≠ e ∧ Serving s k (bits v 1 2)) →
        exec (.senableWrite e a v) s = wrote (modEng e (fun g => { g with srefused := true })
          (modEng e (fun g => { g with stream := BitVec.ofNat 2 (bits v 1 2) }) x))) ∧
      (2 ≤ bits v 1 2 → (∀ k, k ≠ e → ¬ Serving s k (bits v 1 2)) →
        exec (.senableWrite e a v) s = wrote (pumpEng e (modXfer (.stream e) (fun y => { y with old := y.descs.length })
          (modEng e (fun g => { g with
            senable := true, st := .running, ahead := [], links := 0, rdAt := g.slist.toNat, bad := none })
          (modEng e (fun g => { g with stream := BitVec.ofNat 2 (bits v 1 2) }) x)))))) ∧
    (g.senable = true → bits v 0 1 = 0 → exec (.senableWrite e a v) s =
      wrote (modEng e (fun g => { g with senable := false, st := .idle, ahead := [] })
        { x with fm := s.fm.filter fun m => decide (m.who ≠ .desc (.stream e)) })) ∧
    (g.senable = true → bits v 0 1 = 1 → exec (.senableWrite e a v) s = wrote x) ∧
    (g.senable = false → bits v 0 1 = 0 → exec (.senableWrite e a v) s =
      wrote (modEng e (fun g => { g with stream := BitVec.ofNat 2 (bits v 1 2) }) x)))

/-- Answers to DMA transactions, and the bursts of stream lists. Each part cites its rules. -/
def Obligations.DmaTransfers : Prop :=
  Spec.StreamListReads ∧ Spec.DmaResponses ∧ Spec.StreamBurst

/-- Cold resets give the reset state; what a warm reset clears and keeps. Each part cites its rules. -/
def Obligations.Resets : Prop :=
  Spec.ColdResets ∧ Spec.WarmReset

/-- PFAIL, BROWNOUT, the halt evidence, and the steps of the boot. Each part cites its rules. -/
def Obligations.BootAndSupply : Prop :=
  Spec.Warnings ∧ Spec.BootSteps

/-- R59, R512, R516, R517, R519: writes of PWR_DOMAIN_CTRL that change one ON bit, or RET. Where a wake of the same TIME came
before a sleep request, which of the two wins is a free value (log entry 45). That requests which meet a power-up or a
power-down in progress follow each other in the order in which they were made is the model's choice (log entry 178). -/
def Obligations.PowerRequests : Prop :=
  ∀ (d : Nat) (a : Acc) (u v : W64) (s x : State), PortFree s → Word a → x = atPort s →
    v = stored a (regRead 0x1000 s) u →
    (ChangesOn d v s → bit v d = true → exec (.pwrDomainOn a u) s = wrote (softLook (autoWake d x)) ∧
      (2 ≤ d → domSt s d = .off → domSt s 1 = .on → NoStaleGrant s → autoWake d x = withPwr (fun p => { p with
        on := withBit p.on d true, st := tput d .requested p.st, req := withBit p.req d true,
        woke := tput d s.time p.woke }) x) ∧
      (2 ≤ d → domSt s d = .off → domSt s 1 = .on → ¬ NoStaleGrant s → autoWake d x = withPwr (fun p => { p with
        on := withBit p.on d true, st := tput d .requested p.st, want := withBit p.want d true,
        woke := tput d s.time p.woke }) x) ∧
      (2 ≤ d → domSt s d = .draining → dueOf s d = [] → autoWake d x = withPwr (fun p => { p with
        on := withBit p.on d true, due := tset [] d [.wake] p.due, woke := tput d s.time p.woke }) x)) ∧
    (ChangesOn d v s → bit v d = false → ∀ f y, f = bit (Config.free s.free) 0 → y = { x with free := s.free + 1 } →
      (¬ WokeNow d s → exec (.pwrDomainSleep a u) s = wrote (softLook (sleepReq d .sleep (setOn d false x)))) ∧
      (WokeNow d s → f = false → exec (.pwrDomainSleep a u) s = wrote (softLook (sleepReq d .sleep (setOn d false y)))) ∧
      (WokeNow d s → f = true → exec (.pwrDomainSleep a u) s = wrote (softLook (withPwr (fun p => { p with
        on := withBit p.on d true, outcome := tput d 2 p.outcome }) y))) ∧
      (d = 2 ∨ d = 3 → domSt s d = .on → sleepReq d .sleep (setOn d false x) = withPwr (fun p => { p with
        on := withBit p.on d false, st := tput d .draining p.st }) x) ∧
      (d = 1 → domSt s 1 = .on → (∃ k, 2 ≤ k ∧ k < 20 ∧ domSt s k ≠ .off) →
        sleepReq 1 .sleep (setOn 1 false x) = withPwr (fun p => { p with
          on := withBit (withBit p.on 1 false) 1 true, ret := false, outcome := tput 1 4 p.outcome,
          due := tset [] 1 [] p.due }) x) ∧
      (domSt s d = .requested → dueOf s d = [] → sleepReq d .sleep (setOn d false x) = withPwr (fun p => { p with
        on := withBit p.on d false, due := tset [] d [.sleep] p.due }) x)) ∧
    (∀ rest, 2 ≤ d → d < 20 → dueOf s d = .sleep :: rest → domSt s d = .requested →
      domSt (upDone d s) d = .draining ∧ dueOf (upDone d s) d = rest) ∧
    (ChangesRet v s → s.pwr.ret = false → WokeNow 1 s → domSt s 1 = .on → bit (Config.free s.free) 0 = true →
      exec (.pwrRetentionRequest a u) s = wrote (softLook (withPwr (fun p => { p with
        outcome := tput 1 2 p.outcome }) { x with free := s.free + 1 }))) ∧
    (ChangesRet v s → s.pwr.ret = false → ¬ WokeNow 1 s → domSt s 1 = .on →
      ((∀ k, 2 ≤ k → k < 20 → domSt s k = .off) → exec (.pwrRetentionRequest a u) s = wrote (softLook
        (withPwr (fun p => { p with ret := true, retDrain := true, st := tput 1 .draining p.st }) x))) ∧
      ((∃ k, 2 ≤ k ∧ k < 20 ∧ domSt s k ≠ .off) → exec (.pwrRetentionRequest a u) s = wrote (softLook
        (withPwr (fun p => { p with ret := false, on := withBit p.on 1 true, outcome := tput 1 4 p.outcome,
                                    due := tset [] 1 [] p.due }) x))))

/-- Grants, quiescence, the loader, STG's start and retention. Each part cites its rules. -/
def Obligations.PowerHandshakes : Prop :=
  Spec.PowerHandshakes ∧ Spec.PowerUpWork

/-- CH_PATCH, CH_FENCE_CFG, CH_FENCE_DATA, CH_DIE, CH_PINCTL; ends of patches and fills. Each part cites its rules. -/
def Obligations.ChannelRegisters : Prop :=
  Spec.ChannelRegisters ∧ Spec.PatchAndFillEnd

/-- Writes of the calibration set, measurement windows, calibration starts, calibrated delays and levels. Each part cites
its rules. -/
def Obligations.CalibrationSet : Prop :=
  Spec.CalRecordWrites ∧ Spec.Calibration ∧ Spec.Signalling

/-- INT_BANK_RETIRE, the withholding of buffers, and the split-access window. Each part cites its rules. -/
def Obligations.BanksAndSplit : Prop :=
  Spec.BankRetirement ∧ Spec.SplitWindow

/-- PRM_CMD: refusals and the start of each command. Each part cites its rules. -/
def Obligations.PrimerCommands : Prop :=
  Spec.PrimerRefusals ∧ Spec.PrimerCommands ∧ Spec.JournalJobs

/-- Pulses of the store, those at which it is suspended or stopped, and the detector. Each part cites its rules. -/
def Obligations.PrimerPulses : Prop :=
  Spec.PulseEnds ∧ Spec.PulsesThatStop

/-- R59, R452, R465: PRM_WINDOW_BASE and the window of the array, whose reads check the bytes they cover. Its ROTATE record
is written once the array is free (log entry 73), waits for the detector (log entry 74), and is left out where the kept words
of the journal are used up (log entry 127). -/
def Obligations.PrimerWindows : Prop :=
  ∀ (a : Acc) (v : W64) (w : BitVec 20) (s x : State), PortFree s → x = atPort s →
    (a = .full ∨ a = .low → ∀ b, b = BitVec.ofNat 12 (bits v 8 12) →
      (s.prm.winEn = true → exec (.prmWindowEnable a v) s = wrote x) ∧
      (s.prm.winEn = false → 4092 < b.toNat + 72 →
        exec (.prmWindowEnable a v) s = wrote (withPrm (fun p => { p with winBase := b }) x)) ∧
      (s.prm.winEn = false → b.toNat + 72 ≤ 4092 → ∀ due y,
        y = withPrm (fun p => { p with winBase := b, winHead := 0, winEn := true, winDue := due }) x →
        (prmNest s ≠ 0 → prmNest s ≠ 3 → due = true → exec (.prmWindowEnable a v) s = wrote y) ∧
        (prmNest s = 0 ∨ prmNest s = 3 → due = false →
          (s.prm.tripped = false → Recorded { kind := .window, jobs := [.record 3 0 b false] } y
            (fun z => exec (.prmWindowEnable a v) s = wrote z) (exec (.prmWindowEnable a v) s = wrote y)) ∧
          (s.prm.tripped = true → exec (.prmWindowEnable a v) s =
            wrote (awaits { kind := .window, jobs := [.record 3 0 b false] } y))))) ∧
    (exec (.prmWindowEnable .high v) s = wrote x) ∧
    (Word a →
      (s.prm.op ≠ none ∨ prmHeld s w.toNat = true → exec (.primerWindowRead w a) s =
        fails [] (withPrm (fun p => { p with rdBusy := true }) x)) ∧
      (s.prm.op = none → prmHeld s w.toNat = false → rawBad (prmRaw s w.toNat) &&& coveredBytes a ≠ 0 →
        exec (.primerWindowRead w a) s =
          fails [] (logPrimer w.toNat (coveredBytes a) 0 (withPrm (fun p => { p with parity := true }) x))) ∧
      (s.prm.op = none → prmHeld s w.toNat = false → rawBad (prmRaw s w.toNat) &&& coveredBytes a = 0 →
        exec (.primerWindowRead w a) s = returns (rawData (prmRaw s w.toNat) &&& covered a) x)) ∧
    (w.toNat % 8 = 0 → s.prm.op = none → s.prm.susp = [] → (∀ i < 8, rawBad (prmRaw s (w.toNat + i)) = 0) →
      exec (.primerWindowRead w .burst) s = .next { x with port := { s.port with
        resp := [{ ok := true, words := (List.range 8).map fun i => rawData (prmRaw s (w.toNat + i)) }] } })

/-- R492, R495, R496, R499, R500, R502: LATH_SELF, LATH_CFG, LATH_NODE, LATH_PORT_CTL and LATH_PROBE (log entry 94 for the
probe's payload, log entry 105 for the event of a port that is disabled while UP). That LATH_CFG sets CFG_REJECT and stores
TIMEOUT also where TOPO and DATELINE stay as they are is log entry 104; that waiting frames are tried again after a write
of LATH_PROBE is the model's choice (log entry 126). -/
def Obligations.LathRegisters : Prop :=
  ∀ (v : W64) (s x : State), PortFree s → x = atPort s →
    (s.lath.table.countP (fun e => !e.2.done) = 0 → remoteIn s = 0 → exec (.lathSelfWrite .full v) s =
      wrote (withLath (fun l => { l with path := BitVec.ofNat 32 (bits v 0 32), node := BitVec.ofNat 16 (bits v 48 16) }) x)) ∧
    (s.lath.table.countP (fun e => !e.2.done) ≠ 0 ∨ remoteIn s ≠ 0 → exec (.lathSelfWrite .full v) s =
      wrote (withLath (fun l => { l with path := BitVec.ofNat 32 (bits v 0 32), cfgReject := true }) x)) ∧
    (exec (.lathSelfWrite .low v) s = wrote (withLath (fun l => { l with path := BitVec.ofNat 32 (bits v 0 32) }) x)) ∧
    (s.lath.table.countP (fun e => !e.2.done) = 0 → remoteIn s = 0 → exec (.lathSelfWrite .high v) s =
      wrote (withLath (fun l => { l with node := BitVec.ofNat 16 (bits v 48 16) }) x)) ∧
    (s.lath.table.countP (fun e => !e.2.done) ≠ 0 ∨ remoteIn s ≠ 0 → exec (.lathSelfWrite .high v) s =
      wrote (withLath (fun l => { l with cfgReject := true }) x)) ∧
    (exec (.registerWrite 0x70008 .high v) s = wrote x) ∧
    (∀ a : Acc, a = .full ∨ a = .low → ∀ y, y = withLath (fun l => { l with timeout := BitVec.ofNat 10 (bits v 16 10) }) x →
      ((∃ p ∈ s.lath.port, p.2.link ≠ .down) → exec (.registerWrite 0x70008 a v) s =
        wrote (withLath (fun l => { l with cfgReject := true }) y)) ∧
      ((∀ p ∈ s.lath.port, p.2.link = .down) → ∀ z, z = withLath (fun l => { l with
          topo := BitVec.ofNat 2 (bits v 0 2), dateline := bit v 2 }) y →
        ((∀ k : BitVec 2, k.toNat < 3 → (lport s k).enable = false ∨ (lport s k).retry = true ∨
            (k = 2 ∧ bits v 0 2 ≠ 2)) → exec (.registerWrite 0x70008 a v) s = wrote z) ∧
        ∃ t, exec (.registerWrite 0x70008 a v) s = wrote t ∧ t.lath.topo = z.lath.topo ∧
          t.lath.dateline = z.lath.dateline ∧ t.lath.timeout = z.lath.timeout ∧ t.lath.cfgReject = s.lath.cfgReject)) ∧
    (∀ (i : BitVec 12) e, e = ({
        node := BitVec.ofNat 16 (bits v 48 16), st := BitVec.ofNat 2 (bits v 46 2),
        mode := bit v 45, port := BitVec.ofNat 2 (bits v 32 2), route := BitVec.ofNat 32 (bits v 0 32) } : LNode) →
      (NodeRefused s i.toNat e → exec (.lathNodeWrite i .full v) s =
        wrote (withLath (fun l => { l with cfgReject := true }) x)) ∧
      (¬ NodeRefused s i.toNat e → exec (.lathNodeWrite i .full v) s =
        wrote (withLath (fun l => { l with nodes := tset {} i.toNat e l.nodes }) x))) ∧
    (∀ (k : BitVec 2) (a : Acc) y, a = .full ∨ a = .low → k.toNat < 3 →
      y = withPort k (fun p => { p with enable := bit v 0, maxRate := BitVec.ofNat 2 (bits v 1 2) }) x →
      (bit v 0 = true → (lport s k).retry = true ∨ (lport s k).link ≠ .down ∨ (k = 2 ∧ s.lath.topo ≠ 2) →
        exec (.lathPortEnable k a v) s = wrote y) ∧
      (bit v 0 = true → (lport s k).retry = false → (lport s k).link = .down → k ≠ 2 ∨ s.lath.topo = 2 →
        exec (.lathPortEnable k a v) s = wrote (withPort k (fun p => { p with
          link := .training 0, rate := 0, retry := false, since := s.time, txSeq := 0, rxSeq := 0, nak := false,
          ackDue := false, replay := [], replays := 0, txq := [], rx := [], sent := [], cred := [128, 128, 128, 128],
          give := [0, 0, 0, 0] }) y)) ∧
      (bit v 0 = false → ∃ t, exec (.lathPortEnable k a v) s = wrote t ∧
        lport t k = { lport t k with
          enable := false, link := .down, retry := false, txq := [], replay := [], rx := [] } ∧
        ((lport s k).link = .up → t.lath.eValid = true ∧ (lport t k).downs = satInc (lport s k).downs))) ∧
    (s.lath.pBusy = true → exec (.lathProbeGo .full v) s = wrote (withLath (fun l => { l with cfgReject := true }) x)) ∧
    (s.lath.pBusy = false → ∀ y f, y = withLath (fun l => { l with
        pMode := bit v 45, pPort := BitVec.ofNat 2 (bits v 32 2), pRoute := BitVec.ofNat 32 (bits v 0 32) }) x →
      f = mkFrame y 9 false 0 0 0 0 (wordsBytes ((flag 45 y.lath.pMode |||
        at_ 0 (if y.lath.pMode then y.lath.path else y.lath.pRoute)) :: List.replicate 7 0)) →
      exec (.lathProbeGo .full v) s = wrote (lathGo (sendRoute y.lath.pMode y.lath.pPort y.lath.pRoute f
        (withLath (fun l => { l with pBusy := true, pResult := 0, pStart := s.time, pLimit := timeoutNs s }) y))))

/-- Training, NO_LINK, HELLO, LINK, the LINK frames owed, and the Lath timers. Each part cites its rules. -/
def Obligations.LathLinks : Prop :=
  Spec.LathLinks ∧ Spec.LinkFrames ∧ Spec.LathTimers

/-- R476, R478-R480, R482-R484: CRC, sequence, the receive buffer, misdelivery, discard and forwarding, with the lane by the
dateline. That waiting frames are taken, and LINK frames that are owed sent, at the end of each arrival is the model's choice
(log entry 126). -/
def Obligations.LathArrival : Prop :=
  ∀ (x : BitVec 2) (f : Frame) (s y : State),
    (∀ e ∈ frameCmd x f, f.typ = e.1 → routeOf s x f = .deliver →
      (isUp s x = false → exec e.2 s = .next s) ∧
      (isUp s x = true → frameOk f = false → exec e.2 s =
        .next (lathGo (withPort x (fun p => { p with crcErr := satInc p.crcErr, nak := true }) s))) ∧
      (isUp s x = true → frameOk f = true → f.seq ≠ (lport s x).rxSeq + 1 → exec e.2 s = .next s) ∧
      (Accepted x f s → Mine s f → exec e.2 s = .next (lathGo (heard f.src (fEpoch f) (inBuffer x f s)))) ∧
      (Accepted x f s → ¬ Mine s f → exec e.2 s = .next (lathGo (inBuffer x f s)) ∧
        (Alone x f (inBuffer x f s) → exec e.2 s = leaves x f (withLath (fun l => { l with misdel := true })
          (withPort x (fun p => { p with rx := [] }) (inBuffer x f s)))))) ∧
    (f.typ ≠ 11 → f.typ ≠ 12 → f.typ = 0 ∨ 13 ≤ f.typ.toNat ∨ routeOf s x f ≠ .deliver →
      (isUp s x = false → exec (.lathFrameForward x f) s = .next s) ∧
      (isUp s x = true → frameOk f = false → exec (.lathFrameForward x f) s =
        .next (lathGo (withPort x (fun p => { p with crcErr := satInc p.crcErr, nak := true }) s))) ∧
      (isUp s x = true → frameOk f = true → f.seq ≠ (lport s x).rxSeq + 1 → exec (.lathFrameForward x f) s = .next s) ∧
      (Accepted x f s → exec (.lathFrameForward x f) s = .next (lathGo (inBuffer x f s)) ∧
        (Alone x f (inBuffer x f s) → y = withPort x (fun p => { p with rx := [] }) (inBuffer x f s) →
          (f.typ = 0 ∨ 13 ≤ f.typ.toNat ∨ routeOf s x f = .drop → exec (.lathFrameForward x f) s =
            leaves x f (withLath (fun l => { l with discarded := true }) y)) ∧
          (∀ o, f.typ ≠ 0 → f.typ.toNat < 13 → routeOf s x f = .out o → exec (.lathFrameForward x f) s =
            .next (linksSent (lathRun 1 (enqueue o { k := x.toNat, inB := f.laneB, f := { f with
              route := if f.pathMode then f.route else f.route - 1,
              laneB := decide (s.lath.topo = 1) && (f.laneB || s.lath.dateline) } } y))))))) ∧
    (∀ rest, takeFirst (fun g => decide (frameBuf g = frameBuf f)) (lport y x).rx = some (f, rest) →
      takeHead y x (frameBuf f) = rxEffect x f (withPort x (fun p => { p with rx := rest }) y))

/-- R485-R488, R499: REQUEST, DATA, ABORT, HEARTBEAT and PROBE at the node they name (log entries 94, 97, 98, 103). That
waiting frames are tried, and owed LINK frames sent, at the end of each arrival is the model's choice (log entry 126). -/
def Obligations.LathAtTarget : Prop :=
  ∀ (x : BitVec 2) (f : Frame) (s y : State), Delivered x f s y →
    (f.typ = 1 → ∀ e, e = ({
        id := y.qe.nextId, words := (List.range 8).map (payloadWord f),
        kind := .remoteIn f.src (fTag f) x f.pathMode } : Entry) →
      (y.gctl.halted = true → exec (.lathRequest x f) s = leaves x f y) ∧
      (y.gctl.halted = false → admitted y f.src = none ∨ y.lath.node = 0 → exec (.lathRequest x f) s = leaves x f (refuseIn f y)) ∧
      (y.gctl.halted = false → admitted y f.src ≠ none → y.lath.node ≠ 0 →
        (nChan y ≤ (eCh e).toNat → exec (.lathRequest x f) s = leaves x f (answerTo f 5 3 y)) ∧
        ((eCh e).toNat < nChan y →
          ((quad y (eQuad e)).known = true → slotValid y (eQuad e) (eOpcode e) = false →
            exec (.lathRequest x f) s = leaves x f (answerTo f 5 2 y)) ∧
          ((quad y (eQuad e)).known = false ∨ slotValid y (eQuad e) (eOpcode e) = true →
            (4096 ≤ storeUsed y + storeDue y → exec (.lathRequest x f) s = staysIn x f s) ∧
            (storeUsed y + storeDue y < 4096 → ∀ z, z = (if holdsFrom y f.src then y else withLath (fun l => { l with
                beat := tput f.src.toNat (y.time, timeoutNs y / 4) l.beat }) y) → exec (.lathRequest x f) s =
              leaves x f (answerTo f 3 0 (addEntry { e with stage := if eDir e = 0 then .ready else .needBuf }
                { z with qe := { z.qe with nextId := z.qe.nextId + 1 } }))))))) ∧
    (f.typ = 2 → f.cls = false → y.gctl.halted = false →
      (heldFor y f.src (fTag f) = none → exec (.lathData x f) s = leaves x f y) ∧
      (∀ e, heldFor y f.src (fTag f) = some e →
        (e.stage = .needBuf ∨ e.stage = .waitBuf ∨ e.stage = .waitStg → exec (.lathData x f) s = staysIn x f s) ∧
        (e.stage = .dataIn → ∀ got z, got = tget 0 e.id y.lath.inData →
          z = bufWrite e.handle got (f.payload.zipIdx.map fun b => (b.1, bit f.mask (b.2 / 64))) (rqLath x) y →
          (sentBytes e ≤ got + f.payload.length → exec (.lathData x f) s = leaves x f (modEntry e.id (fun e => { e with
            stage := .ready }) (withLath (fun l => { l with inData := tdel e.id l.inData }) z))) ∧
          (got + f.payload.length < sentBytes e → exec (.lathData x f) s = leaves x f (withLath (fun l => { l with
            inData := tput e.id (got + f.payload.length) l.inData }) z))))) ∧
    (f.typ = 6 → (y.gctl.halted = true → exec (.lathAbort x f) s = leaves x f y) ∧
      (y.gctl.halted = false →
        (heldFor y f.src (fTag f) = none → exec (.lathAbort x f) s = leaves x f (answerTo f 7 1 y)) ∧
        (∀ e r, heldFor y f.src (fTag f) = some e → r = abortEntry e.id y →
          exec (.lathAbort x f) s = leaves x f (answerTo f 7 (if r.1 then 0 else 1) r.2)))) ∧
    (f.typ = 8 → exec (.lathHeartbeat x f) s = leaves x f y) ∧
    (f.typ = 9 → exec (.lathProbe x f) s = leaves x f (sendRoute f.pathMode x (BitVec.ofNat 32 (bits (payloadWord f 0) 0 32))
      (mkFrame y 10 true f.src (fTag f) 0 0 (idPayload y)) y))

/-- R485, R487, R488, R499: late responses, ACCEPT, DATA, COMPLETE, REJECT, ABORT_RESULT and PROBE_REPLY (log entries
101, 106). The words of PROBE_REPLY are those of log entry 94, one without a probe is dropped (log entry 97), and owed LINK
frames go out at the end of each arrival (the model's choice, log entry 126). -/
def Obligations.LathAtSender : Prop :=
  ∀ (x : BitVec 2) (f : Frame) (s y : State), Delivered x f s y →
    (∀ e ∈ [((2 : BitVec 4), Instr.lathData x f), (3, .lathAccept x f), (4, .lathComplete x f), (5, .lathReject x f)],
      f.typ = e.1 → f.typ ≠ 2 ∨ f.cls = true → inFlight y f = none →
      exec e.2 s = leaves x f (withLath (fun l => { l with lateRsp := true }) y)) ∧
    (∀ r e, inFlight y f = some (r, e) →
      (f.typ = 3 → exec (.lathAccept x f) s =
        leaves x f (modRemote (fTag f) (fun r => { r with epoch := some (fEpoch f) }) y)) ∧
      (f.typ = 2 → f.cls = true →
        (eDir e = 2 ∧ e.handle ≠ 0 → exec (.lathData x f) s = leaves x f (modRemote (fTag f) (fun r => { r with
          got := r.got + f.payload.length }) (bufWrite e.handle r.got
            (f.payload.zipIdx.map fun b => (b.1, bit f.mask (b.2 / 64))) (rqLath x) y))) ∧
        (eDir e ≠ 2 ∨ e.handle = 0 → exec (.lathData x f) s = leaves x f y)) ∧
      (f.typ = 4 → ∀ z res, z = freeSlot (fTag f) r y → res = BitVec.ofNat 32 (bits (payloadWord f 0) 0 32) →
        (e.kind ≠ .host → exec (.lathComplete x f) s = leaves x f (endFetch e e.handle (fCode f) z)) ∧
        (e.kind = .host → eDir e = 2 → r.got ≠ 0 → exec (.lathComplete x f) s = leaves x f (startXfer e.id e.sq false
          (eDmode e) (eDaddr e) (min r.got (eDlen e)) e.frags e.handle (modEntry e.id (fun e => { e with
            stage := .dataOut, status := fCode f, result := res }) z))) ∧
        (e.kind = .host → eDir e ≠ 2 ∨ r.got = 0 → exec (.lathComplete x f) s =
          leaves x f (finishEntry e.id (fCode f) res (freeEntryBuffer e.handle z)))) ∧
      (f.typ = 5 →
        (fCode f = 1 → exec (.lathReject x f) s = leaves x f (depart r.node (loseEntry (fTag f).toNat y))) ∧
        (fCode f = 2 ∨ fCode f = 3 → e.kind = .host → exec (.lathReject x f) s =
          leaves x f (halt (fCode f) e.sq e.index e.words true (freeSlot (fTag f) r y))) ∧
        (fCode f = 2 ∨ fCode f = 3 → e.kind ≠ .host → exec (.lathReject x f) s =
          leaves x f (endFetch e e.handle 0x19 (freeSlot (fTag f) r y))))) ∧
    (f.typ = 7 →
      (y.lath.table.find? (·.1 = (fTag f).toNat) = none ∨ y.gctl.halted = true → exec (.lathAbortResult x f) s =
        leaves x f (withLath (fun l => { l with lateRsp := true }) y)) ∧
      (∀ r, y.lath.table.find? (·.1 = (fTag f).toNat) = some ((fTag f).toNat, r) → y.gctl.halted = false →
        ∀ z, z = (if r.done then withLath (fun l => { l with table := tdel (fTag f).toNat l.table }) y
          else modRemote (fTag f) (fun r => { r with abort := none, fetchAbort := false }) y) →
        (r.abort = none → r.fetchAbort = false → exec (.lathAbortResult x f) s =
          leaves x f (withLath (fun l => { l with lateRsp := true }) y)) ∧
        (r.abort = none → r.fetchAbort = true → exec (.lathAbortResult x f) s = leaves x f z) ∧
        (∀ id, r.abort = some id → exec (.lathAbortResult x f) s =
          leaves x f (abortOutcome id (decide (fCode f = 0)) z)))) ∧
    (f.typ = 10 → (y.lath.pBusy = false → exec (.lathProbeReply x f) s = leaves x f y) ∧
      (y.lath.pBusy = true → ∃ w, bits w 32 32 = bits (payloadWord f 0) 32 32 ∧
        bits w 0 32 = bits (payloadWord f 1) 0 32 ∧ exec (.lathProbeReply x f) s = leaves x f (probeOver 1 w y)))

/-- R155-R160, R167, R170, R185, R249: a microword that cannot run ends its routine; a step that must wait leaves the bus
quiet, and so does a burst of no bytes; else its step drives its cycle. -/
def Obligations.MicroSteps : Prop :=
  ∀ (c : Chan) (t : Thr) (r : Routine) (w : BitVec 128) (d : List Byte) (s y x : State),
    (OnBus c t r s → fetchStore c false r.upc.toNat s = (none, y) →
      ∀ e ∈ stepCmd c d, exec e.2.2 s = .next (endRoutine c t .engine y)) ∧
    (OnBus c t r s → fetchStore c false r.upc.toNat s = (some w, y) → uLegal w = false →
      ∀ e ∈ stepCmd c d, exec e.2.2 s = .next (endRoutine c t .engine (refuseWord c r.upc.toNat y))) ∧
    (StepAt c t r w s y → ∀ e ∈ stepCmd c d, uRow w ≠ e.1 → exec e.2.2 s = .next s) ∧
    (StepAt c t r w s y → uYield w = false → r.passed = true ∨ uBus w = 0 → ∀ e ∈ stepCmd c d, uRow w = e.1 →
      (uBus w = 4 → isCoded w = true → (∃ k ∈ (chan y c).decq, k.buf = stepBuf r w) →
        exec e.2.2 s = .next (modRtn c t (fun r => { r with wait := .place }) (quietPins c y))) ∧
      (uBus w = 0 → uDpath w = 2 → 4 ≤ r.handoffs →
        exec e.2.2 s = .next (modRtn c t (fun r => { r with wait := .place }) (quietPins c y))) ∧
      (isBurst w = true → uBus w = 4 ∧ isCoded w = true → (∀ k ∈ (chan y c).decq, k.buf ≠ stepBuf r w) →
        y.srv.dqEn = true → guarded y = true →
        exec e.2.2 s = .next (modRtn c t (fun r => { r with wait := .guard }) (quietPins c y))) ∧
      (isBurst w = true → uBus w ≠ 4 ∨ isCoded w = false → y.srv.dqEn = true → guarded y = true →
        exec e.2.2 s = .next (modRtn c t (fun r => { r with wait := .guard }) (quietPins c y)))) ∧
    (∀ p, p = (chan (quietPins c y) c).pins → p.cle = false ∧ p.ale = false ∧ p.we = true ∧ p.re = true ∧ p.dq = .hiz ∧
      p.dqs = .hiz ∧ p.edges = [] ∧ p.burst = none ∧ p.ce0 = (chan y c).pins.ce0 ∧ p.ce1 = (chan y c).pins.ce1 ∧
      p.wp = (chan y c).pins.wp) ∧
    (StepAt c t r w s y → uYield w = false → r.passed = true ∨ uBus w = 0 → StepFree c r w y →
      x = setCe c r.die (uCe w) (modRtn c t (fun r => { r with wait := .none }) y) →
      (∀ e ∈ stepCmd c d, uRow w = e.1 → exec e.2.2 s = .next (stepEnds c t w (driveCycle c t r w e.2.1
        (modRtn c t (fun r => { r with wait := .none }) y)))) ∧
      (uRow w = .idle → exec (.idle c) s = .next (stepEnds c t w (setCycle c r.dieRec (.idle (!uCe w)) x))) ∧
      (uRow w = .cmd → exec (.cmd c) s = .next (stepEnds c t w (setCycle c r.dieRec (.cmd r.die (srcByte r w)) x))) ∧
      (uRow w = .addr → exec (.addr c) s = .next (stepEnds c t w (setCycle c r.dieRec (.addr r.die (srcByte r w)) x))) ∧
      (∀ b, uRow w = .stat → exec (.stat c b) s = .next (stepEnds c t w
        (setCycle c r.dieRec (.stat r.die) (modRtn c t (fun r => { r with status := b }) x)))) ∧
      (uRow w = .din ∨ uRow w = .trainIn → burstLen r w ≠ 0 → ∀ i, i = (if uRow w = .din then Instr.din c else .trainIn c) →
        exec i s = .next (stepEnds c t w (dinBurst c t r w x))) ∧
      (uRow w = .dout ∨ uRow w = .trainOut → burstLen r w ≠ 0 →
        ∀ i, i = (if uRow w = .dout then Instr.dout c d else .trainOut c d) →
        exec i s = .next (stepEnds c t w (doutBurst c t r w d x))) ∧
      (∀ e ∈ stepCmd c d, uRow w = e.1 → e.1 ∈ [URow.din, .dout, .trainIn, .trainOut] → burstLen r w = 0 →
        exec e.2.2 s = .next (stepEnds c t w (quietPins c x))) ∧
      (uRow w = .soft → exec (.softHandoff c) s =
        .next (stepEnds c t w (handoff c t r w (setCycle c r.dieRec (.idle (!uCe w)) x)))) ∧
      (uRow w = .end_ → uBus w = 0 → uDpath w ≠ 2 → r.kill = false → exec (.routineEnd c d) s =
        .next (endRoutine c t .normal (modRtn c t (loadRegs w) (setCycle c r.dieRec (.idle (!uCe w)) x)))))

/-- R162-R165, R174, R197: the yield check, at a microword with YIELD or at the first that drives BUS 1-7; a routine that
yields leaves the pins at their levels between routines and lets a waiting patch copy (log entries 41, 43, 139). -/
def Obligations.YieldPoints : Prop :=
  ∀ (c : Chan) (t : Thr) (r : Routine) (w : BitVec 128) (d : List Byte) (s y : State), StepAt c t r w s y →
    uYield w = true ∨ (r.passed = false ∧ 1 ≤ uBus w) → ∀ e ∈ stepCmd c d, uRow w = e.1 →
    (r.passed = false → r.abortP = true → exec e.2.2 s = .next (endRoutine c t .discard y)) ∧
    (r.passed = true → r.abortP = true ∨ r.expired = true → r.early = .none →
      exec e.2.2 s = .next (writePrg c t (uAbt w) r.upc false (modRtn c t (fun r => { r with
        early := if r.abortP then .abort else .timeout, abt := uAbt w, upc := uAbt w }) y))) ∧
    (∀ res park z, (r.passed = false ∧ r.abortP = false) ∨ (r.passed = true ∧ r.abortP = false ∧ r.expired = false) ∨
        (r.passed = true ∧ r.early ≠ .none) → res = (if uYield w then uRes w else r.upc) → park = (uYield w && uPark w) →
      (park = true ∨ mustYield y c t r = true →
        z = writePrg c t res r.upc park (modRtn c t (fun r => { r with
          passed := true, abt := uAbt w, ycount := satInc r.ycount }) y) →
        exec e.2.2 s = .next (boundary c (modChan c (fun ch => { ch with
            cur := none, reg := { ch.reg with pState := if ch.reg.pState = 1 then 2 else ch.reg.pState } })
          (idlePins c (modRtn c t (fun r => { r with
            st := if park then .parked else .yielded, parkDue := false,
            parkAt := z.time + nat64 (slotNs z c (uDly w)), upc := res }) z))))) ∧
      (park = false → mustYield y c t r = false →
        z = writePrg c t res r.upc false (modRtn c t (fun r => { r with passed := true, abt := uAbt w }) y) →
        exec e.2.2 s = .next (stepBody c t w e.2.1 z)))

/-- R53, R165, R167, R169, R200, R242: a routine's start, its park delay, its timeouts and its outcome; a DOP whose record
is VALID no longer does not start (log entry 138). -/
def Obligations.RoutineEvents : Prop :=
  ∀ (c : Chan) (t : Thr) (r : Routine) (s : State),
    (chanThere s c = true → quadUp s c = true → (chan s c).engine = 1 → (chan s c).cur = none →
      (chan s c).reg.pState = 0 → pickNext s c = some (t, r) →
      (r.started = false → entXfer r.ent = true → entTrain r.ent = false → calOk s c r.die = false →
        exec (.routineStart c) s = .next (tryEnd c t (dopRetry c t (wakeDopw c t
          (noteOut c t .calInvalid false (fenceClass s c r.num)
            (modThr c t (fun th => { th with rtn := none, dop := .calBad r.die }) s)))))) ∧
      (r.started = false → entXfer r.ent = false ∨ entTrain r.ent = true ∨ calOk s c r.die = true →
        samplesDue s c r.die = true → exec (.routineStart c) s = .next s) ∧
      (∀ x, x = boundary c s → (r.started = true ∨ (samplesDue s c r.die = false ∧
          (entXfer r.ent = false ∨ entTrain r.ent = true ∨ calOk s c r.die = true))) →
        ∀ z, z = (if r.started then x else firstStart c t r x) → exec (.routineStart c) s =
          .next (modRtn c t (fun q => { q with st := .running, parkDue := false, dieRec := dieRec z (dieIndex c r.die) })
            (modChan c (fun ch => { ch with cur := some t }) z)))) ∧
    ((chan s c).engine ≠ 1 ∨ (chan s c).cur ≠ none ∨ pickNext s c = none → exec (.routineStart c) s = .next s) ∧
    (rtnOf s c t = some r →
      (r.parkAt ≤ s.time → r.st = .parked → r.parkDue = false → exec (.parkExpiry c t) s =
        .next (modRtn c t (fun q => { q with parkDue := true, order := (chan s c).order })
          (modChan c (fun ch => { ch with order := ch.order + 1 }) s))) ∧
      (s.time < r.parkAt → exec (.parkExpiry c t) s = .next s) ∧
      (r.started = true → r.st ≠ .ended → entTmo r.ent ≠ 0 →
        (entTmo r.ent ≤ (s.time - r.startAt).toNat → r.st ≠ .parked → exec (.readyTimeout c t) s =
          .next (modRtn c t (fun q => { q with expired := true }) s)) ∧
        ((s.time - r.startAt).toNat < entTmo r.ent → exec (.readyTimeout c t) s = .next s) ∧
        (2 * entTmo r.ent ≤ (s.time - r.startAt).toNat →
          (r.wait = .none → exec (.routineKill c t) s = .next (endRoutine c t .engine s)) ∧
          (r.wait ≠ .none → exec (.routineKill c t) s = .next (modRtn c t (fun q => { q with kill := true }) s))) ∧
        ((s.time - r.startAt).toNat < 2 * entTmo r.ent → exec (.routineKill c t) s = .next s)) ∧
      (r.st = .ended → r.decodes = 0 → r.handoffs = 0 → exec (.outcomeWrite c t) s =
        .next (tryEnd c t (dopRetry c t (wakeDopw c t (noteOut c t
          (if r.endTmo then .timeout else .word (outcomeWord r)) r.poisoned (fenceClass s c r.num) (modThr c t (fun th => { th with
            rtn := none, dop := if r.endTmo then .timeout r.die else .done (outcomeWord r),
            lastOut := if r.endTmo then th.lastOut else outcomeWord r }) s)))))) ∧
      (r.st ≠ .ended ∨ r.decodes ≠ 0 ∨ r.handoffs ≠ 0 → exec (.outcomeWrite c t) s = .next s))

/-- R160, R224, R247, R434: pump starts, whose step leaves the bus quiet while it waits, tokens and the servo guard. Of a
routine that has consumed poison none is driven; one that aborts already is not sent to ABT again (log entry 42); which start
is next with TOTAL 0 is log entry 140. -/
def Obligations.PumpsAndTokens : Prop :=
  ∀ (c : Chan) (t : Thr) (r : Routine) (w : BitVec 128) (d : List Byte) (s y : State),
    (StepAt c t r w s y → uRow w = .cmd → uYield w = false → r.passed = true → pumpByte y c (srcByte r w) = true →
      ∀ p x, p = ({ c := c, t := t, since := s.time } : PumpWait) →
        x = modRtn c t (fun r => { r with wait := .pump })
          { quietPins c y with tok := { y.tok with waiting := y.tok.waiting ++ [p] } } →
      (r.poisoned = false → nextPump x ≠ some p → exec (.cmd c) s = .next x) ∧
      (r.poisoned = false → nextPump x = some p → exec (.cmd c) s = .next (admitPump p x)) ∧
      (r.poisoned = true → r.early = .none → exec (.cmd c) s =
        .next (goesTo c t r.abt (modRtn c t (fun r => { r with early := .poison }) (quietPins c y)))) ∧
      (r.poisoned = true → r.early ≠ .none → exec (.cmd c) s = .next (stepEnds c t w (quietPins c y)))) ∧
    (∀ p, nextPump s = some p → rtnOf s p.c p.t = some r → ∀ x, x = ({ s with tok := { s.tok with
        waiting := s.tok.waiting.filter (fun k => decide (k ≠ p)),
        out := if s.tok.total = 0 then s.tok.out
          else s.tok.out ++ [{ quad := quadOf p.c, due := s.time + nat64 (max 1 s.tok.hold.toNat) }],
        maxWait := if s.tok.maxWait.toNat < (s.time - p.since).toNat
          then BitVec.ofNat 32 (min (s.time - p.since).toNat 4294967295) else s.tok.maxWait } } : State) →
      exec .pumpStartAdmit s = .next (driveStep p.c p.t (stepWord s p.c r) [] x)) ∧
    (nextPump s = none → exec .pumpStartAdmit s = .next s) ∧
    ((chan s c).cur = some t → rtnOf s c t = some r →
      (r.wait = .guard → s.srv.dqEn = false ∨ guarded s = false → exec (.dqGuardRelease c d) s =
        .next (driveStep c t (stepWord s c r) d s)) ∧
      (r.wait ≠ .guard ∨ (s.srv.dqEn = true ∧ guarded s = true) → exec (.dqGuardRelease c d) s = .next s)) ∧
    (∀ a k b, s.tok.out = a ++ k :: b → (∀ q ∈ a, s.time < q.due) → k.due ≤ s.time →
      exec .tokenReturn s = .next { s with tok := { s.tok with out := a ++ b } }) ∧
    ((∀ q ∈ s.tok.out, s.time < q.due) → exec .tokenReturn s = .next s)

/-- R240-R246, R248, R250-R252: the ends of hard and soft decodes, and a soft decoder's input (the correction itself is
free: log entry 10; a soft decode works on its buffers as they stand at its end: log entry 141). -/
def Obligations.DecoderEnds : Prop :=
  ∀ (c : Chan) (s : State),
    ((chan s c).decq = [] → exec (.hardDecodeEnd c) s = .next s) ∧
    (∀ j rest x, (chan s c).decq = j :: rest → x = modChan c (fun ch => { ch with decq := rest }) s →
      (j.erased = true → exec (.hardDecodeEnd c) s = .next (tellHard j false c (cwReport c j.buf
        (report 0 false false 5 0 0 0) (rqChan c) (cwGood c j.buf (List.replicate 4160 0xFF) (rqChan c) x)))) ∧
      (j.erased = false → ∀ g q, g = cwRead c j.buf 0 (cwLen j.rate.toNat) (rqChan c) x →
        q = hardDecide j.rate.toNat (plain g.1) (passLimit j.iter) →
        (q.conv = true → crcOk q.word = true → ∀ k, k = corrCounts (plain g.1) q.word
              (scrBytes (cwLen j.rate.toNat) j.seed j.bypass) → ∀ z, z = cwReport c j.buf
              (report q.passes false false 0 k.1 k.2.1 k.2.2) (rqChan c) (cwGood c j.buf (q.word.take 4160) (rqChan c) g.2) →
          (j.sample = false → exec (.hardDecodeEnd c) s = .next (tellHard j false c z)) ∧
          (j.sample = true → exec (.hardDecodeEnd c) s = .next (tellHard j false c (plbSample c j.die j.zone j.ptype
            (BitVec.ofNat 16 (min k.2.1 65535)) (BitVec.ofNat 16 (min k.2.2 65535)) z)))) ∧
        (q.conv = false ∨ crcOk q.word = false → exec (.hardDecodeEnd c) s = .next (tellHard j true c
          (modReg c (fun r => { r with hardFail := satInc r.hardFail }) (cwReport c j.buf
            (report q.passes true false (if q.conv then 2 else 1) 0 0 0) (rqChan c) (cwPoison c j.buf g.2))))))) ∧
    (∀ h rest k, s.soft.queue = h :: rest → freeDecoder s = some k → exec .softAssign s =
      .next (softLook { s with soft := { s.soft with
        queue := rest, dec := tput k h s.soft.dec,
        maxWait := if s.soft.maxWait.toNat < (s.time - h.since).toNat
          then BitVec.ofNat 32 (min (s.time - h.since).toNat 4294967295) else s.soft.maxWait } })) ∧
    (s.soft.queue = [] → exec .softAssign s = .next s) ∧
    (∀ (hard : List Byte) (planes : List (List Byte)) (llr : W64) (i k m : Nat), m = bits llr (8 * ((List.range
        planes.length).map fun j => if bit ((planes.getD j []).getD i 0) k then 2 ^ j else 0).sum) 6 →
      softBit hard planes llr i k = if m = 0 then none else some (bit (hard.getD i 0) k, BitVec.ofNat 6 m)) ∧
    (∀ k : BitVec 4, s.soft.dec.find? (·.1 = k.toNat) = none → exec (.softDecodeEnd k) s = .next s) ∧
    (∀ (k : BitVec 4) h g q p, s.soft.dec.find? (·.1 = k.toNat) = some (k.toNat, h) →
      g = cwRead h.c h.buf 0 (cwLen h.rate.toNat) rqSoft { s with soft := { s.soft with dec := tdel k.toNat s.soft.dec } } →
      p = rereads h g.2 → ∀ hard, hard = xorBytes (plain g.1) (scrBytes (cwLen h.rate.toNat) h.seed h.bypass) →
      q = softDecide h.rate.toNat hard (softInput hard p.1 h.llr) (passLimit h.iter) →
      (q.conv = true → crcOk q.word = true → exec (.softDecodeEnd k) s = .next (softLook (tellSoft h (modReg h.c
        (fun r => { r with softOk := satInc r.softOk }) (cwReport h.c h.buf (report q.passes false false 3
          (oneBits (xorBytes hard q.word)) 0 0) rqSoft (cwGood h.c h.buf (q.word.take 4160) rqSoft p.2)))))) ∧
      (q.conv = false ∨ crcOk q.word = false → exec (.softDecodeEnd k) s = .next (softLook (tellSoft h (modReg h.c
        (fun r => { r with softFail := satInc r.softFail }) (cwReport h.c h.buf (report q.passes true false 4 0 0 0) rqSoft
          (cwPoison h.c h.buf (cwWrite h.c h.buf 0 (clean (hard.take 4160)) rqSoft p.2))))))))

/-- R89, R95, R100: what a thread holds when it takes an entry, and the copy of the entry in its frame, which is all that
changes of the memories. The dispatch word of an entry of another node names that node's queues, which no frame carries: free
values; that of a member fetch of Render is 0 (log entry 143). -/
def Obligations.ThreadTakesEntry : Prop :=
  ∀ (c : Chan) (t : Thr) (e : Entry) (s : State), freeThread s c = some t → nextEntry s c = some e →
    engineRuns s c = true →
    (takesNone s c = true → exec (.entryTakenByThread c) s = .next s) ∧
    (takesNone s c = false → entryOf s e.id = some e → ∃ y, exec (.entryTakenByThread c) s = .next y ∧
      (entryOf y e.id).map (·.stage) = some (.running c t) ∧
      (chan y c).slot = (if e.kind = .fetch then (chan s c).slot else none) ∧
      (thr y c t).run = true ∧ (thr y c t).slot = eOpcode e ∧ (thr y c t).entry = some e.id ∧
      (thr y c t).pc.toNat = (progSlot s c (eOpcode e)).toNat % 32768 ∧
      (∀ k < 8, k ≠ 5 → tget 0 (k + 1) (thr y c t).regs = eword e k) ∧
      tget 0 6 (thr y c t).regs = (eword e 5 &&& 0xFFFFFFFF) ||| (e.handle.setWidth 64 <<< 32) ∧
      (e.kind = .host → tget 0 9 (thr y c t).regs = nat64 (e.sq.toNat + 131072 * e.cq.toNat)) ∧
      (e.kind = .fetch → tget 0 9 (thr y c t).regs = 0) ∧
      (∀ src tag q m, e.kind = .remoteIn src tag q m → (tget 0 9 (thr y c t).regs).toNat / 2 ^ 34 = 2 ^ 14) ∧
      tget 0 10 (thr y c t).regs = nat64 (dieIndex c (eCtx e)) ∧
      tget 0 11 (thr y c t).regs = nat64 (frameOf t) ∧
      (∀ k, 12 ≤ k → k < 32 → tget 0 k (thr y c t).regs = 0) ∧ (thr y c t).prg = 0 ∧
      (∀ k < 8, ∀ i < 8, rawByte y (.scr c) (frameOf t + 8 * k + i) =
        BitVec.ofNat 8 (bits (tget 0 (k + 1) (thr y c t).regs) (8 * i) 8)) ∧
      (∀ sp p, sp ≠ .scr c ∨ p < frameOf t ∨ frameOf t + 64 ≤ p → rawByte y sp p = rawByte s sp p))

/-- R72, R73, R75: SRV_NEXT and the servo fault message (log entries 46, 47); what the message does to S0 is
`Spec.StreamFreeze`. -/
def Obligations.ServoMessages : Prop :=
  ∀ (n : W64) (m : BitVec 3) (l : BitVec 4) (s : State),
    exec (.srvPublish n) s = .next { s with srv := { s.srv with
      next := n, prev := s.srv.next,
      late := s.srv.late || decide (n ≠ 0 ∧ n.toNat < s.time.toNat + s.srv.pre.toNat ∧
        s.time.toNat < n.toNat + s.srv.post.toNat) } } ∧
    (s.gctl.boot = .inReset ∨ s.gctl.boot = .init → exec (.servoFaultMsg m l) s = .next s) ∧
    (s.gctl.boot ≠ .inReset → s.gctl.boot ≠ .init → ∃ t, exec (.servoFaultMsg m l) s = .next t ∧
      t.srv.fCount = satInc s.srv.fCount ∧ t.srv.fValid = true ∧
      t.srv.fLoop = (if s.srv.fValid then s.srv.fLoop else l) ∧
      t.srv.fMech = (if s.srv.fValid then s.srv.fMech else m) ∧ pendOf t srcServo = true)

/-- R331, R511, R520: FETCH_TURN completes wherever fetching may issue, an SQ has entries and the store has room: whose
turn it is, how many turns of its round are then gone, and what it issues; its fetches do not cross a 4,096 B boundary
(R63, log entry 55). The round of a normal SQ is over once it has no entries to fetch. -/
def Obligations.FetchTurns : Prop :=
  ∀ (s : State),
    (s.gctl.queues = true → s.gctl.halted = false → s.pfail = false ∨ s.pwr.noFetch = false →
      storeUsed s + storeDue s < 4096 →
      (∃ e ∈ s.qe.ctx, e.1 < 131072 ∧ e.2.enabled = true ∧ pendingOf e.2 ≠ 0) →
      (∀ e ∈ s.qe.ctx, e.2.cached = true) →
      ∃ q x u y n, turnQueue s = some (q, x, u) ∧ n = min (min (burstOf q x) (pendingOf x))
          (min (ringSize x.w0 - x.head.toNat) (4096 - (storeUsed s + storeDue s))) ∧
        exec .fetchTurn s = .next (List.foldl (fun s f => issueFetch (ringBase x.w0) f s) y
          (turnFetches q x s.qe.nextId n (cqName s (BitVec.ofNat 17 q)).toNat)) ∧
        y.fm = s.fm ∧ y.qe.wait = s.qe.wait ∧ y.qe.fetches = s.qe.fetches ∧ y.qe.nextId = s.qe.nextId + n ∧
        (qctx y q).head = BitVec.ofNat 16 ((x.head.toNat + n) % ringSize x.w0) ∧ (qctx y q).tail = x.tail ∧
        (u = true → y.qe.lastUrg = q ∧ y.qe.turns = 0) ∧
        (u = false → y.qe.lastNorm = q ∧ ∀ t, t = (if q = s.qe.lastNorm ∧ 0 < s.qe.turns ∧ s.qe.turns < weightOf x
            then s.qe.turns + 1 else 1) →
          y.qe.turns = if pendingOf (qctx y q) = 0 ∨ weightOf x ≤ t then 0 else t) ∧
        y.qe.store = s.qe.store ∧ y.stg = s.stg) ∧
    (∀ q x u, turnQueue s = some (q, x, u) →
      (q, x) ∈ s.qe.ctx ∧ q < 131072 ∧ x.enabled = true ∧ pendingOf x ≠ 0 ∧
      (u = true ↔ ∃ e ∈ fetchable s, isUrgent e.1 e.2 = true) ∧ (u = true → isUrgent q x = true) ∧
      (x.cached = false → mayFetch s = true → storeUsed s + storeDue s < 4096 →
        exec .fetchTurn s = .next (askCtx q s))) ∧
    (turnQueue s = none ∨ mayFetch s = false ∨ 4096 ≤ storeUsed s + storeDue s → exec .fetchTurn s = .next s) ∧
    (∀ k, endRound k s = if k = s.qe.lastNorm ∧ ((qctx s k).enabled = false ∨ pendingOf (qctx s k) = 0)
      then withQe (fun q => { q with turns := 0 }) s else s) ∧
    (∀ (ring : Nat) (f : Fetch), issueFetch ring f s =
      issueQe { port := 0, who := .fetch f.id, write := false, addr := ring + 64 * f.index.toNat, len := 64 * f.n }
        (withQe (fun g => { g with fetches := g.fetches ++ [f] }) s)) ∧
    (∀ (q : Nat) (x : QCtx) (id n cq : Nat), n ≤ 64 → x.head.toNat + n ≤ 65536 → ∀ fs, fs = turnFetches q x id n cq →
      (fs.map (·.n)).sum = n ∧ ∀ f ∈ fs, f.sq = BitVec.ofNat 17 q ∧ f.cq = BitVec.ofNat 17 cq ∧
        (ringBase x.w0 + 64 * f.index.toNat) % 4096 + 64 * f.n ≤ 4096 ∧
        f.id + x.head.toNat = id + f.index.toNat)

/-- R329, R345: an answered fetch is checked entry by entry, and the first bad one halts the block (log entry 59). -/
def Obligations.EntryChecks : Prop :=
  ∀ (k : Nat) (f : Fetch) (m : FmReq) (s y z : State), s.qe.fetches[k]? = some f → takeFm (.fetch f.id) s = some (m, y) →
    z = withQe (fun q => { q with fetches := q.fetches.filter fun g => decide (g.id ≠ f.id) }) y →
    ∀ fin, fin = (fun x => pumpEng 0
        (tryStop f.sq.toNat (if fetchHead x f.sq = fetchHead y f.sq then x else idxMoved f.sq.toNat x))) →
    (∀ r, y.gctl.halted = true → exec (.entryCheck k r) s = .next (pumpEng 0 z)) ∧
    (∀ r, y.gctl.halted = false → r = .error ∨ r = .poisoned →
      exec (.entryCheck k r) s = .next (fin (halt 7 f.sq f.index [] false z))) ∧
    (∀ ws ring, y.gctl.halted = false → ring = ringSize (qctx z f.sq.toNat).w0 →
      exec (.entryCheck k (.words ws)) s = .next (fin (checkEntries f ring 0 (groups8 f.n ws) z))) ∧
    (∀ (i ring : Nat) (ws : List W64) rest (x : State) (e : Entry), e = {
        id := f.id + i, sq := f.sq, cq := f.cq, index := BitVec.ofNat 16 ((f.index.toNat + i) % ring), words := ws } →
      (∀ c, entryCause x e = some c →
        checkEntries f ring i (ws :: rest) x = halt (BitVec.ofNat 8 c) f.sq e.index ws false x) ∧
      (entryCause x e = none → checkEntries f ring i (ws :: rest) x = checkEntries f ring (i + 1) rest (admitEntry e x)))

/-- R326-R329, R345: the cause of a halt that an entry's words give, in the rules' order; an entry of SQ0 is checked for
RESERVED_FIELD and BAD_ADMIN alone. -/
def Obligations.EntryCauses : Prop :=
  ∀ (e : Entry) (s : State) (w : Nat → W64), w = eword e →
    (e.sq = 0 → ∀ r, r = decide ((w 0).toNat / 2 ^ 52 ≠ 0 ∨ bits (w 0) 40 8 ≠ 0 ∨ bits (w 0) 32 6 ≠ 0 ∨ bits (w 0) 10 6 ≠ 0) →
      (r = true → entryCause s e = some 1) ∧
      (r = false → (8 < bits (w 0) 0 10 ∨ bits (w 0) 48 4 ≠ 0 ∨ bits (w 0) 38 2 ≠ 0 ∨ w 1 ≠ 0 → entryCause s e = some 6) ∧
        (bits (w 0) 0 10 ≤ 8 → bits (w 0) 48 4 = 0 → bits (w 0) 38 2 = 0 → w 1 = 0 → entryCause s e = none))) ∧
    (e.sq ≠ 0 →
    ((w 0).toNat / 2 ^ 52 ≠ 0 ∨ bits (w 0) 40 8 ≠ 0 ∨ bits (w 0) 32 6 ≠ 0 ∨ bits (w 0) 10 6 ≠ 0 ∨ bits (w 1) 24 12 ≠ 0 ∨
      bits (w 5) 32 32 ≠ 0 ∨ (bits (w 0) 48 2 ≠ 2 ∧ bits (w 4) 48 16 ≠ 0) ∨ (bits (w 0) 48 2 = 0 ∧ bits (w 4) 0 48 ≠ 0) →
      entryCause s e = some 1) ∧
    (reservedBad e = false → isLocal s (eNode e) = true →
      (nChan s ≤ bits (w 1) 42 6 → entryCause s e = some 3) ∧
      (bits (w 1) 42 6 < nChan s → (quad s (eQuad e)).known = true → slotValid s (eQuad e) (eOpcode e) = false →
        entryCause s e = some 2)) ∧
    (reservedBad e = false → isLocal s (eNode e) = false ∨ (bits (w 1) 42 6 < nChan s ∧
        ((quad s (eQuad e)).known = false ∨ slotValid s (eQuad e) (eOpcode e) = true)) →
      (bits (w 0) 50 2 = 3 ∨ (bits (w 0) 50 2 = 0 ∧ bits (w 0) 48 2 ≠ 0) ∨ (bits (w 0) 50 2 ≠ 0 ∧ bits (w 0) 48 2 = 0) →
        entryCause s e = some 4) ∧
      (bits (w 0) 50 2 = 0 → bits (w 0) 48 2 = 0 → (bits (w 5) 0 32 ≠ 0 → entryCause s e = some 5) ∧
        (bits (w 5) 0 32 = 0 → entryCause s e = none)) ∧
      (bits (w 0) 50 2 = 1 ∨ bits (w 0) 50 2 = 2 → bits (w 0) 48 2 ≠ 0 →
        (bits (w 5) 0 32 = 0 ∨ 266240 < bits (w 5) 0 32 ∨
          (bits (w 0) 48 2 = 2 ∧ (bits (w 4) 48 16 = 0 ∨ 256 < bits (w 4) 48 16)) → entryCause s e = some 5) ∧
        (1 ≤ bits (w 5) 0 32 → bits (w 5) 0 32 ≤ 266240 →
          (bits (w 0) 48 2 = 2 → 1 ≤ bits (w 4) 48 16 ∧ bits (w 4) 48 16 ≤ 256) → entryCause s e = none))))

/-- R317, R352, R353: answered reads and writes of queue contexts. A read is taken whole into the context (log entry 60);
doorbells wait also for a queue disabled meanwhile (log entry 67); addresses are modulo 2^48 (log entry 131); a read asked
for before the queue's last enable or disable is dropped, and made again where it is needed (log entry 152). A read for an
ENABLE of QE_QCTL that gets an error ends BUSY and halts the block (log entry 154). The INDEX that such a halt records, the
SQ's next head or 0 for a CQ, is the model's choice (log entry 153). -/
def Obligations.ContextTransfers : Prop :=
  ∀ (cq : Bool) (q : QNum) (k : Nat) (m : FmReq) (s y : State), k = ctxKey cq q →
    (takeFm (.ctxRead k) s = some (m, y) → (qctx y k).stale = true → ∀ ws z,
      z = modQctx k (fun x => { x with stale := false }) y →
      ((qctx y k).reading = true → (∀ g ∈ y.fm ++ y.qe.wait, g.who ≠ .ctxWrite k) → (qctx y k).due = [] →
        exec (.contextReadDone cq q (.words ws)) s = .next (pumpEng 0 (issueCtxRead k z))) ∧
      ((qctx y k).reading = false → exec (.contextReadDone cq q (.words ws)) s = .next (pumpEng 0 z))) ∧
    (takeFm (.ctxRead k) s = some (m, y) → (qctx y k).stale = false → ∀ z x,
      z = modQctx k (fun x => { x with reading := false }) y → x = qctx z k →
      (∀ ws b, x.enabled = false → x.stops = [] → y.qe.busy = some b → b.cq = cq → b.q = q →
        (∀ n, enableFault k ws z = some n → exec (.contextReadDone cq q (.words ws)) s =
          .next (pumpEng 0 (withQe (fun g => { g with busy := none, result := 2, reason := BitVec.ofNat 8 n }) z))) ∧
        (enableFault k ws z = none → exec (.contextReadDone cq q (.words ws)) s =
          .next (pumpEng 0 (qctlDone k (enableCtx k 1 ws z))))) ∧
      (∀ ws u, u = (if x.enabled = true ∨ x.stops ≠ [] then ctxReady k (cacheIn k (modQctx k (loadCtx k ws) z)) else z) →
        x.enabled = true ∨ x.stops ≠ [] ∨ y.qe.busy ≠ some ⟨cq, q⟩ →
        (∀ e, adminReader u k = some e → exec (.contextReadDone cq q (.words ws)) s =
          .next (pumpEng 0 (adminCtx e k ws u))) ∧
        (adminReader u k = none → exec (.contextReadDone cq q (.words ws)) s = .next (pumpEng 0 u)))) ∧
    (takeFm (.ctxRead k) s = some (m, y) → ∀ z x r u, r = .error ∨ r = .poisoned →
      z = modQctx k (fun x => { x with reading := false, stale := false }) y → x = qctx z k →
      u = (if x.enabled = false ∧ x.stops = [] ∧ y.qe.busy = some ⟨cq, q⟩
        then withQe (fun g => { g with busy := none }) z else z) →
      exec (.contextReadDone cq q r) s =
        .next (pumpEng 0 (halt 7 (if cq then 0 else q) (if cq then 0 else x.head) [] false u))) ∧
    (∀ (w : Nat) (ws : List W64) (a : Nat), a = (ctxAddr s k + 8 * w) % 2 ^ 48 →
      ((qctx s k).due = [] → (∀ g ∈ s.fm ++ s.qe.wait, g.who = .ctxWrite k →
          a + 8 * ws.length ≤ g.addr % 2 ^ 48 ∨ g.addr % 2 ^ 48 + g.len ≤ a) →
        issueCtxWrite k w ws s = issueQe (ctxWriteReq s k w ws) s) ∧
      ((qctx s k).due ≠ [] ∨ (∃ g ∈ s.fm ++ s.qe.wait, g.who = .ctxWrite k ∧
          g.addr % 2 ^ 48 < a + 8 * ws.length ∧ a < g.addr % 2 ^ 48 + g.len) →
        issueCtxWrite k w ws s = modQctx k (fun x => { x with due := x.due ++ [(w, ws)] }) s)) ∧
    (∀ n u, takeFmAt (.ctxWrite k) n s = some (m, u) → y = issueDue k u → ∀ z, z = withQe (fun g => { g with
        ctxError := true, ctxCq := if g.ctxError then g.ctxCq else cq,
        ctxQueue := if g.ctxError then g.ctxQueue else q }) y →
      ((qctx y k).reading = false → exec (.contextWriteResponse cq q ⟨n, false⟩) s = .next (pumpEng 0 y)) ∧
      ((qctx y k).stale = true → exec (.contextWriteResponse cq q ⟨n, false⟩) s = .next (pumpEng 0 y)) ∧
      ((qctx y k).reading = true → (qctx y k).stale = false → (∀ g ∈ y.fm ++ y.qe.wait, g.who ≠ .ctxWrite k) →
        (qctx y k).due = [] → exec (.contextWriteResponse cq q ⟨n, false⟩) s = .next (pumpEng 0 (issueCtxRead k y))) ∧
      ((qctx y k).reading = false → (qctx y k).cached = true ∨ m.len ≠ 8 ∨ m.addr ≠ (ctxAddr y k + 24) % 2 ^ 48 →
        exec (.contextWriteResponse cq q ⟨n, true⟩) s = .next (pumpEng 0 z)) ∧
      ((qctx y k).enabled = true ∨ (qctx y k).stops ≠ [] → (qctx y k).cached = false → m.len = 8 →
        m.addr = (ctxAddr y k + 24) % 2 ^ 48 → ∀ u v,
        u = withQe (fun g => { g with lru := k :: g.lru })
          (modQctx k (fun x => { x with cached := true, reading := false }) z) →
        v = ctxReady k (if 4096 < u.qe.lru.length then evictOne k u else u) →
        (adminReader v k = none → exec (.contextWriteResponse cq q ⟨n, true⟩) s = .next (pumpEng 0 v)) ∧
        (∀ e, adminReader v k = some e → exec (.contextWriteResponse cq q ⟨n, true⟩) s =
          .next (pumpEng 0 (adminCtx e k [(qctx y k).w0, (qctx y k).w1, (qctx y k).w2, 0] v)))))

/-- Fragment tables, buffers and dispatch of entries. Each part cites its rules. -/
def Obligations.EntryAdvance : Prop :=
  Spec.EntryPreparation ∧ Spec.EntryDispatch

/-- Completions, their writes, batches and index blocks. Each part cites its rules. -/
def Obligations.Completions : Prop :=
  Spec.CompletionPosting ∧ Spec.CompletionWrites ∧ Spec.BatchesAndIndexes

/-- The commands of the admin queue. Each part cites its rules. -/
def Obligations.AdminCommands : Prop :=
  Spec.AdminRefusals ∧ Spec.AdminCommands
end

