-- ==== Sys2Proof/Laws/Tables.lean ====
section
/-! SUPPORT. The sparse tables: reading after writing, and the canonical form that every write keeps. -/

namespace Sys2Proof.Machine

section
variable {α : Type}

/-! ## Reading after writing -/

theorem tget_eq (d : α) (k : Nat) (m : List (Nat × α)) :
    tget d k m = ((m.find? (·.1 == k)).map (·.2)).getD d := by
  unfold tget
  cases m.find? (·.1 == k) <;> rfl

theorem find_filter_lt (k j : Nat) (m : List (Nat × α)) (h : j < k) :
    (m.filter (·.1 < k)).find? (·.1 == j) = m.find? (·.1 == j) := by
  induction m with
  | nil => rfl
  | cons e m ih =>
    by_cases hj : e.1 = j
    · simp [hj, h]
    · by_cases hk : e.1 < k
      · simp [hj, hk, ih]
      · simp [hj, hk, ih]

theorem find_filter_gt (k j : Nat) (m : List (Nat × α)) (h : k ≤ j) :
    (m.filter (k ≤ ·.1)).find? (·.1 == j) = m.find? (·.1 == j) := by
  induction m with
  | nil => rfl
  | cons e m ih =>
    by_cases hj : e.1 = j
    · simp [hj, h]
    · by_cases hk : k ≤ e.1
      · simp [hj, hk, ih]
      · simp [hj, hk, ih]

theorem find_filter_none {p : Nat × α → Bool} (j : Nat) (m : List (Nat × α)) (h : ∀ e ∈ m, e.1 = j → p e = false) :
    (m.filter p).find? (·.1 == j) = none := by
  rw [List.find?_eq_none]
  intro e he
  have := List.mem_filter.mp he
  intro hj
  have := h e this.1 (by simpa using hj)
  simp_all

/-- The key written reads as the value written. -/
theorem tget_tput_same (d : α) (k : Nat) (v : α) (m : List (Nat × α)) : tget d k (tput k v m) = v := by
  unfold tget tput
  rw [List.find?_append, find_filter_none k m (by intro e _ h; simp [h])]
  simp

/-- Every other key reads as before. -/
theorem tget_tput_other (d : α) (k j : Nat) (v : α) (m : List (Nat × α)) (h : j ≠ k) :
    tget d j (tput k v m) = tget d j m := by
  have e : ((tput k v m).find? (·.1 == j)) = m.find? (·.1 == j) := by
    unfold tput
    rw [List.find?_append, List.find?_cons]
    rcases Nat.lt_or_gt_of_ne h with hl | hg
    · rw [find_filter_lt k j m hl, find_filter_none j m (by intro e _ h'; simp [h']; omega)]
      have : ((k, v).1 == j) = false := by simp; omega
      rw [this]; simp
    · rw [find_filter_none j m (by intro e _ h'; simp [h']; omega)]
      have : ((k, v).1 == j) = false := by simp; omega
      rw [this]
      have := find_filter_gt (k + 1) j m hg
      simpa [Nat.succ_le_iff] using this
  unfold tget
  rw [e]

theorem tget_tput (d : α) (k j : Nat) (v : α) (m : List (Nat × α)) :
    tget d j (tput k v m) = if j = k then v else tget d j m := by
  by_cases h : j = k
  · subst h; simp [tget_tput_same]
  · simp [h, tget_tput_other]

theorem tget_tdel (d : α) (k j : Nat) (m : List (Nat × α)) :
    tget d j (tdel k m) = if j = k then d else tget d j m := by
  by_cases h : j = k
  · subst h
    unfold tget tdel
    rw [List.find?_append, find_filter_none j m (by intro e _ h; simp [h]),
      find_filter_none j m (by intro e _ h; simp [h])]
    simp
  · have e : ((tdel k m).find? (·.1 == j)) = m.find? (·.1 == j) := by
      unfold tdel
      rw [List.find?_append]
      rcases Nat.lt_or_gt_of_ne h with hl | hg
      · rw [find_filter_lt k j m hl, find_filter_none j m (by intro e _ h'; simp [h']; omega)]
        simp
      · rw [find_filter_none j m (by intro e _ h'; simp [h']; omega)]
        have := find_filter_gt (k + 1) j m hg
        simpa [Nat.succ_le_iff] using this
    unfold tget
    rw [e]
    simp [h]

theorem tget_tset [DecidableEq α] (d : α) (k j : Nat) (v : α) (m : List (Nat × α)) :
    tget d j (tset d k v m) = if j = k then v else tget d j m := by
  unfold tset
  by_cases hv : v = d
  · simp [hv, tget_tdel]
  · simp [hv, tget_tput]

theorem tget_tmod (d : α) (k j : Nat) (f : α → α) (m : List (Nat × α)) :
    tget d j (tmod d k f m) = if j = k then f (tget d k m) else tget d j m := by
  unfold tmod
  exact tget_tput d k j _ m

/-! ## A property of every listed value -/

/-- Every listed value satisfies `P`. -/
def TAll (P : α → Prop) (m : List (Nat × α)) : Prop := ∀ e ∈ m, P e.2

theorem TAll.tget {P : α → Prop} {m : List (Nat × α)} {d : α} (h : TAll P m) (hd : P d) (k : Nat) :
    P (tget d k m) := by
  unfold Machine.tget
  split
  · next e he => exact h e (List.mem_of_find?_eq_some he)
  · exact hd

theorem TAll.tput {P : α → Prop} {m : List (Nat × α)} {v : α} (h : TAll P m) (hv : P v) (k : Nat) :
    TAll P (tput k v m) := by
  intro e he
  unfold Machine.tput at he
  rcases List.mem_append.mp he with he | he
  · exact h e (List.mem_filter.mp he).1
  · rcases List.mem_cons.mp he with he | he
    · subst he; exact hv
    · exact h e (List.mem_filter.mp he).1

theorem TAll.tmod {P : α → Prop} {m : List (Nat × α)} {d : α} {f : α → α} (h : TAll P m) (hd : P d)
    (hf : ∀ x, P x → P (f x)) (k : Nat) : TAll P (tmod d k f m) :=
  h.tput (hf _ (h.tget hd k)) k

theorem TAll.map {P : α → Prop} {m : List (Nat × α)} {f : Nat × α → Nat × α} (h : TAll P m)
    (hf : ∀ e, P e.2 → P (f e).2) : TAll P (m.map f) := by
  intro e he
  obtain ⟨x, hx, rfl⟩ := List.mem_map.mp he
  exact hf x (h x hx)

theorem TAll.nil {P : α → Prop} : TAll P ([] : List (Nat × α)) := by intro e he; cases he

/-! ## Canonical form -/

/-- Keys strictly rising, no default listed. -/
def Canon (d : α) (m : List (Nat × α)) : Prop := m.Pairwise (fun a b => a.1 < b.1) ∧ ∀ e ∈ m, e.2 ≠ d

theorem twf_iff [DecidableEq α] (d : α) (m : List (Nat × α)) : twf d m = true ↔ Canon d m := by
  unfold twf Canon
  simp [List.pairwise_map]

theorem Canon.nil (d : α) : Canon d ([] : List (Nat × α)) := ⟨List.Pairwise.nil, by intro e he; cases he⟩

theorem Canon.filter {d : α} {m : List (Nat × α)} (h : Canon d m) (p : Nat × α → Bool) : Canon d (m.filter p) :=
  ⟨h.1.filter _, fun e he => h.2 e (List.mem_filter.mp he).1⟩

theorem Canon.append {d : α} {a b : List (Nat × α)} (ha : Canon d a) (hb : Canon d b)
    (h : ∀ x ∈ a, ∀ y ∈ b, x.1 < y.1) : Canon d (a ++ b) :=
  ⟨List.pairwise_append.mpr ⟨ha.1, hb.1, h⟩, fun e he => by
    rcases List.mem_append.mp he with he | he
    · exact ha.2 e he
    · exact hb.2 e he⟩

theorem cells_bounds [DecidableEq α] (d : α) (vs : List α) :
    ∀ a, ∀ e ∈ cells d a vs, a ≤ e.1 ∧ e.1 < a + vs.length := by
  induction vs with
  | nil => intro a e he; cases he
  | cons v vs ih =>
    intro a e he
    unfold cells at he
    split at he
    · have := ih (a + 1) e he; simp only [List.length_cons]; omega
    · rcases List.mem_cons.mp he with he | he
      · subst he; simp
      · have := ih (a + 1) e he; simp only [List.length_cons]; omega

theorem Canon.cells [DecidableEq α] (d : α) (vs : List α) : ∀ a, Canon d (cells d a vs) := by
  induction vs with
  | nil => intro a; exact Canon.nil d
  | cons v vs ih =>
    intro a
    unfold Machine.cells
    split
    · exact ih (a + 1)
    · next hv =>
      refine ⟨List.pairwise_cons.mpr ⟨fun e he => ?_, (ih (a + 1)).1⟩, fun e he => ?_⟩
      · have := cells_bounds d vs (a + 1) e he; simp; omega
      · rcases List.mem_cons.mp he with he | he
        · subst he; exact hv
        · exact (ih (a + 1)).2 e he

/-- A write of one value keeps the canonical form. -/
theorem Canon.tset [DecidableEq α] {d : α} {m : List (Nat × α)} (h : Canon d m) (k : Nat) (v : α) :
    Canon d (tset d k v m) := by
  unfold Machine.tset
  split
  · unfold tdel
    refine (h.filter _).append (h.filter _) fun x hx y hy => ?_
    have hx := (List.mem_filter.mp hx).2
    have hy := (List.mem_filter.mp hy).2
    simp at hx hy; omega
  · next hv =>
    unfold tput
    refine (h.filter _).append ⟨List.pairwise_cons.mpr ⟨fun y hy => ?_, (h.filter _).1⟩, fun e he => ?_⟩
      fun x hx y hy => ?_
    · have := (List.mem_filter.mp hy).2; simpa using this
    · rcases List.mem_cons.mp he with he | he
      · subst he; exact hv
      · exact (h.filter _).2 e he
    · have hx := (List.mem_filter.mp hx).2
      rcases List.mem_cons.mp hy with hy | hy
      · subst hy; simpa using hx
      · have hy := (List.mem_filter.mp hy).2
        simp at hx hy; omega

/-- A write of a run of values keeps the canonical form. -/
theorem Canon.tsets [DecidableEq α] {d : α} {m : List (Nat × α)} (h : Canon d m) (a : Nat) (vs : List α) :
    Canon d (tsets d a vs m) := by
  unfold Machine.tsets
  refine ((h.filter _).append (Canon.cells d vs a) fun x hx y hy => ?_).append (h.filter _) fun x hx y hy => ?_
  · have hx := (List.mem_filter.mp hx).2
    have := cells_bounds d vs a y hy
    simp at hx; omega
  · have hy := (List.mem_filter.mp hy).2
    simp at hy
    rcases List.mem_append.mp hx with hx | hx
    · have hx := (List.mem_filter.mp hx).2
      simp at hx; omega
    · have := cells_bounds d vs a x hx
      omega

/-! ## Runs of cells -/

theorem find_cells [DecidableEq α] (d : α) (vs : List α) : ∀ a j,
    (((cells d a vs).find? (·.1 == j)).map (·.2)).getD d =
      if a ≤ j ∧ j < a + vs.length then vs.getD (j - a) d else d := by
  induction vs with
  | nil => intro a j; simp [cells]
  | cons v vs ih =>
    intro a j
    unfold cells
    by_cases hj : j = a
    · subst hj
      by_cases hv : v = d
      · have := ih (j + 1) j
        simp only [hv, if_true]
        rw [this, if_neg (by omega)]
        simp
      · simp [hv]
    · have := ih (a + 1) j
      have key : (if a + 1 ≤ j ∧ j < a + 1 + vs.length then vs.getD (j - (a + 1)) d else d) =
          if a ≤ j ∧ j < a + (v :: vs).length then (v :: vs).getD (j - a) d else d := by
        by_cases hr : a ≤ j ∧ j < a + (v :: vs).length
        · have hr' := hr
          simp only [List.length_cons] at hr'
          rw [if_pos hr, if_pos (by omega)]
          obtain ⟨n, rfl⟩ : ∃ n, j = a + 1 + n := ⟨j - (a + 1), by omega⟩
          have e1 : a + 1 + n - (a + 1) = n := by omega
          have e2 : a + 1 + n - a = n + 1 := by omega
          simp [e1, e2]
        · simp only [List.length_cons] at hr
          rw [if_neg (by omega), if_neg (by simp only [List.length_cons]; omega)]
      by_cases hv : v = d
      · simp only [hv, if_true]
        rw [this]
        simpa [hv] using key
      · simp only [hv, if_false]
        rw [List.find?_cons]
        have : ((a, v).1 == j) = false := by simp; omega
        rw [this]
        simpa using (ih (a + 1) j).trans key

/-- What a table reads after a run of values is written. -/
theorem tget_tsets [DecidableEq α] (d : α) (a j : Nat) (vs : List α) (m : List (Nat × α)) :
    tget d j (tsets d a vs m) = if a ≤ j ∧ j < a + vs.length then vs.getD (j - a) d else tget d j m := by
  rw [tget_eq, tget_eq]
  unfold tsets
  rw [List.find?_append, List.find?_append]
  by_cases h1 : j < a
  · rw [find_filter_lt a j m h1, find_filter_none (p := fun e => decide (a + vs.length ≤ e.1)) j m
      (by intro e _ h'; simp [h']; omega)]
    have hc : (cells d a vs).find? (·.1 == j) = none := by
      rw [List.find?_eq_none]; intro e he hj
      have := cells_bounds d vs a e he
      simp at hj; omega
    rw [hc, if_neg (by omega)]
    simp
  · by_cases h2 : j < a + vs.length
    · rw [find_filter_none (p := fun e => decide (e.1 < a)) j m (by intro e _ h'; simp [h']; omega),
        find_filter_none (p := fun e => decide (a + vs.length ≤ e.1)) j m (by intro e _ h'; simp [h']; omega)]
      have := find_cells d vs a j
      rw [if_pos ⟨by omega, h2⟩] at this ⊢
      rw [← this]
      simp
    · rw [find_filter_none (p := fun e => decide (e.1 < a)) j m (by intro e _ h'; simp [h']; omega)]
      have hc : (cells d a vs).find? (·.1 == j) = none := by
        rw [List.find?_eq_none]; intro e he hj
        have := cells_bounds d vs a e he
        simp at hj; omega
      rw [hc, find_filter_gt (a + vs.length) j m (by omega), if_neg (by omega)]
      simp

end

end Sys2Proof.Machine
end

