-- ==== Sys2Proof/Laws/KeptBase.lean ====
section
/-! SUPPORT. What every step keeps, in one relation: the variant, the queue of the commands that wait, the capacity
of the streams and the canonical form of the memories. One lemma per way of building a state. -/

namespace Sys2Proof.Machine

open Sys2Proof

/-- The canonical form of a checked memory, as a proposition. -/
def RamOk (r : Ram) : Prop := Canon 0 r.bytes ∧ Canon false r.bad ∧ Canon false r.mark ∧ Canon false r.group

theorem Ram.wf_iff (r : Ram) : r.wf = true ↔ RamOk r := by
  unfold Ram.wf RamOk
  simp [twf_iff, and_assoc]

theorem RamOk.empty : RamOk {} := ⟨Canon.nil _, Canon.nil _, Canon.nil _, Canon.nil _⟩

/-- The memories of a channel. -/
def ChanOk (x : Channel) : Prop := RamOk x.scratch ∧ RamOk x.cwb

theorem ChanOk.empty : ChanOk {} := ⟨RamOk.empty, RamOk.empty⟩

/-- A stream holds at most as many words and credits as it has places. -/
def StrmOk (x : Strm) : Prop := x.words.length + x.credits ≤ 256

theorem StrmOk.empty : StrmOk {} := by unfold StrmOk; decide

/-- The variant is `v`, the waiting commands are `q`, every stream fits and every memory is canonical. -/
structure Kept (v : Variant) (q : List Instr) (s : State) : Prop where
  variant : s.variant = v
  pending : s.pending = q
  str : TAll StrmOk s.str
  stg : RamOk s.stg
  ch : TAll ChanOk s.ch

variable {v : Variant} {q : List Instr}

theorem kept_iff (s : State) :
    Kept v q s ↔ s.variant = v ∧ s.pending = q ∧ StreamsFit s ∧ Memory.wf s = true := by
  constructor
  · intro h
    refine ⟨h.1, h.2, h.3, ?_⟩
    unfold Memory.wf
    simp only [Bool.and_eq_true, List.all_eq_true, Ram.wf_iff]
    exact ⟨h.4, h.5⟩
  · rintro ⟨h1, h2, h3, h4⟩
    unfold Memory.wf at h4
    simp only [Bool.and_eq_true, List.all_eq_true, Ram.wf_iff] at h4
    exact ⟨h1, h2, h3, h4.1, h4.2⟩

/-- A state that differs elsewhere only. -/
theorem Kept.upd {s t : State} (h : Kept v q s) (h1 : t.variant = s.variant) (h2 : t.pending = s.pending)
    (h3 : t.str = s.str) (h4 : t.stg = s.stg) (h5 : t.ch = s.ch) : Kept v q t :=
  ⟨h1.trans h.1, h2.trans h.2, h3 ▸ h.3, h4 ▸ h.4, h5 ▸ h.5⟩

/-- A state that is built from another and differs elsewhere only. -/
theorem Kept.mk_upd {s : State} {time : W64} {free : Nat} {pfail : Bool} {brownout : Bool} {gctl : Gctl} {pwr : Pwr} {tok : Tok} {cal : Cal} {srv : Srv} {ic : Ic} {hawk : Hawk} {eng : Tab Eng} {xfer : List Xfer} {rnd : Rnd} {qe : Qe} {plb : Plb} {soft : Soft} {intg : Intg} {prm : Prm} {lath : Lath} {quad : Tab Quad} {port : Port} {fm : List FmReq} (h : Kept v q s) :
    Kept v q (State.mk s.variant time free pfail brownout gctl pwr tok cal srv ic s.str hawk eng xfer rnd qe plb soft intg s.stg prm lath quad s.ch port fm s.pending) :=
  ⟨h.1, h.2, h.3, h.4, h.5⟩

/-- A choice between states. -/
theorem Kept.ite {c : Prop} [Decidable c] {s t : State} (h1 : Kept v q s) (h2 : Kept v q t) :
    Kept v q (if c then s else t) := by split <;> assumption

/-- A choice between pairs. -/
theorem Kept.ite2 {α : Type} {c : Prop} [Decidable c] {x y : α × State} (h1 : Kept v q x.2) (h2 : Kept v q y.2) :
    Kept v q (if c then x else y).2 := by split <;> assumption

/-- A fold over a list. -/
theorem Kept.foldl {α : Type} {f : State → α → State} (hf : ∀ s a, Kept v q s → Kept v q (f s a)) :
    ∀ (l : List α) (s : State), Kept v q s → Kept v q (l.foldl f s)
  | [], _, h => h
  | a :: l, s, h => Kept.foldl hf l (f s a) (hf s a h)

/-- A fold that carries a value beside the state. -/
theorem Kept.foldl2 {α β : Type} {f : β × State → α → β × State}
    (hf : ∀ p a, Kept v q p.2 → Kept v q (f p a).2) :
    ∀ (l : List α) (p : β × State), Kept v q p.2 → Kept v q (l.foldl f p).2
  | [], _, h => h
  | a :: l, p, h => Kept.foldl2 hf l (f p a) (hf p a h)

/-- What an instruction does keeps the invariants. -/
def EffKept (v : Variant) (q : List Instr) : Eff → Prop
  | .write _ _ _ s | .plain s | .waited _ _ s | .waited0 s | .branch _ s | .event _ _ s | .wait _ s | .gone s =>
    Kept v q s

theorem EffKept.write {rd : BitVec 5} {d : Nat} {x : W64} {s : State} (h : Kept v q s) :
    EffKept v q (.write rd d x s) := h
theorem EffKept.plain {s : State} (h : Kept v q s) : EffKept v q (.plain s) := h
theorem EffKept.waited {rd : BitVec 5} {x : W64} {s : State} (h : Kept v q s) : EffKept v q (.waited rd x s) := h
theorem EffKept.waited0 {s : State} (h : Kept v q s) : EffKept v q (.waited0 s) := h
theorem EffKept.branch {n : BitVec 15} {s : State} (h : Kept v q s) : EffKept v q (.branch n s) := h
theorem EffKept.event {c : BitVec 4} {d : W64} {s : State} (h : Kept v q s) : EffKept v q (.event c d s) := h
theorem EffKept.wait {w : TWait} {s : State} (h : Kept v q s) : EffKept v q (.wait w s) := h
theorem EffKept.gone {s : State} (h : Kept v q s) : EffKept v q (.gone s) := h

/-- A choice between effects. -/
theorem EffKept.ite {c : Prop} [Decidable c] {x y : Eff} (h1 : EffKept v q x) (h2 : EffKept v q y) :
    EffKept v q (if c then x else y) := by split <;> assumption

/-- What a command answers keeps the invariants. -/
def OutKept (v : Variant) (q : List Instr) : Out → Prop
  | .next t => Kept v q t
  | _ => True

theorem OutKept.next {t : State} (h : Kept v q t) : OutKept v q (.next t) := h

/-- The state that comes with an optional value keeps the invariants. -/
def OptKept {α : Type} (v : Variant) (q : List Instr) (x : Option (α × State)) : Prop :=
  ∀ p, x = some p → Kept v q p.2

/-- An optional state keeps the invariants. -/
def OptKept1 (v : Variant) (q : List Instr) (x : Option State) : Prop := ∀ t, x = some t → Kept v q t

theorem OptKept.none {α : Type} : OptKept v q (none : Option (α × State)) := by intro p h; cases h

theorem OptKept.some {α : Type} {p : α × State} (h : Kept v q p.2) : OptKept v q (some p) := by
  intro p' h'; cases h'; exact h

theorem OptKept.ite {α : Type} {c : Prop} [Decidable c] {x y : Option (α × State)} (h1 : OptKept v q x)
    (h2 : OptKept v q y) : OptKept v q (if c then x else y) := by split <;> assumption

theorem OptKept1.none : OptKept1 v q none := by intro p h; cases h

theorem OptKept1.some {t : State} (h : Kept v q t) : OptKept1 v q (some t) := by intro p' h'; cases h'; exact h

theorem OptKept1.map {f : State → State} {x : Option State} (hf : ∀ s, Kept v q s → Kept v q (f s))
    (h : OptKept1 v q x) : OptKept1 v q (x.map f) := by
  cases x with
  | none => exact OptKept1.none
  | some s => exact OptKept1.some (hf s (h s rfl))

theorem OptKept1.of_map {α : Type} {f : α → State} {x : Option α} (hf : ∀ a, Kept v q (f a)) :
    OptKept1 v q (x.map f) := by
  cases x with
  | none => exact OptKept1.none
  | some a => exact OptKept1.some (hf a)

theorem OptKept1.getD {x : Option State} {d : State} (h : OptKept1 v q x) (hd : Kept v q d) : Kept v q (x.getD d) := by
  cases x with
  | none => exact hd
  | some s => exact h s rfl

theorem OptKept1.findSome {α : Type} {f : α → Option State} (hf : ∀ a, OptKept1 v q (f a)) :
    ∀ l : List α, OptKept1 v q (l.findSome? f)
  | [] => OptKept1.none
  | a :: l => by
    rw [List.findSome?_cons]
    split
    · next h => exact OptKept1.some (hf a _ h)
    · exact OptKept1.findSome hf l

/-- The state of a pair that stands written out. -/
theorem Kept.mkp {α : Type} {a : α} {s : State} (h : Kept v q s) : Kept v q (a, s).2 := h

theorem Kept.mkp2 {α β : Type} {a : α} {b : β} {s : State} (h : Kept v q s) : Kept v q (a, b, s).2.2 := h

/-- The state of a pair. -/
theorem Kept.snd {α : Type} {x : α × State} {a : α} {s : State} (e : x = (a, s)) (h : Kept v q x.2) : Kept v q s := by
  subst e; exact h

theorem Kept.snd2 {α β : Type} {x : α × β × State} {a : α} {b : β} {s : State} (e : x = (a, b, s))
    (h : Kept v q x.2.2) : Kept v q s := by
  subst e; exact h

theorem Kept.opt {α : Type} {x : Option (α × State)} {a : α} {s : State} (e : x = .some (a, s))
    (h : OptKept v q x) : Kept v q s := h _ e

theorem Kept.opt2 {α : Type} {x : Option (α × State)} {p : α × State} (e : x = .some p)
    (h : OptKept v q x) : Kept v q p.2 := h _ e

theorem Kept.opt1 {x : Option State} {s : State} (e : x = .some s) (h : OptKept1 v q x) : Kept v q s := h _ e

/-! ## Parts of the state -/

theorem modChan_kept {c : Chan} {f : Channel → Channel} {s : State} (h : Kept v q s)
    (hf : ∀ x, ChanOk x → ChanOk (f x)) : Kept v q (modChan c f s) :=
  ⟨h.1, h.2, h.3, h.4, h.5.tput (hf _ (h.5.tget ChanOk.empty _)) _⟩

theorem modStrm_kept {i : Nat} {f : Strm → Strm} {s : State} (h : Kept v q s)
    (hf : ∀ x, StrmOk x → StrmOk (f x)) : Kept v q (modStrm i f s) :=
  ⟨h.1, h.2, h.3.tput (hf _ (h.3.tget StrmOk.empty _)) _, h.4, h.5⟩

theorem Kept.strm {s : State} (h : Kept v q s) (i : Nat) : StrmOk (strm s i) := h.3.tget StrmOk.empty i

theorem Kept.chan {s : State} (h : Kept v q s) (c : Chan) : ChanOk (chan s c) := h.5.tget ChanOk.empty _

theorem Kept.ram {s : State} (h : Kept v q s) (sp : Sp) : RamOk (ram s sp) := by
  cases sp with
  | stg => exact h.4
  | scr c => exact (h.chan c).1
  | cwb c => exact (h.chan c).2

theorem setRam_kept {sp : Sp} {r : Ram} {s : State} (h : Kept v q s) (hr : RamOk r) : Kept v q (setRam sp r s) := by
  cases sp with
  | stg => exact ⟨h.1, h.2, h.3, hr, h.5⟩
  | scr c => unfold setRam; refine modChan_kept h ?_; intro x hx; exact ⟨hr, hx.2⟩
  | cwb c => unfold setRam; refine modChan_kept h ?_; intro x hx; exact ⟨hx.1, hr⟩

theorem modRam_kept {sp : Sp} {f : Ram → Ram} {s : State} (h : Kept v q s) (hf : ∀ r, RamOk r → RamOk (f r)) :
    Kept v q (modRam sp f s) := setRam_kept h (hf _ (h.ram sp))

theorem modThr_kept {c : Chan} {t : Thr} {f : Thread → Thread} {s : State} (h : Kept v q s) :
    Kept v q (modThr c t f s) := modChan_kept h fun _ hx => hx

theorem modReg_kept {c : Chan} {f : ChReg → ChReg} {s : State} (h : Kept v q s) : Kept v q (modReg c f s) :=
  modChan_kept h fun _ hx => hx

end Sys2Proof.Machine
end

