-- ==== Sys2Proof/Laws/KeptOps.lean ====
section
/-! SUPPORT. What KeptBase says of a step, for the shared operations, buffers, transfers and the sending side of the Lath: one lemma per function. -/

namespace Sys2Proof.Machine

open Sys2Proof

variable {V : Variant} {Q : List Instr}

set_option maxRecDepth 8000

/-! ## Ops -/

theorem modQuad_kept {q : BitVec 4} {f : Quad → Quad} {s : State} (hK : Kept V Q s) : Kept V Q (modQuad q f s) :=
  hK.mk_upd

theorem modEng_kept {e : BitVec 2} {f : Eng → Eng} {s : State} (hK : Kept V Q s) : Kept V Q (modEng e f s) :=
  hK.mk_upd

theorem modPool_kept {k : Nat} {f : Pool → Pool} {s : State} (hK : Kept V Q s) : Kept V Q (modPool k f s) :=
  hK.mk_upd

theorem modProc_kept {p : Nat} {f : Proc → Proc} {s : State} (hK : Kept V Q s) : Kept V Q (modProc p f s) :=
  hK.mk_upd

theorem draw_kept {s : State} (hK : Kept V Q s) : Kept V Q (draw s).2 := hK.mk_upd

theorem setDom_kept {d : Nat} {x : DomSt} {s : State} (hK : Kept V Q s) : Kept V Q (setDom d x s) := hK.mk_upd

theorem setPend_kept {n : Nat} {b : Bool} {s : State} (hK : Kept V Q s) : Kept V Q (setPend n b s) := hK.mk_upd

theorem post_kept {n : Nat} {s : State} (hK : Kept V Q s) : Kept V Q (post n s) := setPend_kept hK

theorem resample_kept {s : State} (hK : Kept V Q s) : Kept V Q (resample s) := by
  unfold resample
  repeat' first
      | assumption | apply post_kept | apply Kept.ite

theorem grantPlaces_kept {i : Nat} {s : State} (h : Kept V Q s) : Kept V Q (grantPlaces i s) := by
  unfold grantPlaces
  split
  · refine modStrm_kept h fun x hx => ?_
    unfold StrmOk at *
    dsimp only
    omega
  · exact h

theorem crossing_kept {i : Nat} {before : Nat} {s : State} (hK : Kept V Q s) : Kept V Q (crossing i before s) := by
  unfold crossing
  repeat' first
      | assumption | intro _ | apply post_kept
      | apply modStrm_kept | apply Kept.ite | exact ‹StrmOk _›

theorem sendWord_kept {i : Nat} {sw : SW} {s : State} (h : Kept V Q s) (h0 : 0 < (strm s i).credits) :
    Kept V Q (sendWord i sw s) := by
  have hs := h.strm i
  unfold sendWord
  dsimp only
  split
  · refine ⟨h.1, h.2, h.3.tput ?_ _, h.4, h.5⟩
    unfold StrmOk strm at *
    dsimp only
    split
    · unfold freeze; dsimp only; omega
    · dsimp only; omega
  · refine crossing_kept ⟨h.1, h.2, h.3.tput ?_ _, h.4, h.5⟩
    unfold StrmOk strm at *
    dsimp only
    split
    · unfold countDown freeze
      dsimp only
      repeat' split
      all_goals (dsimp only; simp only [List.length_append, List.length_cons, List.length_nil]; omega)
    · dsimp only; simp only [List.length_append, List.length_cons, List.length_nil]; omega

theorem dropWord_kept {i : Nat} {sw : SW} {s : State} (h : Kept V Q s) (hg : grants s i = false) :
    Kept V Q (sendWord i sw s) := by
  unfold sendWord
  dsimp only
  rw [hg]
  simp only [Bool.not_false, Bool.true_or, ↓reduceIte]
  refine modStrm_kept h fun x hx => ?_
  unfold StrmOk at *
  split
  · unfold freeze; dsimp only; omega
  · dsimp only; omega

theorem grant_kept {i : Nat} {s : State} (h : Kept V Q s) : Kept V Q (grant i s) := by
  unfold grant
  dsimp only
  have k := grantPlaces_kept (i := i) h
  split
  · split
    · exact k
    · next hc =>
      refine grantPlaces_kept (sendWord_kept (modStrm_kept k fun _ hx => hx) ?_)
      unfold modStrm strm at *
      rw [tget_tmod, if_pos rfl]
      dsimp only
      omega
  · exact k

theorem popWord_kept {i : Nat} {s : State} (h : Kept V Q s) : OptKept V Q (popWord i s) := by
  unfold popWord
  split
  · exact OptKept.none
  · next e tl he =>
    refine OptKept.some (grant_kept ⟨h.1, h.2, h.3.tput ?_ _, h.4, h.5⟩)
    have := h.strm i
    unfold strm at he
    unfold StrmOk strm at *
    dsimp only
    rw [he] at this
    simp only [List.length_cons] at this
    omega

theorem windowPop_kept {i : Nat} {s : State} (h : Kept V Q s) : OptKept V Q (windowPop i s) := by
  unfold windowPop
  split
  · exact OptKept.none
  · exact OptKept.some (modStrm_kept (Kept.opt (by assumption) (popWord_kept h)) fun _ hx => hx)

theorem respond_kept {rs : List PResp} {s : State} (hK : Kept V Q s) : Kept V Q (respond rs s) := hK.mk_upd

theorem windowServe_kept {i : Nat} {s : State} (h : Kept V Q s) : Kept V Q (windowServe i s) := by
  unfold windowServe
  split
  · split
    · have hw := windowPop_kept (i := i) h
      split
      · exact h
      · next w s' he => exact respond_kept (hw _ he).mk_upd
    · exact h
  · exact h

theorem grantServe_kept {i : Nat} {s : State} (hK : Kept V Q s) : Kept V Q (grantServe i s) := by
  unfold grantServe
  repeat' first
      | assumption | apply windowServe_kept | apply grant_kept

theorem acceptWord_kept {i : Nat} {sw : SW} {s : State} (h : Kept V Q s) : Kept V Q (acceptWord i sw s) := by
  unfold acceptWord
  split
  · exact h
  · exact grantServe_kept (sendWord_kept h (by omega))

theorem logRec_kept {kind : Byte} {intr : Bool} {loc : BitVec 32} {detail : W64} {s : State} (hK : Kept V Q s) :
    Kept V Q (logRec kind intr loc detail s) := by
  unfold logRec
  repeat' first
      | with_reducible intro _ | with_reducible apply modStrm_kept | with_reducible apply acceptWord_kept
      | with_reducible apply post_kept | with_reducible apply Kept.ite | exact ‹StrmOk _›
      | exact Kept.mk_upd ‹_›

theorem hit_kept {k : Nat} {s : State} (hK : Kept V Q s) : Kept V Q (hit k s) := hK.mk_upd

theorem setMark_kept {sp : Sp} {a : Nat} {b : Bool} {s : State} (h : Kept V Q s) : Kept V Q (setMark sp a b s) :=
  modRam_kept h fun _ hr => ⟨hr.1, hr.2.1, hr.2.2.1.tset _ _, hr.2.2.2⟩

theorem checkGroup_kept {sp : Sp} {a : Nat} {rq : Rq} {s : State} (h : Kept V Q s) :
    Kept V Q (checkGroup sp a rq s) := by
  unfold checkGroup
  dsimp only
  split
  · exact logRec_kept (modRam_kept h fun _ hr => ⟨hr.1, hr.2.1, hr.2.2.1.tsets _ _, by have := hr.2.2.2.tset (a / 512) false; exact this⟩)
  · exact h

theorem logParity_kept {sp : Sp} {a : Nat} {m : Byte} {rq : Rq} {s : State} (hK : Kept V Q s) :
    Kept V Q (logParity sp a m rq s) := by
  unfold logParity
  repeat' first
      | apply logRec_kept | split | exact Kept.mk_upd ‹_›

theorem readWord_kept {sp : Sp} {w : Nat} {lo : Nat} {n : Nat} {rq : Rq} {s : State} (hK : Kept V Q s) :
    Kept V Q (readWord sp w lo n rq s).2 := by
  unfold readWord
  repeat' first
      | assumption | apply hit_kept | apply checkGroup_kept
      | apply logParity_kept | apply setMark_kept | apply Kept.ite
      | split

theorem readFuel_kept {sp : Sp} {rq : Rq} : ∀ {fuel a n : Nat} {s : State}, Kept V Q s →
    Kept V Q (readFuel sp rq fuel a n s).2
  | 0, _, _, _, h => h
  | fuel + 1, a, n, s, h => by
    unfold readFuel
    split
    · exact h
    · exact readFuel_kept (readWord_kept h)

theorem readMem_kept {sp : Sp} {a : Nat} {n : Nat} {rq : Rq} {s : State} (hK : Kept V Q s) :
    Kept V Q (readMem sp a n rq s).2 :=
  readFuel_kept hK

theorem pathCheck_kept {sp : Sp} {a : Nat} {rq : Rq} {s : State} (hK : Kept V Q s) :
    Kept V Q (pathCheck sp a rq s) := by
  unfold pathCheck
  repeat' first
      | apply logRec_kept | apply Kept.ite
      | exact Kept.mk_upd ‹_›

theorem pathOut_kept {rq : Rq} {r : List (Byte × Bool) × State} (hK : Kept V Q r.2) : Kept V Q (pathOut rq r).2 := by
  unfold pathOut
  dsimp only
  split
  · exact hK
  · dsimp only
    exact logRec_kept (draw_kept hK).mk_upd

theorem writeChunk_kept {sp : Sp} {a : Nat} {bs : List (Byte × Bool)} {rq : Rq} {s : State} (h : Kept V Q s) :
    Kept V Q (writeChunk sp a bs rq s) := by
  have k := modRam_kept (sp := sp) (f := fun r => { r with
    bytes := tsets 0 a (bs.map (·.1)) r.bytes, bad := tsets false a (bs.map fun _ => false) r.bad })
    (checkGroup_kept (sp := sp) (a := a) (rq := rq) (pathCheck_kept (sp := sp) (a := a) (rq := rq) h))
    fun _ hr => ⟨hr.1.tsets _ _, hr.2.1.tsets _ _, hr.2.2.1, hr.2.2.2⟩
  unfold writeChunk
  dsimp only
  split
  · exact hit_kept h
  · split
    · exact setMark_kept k
    · split
      · exact setMark_kept k
      · exact k

theorem writeFuel_kept {sp : Sp} {rq : Rq} : ∀ {fuel a : Nat} {bs : List (Byte × Bool)} {s : State}, Kept V Q s →
    Kept V Q (writeFuel sp rq fuel a bs s)
  | 0, _, _, _, h => h
  | fuel + 1, a, bs, s, h => by
    unfold writeFuel
    split
    · exact h
    · exact writeFuel_kept (writeChunk_kept h)

theorem writeMem_kept {sp : Sp} {a : Nat} {bs : List (Byte × Bool)} {rq : Rq} {s : State} (hK : Kept V Q s) :
    Kept V Q (writeMem sp a bs rq s) :=
  writeFuel_kept hK

theorem putWords_kept {sp : Sp} {a : Nat} {ws : List W64} {rq : Rq} {s : State} (hK : Kept V Q s) :
    Kept V Q (putWords sp a ws rq s) := by
  unfold putWords
  repeat' first
      | assumption | intro _ | apply writeMem_kept
      | apply Kept.foldl

theorem markRange_kept {sp : Sp} {a n : Nat} {b : Bool} {s : State} (h : Kept V Q s) :
    Kept V Q (markRange sp a n b s) := by
  unfold markRange
  split
  · exact h
  · exact modRam_kept h fun _ hr => ⟨hr.1, hr.2.1, hr.2.2.1.tsets _ _, hr.2.2.2⟩

/-! ## EntryOps -/

theorem modEntry_kept {id : Nat} {f : Entry → Entry} {s : State} (hK : Kept V Q s) : Kept V Q (modEntry id f s) :=
  hK.mk_upd

theorem dropEntry_kept {id : Nat} {s : State} (hK : Kept V Q s) : Kept V Q (dropEntry id s) := hK.mk_upd

theorem modQctx_kept {k : Nat} {f : QCtx → QCtx} {s : State} (hK : Kept V Q s) : Kept V Q (modQctx k f s) :=
  hK.mk_upd

/-! ## Xfer -/

theorem stgRead_kept {a : Nat} {n : Nat} {rq : Rq} {s : State} (hK : Kept V Q s) : Kept V Q (stgRead a n rq s).2 := by
  unfold stgRead
  repeat' first
      | with_reducible assumption
      | (with_reducible refine Kept.mkp ?_; first | with_reducible apply readMem_kept | split)

theorem stgWrite_kept {a : Nat} {bs : List (Byte × Bool)} {rq : Rq} {s : State} (hK : Kept V Q s) :
    Kept V Q (stgWrite a bs rq s) := by
  unfold stgWrite
  repeat' first
      | assumption | apply writeMem_kept | apply Kept.ite

theorem bufRead_kept {h : BitVec 32} {off : Nat} {n : Nat} {rq : Rq} {s : State} (hK : Kept V Q s) :
    Kept V Q (bufRead h off n rq s).2 :=
  pathOut_kept (stgRead_kept hK)

theorem bufWrite_kept {h : BitVec 32} {off : Nat} {bs : List (Byte × Bool)} {rq : Rq} {s : State} (hK : Kept V Q s) :
    Kept V Q (bufWrite h off bs rq s) :=
  stgWrite_kept hK

theorem modXfer_kept {x : XferRef} {f : Xfer → Xfer} {s : State} (hK : Kept V Q s) : Kept V Q (modXfer x f s) :=
  hK.mk_upd

theorem modDsc_kept {x : XferRef} {i : Nat} {f : Dsc → Dsc} {s : State} (hK : Kept V Q s) :
    Kept V Q (modDsc x i f s) :=
  modXfer_kept hK

theorem dropXfer_kept {x : XferRef} {s : State} (hK : Kept V Q s) : Kept V Q (dropXfer x s) := hK.mk_upd

theorem issueFm_kept {r : FmReq} {s : State} (hK : Kept V Q s) : Kept V Q (issueFm r s) := hK.mk_upd

theorem xferBytes_kept {x : Xfer} {off : Nat} {n : Nat} {s : State} (hK : Kept V Q s) :
    Kept V Q (xferBytes x off n s).2 := by
  unfold xferBytes
  repeat' first
      | assumption | apply bufRead_kept | split

theorem issueTxn_kept {r : XferRef} {i : Nat} {j : Nat} {s : State} (hK : Kept V Q s) :
    Kept V Q (issueTxn r i j s) := by
  unfold issueTxn
  repeat' first
      | assumption | apply modDsc_kept | apply issueFm_kept
      | apply xferBytes_kept | split

theorem doWork_kept {r : XferRef} {w : Work} {s : State} (hK : Kept V Q s) : Kept V Q (doWork r w s) := by
  unfold doWork
  repeat' first
      | assumption | apply issueFm_kept | apply modDsc_kept
      | apply issueTxn_kept | apply modXfer_kept | split | dsimp only

theorem dmaNext_kept {e : BitVec 2} {s : State} (hK : Kept V Q s) : OptKept1 V Q (dmaNext e s) := by
  unfold dmaNext
  split
  · exact OptKept1.none
  · split
    · exact OptKept1.some (issueFm_kept hK)
    · exact OptKept1.of_map fun _ => doWork_kept (modEng_kept hK)

theorem fmStep_kept {e : BitVec 2} {s : State} (hK : Kept V Q s) : OptKept1 V Q (fmStep e s) := by
  unfold fmStep
  split
  · exact OptKept1.none
  · dsimp only
    split
    · split
      · exact OptKept1.some (issueFm_kept hK.mk_upd)
      · exact OptKept1.map (fun _ h => h.mk_upd) (dmaNext_kept hK)
    · refine OptKept1.map (fun _ h => ?_) (dmaNext_kept hK)
      split
      · exact h.mk_upd
      · exact h

theorem fmGo_kept {e : BitVec 2} {fuel : Nat} {a2 : State} (hK : Kept V Q a2) : Kept V Q (fmGo e fuel a2) := by
  induction fuel generalizing e a2 with
  | zero =>
    unfold fmGo
    repeat' first
        | assumption | with_reducible apply fmStep_kept | split
        | refine Kept.opt1 (by assumption) ?_
  | succ n ih =>
    unfold fmGo
    repeat' first
        | with_reducible apply ih | assumption | with_reducible apply fmStep_kept | split
        | refine Kept.opt1 (by assumption) ?_

theorem pumpEng_kept {e : BitVec 2} {s : State} (hK : Kept V Q s) : Kept V Q (pumpEng e s) := fmGo_kept hK

theorem issueQe_kept {r : FmReq} {s : State} (hK : Kept V Q s) : Kept V Q (issueQe r s) := by
  unfold issueQe
  repeat' first
      | apply pumpEng_kept | exact Kept.mk_upd ‹_›

theorem joinEng_kept {e : BitVec 2} {s : State} (hK : Kept V Q s) : Kept V Q (joinEng e s) := hK.mk_upd

theorem startXfer_kept {id : Nat} {sq : QNum} {toBlock : Bool} {dmode : BitVec 2} {daddr : Nat} {dlen : Nat} {frags : List (Nat × Nat)} {h : BitVec 32} {s : State} (hK : Kept V Q s) :
    Kept V Q (startXfer id sq toBlock dmode daddr dlen frags h s) := by
  unfold startXfer
  repeat' first
      | apply pumpEng_kept | apply joinEng_kept | exact Kept.mk_upd ‹_›

/-! ## Threads -/

theorem operand_kept {c : Chan} {t : Thr} {r : BitVec 5} {s : State} (hK : Kept V Q s) :
    Kept V Q (operand c t r s).2 := by
  unfold operand
  repeat' first
      | assumption | apply draw_kept | apply Kept.ite2

theorem finishWait_kept {c : Chan} {t : Thr} {rd : BitVec 5} {v : W64} {s : State} (hK : Kept V Q s) :
    Kept V Q (finishWait c t rd v s) :=
  modThr_kept hK

theorem hold_kept {c : Chan} {t : Thr} {w : TWait} {s : State} (hK : Kept V Q s) : Kept V Q (hold c t w s) :=
  modThr_kept hK

/-! ## Hawk -/

theorem rebuildPool_kept {k : Nat} {s : State} (hK : Kept V Q s) : Kept V Q (rebuildPool k s) := modPool_kept hK

theorem rebuildPools_kept {s : State} (hK : Kept V Q s) : Kept V Q (rebuildPools s) := by
  unfold rebuildPools
  repeat' first
      | assumption | with_reducible intro _ | with_reducible apply rebuildPool_kept
      | with_reducible apply Kept.foldl | split

theorem lowCheck_kept {k : Nat} {before : Nat} {s : State} (hK : Kept V Q s) : Kept V Q (lowCheck k before s) := by
  unfold lowCheck
  repeat' first
      | apply post_kept | apply Kept.ite
      | exact Kept.mk_upd ‹_›

theorem popBuffer_kept {k : Nat} {s : State} (hK : Kept V Q s) : Kept V Q (popBuffer k s).2 := by
  unfold popBuffer
  repeat' first
      | assumption | apply lowCheck_kept | apply modPool_kept | split

theorem alloc_kept {k : Nat} {fall : Bool} {s : State} (hK : Kept V Q s) : OptKept V Q (alloc k fall s) := by
  unfold alloc
  repeat' first
      | assumption | apply popBuffer_kept | exact OptKept.none
      | refine OptKept.some ?_ | split

theorem joinWaiting_kept {r : HReq} {s : State} (hK : Kept V Q s) : Kept V Q (joinWaiting r s) := hK.mk_upd

theorem deliver_kept {w : HWho} {h : BitVec 32} {s : State} (hK : Kept V Q s) : Kept V Q (deliver w h s) := by
  unfold deliver
  repeat' first
      | assumption | with_reducible apply finishWait_kept | with_reducible apply startXfer_kept
      | with_reducible apply modEntry_kept | exact respond_kept hK.mk_upd | split

theorem serve_kept {a0 : List HReq} {kept : List HReq} {a2 : State} (hK : Kept V Q a2) :
    Kept V Q (serve a0 kept a2) := by
  induction a0 generalizing kept a2 with
  | nil =>
    unfold serve
    repeat' first
        | apply popBuffer_kept | apply deliver_kept | split
        | exact Kept.mk_upd ‹_›
  | cons x xs ih =>
    unfold serve
    repeat' first
        | apply ih | apply popBuffer_kept | apply deliver_kept | split
        | exact Kept.mk_upd ‹_›

theorem serveWaiting_kept {s : State} (hK : Kept V Q s) : Kept V Q (serveWaiting s) := serve_kept hK

theorem badHandle_kept {h : BitVec 32} {s : State} (hK : Kept V Q s) : Kept V Q (badHandle h s) := hK.mk_upd

theorem freeBuffer_kept {h : BitVec 32} {only : Option Nat} {s : State} (hK : Kept V Q s) :
    Kept V Q (freeBuffer h only s) := by
  unfold freeBuffer
  repeat' first
      | assumption | apply badHandle_kept | apply serveWaiting_kept
      | apply modPool_kept | apply Kept.ite | split

theorem dropWaiter_kept {w : HWho} {s : State} (hK : Kept V Q s) : Kept V Q (dropWaiter w s) := hK.mk_upd

theorem withholdStart_kept {s : State} (hK : Kept V Q s) : Kept V Q (withholdStart s) := by
  unfold withholdStart
  repeat' first
      | assumption | with_reducible intro _ | with_reducible apply modPool_kept
      | with_reducible apply Kept.foldl | split

theorem withholdEnd_kept {k : Nat} {s : State} (hK : Kept V Q s) : Kept V Q (withholdEnd k s) := by
  unfold withholdEnd
  repeat' first
      | assumption | apply modPool_kept | apply serveWaiting_kept
      | apply lowCheck_kept | apply Kept.ite

/-! ## Dma -/

theorem finishEntry_kept {id : Nat} {status : Byte} {result : BitVec 32} {s : State} (hK : Kept V Q s) :
    Kept V Q (finishEntry id status result s) :=
  modEntry_kept hK

theorem freeEntryBuffer_kept {h : BitVec 32} {s : State} (hK : Kept V Q s) : Kept V Q (freeEntryBuffer h s) := by
  unfold freeEntryBuffer
  repeat' first
      | assumption | apply freeBuffer_kept | split

theorem endEntryXfer_kept {id : Nat} {x : Xfer} {s : State} (hK : Kept V Q s) : Kept V Q (endEntryXfer id x s) := by
  unfold endEntryXfer
  repeat' first
      | assumption | apply dropXfer_kept | apply finishEntry_kept
      | apply freeEntryBuffer_kept | apply modEntry_kept | split | dsimp only

theorem stopStream_kept {e : BitVec 2} {reason : Nat} {s : State} (hK : Kept V Q s) :
    Kept V Q (stopStream e reason s) :=
  modEng_kept hK

theorem streamSettled_kept {e : BitVec 2} {i : Nat} {err : Bool} {s : State} (hK : Kept V Q s) :
    Kept V Q (streamSettled e i err s) := by
  unfold streamSettled
  repeat' first
      | assumption | apply modEng_kept | apply stopStream_kept | split

theorem closeXfer_kept {r : XferRef} {s : State} (hK : Kept V Q s) : Kept V Q (closeXfer r s) := by
  unfold closeXfer
  repeat' first
      | assumption | apply pumpEng_kept | apply endEntryXfer_kept
      | apply dropXfer_kept | apply writeBad_kept
      | apply stopStream_kept | split

theorem stepXfer_kept {r : XferRef} {s : State} (hK : Kept V Q s) : Kept V Q (stepXfer r s) := by
  unfold stepXfer
  repeat' first
      | assumption | apply closeXfer_kept | apply pumpEng_kept
      | apply modXfer_kept | split

theorem takeFm_kept {who : FmWho} {s : State} (hK : Kept V Q s) : OptKept V Q (takeFm who s) := by
  unfold takeFm
  repeat' first
      | exact OptKept.none | refine OptKept.some ?_ | split
      | exact Kept.mk_upd ‹_›

theorem takeFmAt_kept {who : FmWho} {n : Nat} {s : State} (hK : Kept V Q s) : OptKept V Q (takeFmAt who n s) := by
  unfold takeFmAt
  intro p hp
  cases h : takeNth (fun (m : FmReq) => decide (m.who = who)) n s.fm <;> simp_all
  subst hp
  exact hK.mk_upd

theorem earlyFault_kept {r : XferRef} {reason : Nat} {index : Nat} {s : State} (hK : Kept V Q s) :
    Kept V Q (earlyFault r reason index s) :=
  modXfer_kept hK

theorem listNext_kept {r : XferRef} {n : Nat} {a : Nat} {s : State} (hK : Kept V Q s) :
    Kept V Q (listNext r n a s) := by
  unfold listNext
  repeat' first
      | assumption | apply earlyFault_kept | apply modXfer_kept
      | split

theorem entryDescRead_kept {id : Nat} {resp : MemResp} {s : State} (hK : Kept V Q s) :
    Kept V Q (entryDescRead id resp s) := by
  unfold entryDescRead
  repeat' first
      | assumption | apply modXfer_kept | apply earlyFault_kept
      | apply listNext_kept | split | dsimp only

theorem addStream_kept {e : BitVec 2} {ds : List Dsc} {bytes : List (Byte × Bool)} {due : List Nat} {s : State} (hK : Kept V Q s) :
    Kept V Q (addStream e ds bytes due s) := by
  unfold addStream
  repeat' first
      | apply modXfer_kept | split | exact Kept.mk_upd ‹_›

theorem refuseStream_kept {e : BitVec 2} {reason : Nat} {d : Dsc} {s : State} (hK : Kept V Q s) :
    Kept V Q (refuseStream e reason d s) := by
  unfold refuseStream
  repeat' first
      | assumption | apply pumpEng_kept | apply addStream_kept
      | apply modEng_kept

theorem streamDescRead_kept {e : BitVec 2} {resp : MemResp} {s : State} (hK : Kept V Q s) :
    Kept V Q (streamDescRead e resp s) := by
  unfold streamDescRead
  repeat' first
      | assumption | apply stopStream_kept | apply modEng_kept
      | apply refuseStream_kept | apply pumpEng_kept | apply Kept.ite
      | split

theorem descReadDone_kept {x : XferRef} {resp : MemResp} {s : State} (hK : Kept V Q s) :
    Kept V Q (descReadDone x resp s) := by
  unfold descReadDone
  repeat' first
      | assumption | apply takeFm_kept | apply stepXfer_kept
      | apply pumpEng_kept | apply entryDescRead_kept
      | apply streamDescRead_kept | split | refine Kept.opt2 (by assumption) ?_

theorem setTxn_kept {x : XferRef} {i : Nat} {j : Nat} {t : Txn} {p : Bool} {s : State} (hK : Kept V Q s) :
    Kept V Q (setTxn x i j t p s) :=
  modXfer_kept hK

theorem popWords_kept {i : Nat} {a1 : Nat} {a2 : State} (hK : Kept V Q a2) : Kept V Q (popWords i a1 a2) := by
  induction a1 generalizing i a2 with
  | zero =>
    unfold popWords
    repeat' first
        | assumption | apply popWord_kept | split
        | refine Kept.opt2 (by assumption) ?_
  | succ n ih =>
    unfold popWords
    repeat' first
        | apply ih | assumption | apply popWord_kept | split
        | refine Kept.opt2 (by assumption) ?_

theorem dataResponse_kept {x : XferRef} {i : Nat} {j : Nat} {resp : DataResp} {s : State} (hK : Kept V Q s) :
    Kept V Q (dataResponse x i j resp s) := by
  unfold dataResponse
  repeat' first
      | assumption | apply takeFm_kept | apply popWords_kept
      | apply stepXfer_kept | apply setTxn_kept | apply modEng_kept
      | apply bufWrite_kept | split | refine Kept.opt2 (by assumption) ?_

theorem endWback_kept {x : XferRef} {i : Nat} {wb : Wb} {err : Bool} {s : State} (hK : Kept V Q s) :
    Kept V Q (endWback x i wb err s) := by
  unfold endWback
  repeat' first
      | assumption | apply modXfer_kept | apply streamSettled_kept
      | split

theorem wbackResponse_kept {x : XferRef} {i : Nat} {err : Bool} {s : State} (hK : Kept V Q s) :
    Kept V Q (wbackResponse x i err s) := by
  unfold wbackResponse
  repeat' first
      | assumption | apply takeFm_kept | apply stepXfer_kept
      | apply endWback_kept | split | refine Kept.opt2 (by assumption) ?_

theorem streamBurst_kept {e : BitVec 2} {s : State} (hK : Kept V Q s) : Kept V Q (streamBurst e s) := by
  unfold streamBurst
  repeat' first
      | assumption | intro _ | apply modStrm_kept
      | apply modEng_kept | apply pumpEng_kept | apply addStream_kept
      | apply Kept.ite | exact ‹StrmOk _›

theorem senableSet_kept {e : BitVec 2} {s : State} (hK : Kept V Q s) : Kept V Q (senableSet e s) := by
  unfold senableSet
  repeat' first
      | assumption | apply modEng_kept | apply pumpEng_kept
      | apply modXfer_kept | apply Kept.ite

theorem senableClear_kept {e : BitVec 2} {s : State} (hK : Kept V Q s) : Kept V Q (senableClear e s) := by
  unfold senableClear
  repeat' first
      | apply modEng_kept | exact Kept.mk_upd ‹_›

theorem sdoor_kept {e : BitVec 2} {s : State} (hK : Kept V Q s) : Kept V Q (sdoor e s) := by
  unfold sdoor
  repeat' first
      | assumption | apply pumpEng_kept | apply modEng_kept | split

theorem execDmaDescriptorReadDone_kept {x : XferRef} {r : MemResp} {s : State} (hK : Kept V Q s) :
    OutKept V Q (execDmaDescriptorReadDone x r s) :=
  descReadDone_kept hK

theorem execDmaDataResponse_kept {x : XferRef} {i : Nat} {j : Nat} {r : DataResp} {s : State} (hK : Kept V Q s) :
    OutKept V Q (execDmaDataResponse x i j r s) :=
  dataResponse_kept hK

theorem execDmaWritebackResponse_kept {x : XferRef} {i : Nat} {err : Bool} {s : State} (hK : Kept V Q s) :
    OutKept V Q (execDmaWritebackResponse x i err s) :=
  wbackResponse_kept hK

theorem execDmaStreamBurst_kept {e : BitVec 2} {s : State} (hK : Kept V Q s) : OutKept V Q (execDmaStreamBurst e s) :=
  streamBurst_kept hK

/-! ## LathBase -/

theorem modLport_kept {x : BitVec 2} {f : LPort → LPort} {s : State} (hK : Kept V Q s) : Kept V Q (modLport x f s) :=
  hK.mk_upd

theorem lathEvent_kept {kind : Byte} {port : BitVec 2} {node : BitVec 16} {s : State} (hK : Kept V Q s) :
    Kept V Q (lathEvent kind port node s) := by
  unfold lathEvent
  repeat' first
      | apply post_kept | exact Kept.mk_upd ‹_›

theorem discardFrame_kept {s : State} (hK : Kept V Q s) : Kept V Q (discardFrame s) := hK.mk_upd

theorem startTimers_kept {tags : List Nat} {s : State} (hK : Kept V Q s) : Kept V Q (startTimers tags s) :=
  hK.mk_upd

theorem giveBack_kept {x : BitVec 2} {b : Nat} {n : Nat} {s : State} (hK : Kept V Q s) :
    Kept V Q (giveBack x b n s) :=
  modLport_kept hK

theorem giveQueued_kept {q : Queued} {s : State} (hK : Kept V Q s) : Kept V Q (giveQueued q s) := by
  unfold giveQueued
  repeat' first
      | assumption | apply giveBack_kept | split

theorem trainStart_kept {x : BitVec 2} {s : State} (hK : Kept V Q s) : Kept V Q (trainStart x s) := by
  unfold trainStart
  repeat' first
      | assumption | apply modLport_kept | apply Kept.ite

theorem trainAll_kept {s : State} (hK : Kept V Q s) : Kept V Q (trainAll s) := by
  unfold trainAll
  repeat' first
      | assumption | apply trainStart_kept

theorem pumpLath_kept {x : BitVec 2} {s : State} (hK : Kept V Q s) : Kept V Q (pumpLath x s) := by
  unfold pumpLath
  repeat' first
      | assumption | intro _ | apply startTimers_kept
      | apply modLport_kept | apply giveQueued_kept | apply Kept.foldl
      | split

theorem enqueue_kept {x : BitVec 2} {q : Queued} {s : State} (hK : Kept V Q s) : Kept V Q (enqueue x q s) := by
  unfold enqueue
  repeat' first
      | assumption | apply pumpLath_kept | apply modLport_kept
      | apply discardFrame_kept | apply giveQueued_kept | split

theorem sendRoute_kept {mode : Bool} {port : BitVec 2} {route : BitVec 32} {f : Frame} {s : State} (hK : Kept V Q s) :
    Kept V Q (sendRoute mode port route f s) := by
  unfold sendRoute
  repeat' first
      | apply enqueue_kept | apply discardFrame_kept | split
      | exact Kept.mk_upd ‹_›

theorem sendNode_kept {n : BitVec 16} {f : Frame} {s : State} (hK : Kept V Q s) : Kept V Q (sendNode n f s) := by
  unfold sendNode
  repeat' first
      | assumption | apply sendRoute_kept | split

theorem sendData_kept {n : BitVec 16} {cls : Bool} {tag : BitVec 12} {fuel : Nat} {a4 : List (Byte × Bool)} {a5 : State} (hK : Kept V Q a5) :
    Kept V Q (sendData n cls tag fuel a4 a5) := by
  induction fuel generalizing n cls tag a4 a5 with
  | zero =>
    unfold sendData
    repeat' first
        | assumption | apply sendNode_kept | split
  | succ n ih =>
    unfold sendData
    repeat' first
        | apply ih | assumption | apply sendNode_kept | split

theorem sendComplete_kept {src : BitVec 16} {tag : BitVec 12} {status : Byte} {result : BitVec 32} {data : List (Byte × Bool)} {s : State} (hK : Kept V Q s) :
    Kept V Q (sendComplete src tag status result data s) := by
  unfold sendComplete
  repeat' first
      | assumption | apply sendData_kept | apply sendNode_kept

end Sys2Proof.Machine
end

