-- ==== Sys2Proof/Laws/KeptThreads.lean ====
section
/-! SUPPORT. What KeptBase says of a step, for threads and their instructions, calibration, queue contexts, the coded path and the fence: one lemma per function. -/

namespace Sys2Proof.Machine

open Sys2Proof

variable {V : Variant} {Q : List Instr}

set_option maxRecDepth 8000

/-! ## Operands -/

theorem fetchInstr_kept {q : BitVec 4} {i : BitVec 15} {s : State} (hK : Kept V Q s) :
    Kept V Q (fetchInstr q i s).2 := by
  unfold fetchInstr
  repeat' first
      | assumption | with_reducible apply draw_kept | with_reducible apply logRec_kept
      | with_reducible apply modQuad_kept | split

theorem wantCalib_kept {c : Chan} {s : State} (hK : Kept V Q s) : Kept V Q (wantCalib c s) := by
  unfold wantCalib
  repeat' first
      | assumption | intro _ | apply modChan_kept | split
      | exact ‹ChanOk _›

theorem toIdle_kept {c : Chan} {t : Thr} {s : State} (hK : Kept V Q s) : Kept V Q (toIdle c t s) := by
  unfold toIdle
  repeat' first
      | assumption | apply modThr_kept | apply wantCalib_kept
      | apply Kept.ite

theorem closePacket_kept {c : Chan} {t : Thr} {s : State} (hK : Kept V Q s) : Kept V Q (closePacket c t s).2 := by
  unfold closePacket
  repeat' first
      | assumption | intro _ | apply modStrm_kept
      | apply acceptWord_kept | apply Kept.ite2 | exact ‹StrmOk _›

theorem endHost_kept {e : Entry} {h : BitVec 32} {st : Byte} {res : BitVec 32} {s : State} (hK : Kept V Q s) :
    Kept V Q (endHost e h st res s) := by
  unfold endHost
  repeat' first
      | apply modEntry_kept | apply startXfer_kept
      | apply finishEntry_kept | apply freeEntryBuffer_kept | split
      | exact Kept.mk_upd ‹_›

theorem endRemote_kept {e : Entry} {src : BitVec 16} {tag : BitVec 12} {port : BitVec 2} {h : BitVec 32} {st : Byte} {res : BitVec 32} {s : State} (hK : Kept V Q s) :
    Kept V Q (endRemote e src tag port h st res s) := by
  unfold endRemote
  repeat' first
      | assumption | apply bufRead_kept | apply dropEntry_kept
      | apply freeEntryBuffer_kept | apply sendComplete_kept | split

theorem endFetch_kept {e : Entry} {h : BitVec 32} {st : Byte} {s : State} (hK : Kept V Q s) :
    Kept V Q (endFetch e h st s) := by
  unfold endFetch
  repeat' ((with_reducible apply Kept.mk_upd; first | assumption | with_reducible apply dropEntry_kept | with_reducible apply freeEntryBuffer_kept | split))

theorem endEntry_kept {c : Chan} {t : Thr} {id : Nat} {st : Byte} {res : BitVec 32} {s : State} (hK : Kept V Q s) :
    Kept V Q (endEntry c t id st res s) := by
  unfold endEntry
  repeat' first
      | assumption | with_reducible apply readMem_kept | with_reducible apply endHost_kept
      | with_reducible apply endRemote_kept | with_reducible apply endFetch_kept | split

theorem noteOut_kept {c : Chan} {t : Thr} {o : LibOut} {b : Bool} {k : BitVec 2} {s : State}
    (hK : Kept V Q s) : Kept V Q (noteOut c t o b k s) :=
  modThr_kept hK

theorem judgePrio_kept {c : Chan} {th : Thread} {p : BitVec 2} {s : State} (hK : Kept V Q s) :
    Kept V Q (judgePrio c th p s) :=
  Kept.ite (modQuad_kept hK) hK

theorem mapLevels_kept {d : DieTab} {s : State} (hK : Kept V Q s) : Kept V Q (mapLevels d s) := hK.mk_upd

theorem fillTable_kept {c : Chan} {j : Nat} {s : State} (hK : Kept V Q s) : Kept V Q (fillTable c j s) := by
  unfold fillTable
  repeat' first
      | assumption | intro _ | apply mapLevels_kept | apply modChan_kept | apply Kept.ite | exact ‹ChanOk _›

theorem initLeaves_kept {c : Chan} {s : State} (hK : Kept V Q s) : Kept V Q (initLeaves c s) :=
  modReg_kept (Kept.foldl (fun _ _ h => fillTable_kept h) _ _ hK)

theorem libLeaves_kept {op : LibOp} {c : Chan} {e : Entry} {st : Byte} {s : State} (hK : Kept V Q s) :
    Kept V Q (libLeaves op c e st s) := by
  unfold libLeaves
  split
  · split
    · exact modChan_kept hK fun _ hx => hx
    · exact hK
  · exact Kept.ite (initLeaves_kept hK) hK
  · exact hK

theorem endLeaves_kept {c : Chan} {th : Thread} {st : Byte} {s : State} (hK : Kept V Q s) :
    Kept V Q (endLeaves c th st s) := by
  unfold endLeaves
  repeat' first
      | assumption | apply libLeaves_kept | split

theorem tryEnd_kept {c : Chan} {t : Thr} {s : State} (hK : Kept V Q s) : Kept V Q (tryEnd c t s) := by
  unfold tryEnd
  repeat' first
      | assumption | apply closePacket_kept | apply toIdle_kept
      | apply endEntry_kept | apply endLeaves_kept | split | dsimp only

theorem setEnding_kept {c : Chan} {t : Thr} {st : Byte} {res : Option (BitVec 32)} {s : State} (hK : Kept V Q s) :
    Kept V Q (setEnding c t st res s) :=
  modThr_kept hK

theorem recordFault_kept {c : Chan} {t : Thr} {code : BitVec 4} {pc : BitVec 15} {s : State} (hK : Kept V Q s) :
    Kept V Q (recordFault c t code pc s) :=
  modReg_kept hK

theorem eventWords_kept {c : Chan} {t : Thr} {code : BitVec 4} {pc : BitVec 15} {detail : W64} {s : State} (hK : Kept V Q s) :
    Kept V Q (eventWords c t code pc detail s) :=
  writeMem_kept hK

theorem endByEvent_kept {c : Chan} {t : Thr} {code : BitVec 4} {pc : BitVec 15} {s : State} (hK : Kept V Q s) :
    Kept V Q (endByEvent c t code pc s) := by
  unfold endByEvent
  repeat' first
      | assumption | apply recordFault_kept | apply modThr_kept
      | apply tryEnd_kept | apply setEnding_kept | apply draw_kept
      | apply Kept.ite

theorem raiseEvent_kept {c : Chan} {t : Thr} {code : BitVec 4} {detail : W64} {pc : BitVec 15} {s : State} (hK : Kept V Q s) :
    Kept V Q (raiseEvent c t code detail pc s) := by
  unfold raiseEvent
  repeat' first
      | assumption | with_reducible apply modThr_kept | with_reducible apply eventWords_kept
      | with_reducible apply endByEvent_kept | split | dsimp only

theorem recognise_kept {c : Chan} {t : Thr} {s : State} (hK : Kept V Q s) : Kept V Q (recognise c t s) := by
  unfold recognise
  repeat' first
      | assumption | apply raiseEvent_kept | apply modThr_kept
      | apply Kept.ite

theorem applyEff_kept {c : Chan} {t : Thr} {e : Eff} (h : EffKept V Q e) : Kept V Q (applyEff c t e) := by
  cases e with
  | write rd d x s => exact recognise_kept (modThr_kept h)
  | plain s => exact recognise_kept (modThr_kept h)
  | waited rd x s => exact recognise_kept (finishWait_kept h)
  | waited0 s => exact recognise_kept (finishWait_kept h)
  | branch n s => exact modThr_kept h
  | event c d s => exact raiseEvent_kept h
  | wait w s => exact hold_kept h
  | gone s => exact h

theorem issue_kept {c : Chan} {t : Thr} {key : Nat} {sem : W64 → State → Eff} {s : State} (hK : Kept V Q s) (hf : ∀ w s, Kept V Q s → EffKept V Q (sem w s)) :
    Kept V Q (issue c t key sem s) := by
  unfold issue
  repeat' first
      | assumption | with_reducible intro _ | with_reducible apply hf
      | with_reducible apply fetchInstr_kept | with_reducible apply modThr_kept | with_reducible apply modChan_kept
      | with_reducible apply applyEff_kept | with_reducible apply EffKept.event | with_reducible apply recognise_kept
      | split | exact ‹ChanOk _› | dsimp only

theorem retry_kept {c : Chan} {t : Thr} {key : Nat} {s : State} {sem : W64 → Eff} (hK : Kept V Q s) (hf : ∀ w, EffKept V Q (sem w)) :
    Kept V Q (retry c t key s sem) := by
  unfold retry
  repeat' first
      | assumption | apply hf | apply applyEff_kept | split

theorem formR_kept {c : Chan} {t : Thr} {d : Nat} {f : W64 → W64 → W64} {w : W64} {s : State} (hK : Kept V Q s) :
    EffKept V Q (formR c t d f w s) := by
  unfold formR
  repeat' first
      | assumption | apply operand_kept | apply EffKept.write

theorem formI_kept {c : Chan} {t : Thr} {d : Nat} {f : W64 → W64 → W64} {w : W64} {s : State} (hK : Kept V Q s) :
    EffKept V Q (formI c t d f w s) := by
  unfold formI
  repeat' first
      | assumption | apply operand_kept | apply EffKept.write

theorem formU_kept {c : Chan} {t : Thr} {d : Nat} {f : W64 → W64} {w : W64} {s : State} (hK : Kept V Q s) :
    EffKept V Q (formU c t d f w s) := by
  unfold formU
  repeat' first
      | assumption | apply operand_kept | apply EffKept.write

/-! ## Move -/

theorem locRead_kept {sp : Sp} {a : Nat} {n : Nat} {rq : Rq} {s : State} (hK : Kept V Q s) :
    Kept V Q (locRead sp a n rq s).2 := by
  unfold locRead
  repeat' first
      | assumption | apply stgRead_kept | apply readMem_kept | split

theorem locWrite_kept {sp : Sp} {a : Nat} {bs : List (Byte × Bool)} {rq : Rq} {s : State} (hK : Kept V Q s) :
    Kept V Q (locWrite sp a bs rq s) := by
  unfold locWrite
  repeat' first
      | assumption | apply stgWrite_kept | apply writeMem_kept | split

theorem putWord_kept {c : Chan} {t : Thr} {dp : Sp} {b : Nat} {moved : Nat} {dirty : Bool} {w : List (Byte × Bool)} {s : State} (hK : Kept V Q s) :
    Kept V Q (putWord c t dp b moved dirty w s).2 := by
  unfold putWord
  repeat' first
      | assumption | apply locWrite_kept | apply setMark_kept
      | apply Kept.ite

theorem copyWord_kept {c : Chan} {t : Thr} {sp : Sp} {a : Nat} {moved : Nat} {ahead : List (Byte × Bool)} {s : State} (hK : Kept V Q s) :
    Kept V Q (copyWord c t sp a moved ahead s).2 := by
  unfold copyWord
  repeat' first
      | assumption | apply locRead_kept | apply draw_kept | split

theorem pushWord_kept {c : Chan} {t : Thr} {w : W64} {em : Bool} {poison : Bool} {s : State} (hK : Kept V Q s) :
    Kept V Q (pushWord c t w em poison s) := by
  unfold pushWord
  repeat' first
      | assumption | intro _ | apply acceptWord_kept
      | apply modStrm_kept | exact ‹StrmOk _›

theorem unlockPop_kept {c : Chan} {t : Thr} {i : Nat} {s : State} (hK : Kept V Q s) :
    Kept V Q (unlockPop c t i s) := by
  unfold unlockPop
  repeat' first
      | assumption | intro _ | apply modStrm_kept | exact ‹StrmOk _›

theorem copyStep_kept {c : Chan} {t : Thr} {sp : Sp} {a : Nat} {dp : Sp} {b moved : Nat} {ahead : List (Byte × Bool)}
    {dirty : Bool} {s : State} (hK : Kept V Q s) : Kept V Q (copyStep c t sp a dp b moved ahead dirty s).s :=
  putWord_kept (copyWord_kept hK)

theorem pushStep_kept {c : Chan} {t : Thr} {sp : Sp} {a moved : Nat} {last : Bool} {s : State} (hK : Kept V Q s) :
    Kept V Q (pushStep c t sp a moved last s).s := by
  unfold pushStep
  dsimp only
  split
  · exact hK
  · split
    · exact modStrm_kept hK fun _ hx => hx
    · exact pushWord_kept (locRead_kept hK)

theorem popStep_kept {c : Chan} {t : Thr} {i : Nat} {dp : Sp} {b moved : Nat} {dirty : Bool} {s : State} (hK : Kept V Q s) :
    Kept V Q (popStep c t i dp b moved dirty s).s := by
  unfold popStep
  dsimp only
  have k := modStrm_kept (i := i) (f := fun x => { x with popLock := some (c, t) }) hK fun _ hx => hx
  split
  · exact hK
  · split
    · exact k
    · exact putWord_kept (Kept.opt (by assumption) (popWord_kept k))

theorem passStep_kept {c : Chan} {t : Thr} {i moved : Nat} {em last : Bool} {s : State} (hK : Kept V Q s) :
    Kept V Q (passStep c t i moved em last s).s := by
  unfold passStep
  dsimp only
  have k := modStrm_kept (i := i) (f := fun x => { x with popLock := some (c, t) }) hK fun _ hx => hx
  have k2 := modStrm_kept (i := 2) (f := fun x => { x with pushLock := some (c, t) }) k fun _ hx => hx
  split
  · exact hK
  · split
    · exact k
    · split
      · exact k2
      · split
        · exact k2
        · exact pushWord_kept (Kept.opt (by assumption) (popWord_kept k2))

theorem moveWord_kept {c : Chan} {t : Thr} {src dst : Loc} {n moved : Nat} {em : Bool} {ahead : List (Byte × Bool)}
    {dirty : Bool} {s : State} (hK : Kept V Q s) : Kept V Q (moveWord c t src dst n moved em ahead dirty s).s := by
  unfold moveWord
  split
  · exact copyStep_kept hK
  · exact pushStep_kept hK
  · exact popStep_kept hK
  · exact passStep_kept hK
  · exact hK

theorem moveUnlock_kept {c : Chan} {t : Thr} {l : Loc} {s : State} (hK : Kept V Q s) :
    Kept V Q (moveUnlock c t l s) := by
  unfold moveUnlock
  split
  · exact unlockPop_kept hK
  · exact hK

theorem moveGo_kept {c : Chan} {t : Thr} {w ra rb len : W64} {moved : Nat} {ahead : List (Byte × Bool)} {dirty : Bool}
    {s : State} (hK : Kept V Q s) : EffKept V Q (moveGo c t w ra rb len moved ahead dirty s) := by
  unfold moveGo
  generalize locOf s c ra len false = x
  generalize locOf s c rb len true = y
  cases x <;> cases y <;>
    first | exact EffKept.event hK | exact EffKept.waited hK | refine EffKept.ite (EffKept.waited hK) ?_
  all_goals exact EffKept.ite (EffKept.wait (moveWord_kept hK)) (EffKept.waited (moveUnlock_kept (moveWord_kept hK)))

theorem readAhead_kept {c : Chan} {t : Thr} {src : Loc} {dst : Loc} {n : Nat} {s : State} (hK : Kept V Q s) :
    Kept V Q (readAhead c t src dst n s).2 := by
  unfold readAhead
  repeat' first
      | assumption | apply locRead_kept | split

theorem semMove_kept {c : Chan} {t : Thr} {w : W64} {s : State} (hK : Kept V Q s) :
    EffKept V Q (semMove c t w s) := by
  unfold semMove
  repeat' first
      | assumption | apply operand_kept | apply readAhead_kept
      | apply moveGo_kept

theorem moveOn_kept {c : Chan} {t : Thr} {s : State} (hK : Kept V Q s) : Kept V Q (moveOn c t s) := by
  unfold moveOn
  repeat' first
      | assumption | intro _ | apply retry_kept
      | apply moveGo_kept | split

theorem copyRest_kept {c : Chan} {t : Thr} {src dst : Loc} {ahead : List (Byte × Bool)} :
    ∀ {k moved : Nat} {dirty : Bool} {s : State}, Kept V Q s → Kept V Q (copyRest c t src dst ahead k moved dirty s)
  | 0, _, _, _, h => h
  | _ + 1, _, _, _, h => by
    unfold copyRest
    exact copyRest_kept (moveWord_kept h)

theorem moveHalted_kept {c : Chan} {t : Thr} {ra : W64} {rb : W64} {len : W64} {moved : Nat} {ahead : List (Byte × Bool)} {dirty : Bool} {s : State} (hK : Kept V Q s) :
    Kept V Q (moveHalted c t ra rb len moved ahead dirty s) := by
  unfold moveHalted
  repeat' first
      | assumption | apply unlockPop_kept | apply copyRest_kept
      | split

theorem execMove_kept {c : Chan} {t : Thr} {s : State} (hK : Kept V Q s) : OutKept V Q (execMove c t s) := by
  unfold execMove
  repeat' first
      | assumption | with_reducible apply moveOn_kept | with_reducible apply issue_kept
      | with_reducible apply semMove_kept | with_reducible apply OutKept.next | split

/-! ## Calib -/

theorem modChRec_kept {c : Chan} {f : ChRec → ChRec} {s : State} (hK : Kept V Q s) : Kept V Q (modChRec c f s) :=
  hK.mk_upd

theorem modDieRec_kept {i : Nat} {f : DieRec → DieRec} {s : State} (hK : Kept V Q s) : Kept V Q (modDieRec i f s) :=
  hK.mk_upd

theorem modRtn_kept {c : Chan} {t : Thr} {f : Routine → Routine} {s : State} (hK : Kept V Q s) :
    Kept V Q (modRtn c t f s) :=
  modThr_kept hK

theorem staleCh_kept {c : Chan} {s : State} (hK : Kept V Q s) : Kept V Q (staleCh c s) := by
  unfold staleCh
  repeat' first
      | assumption | apply wantCalib_kept | apply modChRec_kept

theorem staleDie_kept {i : Nat} {s : State} (hK : Kept V Q s) : Kept V Q (staleDie i s) := by
  unfold staleDie
  repeat' first
      | assumption | apply wantCalib_kept | apply modDieRec_kept

theorem staleAll_kept {c : Chan} {s : State} (hK : Kept V Q s) : Kept V Q (staleAll c s) := by
  unfold staleAll
  repeat' first
      | with_reducible assumption | with_reducible intro _ | with_reducible apply staleDie_kept
      | with_reducible apply staleCh_kept | with_reducible apply Kept.foldl

theorem drifts_kept {now : BitVec 16} {train : BitVec 16} {s : State} (hK : Kept V Q s) :
    Kept V Q (drifts now train s).2 := by
  unfold drifts
  repeat' first
      | assumption | apply draw_kept | split

theorem swapLine_kept {c : Chan} {s : State} (hK : Kept V Q s) : Kept V Q (swapLine c s) := by
  unfold swapLine
  repeat' first
      | with_reducible intro _ | exact ‹ChanOk _›
      | (with_reducible apply Kept.mk_upd; first | assumption | with_reducible apply modChan_kept | with_reducible apply modChRec_kept | with_reducible apply drifts_kept | with_reducible apply staleCh_kept | with_reducible apply post_kept | split)

theorem boundary_kept {c : Chan} {s : State} (hK : Kept V Q s) : Kept V Q (boundary c s) := by
  unfold boundary
  repeat' first
      | assumption | intro _ | apply swapLine_kept
      | apply modChan_kept | split | exact ‹ChanOk _› | dsimp only

theorem atRest_kept {c : Chan} {s : State} (hK : Kept V Q s) : Kept V Q (atRest c s) := by
  unfold atRest
  repeat' first
      | assumption | apply boundary_kept | split

theorem windowOpen_kept {c : Chan} {s : State} (hK : Kept V Q s) : Kept V Q (windowOpen c s) := by
  unfold windowOpen
  repeat' first
      | assumption | intro _ | apply modChan_kept
      | apply Kept.ite | exact ‹ChanOk _›

theorem measureEnd_kept {c : Chan} {laps : Nat} {s : State} (hK : Kept V Q s) : Kept V Q (measureEnd c laps s) := by
  unfold measureEnd
  repeat' first
      | with_reducible intro _ | exact ‹ChanOk _›
      | (with_reducible apply Kept.mk_upd; first | assumption | with_reducible apply modChan_kept | with_reducible apply staleCh_kept | with_reducible apply post_kept | with_reducible apply atRest_kept | split)

theorem countCommit_kept {c : Chan} {s : State} (hK : Kept V Q s) : Kept V Q (countCommit c s) := by
  unfold countCommit
  repeat' first
      | apply post_kept | exact Kept.mk_upd ‹_›

theorem commitCh_kept {c : Chan} {change : Bool} {ws : List W64} {s : State} (hK : Kept V Q s) :
    Kept V Q (commitCh c change ws s).2 := by
  unfold commitCh
  repeat' first
      | assumption | apply modChRec_kept | apply atRest_kept
      | apply countCommit_kept | split

theorem commitDie_kept {i : Nat} {change : Bool} {ws : List W64} {s : State} (hK : Kept V Q s) :
    Kept V Q (commitDie i change ws s).2 := by
  unfold commitDie
  repeat' first
      | assumption | apply modDieRec_kept | apply countCommit_kept
      | apply Kept.ite

theorem semCalcommit_kept {change : Bool} {c : Chan} {t : Thr} {w : W64} {s : State} (hK : Kept V Q s) :
    EffKept V Q (semCalcommit change c t w s) := by
  unfold semCalcommit
  dsimp only
  repeat' first
      | assumption | with_reducible apply operand_kept | with_reducible apply readMem_kept
      | with_reducible apply commitDie_kept | with_reducible apply commitCh_kept
      | with_reducible apply EffKept.event | with_reducible apply EffKept.waited | split

theorem execCalcommitChange_kept {c : Chan} {t : Thr} {s : State} (hK : Kept V Q s) :
    OutKept V Q (execCalcommitChange c t s) := by
  unfold execCalcommitChange
  try dsimp only
  repeat' first
      | assumption | with_reducible apply issue_kept | with_reducible apply semCalcommit_kept
      | with_reducible apply OutKept.next

theorem execCalcommitRevalidate_kept {c : Chan} {t : Thr} {s : State} (hK : Kept V Q s) :
    OutKept V Q (execCalcommitRevalidate c t s) := by
  unfold execCalcommitRevalidate
  try dsimp only
  repeat' first
      | assumption | with_reducible apply issue_kept | with_reducible apply semCalcommit_kept
      | with_reducible apply OutKept.next

theorem execCalWindowOpen_kept {c : Chan} {s : State} (hK : Kept V Q s) : OutKept V Q (execCalWindowOpen c s) :=
  windowOpen_kept hK

theorem execCalMeasureEnd_kept {c : Chan} {laps : Nat} {s : State} (hK : Kept V Q s) :
    OutKept V Q (execCalMeasureEnd c laps s) :=
  measureEnd_kept hK

theorem writeReject_kept {s : State} (hK : Kept V Q s) : Kept V Q (writeReject s) := by
  unfold writeReject
  repeat' first
      | apply post_kept | exact Kept.mk_upd ‹_›

theorem writeSet_kept {w : Nat} {v : W64} {s : State} (hK : Kept V Q s) : Kept V Q (writeSet w v s) := by
  unfold writeSet
  repeat' first
      | assumption | apply writeReject_kept | apply modChRec_kept
      | apply atRest_kept | apply staleCh_kept | apply staleDie_kept
      | apply modDieRec_kept | apply Kept.ite

/-! ## PowerBase -/

theorem setOn_kept {d : Nat} {b : Bool} {s : State} (hK : Kept V Q s) : Kept V Q (setOn d b s) := hK.mk_upd

theorem setReq_kept {d : Nat} {b : Bool} {s : State} (hK : Kept V Q s) : Kept V Q (setReq d b s) := hK.mk_upd

theorem setIso_kept {d : Nat} {b : Bool} {s : State} (hK : Kept V Q s) : Kept V Q (setIso d b s) := hK.mk_upd

theorem setWant_kept {d : Nat} {b : Bool} {s : State} (hK : Kept V Q s) : Kept V Q (setWant d b s) := hK.mk_upd

theorem setDue_kept {d : Nat} {l : List DomReq} {s : State} (hK : Kept V Q s) : Kept V Q (setDue d l s) := hK.mk_upd

theorem ask_kept {d : Nat} {r : DomReq} {s : State} (hK : Kept V Q s) : Kept V Q (ask d r s) :=
  Kept.ite hK (setDue_kept hK)

theorem setOutcome_kept {d : Nat} {x : BitVec 3} {s : State} (hK : Kept V Q s) : Kept V Q (setOutcome d x s) :=
  hK.mk_upd

theorem startUp_kept {d : Nat} {s : State} (hK : Kept V Q s) : Kept V Q (startUp d s) := by
  unfold startUp
  repeat' first
      | assumption | apply setDom_kept | apply setWant_kept
      | apply setReq_kept | apply Kept.ite

theorem stgPower_kept {s : State} (hK : Kept V Q s) : Kept V Q (stgPower s) := by
  unfold stgPower
  split
  · exact hK
  · exact Kept.ite (setDom_kept hK.mk_upd) (startUp_kept hK)
  · exact ask_kept hK

theorem stgUp_kept {s : State} (hK : Kept V Q s) : Kept V Q (stgUp s) := stgPower_kept hK.mk_upd

theorem powerUp_kept {d : Nat} {s : State} (hK : Kept V Q s) : Kept V Q (powerUp d s) := by
  unfold powerUp
  refine Kept.ite (stgPower_kept hK) ?_
  split
  · exact hK
  · exact Kept.ite (startUp_kept hK) (setWant_kept (setDom_kept (stgUp_kept hK)))
  · exact ask_kept hK

theorem requestUp_kept {d : Nat} {s : State} (hK : Kept V Q s) : Kept V Q (requestUp d s) :=
  Kept.ite (stgUp_kept hK) (powerUp_kept (setOn_kept hK))

theorem runWants_kept {s : State} (hK : Kept V Q s) : Kept V Q (runWants s) := by
  unfold runWants
  repeat' first
      | assumption | with_reducible intro _ | with_reducible apply startUp_kept
      | with_reducible apply setWant_kept | with_reducible apply Kept.ite | with_reducible apply Kept.foldl

theorem returnSlot_kept {c : Chan} {s : State} (hK : Kept V Q s) : Kept V Q (returnSlot c s) := by
  unfold returnSlot
  repeat' first
      | assumption | intro _ | apply modEntry_kept
      | apply modChan_kept | split | exact ‹ChanOk _›

theorem startDrain_kept {d : Nat} {s : State} (hK : Kept V Q s) : Kept V Q (startDrain d s) := by
  unfold startDrain
  repeat' first
      | assumption | intro _ | apply setDom_kept
      | apply returnSlot_kept | apply Kept.foldl | split

theorem refuseStg_kept {s : State} (hK : Kept V Q s) : Kept V Q (refuseStg s) :=
  setDue_kept (setOutcome_kept hK.mk_upd)

theorem sleepReq_kept {d : Nat} {r : DomReq} {s : State} (hK : Kept V Q s) : Kept V Q (sleepReq d r s) := by
  unfold sleepReq
  split
  · exact Kept.ite (setReq_kept (setDom_kept hK.mk_upd)) hK
  · exact Kept.ite (Kept.ite (startDrain_kept hK.mk_upd) (refuseStg_kept hK)) (startDrain_kept hK)
  · exact ask_kept hK

theorem serveDue_kept {d : Nat} {s : State} (hK : Kept V Q s) : Kept V Q (serveDue d s) := by
  unfold serveDue
  split
  · exact hK
  · exact powerUp_kept (setDue_kept hK)
  · exact sleepReq_kept (setDue_kept hK)

theorem upDone_kept {d : Nat} {s : State} (hK : Kept V Q s) : Kept V Q (upDone d s) :=
  serveDue_kept (Kept.ite (runWants_kept (setDom_kept hK)) (setDom_kept hK))

theorem noteWake_kept {d : Nat} {s : State} (hK : Kept V Q s) : Kept V Q (noteWake d s) := Kept.mk_upd hK

theorem autoWake_kept {d : Nat} {s : State} (hK : Kept V Q s) : Kept V Q (autoWake d s) := requestUp_kept (noteWake_kept hK)

theorem meetWake_kept {d : Nat} {s : State} (hK : Kept V Q s) : Kept V Q (meetWake d s) :=
  Kept.ite (noteWake_kept hK) hK

theorem wakeWins_kept {d : Nat} {s : State} (hK : Kept V Q s) : Kept V Q (wakeWins d s).2 := by
  unfold wakeWins
  split
  · exact draw_kept hK
  · exact hK

theorem sleepWrite_kept {d : Nat} {s : State} (hK : Kept V Q s) : Kept V Q (sleepWrite d s) := by
  unfold sleepWrite
  dsimp only
  split
  · exact setOutcome_kept (setOn_kept (wakeWins_kept hK))
  · exact sleepReq_kept (setOn_kept (wakeWins_kept hK))

/-! ## QueueBase -/

theorem issueCtxRead_kept {k : Nat} {s : State} (hK : Kept V Q s) : Kept V Q (issueCtxRead k s) := issueQe_kept hK

theorem issueCtxWrite_kept {k : Nat} {w : Nat} {ws : List W64} {s : State} (hK : Kept V Q s) :
    Kept V Q (issueCtxWrite k w ws s) :=
  Kept.ite (modQctx_kept hK) (issueQe_kept hK)

theorem issueDue_kept {k : Nat} {s : State} (hK : Kept V Q s) : Kept V Q (issueDue k s) :=
  Kept.foldl (fun _ _ h => issueCtxWrite_kept h) _ _ (modQctx_kept hK)

theorem askCtx_kept {k : Nat} {s : State} (hK : Kept V Q s) : Kept V Q (askCtx k s) := by
  unfold askCtx
  repeat' first
      | assumption | apply modQctx_kept | apply issueCtxRead_kept
      | apply Kept.ite

theorem touch_kept {k : Nat} {s : State} (hK : Kept V Q s) : Kept V Q (touch k s) := by
  unfold touch
  repeat' first
      | split | exact Kept.mk_upd ‹_›

theorem uncache_kept {k : Nat} {s : State} (hK : Kept V Q s) : Kept V Q (uncache k s) := by
  unfold uncache
  repeat' first
      | apply modQctx_kept | exact Kept.mk_upd ‹_›

theorem evictOne_kept {k : Nat} {s : State} (hK : Kept V Q s) : Kept V Q (evictOne k s) := by
  unfold evictOne
  repeat' first
      | assumption | apply issueCtxWrite_kept | apply uncache_kept
      | split

theorem cacheIn_kept {k : Nat} {s : State} (hK : Kept V Q s) : Kept V Q (cacheIn k s) := by
  unfold cacheIn
  repeat' first
      | assumption | apply touch_kept | apply modQctx_kept
      | apply evictOne_kept | apply Kept.ite

theorem ctxError_kept {k : Nat} {s : State} (hK : Kept V Q s) : Kept V Q (ctxError k s) := hK.mk_upd

theorem idxMoved_kept {k : Nat} {s : State} (hK : Kept V Q s) : Kept V Q (idxMoved k s) := by
  unfold idxMoved
  repeat' first
      | assumption | apply modQctx_kept | split

theorem idxIssue_kept {k : Nat} {s : State} (hK : Kept V Q s) : Kept V Q (idxIssue k s) := by
  unfold idxIssue
  repeat' first
      | assumption | apply issueQe_kept | apply modQctx_kept
      | split

theorem badDoor_kept {k : Nat} {s : State} (hK : Kept V Q s) : Kept V Q (badDoor k s) := hK.mk_upd

theorem endRound_kept {k : Nat} {s : State} (hK : Kept V Q s) : Kept V Q (endRound k s) := by
  unfold endRound
  repeat' first
      | assumption | split | exact Kept.mk_upd ‹_› | dsimp only

theorem setDoor_kept {k : Nat} {v : BitVec 16} {s : State} (hK : Kept V Q s) : Kept V Q (setDoor k v s) := by
  unfold setDoor
  repeat' first
      | assumption | apply badDoor_kept | apply endRound_kept | apply modQctx_kept | split

theorem applyDoors_kept {k : Nat} {s : State} (hK : Kept V Q s) : Kept V Q (applyDoors k s) := by
  unfold applyDoors
  exact Kept.foldl (fun _ _ h => setDoor_kept h) _ _ (modQctx_kept hK)

theorem closeCtx_kept {k : Nat} {s : State} (hK : Kept V Q s) : Kept V Q (closeCtx k s) :=
  modQctx_kept (applyDoors_kept hK)

theorem writeBack_kept {k : Nat} {s : State} (hK : Kept V Q s) : Kept V Q (writeBack k s) := by
  unfold writeBack
  exact uncache_kept (issueCtxWrite_kept (issueCtxWrite_kept (closeCtx_kept hK)))

theorem adminSettle_kept {s : State} (hK : Kept V Q s) : Kept V Q (adminSettle s) := by
  unfold adminSettle
  repeat' first
      | assumption | intro _ | apply finishEntry_kept
      | apply Kept.ite | apply Kept.foldl

theorem qctlDone_kept {k : Nat} {s : State} (hK : Kept V Q s) : Kept V Q (qctlDone k s) := by
  unfold qctlDone
  repeat' first
      | split | exact Kept.mk_upd ‹_›

theorem stopEnd_kept {k : Nat} {s : State} (hK : Kept V Q s) : Kept V Q (stopEnd k s) := by
  unfold stopEnd
  repeat' first
      | assumption | with_reducible intro _ | with_reducible apply modQctx_kept
      | with_reducible apply writeBack_kept
      | with_reducible apply finishEntry_kept | with_reducible apply adminSettle_kept
      | with_reducible apply qctlDone_kept | with_reducible apply Kept.foldl | split

theorem runStops_kept {k : Nat} : ∀ {fuel : Nat} {s : State}, Kept V Q s → Kept V Q (runStops k fuel s)
  | 0, _, hK => hK
  | fuel + 1, s, hK => by
    unfold runStops
    split
    · exact hK
    · split
      · exact hK
      · split
        · exact runStops_kept (stopEnd_kept hK)
        · exact modQctx_kept hK

theorem tryStop_kept {k : Nat} {s : State} (hK : Kept V Q s) : Kept V Q (tryStop k s) := runStops_kept hK

theorem disableSq_kept {k : Nat} {wait : List Nat} {s : State} (hK : Kept V Q s) : Kept V Q (disableSq k wait s) :=
  tryStop_kept (endRound_kept (modQctx_kept hK))

theorem waitStop_kept {k id : Nat} {s : State} (hK : Kept V Q s) : Kept V Q (waitStop k id s) := modQctx_kept hK

theorem stallCq_kept {q : QNum} {s : State} (hK : Kept V Q s) : Kept V Q (stallCq q s) := by
  unfold stallCq
  repeat' first
      | apply post_kept | split | exact Kept.mk_upd ‹_›
      | dsimp only

theorem drainCq_kept {q : QNum} {fuel : Nat} {a2 : State} (hK : Kept V Q a2) : Kept V Q (drainCq q fuel a2) := by
  induction fuel generalizing q a2 with
  | zero =>
    unfold drainCq
    repeat' ((with_reducible apply Kept.mk_upd; first | assumption | with_reducible apply askCtx_kept | with_reducible apply stallCq_kept | with_reducible apply issueQe_kept | with_reducible apply touch_kept | with_reducible apply modQctx_kept | split))
  | succ n ih =>
    unfold drainCq
    repeat' first
        | with_reducible apply ih
        | (with_reducible apply Kept.mk_upd; first | assumption | with_reducible apply askCtx_kept | with_reducible apply stallCq_kept | with_reducible apply issueQe_kept | with_reducible apply touch_kept | with_reducible apply modQctx_kept | split)

theorem drain_kept {q : QNum} {s : State} (hK : Kept V Q s) : Kept V Q (drain q s) := drainCq_kept hK

theorem putCpl_kept {p : Cpl} {s : State} (hK : Kept V Q s) : Kept V Q (putCpl p s) := by
  unfold putCpl
  repeat' first
      | apply drain_kept | exact Kept.mk_upd ‹_›

theorem passFrontier_kept {sq : QNum} {s : State} (hK : Kept V Q s) : Kept V Q (passFrontier sq s) := hK.mk_upd

theorem postBatch_kept {sq : QNum} {s : State} (hK : Kept V Q s) : Kept V Q (postBatch sq s) := by
  unfold postBatch
  repeat' first
      | apply adminSettle_kept | apply putCpl_kept | split
      | exact Kept.mk_upd ‹_› | dsimp only

theorem haltThread_kept {c : Chan} {t : Thr} {s : State} (hK : Kept V Q s) : Kept V Q (haltThread c t s) := by
  unfold haltThread
  repeat' first
      | assumption | intro _ | apply modThr_kept
      | apply tryEnd_kept | apply modChan_kept | apply dropWaiter_kept
      | apply moveHalted_kept | apply setEnding_kept | apply Kept.ite
      | split | exact ‹ChanOk _›

theorem haltThreads_kept {s : State} (hK : Kept V Q s) : Kept V Q (haltThreads s) := by
  unfold haltThreads
  repeat' first
      | assumption | intro _ | apply haltThread_kept
      | apply Kept.foldl

theorem halt_kept {cause : Byte} {sq : QNum} {index : BitVec 16} {words : List W64} {isRem : Bool} {s : State} (hK : Kept V Q s) :
    Kept V Q (halt cause sq index words isRem s) := by
  unfold halt
  repeat' ((with_reducible apply Kept.mk_upd; first | assumption | with_reducible apply logRec_kept | with_reducible apply post_kept | with_reducible apply haltThreads_kept | split))

theorem ringDoor_kept {k : Nat} {v : BitVec 16} {s : State} (hK : Kept V Q s) : Kept V Q (ringDoor k v s) := by
  unfold ringDoor
  repeat' first
      | assumption | apply setDoor_kept | apply drain_kept
      | apply modQctx_kept | apply Kept.ite

theorem doorbell_kept {k : Nat} {v : BitVec 16} {s : State} (hK : Kept V Q s) : Kept V Q (doorbell k v s) := by
  unfold doorbell
  repeat' first
      | assumption | apply badDoor_kept | apply ringDoor_kept
      | apply touch_kept | apply askCtx_kept | apply modQctx_kept
      | apply Kept.ite

theorem ctxReady_kept {k : Nat} {s : State} (hK : Kept V Q s) : Kept V Q (ctxReady k s) := by
  unfold ctxReady
  repeat' first
      | assumption | intro _ | apply ringDoor_kept | apply setDoor_kept | apply applyDoors_kept
      | apply modQctx_kept | apply drain_kept | apply Kept.foldl
      | split

/-! ## Scratch -/

theorem scratchAt_kept {c : Chan} {t : Thr} {w : W64} {s : State} {k : Nat → Nat → W64 → State → Eff} (hK : Kept V Q s) (hf : ∀ a n x s, Kept V Q s → EffKept V Q (k a n x s)) :
    EffKept V Q (scratchAt c t w s k) := by
  unfold scratchAt
  repeat' first
      | assumption | apply hf | apply operand_kept
      | apply readMem_kept | apply EffKept.event | apply EffKept.ite

theorem semLd_kept {c : Chan} {t : Thr} {w : W64} {s : State} (hK : Kept V Q s) : EffKept V Q (semLd c t w s) := by
  unfold semLd
  repeat' first
      | assumption | intro _ | apply scratchAt_kept
      | apply EffKept.write

theorem semLds_kept {c : Chan} {t : Thr} {w : W64} {s : State} (hK : Kept V Q s) : EffKept V Q (semLds c t w s) := by
  unfold semLds
  repeat' first
      | assumption | intro _ | apply scratchAt_kept
      | apply EffKept.write

theorem putScratch_kept {c : Chan} {t : Thr} {a : Nat} {n : Nat} {v : W64} {s : State} (hK : Kept V Q s) :
    Kept V Q (putScratch c t a n v s) :=
  writeMem_kept hK

theorem semSt_kept {c : Chan} {t : Thr} {w : W64} {s : State} (hK : Kept V Q s) : EffKept V Q (semSt c t w s) := by
  unfold semSt
  repeat' first
      | assumption | apply operand_kept | apply putScratch_kept
      | apply EffKept.plain | apply EffKept.event | apply EffKept.ite

theorem semSwap_kept {c : Chan} {t : Thr} {w : W64} {s : State} (hK : Kept V Q s) :
    EffKept V Q (semSwap c t w s) := by
  unfold semSwap
  repeat' first
      | assumption | intro _ | apply scratchAt_kept
      | apply operand_kept | apply putScratch_kept
      | apply EffKept.write

theorem semFadd_kept {c : Chan} {t : Thr} {w : W64} {s : State} (hK : Kept V Q s) :
    EffKept V Q (semFadd c t w s) := by
  unfold semFadd
  repeat' first
      | assumption | intro _ | apply scratchAt_kept
      | apply operand_kept | apply putScratch_kept
      | apply EffKept.write

theorem execLd_kept {c : Chan} {t : Thr} {s : State} (hK : Kept V Q s) : OutKept V Q (execLd c t s) := by
  unfold execLd
  repeat' first
      | assumption | apply issue_kept | apply semLd_kept
      | apply OutKept.next

theorem execLds_kept {c : Chan} {t : Thr} {s : State} (hK : Kept V Q s) : OutKept V Q (execLds c t s) := by
  unfold execLds
  repeat' first
      | assumption | apply issue_kept | apply semLds_kept
      | apply OutKept.next

theorem execSt_kept {c : Chan} {t : Thr} {s : State} (hK : Kept V Q s) : OutKept V Q (execSt c t s) := by
  unfold execSt
  repeat' first
      | assumption | apply issue_kept | apply semSt_kept
      | apply OutKept.next

theorem execSwap_kept {c : Chan} {t : Thr} {s : State} (hK : Kept V Q s) : OutKept V Q (execSwap c t s) := by
  unfold execSwap
  repeat' first
      | assumption | apply issue_kept | apply semSwap_kept
      | apply OutKept.next

theorem execFadd_kept {c : Chan} {t : Thr} {s : State} (hK : Kept V Q s) : OutKept V Q (execFadd c t s) := by
  unfold execFadd
  repeat' first
      | assumption | apply issue_kept | apply semFadd_kept
      | apply OutKept.next

/-! ## Codec -/

theorem cwRead_kept {c : Chan} {buf : BitVec 3} {off : Nat} {n : Nat} {rq : Rq} {s : State} (hK : Kept V Q s) :
    Kept V Q (cwRead c buf off n rq s).2 :=
  pathOut_kept (readMem_kept hK)

theorem cwWrite_kept {c : Chan} {buf : BitVec 3} {off : Nat} {bs : List (Byte × Bool)} {rq : Rq} {s : State} (hK : Kept V Q s) :
    Kept V Q (cwWrite c buf off bs rq s) :=
  writeMem_kept hK

theorem cwGood_kept {c : Chan} {buf : BitVec 3} {user : List Byte} {rq : Rq} {s : State} (hK : Kept V Q s) :
    Kept V Q (cwGood c buf user rq s) := by
  unfold cwGood
  repeat' first
      | assumption | apply markRange_kept | apply cwWrite_kept

theorem cwPoison_kept {c : Chan} {buf : BitVec 3} {s : State} (hK : Kept V Q s) : Kept V Q (cwPoison c buf s) :=
  markRange_kept hK

theorem cwReport_kept {c : Chan} {buf : BitVec 3} {w : W64} {rq : Rq} {s : State} (hK : Kept V Q s) :
    Kept V Q (cwReport c buf w rq s) :=
  cwWrite_kept hK

theorem freeBytes_kept {a0 : Nat} {a1 : State} (hK : Kept V Q a1) : Kept V Q (freeBytes a0 a1).2 := by
  induction a0 generalizing a1 with
  | zero =>
    unfold freeBytes
    repeat' first
        | assumption | apply draw_kept
  | succ n ih =>
    unfold freeBytes
    repeat' first
        | apply ih | assumption | apply draw_kept

/-! ## Fence -/

theorem fenceRead_kept {c : Chan} {t : Thr} {j : Ctx} {f : Nat} {s : State} (hK : Kept V Q s) :
    Kept V Q (fenceRead c t j f s).2 :=
  stgRead_kept hK

theorem fenceWrite_kept {c : Chan} {t : Thr} {j : Ctx} {f : Nat} {v : BitVec 16} {s : State} (hK : Kept V Q s) :
    Kept V Q (fenceWrite c t j f v s) :=
  stgWrite_kept hK

theorem fenceReads_kept {c : Chan} {t : Thr} {j : Ctx} {a3 : List Nat} {a4 : State} (hK : Kept V Q a4) :
    Kept V Q (fenceReads c t j a3 a4).2 := by
  induction a3 generalizing j a4 with
  | nil =>
    unfold fenceReads
    repeat' first
        | assumption | apply fenceRead_kept
  | cons x xs ih =>
    unfold fenceReads
    repeat' first
        | apply ih | assumption | apply fenceRead_kept

theorem fenceWrites_kept {c : Chan} {t : Thr} {j : Ctx} {v : BitVec 16} {fs : List Nat} {s : State} (hK : Kept V Q s) :
    Kept V Q (fenceWrites c t j v fs s) := by
  unfold fenceWrites
  repeat' first
      | assumption | intro _ | apply fenceWrite_kept
      | apply Kept.foldl

theorem fenceAccept_kept {c : Chan} {t : Thr} {cls : BitVec 2} {j : Ctx} {a : W64} {m : BitVec 24} {s : State} (hK : Kept V Q s) :
    Kept V Q (fenceAccept c t cls j a m s).2 := by
  unfold fenceAccept
  repeat' first
      | assumption | apply fenceReads_kept | apply fenceWrites_kept
      | apply Kept.ite2 | split

theorem fenceOpen_kept {c : Chan} {t : Thr} {j : Ctx} {a : W64} {m : BitVec 24} {s : State} (hK : Kept V Q s) :
    Kept V Q (fenceOpen c t j a m s) := by
  unfold fenceOpen
  repeat' first
      | assumption | apply fenceWrites_kept | split

theorem fillRegion_kept {c : Chan} {s : State} (hK : Kept V Q s) : Kept V Q (fillRegion c s) := stgWrite_kept hK

/-! ## Plumb -/

theorem modPlb_kept {c : Chan} {f : ChPlb → ChPlb} {s : State} (hK : Kept V Q s) : Kept V Q (modPlb c f s) := by
  unfold modPlb
  repeat' first
      | assumption | intro _ | apply modChan_kept | exact ‹ChanOk _›

theorem plbResetDie_kept {c : Chan} {j : Ctx} {a2 : State} (hK : Kept V Q a2) : Kept V Q (plbResetDie c j a2) :=
  modPlb_kept hK

theorem plbFault_kept {c : Chan} {j : Ctx} {z : BitVec 4} {l : BitVec 4} {clamp : Bool} {s : State} (hK : Kept V Q s) :
    Kept V Q (plbFault c j z l clamp s) := by
  unfold plbFault
  repeat' first
      | apply post_kept | exact Kept.mk_upd ‹_›

theorem plbTrack_kept {c : Chan} {j : Ctx} {z : BitVec 4} {l : BitVec 4} {isOver : Bool} {s : State} (hK : Kept V Q s) :
    Kept V Q (plbTrack c j z l isOver s).2 := by
  unfold plbTrack
  repeat' first
      | assumption | with_reducible apply modPlb_kept | with_reducible apply Kept.ite2 | split

theorem plbLevel_kept {c : Chan} {j : Ctx} {z : BitVec 4} {ty : BitVec 4} {r01 : BitVec 16} {r10 : BitVec 16} {l : BitVec 4} {s : State} (hK : Kept V Q s) :
    Kept V Q (plbLevel c j z ty r01 r10 l s) := by
  unfold plbLevel
  repeat' first
      | assumption | apply modPlb_kept | apply plbTrack_kept
      | apply plbFault_kept | apply Kept.ite | split

theorem plbSample_kept {c : Chan} {j : Ctx} {z : BitVec 4} {ty : BitVec 4} {r01 : BitVec 16} {r10 : BitVec 16} {s : State} (hK : Kept V Q s) :
    Kept V Q (plbSample c j z ty r01 r10 s) := by
  unfold plbSample
  repeat' first
      | assumption | intro _ | apply plbLevel_kept
      | apply Kept.foldl

theorem semPlbrd_kept {c : Chan} {t : Thr} {w : W64} {s : State} (hK : Kept V Q s) :
    EffKept V Q (semPlbrd c t w s) := by
  unfold semPlbrd
  repeat' first
      | assumption | apply operand_kept | apply EffKept.waited

theorem semPlbwr_kept {c : Chan} {t : Thr} {w : W64} {s : State} (hK : Kept V Q s) :
    EffKept V Q (semPlbwr c t w s) := by
  unfold semPlbwr
  repeat' first
      | assumption | apply operand_kept | apply modPlb_kept
      | apply EffKept.plain

theorem semPlbrst_kept {c : Chan} {t : Thr} {w : W64} {s : State} (hK : Kept V Q s) :
    EffKept V Q (semPlbrst c t w s) := by
  unfold semPlbrst
  repeat' first
      | assumption | apply operand_kept | apply plbResetDie_kept
      | apply EffKept.plain

theorem semPlbfrz_kept {b : Bool} {c : Chan} {t : Thr} {w : W64} {s : State} (hK : Kept V Q s) :
    EffKept V Q (semPlbfrz b c t w s) := by
  unfold semPlbfrz
  repeat' first
      | assumption | apply operand_kept | apply modPlb_kept
      | apply EffKept.plain

theorem execPlbrd_kept {c : Chan} {t : Thr} {s : State} (hK : Kept V Q s) : OutKept V Q (execPlbrd c t s) := by
  unfold execPlbrd
  repeat' first
      | assumption | apply issue_kept | apply semPlbrd_kept
      | apply OutKept.next

theorem execPlbwr_kept {c : Chan} {t : Thr} {s : State} (hK : Kept V Q s) : OutKept V Q (execPlbwr c t s) := by
  unfold execPlbwr
  repeat' first
      | assumption | apply issue_kept | apply semPlbwr_kept
      | apply OutKept.next

theorem execPlbrst_kept {c : Chan} {t : Thr} {s : State} (hK : Kept V Q s) : OutKept V Q (execPlbrst c t s) := by
  unfold execPlbrst
  repeat' first
      | assumption | apply issue_kept | apply semPlbrst_kept
      | apply OutKept.next

theorem execPlbfrzFreeze_kept {c : Chan} {t : Thr} {s : State} (hK : Kept V Q s) :
    OutKept V Q (execPlbfrzFreeze c t s) := by
  unfold execPlbfrzFreeze
  repeat' first
      | assumption | apply issue_kept | apply semPlbfrz_kept
      | apply OutKept.next

theorem execPlbfrzResume_kept {c : Chan} {t : Thr} {s : State} (hK : Kept V Q s) :
    OutKept V Q (execPlbfrzResume c t s) := by
  unfold execPlbfrzResume
  repeat' first
      | assumption | apply issue_kept | apply semPlbfrz_kept
      | apply OutKept.next

/-! ## Signal -/

theorem setCe_kept {c : Chan} {j : Ctx} {low : Bool} {a3 : State} (hK : Kept V Q a3) :
    Kept V Q (setCe c j low a3) := by
  unfold setCe
  repeat' first
      | assumption | intro _ | apply modChan_kept | exact ‹ChanOk _›

theorem setCycle_kept {c : Chan} {d : DieRec} {x : Cycle} {s : State} (hK : Kept V Q s) :
    Kept V Q (setCycle c d x s) := by
  unfold setCycle
  repeat' first
      | assumption | intro _ | apply modChan_kept | exact ‹ChanOk _›

theorem idlePins_kept {c : Chan} {a1 : State} (hK : Kept V Q a1) : Kept V Q (idlePins c a1) := by
  unfold idlePins
  repeat' first
      | assumption | intro _ | apply modChan_kept | exact ‹ChanOk _›

theorem quietPins_kept {c : Chan} {s : State} (hK : Kept V Q s) : Kept V Q (quietPins c s) :=
  modChan_kept hK fun _ hx => hx

theorem inertPins_kept {c : Chan} {a1 : State} (hK : Kept V Q a1) : Kept V Q (inertPins c a1) := by
  unfold inertPins
  repeat' first
      | assumption | intro _ | apply modChan_kept | exact ‹ChanOk _›

/-! ## ThreadOps -/

theorem semFeat_kept {c : Chan} {t : Thr} {w : W64} {s : State} (hK : Kept V Q s) :
    EffKept V Q (semFeat c t w s) := by
  unfold semFeat
  repeat' first
      | assumption | apply EffKept.write

theorem semTime_kept {_c : Chan} {_t : Thr} {w : W64} {s : State} (hK : Kept V Q s) :
    EffKept V Q (semTime _c _t w s) := by
  unfold semTime
  repeat' first
      | assumption | apply EffKept.waited

theorem semWaitt_kept {c : Chan} {t : Thr} {w : W64} {s : State} (hK : Kept V Q s) :
    EffKept V Q (semWaitt c t w s) := by
  unfold semWaitt
  repeat' first
      | assumption | apply operand_kept | apply EffKept.waited
      | apply EffKept.wait | apply EffKept.ite

theorem semWaite_kept {c : Chan} {t : Thr} {w : W64} {s : State} (hK : Kept V Q s) :
    EffKept V Q (semWaite c t w s) := by
  unfold semWaite
  repeat' first
      | assumption | intro _ | apply modChan_kept
      | apply EffKept.waited | apply EffKept.wait | apply EffKept.ite
      | exact ‹ChanOk _›

theorem releaseWaits_kept {c : Chan} {a1 : List Thr} {a2 : State} (hK : Kept V Q a2) :
    Kept V Q (releaseWaits c a1 a2) := by
  induction a1 generalizing a2 with
  | nil =>
    unfold releaseWaits
    repeat' first
        | assumption | intro _ | apply finishWait_kept
        | apply modChan_kept | apply Kept.ite | split | exact ‹ChanOk _›
  | cons x xs ih =>
    unfold releaseWaits
    repeat' first
        | apply ih | assumption | intro _
        | apply finishWait_kept | apply modChan_kept | apply Kept.ite
        | split | exact ‹ChanOk _›

theorem semSigset_kept {c : Chan} {_t : Thr} {w : W64} {s : State} (hK : Kept V Q s) :
    EffKept V Q (semSigset c _t w s) := by
  unfold semSigset
  repeat' first
      | assumption | intro _ | apply modChan_kept
      | apply releaseWaits_kept | apply EffKept.plain | exact ‹ChanOk _›

theorem semNop_kept {_c : Chan} {_t : Thr} {_w : W64} {s : State} (hK : Kept V Q s) :
    EffKept V Q (semNop _c _t _w s) := by
  unfold semNop
  repeat' first
      | assumption | apply EffKept.plain

theorem semDopw_kept {c : Chan} {t : Thr} {w : W64} {s : State} (hK : Kept V Q s) :
    EffKept V Q (semDopw c t w s) := by
  unfold semDopw
  repeat' first
      | assumption | apply EffKept.event | apply EffKept.waited
      | apply EffKept.wait | split

theorem wakeDopw_kept {c : Chan} {t : Thr} {s : State} (hK : Kept V Q s) : Kept V Q (wakeDopw c t s) := by
  unfold wakeDopw
  repeat' first
      | assumption | apply recognise_kept | apply finishWait_kept
      | apply raiseEvent_kept | split

theorem semDopt_kept {c : Chan} {t : Thr} {w : W64} {s : State} (hK : Kept V Q s) :
    EffKept V Q (semDopt c t w s) := by
  unfold semDopt
  repeat' first
      | assumption | apply EffKept.write

theorem semPrgr_kept {c : Chan} {t : Thr} {w : W64} {s : State} (hK : Kept V Q s) :
    EffKept V Q (semPrgr c t w s) := by
  unfold semPrgr
  repeat' first
      | assumption | apply EffKept.write

theorem semHalloc_kept {c : Chan} {t : Thr} {w : W64} {s : State} (hK : Kept V Q s) :
    EffKept V Q (semHalloc c t w s) := by
  unfold semHalloc
  repeat' first
      | with_reducible apply alloc_kept | with_reducible apply EffKept.waited | with_reducible apply EffKept.wait
      | split | refine Kept.opt2 (by assumption) ?_ | exact Kept.mk_upd ‹_›
      | dsimp only

theorem semHfree_kept {c : Chan} {t : Thr} {w : W64} {s : State} (hK : Kept V Q s) :
    EffKept V Q (semHfree c t w s) := by
  unfold semHfree
  repeat' first
      | assumption | apply operand_kept | apply freeEntryBuffer_kept
      | apply EffKept.plain

theorem semEnd_kept {c : Chan} {t : Thr} {w : W64} {s : State} (hK : Kept V Q s) : EffKept V Q (semEnd c t w s) := by
  unfold semEnd
  repeat' first
      | assumption | with_reducible apply operand_kept | with_reducible apply raiseEvent_kept
      | with_reducible apply modThr_kept | with_reducible apply recordFault_kept | with_reducible apply tryEnd_kept
      | with_reducible apply setEnding_kept | with_reducible apply EffKept.gone | with_reducible apply EffKept.ite
      | split

theorem execFeat_kept {c : Chan} {t : Thr} {s : State} (hK : Kept V Q s) : OutKept V Q (execFeat c t s) := by
  unfold execFeat
  repeat' first
      | assumption | apply issue_kept | apply semFeat_kept
      | apply OutKept.next

theorem execTime_kept {c : Chan} {t : Thr} {s : State} (hK : Kept V Q s) : OutKept V Q (execTime c t s) := by
  unfold execTime
  repeat' first
      | assumption | apply issue_kept | apply semTime_kept
      | apply OutKept.next

theorem execWaitt_kept {c : Chan} {t : Thr} {s : State} (hK : Kept V Q s) : OutKept V Q (execWaitt c t s) := by
  unfold execWaitt
  repeat' first
      | assumption | apply issue_kept | apply semWaitt_kept
      | apply OutKept.next

theorem execWaittExpiry_kept {c : Chan} {t : Thr} {s : State} (hK : Kept V Q s) :
    OutKept V Q (execWaittExpiry c t s) := by
  unfold execWaittExpiry
  repeat' first
      | assumption | with_reducible apply applyEff_kept | with_reducible apply OutKept.next
      | with_reducible apply EffKept.waited | split

theorem execWaite_kept {c : Chan} {t : Thr} {s : State} (hK : Kept V Q s) : OutKept V Q (execWaite c t s) := by
  unfold execWaite
  repeat' first
      | assumption | apply issue_kept | apply semWaite_kept
      | apply OutKept.next

theorem execSigset_kept {c : Chan} {t : Thr} {s : State} (hK : Kept V Q s) : OutKept V Q (execSigset c t s) := by
  unfold execSigset
  repeat' first
      | assumption | apply issue_kept | apply semSigset_kept
      | apply OutKept.next

theorem execNop_kept {c : Chan} {t : Thr} {s : State} (hK : Kept V Q s) : OutKept V Q (execNop c t s) := by
  unfold execNop
  repeat' first
      | assumption | apply issue_kept | apply semNop_kept
      | apply OutKept.next

theorem execDopw_kept {c : Chan} {t : Thr} {s : State} (hK : Kept V Q s) : OutKept V Q (execDopw c t s) := by
  unfold execDopw
  repeat' first
      | assumption | apply issue_kept | apply semDopw_kept
      | apply OutKept.next

theorem execDopt_kept {c : Chan} {t : Thr} {s : State} (hK : Kept V Q s) : OutKept V Q (execDopt c t s) := by
  unfold execDopt
  repeat' first
      | assumption | apply issue_kept | apply semDopt_kept
      | apply OutKept.next

theorem execPrgr_kept {c : Chan} {t : Thr} {s : State} (hK : Kept V Q s) : OutKept V Q (execPrgr c t s) := by
  unfold execPrgr
  repeat' first
      | assumption | apply issue_kept | apply semPrgr_kept
      | apply OutKept.next

theorem execHalloc_kept {c : Chan} {t : Thr} {s : State} (hK : Kept V Q s) : OutKept V Q (execHalloc c t s) := by
  unfold execHalloc
  repeat' first
      | assumption | with_reducible apply issue_kept | with_reducible apply semHalloc_kept
      | with_reducible apply OutKept.next

theorem execHfree_kept {c : Chan} {t : Thr} {s : State} (hK : Kept V Q s) : OutKept V Q (execHfree c t s) := by
  unfold execHfree
  repeat' first
      | assumption | apply issue_kept | apply semHfree_kept
      | apply OutKept.next

theorem execEndProg_kept {c : Chan} {t : Thr} {s : State} (hK : Kept V Q s) : OutKept V Q (execEndProg c t s) := by
  unfold execEndProg
  repeat' first
      | assumption | with_reducible apply tryEnd_kept | with_reducible apply issue_kept
      | with_reducible apply semEnd_kept | with_reducible apply OutKept.next | split

end Sys2Proof.Machine
end

