-- ==== Sys2Proof/Laws/KeptEngines.lean ====
section
/-! SUPPORT. What KeptBase says of a step, for micro-routines, the queue engine, the Primer store and the decoders: one lemma per function. -/

namespace Sys2Proof.Machine

open Sys2Proof

variable {V : Variant} {Q : List Instr}

set_option maxRecDepth 8000

/-! ## MicroBase -/

theorem fetchStore_kept {c : Chan} {disp : Bool} {i : Nat} {s : State} (hK : Kept V Q s) :
    Kept V Q (fetchStore c disp i s).2 := by
  unfold fetchStore
  repeat' first
      | assumption | intro _ | apply draw_kept
      | apply modReg_kept | apply logRec_kept | apply modChan_kept
      | split | exact ‹ChanOk _› | dsimp only

theorem refuseWord_kept {c : Chan} {i : Nat} {s : State} (hK : Kept V Q s) : Kept V Q (refuseWord c i s) := by
  unfold refuseWord
  repeat' first
      | assumption | apply draw_kept | apply modReg_kept
      | apply logRec_kept

theorem setLast_kept {c : Chan} {j : Ctx} {x : BitVec 4} {a3 : State} (hK : Kept V Q a3) :
    Kept V Q (setLast c j x a3) := by
  unfold setLast
  repeat' first
      | assumption | intro _ | apply modChan_kept | exact ‹ChanOk _›

theorem refuseDop_kept {c : Chan} {t : Thr} {k : Byte} {j : Ctx} {code : BitVec 4} {s : State} (hK : Kept V Q s) :
    Kept V Q (refuseDop c t k j code s) := by
  unfold refuseDop
  repeat' first
      | assumption | apply setLast_kept | apply modThr_kept | apply noteOut_kept

theorem acceptDop_kept {c : Chan} {t : Thr} {w : W64} {ra : W64} {rb : W64} {ent : BitVec 32} {cls : BitVec 2} {s : State} (hK : Kept V Q s) :
    Kept V Q (acceptDop c t w ra rb ent cls s) := by
  unfold acceptDop
  repeat' first
      | assumption | intro _ | apply modChan_kept
      | apply modThr_kept | apply judgePrio_kept | exact ‹ChanOk _›

theorem dopGo_kept {c : Chan} {t : Thr} {w : W64} {ra : W64} {rb : W64} {go : State → Eff} {s : State} (hK : Kept V Q s) (hf : ∀ s, Kept V Q s → EffKept V Q (go s)) :
    EffKept V Q (dopGo c t w ra rb go s) := by
  unfold dopGo
  repeat' first
      | assumption | with_reducible apply hf | with_reducible apply fetchStore_kept
      | with_reducible apply refuseDop_kept | with_reducible apply acceptDop_kept | with_reducible apply noteOut_kept
      | with_reducible apply fenceAccept_kept | with_reducible apply EffKept.event
      | with_reducible apply EffKept.wait | split | dsimp only

theorem semDop_kept {c : Chan} {t : Thr} {w : W64} {s : State} (hK : Kept V Q s) : EffKept V Q (semDop c t w s) := by
  unfold semDop
  repeat' first
      | assumption | with_reducible apply operand_kept | with_reducible apply dopGo_kept
      | with_reducible apply EffKept.plain

theorem dopRetry_kept {c : Chan} {t : Thr} {s : State} (hK : Kept V Q s) : Kept V Q (dopRetry c t s) := by
  unfold dopRetry
  repeat' first
      | assumption | with_reducible intro _ | with_reducible apply retry_kept
      | with_reducible apply dopGo_kept | with_reducible apply EffKept.waited0 | split

theorem dopRetries_kept {c : Chan} {s : State} (hK : Kept V Q s) : Kept V Q (dopRetries c s) := by
  unfold dopRetries
  repeat' first
      | with_reducible assumption | with_reducible intro _ | with_reducible apply dopRetry_kept
      | with_reducible apply Kept.foldl

theorem releaseHeld_kept {c : Chan} {t : Thr} {j : Ctx} {by_ : Option Thr} {engine : Bool} {s : State} (hK : Kept V Q s) :
    Kept V Q (releaseHeld c t j by_ engine s) := by
  unfold releaseHeld
  repeat' first
      | assumption | intro _ | apply modRtn_kept
      | apply Kept.foldl | split

theorem trainState_kept {c : Chan} {r : Routine} {s : State} (hK : Kept V Q s) : Kept V Q (trainState c r s) := by
  unfold trainState
  repeat' first
      | assumption | intro _ | apply modChan_kept | split
      | exact ‹ChanOk _›

theorem leaveBus_kept {c : Chan} {s : State} (hK : Kept V Q s) : Kept V Q (leaveBus c s) := by
  unfold leaveBus
  repeat' first
      | assumption | intro _ | apply boundary_kept
      | apply modChan_kept | exact ‹ChanOk _›

theorem endRoutine_kept {c : Chan} {t : Thr} {by_ : EndBy} {s : State} (hK : Kept V Q s) :
    Kept V Q (endRoutine c t by_ s) := by
  unfold endRoutine
  dsimp only
  repeat' ((with_reducible apply Kept.mk_upd; first | assumption | with_reducible apply modRtn_kept | with_reducible apply setLast_kept | with_reducible apply trainState_kept | with_reducible apply fenceOpen_kept | with_reducible apply releaseHeld_kept | with_reducible apply leaveBus_kept | with_reducible apply inertPins_kept | with_reducible apply idlePins_kept | with_reducible apply atRest_kept | split))

theorem outcomeWrite_kept {c : Chan} {t : Thr} {s : State} (hK : Kept V Q s) : Kept V Q (outcomeWrite c t s) := by
  unfold outcomeWrite
  repeat' first
      | assumption | apply modThr_kept | apply tryEnd_kept | apply noteOut_kept
      | apply dopRetry_kept | apply wakeDopw_kept | split

theorem newOrder_kept {c : Chan} {s : State} (hK : Kept V Q s) : Kept V Q (newOrder c s).2 := by
  unfold newOrder
  repeat' first
      | assumption | with_reducible intro _ | with_reducible apply modChan_kept | exact ‹ChanOk _›

theorem unpark_kept {c : Chan} {t : Thr} {s : State} (hK : Kept V Q s) : Kept V Q (unpark c t s) := by
  unfold unpark
  repeat' first
      | assumption | apply newOrder_kept | apply modRtn_kept | split

theorem parkExpiry_kept {c : Chan} {t : Thr} {s : State} (hK : Kept V Q s) : Kept V Q (parkExpiry c t s) := by
  unfold parkExpiry
  repeat' first
      | assumption | apply unpark_kept | split

theorem readyTimeout_kept {c : Chan} {t : Thr} {s : State} (hK : Kept V Q s) : Kept V Q (readyTimeout c t s) := by
  unfold readyTimeout
  repeat' first
      | assumption | apply unpark_kept | apply modRtn_kept | split

theorem routineKill_kept {c : Chan} {t : Thr} {s : State} (hK : Kept V Q s) : Kept V Q (routineKill c t s) := by
  unfold routineKill
  try dsimp only
  repeat' first
      | assumption | apply endRoutine_kept | apply modRtn_kept | split

theorem execDop_kept {c : Chan} {t : Thr} {s : State} (hK : Kept V Q s) : OutKept V Q (execDop c t s) := by
  unfold execDop
  repeat' first
      | assumption | apply issue_kept | apply semDop_kept
      | apply OutKept.next

theorem execOutcomeWrite_kept {c : Chan} {t : Thr} {s : State} (hK : Kept V Q s) :
    OutKept V Q (execOutcomeWrite c t s) :=
  outcomeWrite_kept hK

theorem execParkExpiry_kept {c : Chan} {t : Thr} {s : State} (hK : Kept V Q s) : OutKept V Q (execParkExpiry c t s) :=
  parkExpiry_kept hK

theorem execReadyTimeout_kept {c : Chan} {t : Thr} {s : State} (hK : Kept V Q s) :
    OutKept V Q (execReadyTimeout c t s) :=
  readyTimeout_kept hK

theorem execRoutineKill_kept {c : Chan} {t : Thr} {s : State} (hK : Kept V Q s) :
    OutKept V Q (execRoutineKill c t s) :=
  routineKill_kept hK

/-! ## QueueEngine -/

theorem qctlRefuse_kept {reason : Nat} {s : State} (hK : Kept V Q s) : Kept V Q (qctlRefuse reason s) := hK.mk_upd

theorem enableCtx_kept {k : Nat} {n : Nat} {ws : List W64} {s : State} (hK : Kept V Q s) :
    Kept V Q (enableCtx k n ws s) := by
  unfold enableCtx
  exact issueCtxWrite_kept (cacheIn_kept (modQctx_kept (closeCtx_kept hK)))

theorem qctlEnable_kept {k : Nat} {ws : List W64} {s : State} (hK : Kept V Q s) : Kept V Q (qctlEnable k ws s) := by
  unfold qctlEnable
  split
  · exact qctlRefuse_kept hK
  · exact qctlDone_kept (enableCtx_kept hK)

theorem disableCq_kept {k : Nat} {s : State} (hK : Kept V Q s) : Kept V Q (disableCq k s) := by
  unfold disableCq
  exact stopEnd_kept (modQctx_kept hK)

theorem qctl_kept {cmd : BitVec 2} {cq : Bool} {q : QNum} {s : State} (hK : Kept V Q s) :
    Kept V Q (qctl cmd cq q s) := by
  unfold qctl
  repeat' first
      | with_reducible apply qctlRefuse_kept | with_reducible apply askCtx_kept
      | with_reducible apply disableCq_kept | with_reducible apply disableSq_kept | with_reducible apply Kept.ite
      | exact Kept.mk_upd ‹_›

theorem adminRefuse_kept {id : Nat} {reason : Nat} {s : State} (hK : Kept V Q s) :
    Kept V Q (adminRefuse id reason s) :=
  finishEntry_kept hK

theorem adminCtx_kept {e : Entry} {k : Nat} {ws : List W64} {s : State} (hK : Kept V Q s) :
    Kept V Q (adminCtx e k ws s) := by
  unfold adminCtx
  dsimp only
  split
  · split
    · exact adminRefuse_kept hK
    · split
      · exact adminRefuse_kept hK
      · exact finishEntry_kept (enableCtx_kept hK)
  · exact finishEntry_kept (issueCtxWrite_kept (modQctx_kept hK))

theorem haltCtx_kept {k : Nat} {s : State} (hK : Kept V Q s) : Kept V Q (haltCtx k s) := halt_kept hK

theorem ctxGoOn_kept {k : Nat} {ws : List W64} {s : State} (hK : Kept V Q s) : Kept V Q (ctxGoOn k ws s) := by
  unfold ctxGoOn
  have h : Kept V Q (if (qctx s k).enabled || stopping (qctx s k) then ctxReady k s else s) :=
    Kept.ite (ctxReady_kept hK) hK
  dsimp only
  split
  · exact adminCtx_kept h
  · exact h

theorem ctxTaken_kept {k : Nat} {ws : List W64} {s : State} (hK : Kept V Q s) : Kept V Q (ctxTaken k ws s) := by
  unfold ctxTaken
  refine Kept.ite (ctxGoOn_kept (cacheIn_kept (modQctx_kept (modQctx_kept hK)))) ?_
  exact Kept.ite (qctlEnable_kept (modQctx_kept hK)) (ctxGoOn_kept (modQctx_kept hK))

theorem ctxAgain_kept {k : Nat} {s : State} (hK : Kept V Q s) : Kept V Q (ctxAgain k s) := by
  unfold ctxAgain
  exact Kept.ite (issueCtxRead_kept (modQctx_kept hK)) (modQctx_kept hK)

theorem qctlLost_kept {k : Nat} {s : State} (hK : Kept V Q s) : Kept V Q (qctlLost k s) := by
  unfold qctlLost
  exact Kept.ite hK.mk_upd hK

theorem ctxReadDone_kept {k : Nat} {resp : MemResp} {s : State} (hK : Kept V Q s) :
    Kept V Q (ctxReadDone k resp s) := by
  unfold ctxReadDone
  repeat' first
      | with_reducible apply takeFm_kept
      | (with_reducible apply Kept.mk_upd; first | assumption | with_reducible apply modQctx_kept | with_reducible apply ctxAgain_kept | with_reducible apply ctxTaken_kept | with_reducible apply qctlLost_kept | with_reducible apply pumpEng_kept | with_reducible apply haltCtx_kept | split | refine Kept.opt2 (by assumption) ?_)

theorem ctxWriteResp_kept {k n : Nat} {err : Bool} {s : State} (hK : Kept V Q s) :
    Kept V Q (ctxWriteResp k n err s) := by
  unfold ctxWriteResp
  repeat' first
      | with_reducible apply takeFmAt_kept | with_reducible apply issueDue_kept
      | (with_reducible apply Kept.mk_upd; first | assumption | with_reducible apply ctxError_kept | with_reducible apply pumpEng_kept | with_reducible apply modQctx_kept | with_reducible apply ctxGoOn_kept | with_reducible apply evictOne_kept | with_reducible apply issueCtxRead_kept | split | refine Kept.opt2 (by assumption) ?_)

theorem issueFetch_kept {ring : Nat} {f : Fetch} {s : State} (hK : Kept V Q s) : Kept V Q (issueFetch ring f s) := by
  unfold issueFetch
  repeat' first
      | apply issueQe_kept | exact Kept.mk_upd ‹_›

theorem fetchTurn_kept {s : State} (hK : Kept V Q s) : Kept V Q (fetchTurn s) := by
  unfold fetchTurn
  repeat' first
      | with_reducible intro _ | with_reducible apply askCtx_kept | with_reducible apply touch_kept
      | with_reducible apply modQctx_kept | with_reducible apply issueFetch_kept | with_reducible apply Kept.foldl
      | split | exact Kept.mk_upd ‹_› | dsimp only

theorem addEntry_kept {e : Entry} {s : State} (hK : Kept V Q s) : Kept V Q (addEntry e s) := hK.mk_upd

theorem issueFrags_kept {e : Entry} {s : State} (hK : Kept V Q s) : Kept V Q (issueFrags e s) := by
  unfold issueFrags
  repeat' first
      | assumption | apply issueQe_kept | apply Kept.ite

theorem admitEntry_kept {e : Entry} {s : State} (hK : Kept V Q s) : Kept V Q (admitEntry e s) := by
  unfold admitEntry
  repeat' first
      | assumption | apply addEntry_kept | apply issueFrags_kept
      | apply Kept.ite

theorem checkEntries_kept {f : Fetch} {ring : Nat} {i : Nat} {a3 : List (List W64)} {a4 : State} (hK : Kept V Q a4) :
    Kept V Q (checkEntries f ring i a3 a4) := by
  induction a3 generalizing f ring i a4 with
  | nil =>
    unfold checkEntries
    repeat' first
        | assumption | apply halt_kept | apply admitEntry_kept | split
        | dsimp only
  | cons x xs ih =>
    unfold checkEntries
    repeat' first
        | apply ih | assumption | apply halt_kept
        | apply admitEntry_kept | split | dsimp only

theorem entryCheck_kept {k : Nat} {resp : MemResp} {s : State} (hK : Kept V Q s) :
    Kept V Q (entryCheck k resp s) := by
  unfold entryCheck
  repeat' first
      | with_reducible apply takeFm_kept
      | (with_reducible apply Kept.mk_upd; first | assumption | with_reducible apply pumpEng_kept | with_reducible apply checkEntries_kept | with_reducible apply halt_kept | with_reducible apply tryStop_kept | with_reducible apply idxMoved_kept | split | refine Kept.opt2 (by assumption) ?_)

theorem checkFrags_kept {id : Nat} {ws : List W64} {e : Entry} {s : State} (hK : Kept V Q s) :
    Kept V Q (checkFrags id ws e s) := by
  unfold checkFrags
  repeat' first
      | assumption | apply finishEntry_kept | apply modEntry_kept
      | apply Kept.ite

theorem fragDone_kept {id : Nat} {resp : MemResp} {s : State} (hK : Kept V Q s) : Kept V Q (fragDone id resp s) := by
  unfold fragDone
  repeat' first
      | assumption | apply takeFm_kept | apply pumpEng_kept
      | apply finishEntry_kept | apply modEntry_kept
      | apply checkFrags_kept | split | refine Kept.opt2 (by assumption) ?_

theorem failEntry_kept {id : Nat} {st : Byte} {res : BitVec 32} {s : State} (hK : Kept V Q s) :
    Kept V Q (failEntry id st res s) := by
  unfold failEntry
  repeat' first
      | assumption | apply finishEntry_kept
      | apply freeEntryBuffer_kept | apply dropEntry_kept
      | apply sendComplete_kept | apply endFetch_kept | split

theorem wakeOrFail_kept {id : Nat} {d : Nat} {stage : EStage} {waits : Bool} {s : State} (hK : Kept V Q s) :
    Kept V Q (wakeOrFail id d stage waits s) := by
  unfold wakeOrFail
  repeat' first
      | assumption | apply autoWake_kept | apply modEntry_kept
      | apply failEntry_kept | split

theorem takeSlot_kept {e : Entry} {s : State} (hK : Kept V Q s) : OptKept V Q (takeSlot e s) := by
  unfold takeSlot
  split
  · exact OptKept.some hK
  · dsimp only
    intro p h
    rw [Option.map_eq_some_iff] at h
    obtain ⟨t, -, rfl⟩ := h
    exact modEntry_kept (draw_kept hK)

theorem takeBuffer_kept {id : Nat} {e : Entry} {s : State} (hK : Kept V Q s) : Kept V Q (takeBuffer id e s) := by
  have hM : Kept V Q (meetWake 1 s) := meetWake_kept hK
  unfold takeBuffer
  repeat' first
      | apply wakeOrFail_kept | apply alloc_kept | apply deliver_kept | exact hM
      | apply modEntry_kept | split | refine Kept.opt2 (by assumption) ?_
      | exact Kept.mk_upd hM | exact hK | dsimp only

theorem bufferAlloc_kept {id : Nat} {s : State} (hK : Kept V Q s) : Kept V Q (bufferAlloc id s) := by
  unfold bufferAlloc
  split
  · exact hK
  · next e _ =>
    refine Kept.ite hK ?_
    split
    · have h := takeSlot_kept (e := e) hK
      split
      · exact hK
      · next he => exact takeBuffer_kept (h _ he)
    · exact takeBuffer_kept hK

theorem sendTag_kept {e : Entry} {t : Nat} {s : State} (hK : Kept V Q s) : Kept V Q (sendTag e t s) := by
  unfold sendTag
  repeat' first
      | apply modEntry_kept | apply sendNode_kept | apply bufRead_kept
      | apply sendData_kept | apply startTimers_kept | apply Kept.ite
      | exact Kept.mk_upd ‹_›

theorem sendRemote_kept {e : Entry} {s : State} (hK : Kept V Q s) : Kept V Q (sendRemote e s) := by
  unfold sendRemote
  have h := takeSlot_kept (e := e) hK
  split
  · exact hK
  · next he => exact sendTag_kept (h _ he)

theorem entryDispatch_kept {id : Nat} {s : State} (hK : Kept V Q s) : Kept V Q (entryDispatch id s) := by
  unfold entryDispatch
  repeat' first
      | assumption | intro _ | apply failEntry_kept
      | apply sendRemote_kept | apply wakeOrFail_kept | apply meetWake_kept
      | apply halt_kept | apply dropEntry_kept
      | apply freeEntryBuffer_kept | apply sendNode_kept
      | apply modEntry_kept | apply modChan_kept | apply Kept.ite
      | split | exact ‹ChanOk _›

theorem startProgram_kept {c : Chan} {t : Thr} {n : BitVec 10} {entry : Option Nat} {calib : Bool} {g : List W64} {s : State} (hK : Kept V Q s) :
    Kept V Q (startProgram c t n entry calib g s) :=
  modThr_kept hK

theorem dispatchWord_kept {e : Entry} {s : State} (hK : Kept V Q s) : Kept V Q (dispatchWord e s).2 := by
  unfold dispatchWord
  repeat' first
      | assumption | apply draw_kept | split

theorem entryTaken_kept {c : Chan} {s : State} (hK : Kept V Q s) : Kept V Q (entryTaken c s) := by
  unfold entryTaken
  repeat' first
      | assumption | intro _ | apply modChan_kept
      | apply dispatchWord_kept | apply modEntry_kept
      | apply startProgram_kept | apply putWords_kept | split | exact ‹ChanOk _›

theorem calibrationStart_kept {c : Chan} {s : State} (hK : Kept V Q s) : Kept V Q (calibrationStart c s) := by
  unfold calibrationStart
  repeat' first
      | assumption | intro _ | apply modChan_kept
      | apply startProgram_kept | split | exact ‹ChanOk _›

theorem completionPost_kept {id : Nat} {s : State} (hK : Kept V Q s) : Kept V Q (completionPost id s) := by
  unfold completionPost
  repeat' ((with_reducible apply Kept.mk_upd; first | assumption | with_reducible apply stepXfer_kept | with_reducible apply dropEntry_kept | with_reducible apply putCpl_kept | with_reducible apply adminSettle_kept | with_reducible apply passFrontier_kept | split))

theorem moveVisible_kept {q : QNum} {s : State} (hK : Kept V Q s) : Kept V Q (moveVisible q s) :=
  Kept.ite hK (idxMoved_kept (modQctx_kept hK))

theorem completionResp_kept {q : QNum} {n : Nat} {err : Bool} {s : State} (hK : Kept V Q s) :
    Kept V Q (completionResp q n err s) := by
  unfold completionResp
  repeat' first
      | with_reducible apply takeFmAt_kept | with_reducible apply moveVisible_kept
      | (with_reducible apply Kept.mk_upd; first | assumption | with_reducible apply pumpEng_kept | with_reducible apply halt_kept | with_reducible apply idxMoved_kept | with_reducible apply modQctx_kept | with_reducible apply post_kept | split | refine Kept.opt2 (by assumption) ?_)

theorem batchPost_kept {sq : QNum} {s : State} (hK : Kept V Q s) : Kept V Q (batchPost sq s) := by
  unfold batchPost
  repeat' first
      | assumption | apply postBatch_kept | split

theorem batchExpiry_kept {sq : QNum} {s : State} (hK : Kept V Q s) : Kept V Q (batchExpiry sq s) := by
  unfold batchExpiry
  repeat' first
      | assumption | apply postBatch_kept | apply Kept.ite

theorem indexPublish_kept {k : Nat} {e : IndexStep} {s : State} (hK : Kept V Q s) :
    Kept V Q (indexPublish k e s) := by
  unfold indexPublish
  repeat' first
      | with_reducible apply takeFm_kept
      | (with_reducible apply Kept.mk_upd; first | assumption | with_reducible apply idxIssue_kept | with_reducible apply modQctx_kept | with_reducible apply tryStop_kept | with_reducible apply stopEnd_kept | with_reducible apply pumpEng_kept | split | refine Kept.opt2 (by assumption) ?_)

theorem qpostGo_kept {c : Chan} {t : Thr} {w : W64} {a : W64} {b : W64} {s : State} (hK : Kept V Q s) :
    EffKept V Q (qpostGo c t w a b s) := by
  unfold qpostGo
  repeat' first
      | assumption | apply readMem_kept | apply putCpl_kept
      | apply EffKept.event | apply EffKept.waited
      | apply EffKept.wait | apply EffKept.ite

theorem semQpost_kept {c : Chan} {t : Thr} {w : W64} {s : State} (hK : Kept V Q s) :
    EffKept V Q (semQpost c t w s) := by
  unfold semQpost
  repeat' first
      | assumption | apply operand_kept | apply qpostGo_kept

theorem execQpost_kept {c : Chan} {t : Thr} {s : State} (hK : Kept V Q s) : OutKept V Q (execQpost c t s) := by
  unfold execQpost
  repeat' first
      | assumption | with_reducible intro _ | with_reducible apply retry_kept
      | with_reducible apply qpostGo_kept | with_reducible apply issue_kept | with_reducible apply semQpost_kept
      | with_reducible apply OutKept.next | split

theorem execEntryTakenByThread_kept {c : Chan} {s : State} (hK : Kept V Q s) :
    OutKept V Q (execEntryTakenByThread c s) :=
  entryTaken_kept hK

theorem execCalibrationStart_kept {c : Chan} {s : State} (hK : Kept V Q s) : OutKept V Q (execCalibrationStart c s) :=
  calibrationStart_kept hK

theorem execFetchTurn_kept {s : State} (hK : Kept V Q s) : OutKept V Q (execFetchTurn s) := fetchTurn_kept hK

theorem execEntryCheck_kept {k : Nat} {r : MemResp} {s : State} (hK : Kept V Q s) :
    OutKept V Q (execEntryCheck k r s) :=
  entryCheck_kept hK

theorem execContextReadDone_kept {cq : Bool} {q : QNum} {r : MemResp} {s : State} (hK : Kept V Q s) :
    OutKept V Q (execContextReadDone cq q r s) :=
  ctxReadDone_kept hK

theorem execContextWriteResponse_kept {cq : Bool} {q : QNum} {r : WriteResp} {s : State}
    (hK : Kept V Q s) : OutKept V Q (execContextWriteResponse cq q r s) :=
  ctxWriteResp_kept hK

theorem execFragmentTableReadDone_kept {id : Nat} {r : MemResp} {s : State} (hK : Kept V Q s) :
    OutKept V Q (execFragmentTableReadDone id r s) :=
  fragDone_kept hK

theorem execEntryBufferAlloc_kept {id : Nat} {s : State} (hK : Kept V Q s) :
    OutKept V Q (execEntryBufferAlloc id s) :=
  bufferAlloc_kept hK

theorem execEntryDispatch_kept {id : Nat} {s : State} (hK : Kept V Q s) : OutKept V Q (execEntryDispatch id s) :=
  entryDispatch_kept hK

theorem execCompletionPost_kept {id : Nat} {s : State} (hK : Kept V Q s) : OutKept V Q (execCompletionPost id s) :=
  completionPost_kept hK

theorem execCompletionWriteResponse_kept {q : QNum} {r : WriteResp} {s : State}
    (hK : Kept V Q s) : OutKept V Q (execCompletionWriteResponse q r s) :=
  completionResp_kept hK

theorem execBatchPost_kept {sq : QNum} {s : State} (hK : Kept V Q s) : OutKept V Q (execBatchPost sq s) :=
  batchPost_kept hK

theorem execBatchTimeExpiry_kept {sq : QNum} {s : State} (hK : Kept V Q s) : OutKept V Q (execBatchTimeExpiry sq s) :=
  batchExpiry_kept hK

theorem execIndexPublish_kept {cq : Bool} {q : QNum} {e : IndexStep} {s : State} (hK : Kept V Q s) :
    OutKept V Q (execIndexPublish cq q e s) :=
  indexPublish_kept hK

/-! ## Primer -/

theorem modPrm_kept {f : Prm → Prm} {s : State} (hK : Kept V Q s) : Kept V Q (modPrm f s) := hK.mk_upd

theorem setRaw_kept {w : Nat} {v : BitVec 72} {s : State} (hK : Kept V Q s) : Kept V Q (setRaw w v s) :=
  modPrm_kept hK

theorem draw72_kept {s : State} (hK : Kept V Q s) : Kept V Q (draw72 s).2 := by
  unfold draw72
  repeat' first
      | assumption | apply draw_kept

theorem cutWord_kept {w : Nat} {data : BitVec 72} {s : State} (hK : Kept V Q s) : Kept V Q (cutWord w data s) := by
  unfold cutWord
  repeat' first
      | assumption | apply draw72_kept | apply setRaw_kept

theorem someBit_kept {v : BitVec 72} {s : State} (hK : Kept V Q s) : Kept V Q (someBit v s).2 := draw_kept hK

theorem cutRecord_kept {w : Nat} {data : BitVec 72} {s : State} (hK : Kept V Q s) :
    Kept V Q (cutRecord w data s) := by
  unfold cutRecord
  repeat' first
      | assumption | apply cutWord_kept | apply someBit_kept
      | apply setRaw_kept | apply Kept.ite

theorem noteIntent_kept {w : Nat} {s : State} (hK : Kept V Q s) : Kept V Q (noteIntent w s) :=
  Kept.ite (modPrm_kept hK) hK

theorem cutJob_kept {j : PJob} {w : Nat} {data : BitVec 72} {s : State} (hK : Kept V Q s) :
    Kept V Q (cutJob j w data s) := by
  unfold cutJob
  exact Kept.ite (cutRecord_kept hK) (noteIntent_kept (cutWord_kept hK))

theorem failWord_kept {j : PJob} {w : Nat} {data : BitVec 72} {s : State} (hK : Kept V Q s) :
    Kept V Q (failWord j w data s) := by
  unfold failWord
  repeat' first
      | assumption | with_reducible apply cutJob_kept | with_reducible apply someBit_kept
      | with_reducible apply setRaw_kept | with_reducible apply Kept.ite

theorem cutSector_kept {k : Nat} {s : State} (hK : Kept V Q s) : Kept V Q (cutSector k s) := by
  unfold cutSector
  repeat' first
      | assumption | intro _ | apply draw72_kept
      | apply setRaw_kept | apply Kept.foldl

theorem eraseSector_kept {k : Nat} {s : State} (hK : Kept V Q s) : Kept V Q (eraseSector k s) := modPrm_kept hK

theorem setSect_kept {k : Nat} {x : BitVec 2} {s : State} (hK : Kept V Q s) : Kept V Q (setSect k x s) :=
  modPrm_kept hK

theorem takeRecord_kept {typ : BitVec 4} {arg : BitVec 12} {sector : BitVec 12} {o : POp} {s : State} (hK : Kept V Q s) :
    Kept V Q (takeRecord typ arg sector o s) := by
  unfold takeRecord
  repeat' first
      | assumption | apply modPrm_kept

theorem runJob_kept {o : POp} {s : State} (hK : Kept V Q s) : OptKept1 V Q (runJob o s) := by
  unfold runJob
  repeat' first
      | assumption | apply modPrm_kept | apply takeRecord_kept
      | exact OptKept1.none | refine OptKept1.some ?_ | split

theorem tryJob_kept {o : POp} {s : State} (hK : Kept V Q s) : OptKept1 V Q (tryJob o s) := by
  unfold tryJob
  repeat' first
      | assumption | apply runJob_kept | split

theorem awaitRelease_kept {o : POp} {s : State} (hK : Kept V Q s) : Kept V Q (awaitRelease o s) := modPrm_kept hK

theorem startDue_kept {s : State} (hK : Kept V Q s) : Kept V Q (startDue s) := by
  unfold startDue
  split
  · exact Kept.ite (awaitRelease_kept (modPrm_kept hK)) ((tryJob_kept (modPrm_kept hK)).getD (modPrm_kept hK))
  · exact hK

theorem endOp_kept {r : BitVec 4} {s : State} (hK : Kept V Q s) : Kept V Q (endOp r s) := by
  unfold endOp
  repeat' first
      | assumption | apply startDue_kept | apply modPrm_kept

theorem failOp_kept {o : POp} {s : State} (hK : Kept V Q s) : Kept V Q (failOp o s) := by
  unfold failOp
  repeat' first
      | assumption | apply endOp_kept | apply setSect_kept | split

theorem beginJob_kept {o : POp} {s : State} (hK : Kept V Q s) : Kept V Q (beginJob o s) :=
  Kept.ite (awaitRelease_kept hK) ((tryJob_kept hK).getD (failOp_kept (modPrm_kept hK)))

theorem jobEffect_kept {o : POp} {w : Nat} {a2 : PJob} {a3 : State} (hK : Kept V Q a3) :
    Kept V Q (jobEffect o w a2 a3) := by
  unfold jobEffect
  repeat' first
      | assumption | apply setSect_kept | apply modPrm_kept
      | apply eraseSector_kept | split

theorem jobDone_kept {o : POp} {j : PJob} {w : Nat} {s : State} (hK : Kept V Q s) : Kept V Q (jobDone o j w s) := by
  unfold jobDone
  exact Kept.ite (endOp_kept (jobEffect_kept hK)) (modPrm_kept (jobEffect_kept hK))

theorem goOn_kept {s : State} (hK : Kept V Q s) : Kept V Q (goOn s) := by
  unfold goOn
  split
  · exact Kept.ite (beginJob_kept hK) hK
  · exact hK

theorem wordFail_kept {o : POp} {j : PJob} {w : Nat} {d : BitVec 72} {s : State} (hK : Kept V Q s) :
    Kept V Q (wordFail o j w d s) := by
  unfold wordFail
  repeat' first
      | assumption | apply failWord_kept | apply failOp_kept
      | apply beginJob_kept | apply modPrm_kept | apply Kept.ite
      | split

theorem unverified_kept {o : POp} {s : State} (hK : Kept V Q s) : Kept V Q (unverified o s) := by
  unfold unverified
  repeat' first
      | assumption | apply cutSector_kept | apply cutJob_kept | split

theorem cutOp_kept {reached : Bool} {o : POp} {s : State} (hK : Kept V Q s) : Kept V Q (cutOp reached o s) := by
  unfold cutOp
  repeat' first
      | assumption | apply unverified_kept | apply setSect_kept
      | split

theorem tripDetector_kept {s : State} (hK : Kept V Q s) : Kept V Q (tripDetector s) := by
  unfold tripDetector
  repeat' first
      | assumption | intro _ | apply modPrm_kept
      | apply cutOp_kept | apply Kept.foldl | split

theorem afterPulse_kept {j : PJob} {s : State} (hK : Kept V Q s) : Kept V Q (afterPulse j s) := by
  unfold afterPulse
  repeat' first
      | assumption | apply endOp_kept | apply cutOp_kept
      | apply unverified_kept | apply startDue_kept
      | apply modPrm_kept | apply goOn_kept | split

theorem pulseEnd_kept {good : Bool} {s : State} (hK : Kept V Q s) : Kept V Q (pulseEnd good s) := by
  unfold pulseEnd
  repeat' first
      | assumption | apply afterPulse_kept | apply jobDone_kept
      | apply failOp_kept | apply cutSector_kept | apply modPrm_kept
      | apply setRaw_kept | apply wordFail_kept | split

theorem setResult_kept {r : BitVec 4} {s : State} (hK : Kept V Q s) : Kept V Q (setResult r s) := modPrm_kept hK

theorem prmCmd_kept {nests : List Nat} {f : State → State} {s : State} (hK : Kept V Q s) (hf : ∀ s, Kept V Q s → Kept V Q (f s)) :
    Kept V Q (prmCmd nests f s) := by
  unfold prmCmd
  repeat' first
      | assumption | with_reducible apply hf | with_reducible apply modPrm_kept
      | with_reducible apply setResult_kept | split

theorem prmReadCmd_kept {s : State} (hK : Kept V Q s) : Kept V Q (prmReadCmd s) := by
  unfold prmReadCmd
  repeat' first
      | assumption | with_reducible apply setResult_kept | with_reducible apply draw_kept
      | with_reducible apply modPrm_kept | split

theorem prmProgram_kept {s : State} (hK : Kept V Q s) : Kept V Q (prmProgram s) := by
  unfold prmProgram
  repeat' first
      | assumption | with_reducible apply setResult_kept | with_reducible apply beginJob_kept
      | split

theorem prmErase_kept {s : State} (hK : Kept V Q s) : Kept V Q (prmErase s) := by
  unfold prmErase
  repeat' first
      | assumption | with_reducible apply setResult_kept | with_reducible apply beginJob_kept
      | with_reducible apply Kept.ite | split

theorem prmSuspend_kept {s : State} (hK : Kept V Q s) : Kept V Q (prmSuspend s) := by
  unfold prmSuspend
  repeat' first
      | assumption | with_reducible apply modPrm_kept | with_reducible apply setResult_kept | split

theorem prmResume_kept {s : State} (hK : Kept V Q s) : Kept V Q (prmResume s) := by
  unfold prmResume
  repeat' first
      | assumption | apply modPrm_kept | apply goOn_kept | split

theorem prmRotate_kept {s : State} (hK : Kept V Q s) : Kept V Q (prmRotate s) := by
  unfold prmRotate
  repeat' first
      | assumption | with_reducible apply setResult_kept | with_reducible apply beginJob_kept
      | with_reducible apply Kept.ite

theorem prmCommand_kept {code : BitVec 4} {s : State} (hK : Kept V Q s) : Kept V Q (prmCommand code s) := by
  unfold prmCommand
  repeat' first
      | assumption | with_reducible intro _ | with_reducible apply prmCmd_kept
      | with_reducible apply prmReadCmd_kept | with_reducible apply prmProgram_kept
      | with_reducible apply prmErase_kept | with_reducible apply prmSuspend_kept
      | with_reducible apply prmResume_kept | with_reducible apply modPrm_kept
      | with_reducible apply prmRotate_kept | with_reducible apply setResult_kept | split

theorem windowBase_kept {en : Bool} {base : BitVec 12} {s : State} (hK : Kept V Q s) :
    Kept V Q (windowBase en base s) := by
  unfold windowBase
  repeat' first
      | assumption | apply modPrm_kept | apply startDue_kept | split

theorem logPrimer_kept {w : Nat} {m : Byte} {who : W64} {s : State} (hK : Kept V Q s) :
    Kept V Q (logPrimer w m who s) :=
  logRec_kept hK

theorem windowRead_kept {w : Nat} {n : Nat} {m : Byte} {s : State} (hK : Kept V Q s) :
    Kept V Q (windowRead w n m s).2 := by
  unfold windowRead
  repeat' first
      | assumption | with_reducible apply modPrm_kept | with_reducible apply logPrimer_kept
      | with_reducible apply Kept.ite2 | split

theorem prmRegWrite_kept {o : Nat} {m : W64} {v : W64} {act : W64} {s : State} (hK : Kept V Q s) :
    Kept V Q (prmRegWrite o m v act s) := by
  unfold prmRegWrite
  repeat' first
      | assumption | apply prmCommand_kept | apply modPrm_kept
      | apply windowBase_kept | split

theorem bootHead_kept {k : Nat} {seq : BitVec 28} {s : State} (hK : Kept V Q s) : Kept V Q (bootHead k seq s) := by
  unfold bootHead
  repeat' first
      | assumption | apply setRaw_kept | apply eraseSector_kept

theorem scanJournal_kept {s : State} (hK : Kept V Q s) : Kept V Q (scanJournal s) := by
  unfold scanJournal
  repeat' first
      | assumption | intro _ | apply logPrimer_kept
      | apply Kept.foldl2 | split

theorem replay_kept {s : State} {r : JRec} (hK : Kept V Q s) : Kept V Q (replay s r) := by
  unfold replay
  repeat' first
      | assumption | apply modPrm_kept | split

theorem journalBoot_kept {s : State} (hK : Kept V Q s) : Kept V Q (journalBoot s) := by
  unfold journalBoot
  repeat' first
      | with_reducible assumption | with_reducible apply scanJournal_kept | with_reducible apply modPrm_kept
      | with_reducible apply draw_kept | with_reducible apply eraseSector_kept | with_reducible apply bootHead_kept
      | with_reducible apply replay_kept | with_reducible apply Kept.foldl | split

theorem loaderWords_kept {w : Nat} {n : Nat} {s : State} (hK : Kept V Q s) : Kept V Q (loaderWords w n s).2 := by
  unfold loaderWords
  repeat' first
      | assumption | apply logPrimer_kept | split | dsimp only

theorem dirCopy_kept {k : Nat} {s : State} (hK : Kept V Q s) : Kept V Q (dirCopy k s).2 := by
  unfold dirCopy
  repeat' first
      | assumption | apply loaderWords_kept | split | dsimp only

theorem directoryBoot_kept {s : State} (hK : Kept V Q s) : Kept V Q (directoryBoot s) := by
  unfold directoryBoot
  repeat' first
      | assumption | apply dirCopy_kept | apply modPrm_kept | split
      | dsimp only

theorem execPrmPulseEnd_kept {good : Bool} {s : State} (hK : Kept V Q s) : OutKept V Q (execPrmPulseEnd good s) :=
  pulseEnd_kept hK

theorem execBrownOutDetectorTrip_kept {s : State} (hK : Kept V Q s) : OutKept V Q (execBrownOutDetectorTrip s) :=
  tripDetector_kept hK

theorem execBrownOutDetectorRelease_kept {s : State} (hK : Kept V Q s) :
    OutKept V Q (execBrownOutDetectorRelease s) :=
  Kept.ite hK (goOn_kept (modPrm_kept hK))

/-! ## Decoders -/

theorem stepDone_kept {c : Chan} {t : Thr} {next : Option (BitVec 12)} {s : State} (hK : Kept V Q s) :
    Kept V Q (stepDone c t next s) := by
  unfold stepDone
  repeat' first
      | assumption | apply endRoutine_kept | apply modRtn_kept | split

theorem chooseNext_kept {c : Chan} {t : Thr} {w : BitVec 128} {s : State} (hK : Kept V Q s) :
    Kept V Q (chooseNext c t w s) := by
  unfold chooseNext
  repeat' first
      | assumption | apply stepDone_kept | apply modRtn_kept | split

theorem decodeGone_kept {c : Chan} {t : Thr} {s : State} (hK : Kept V Q s) : Kept V Q (decodeGone c t s) := by
  unfold decodeGone
  repeat' first
      | assumption | apply chooseNext_kept | split

theorem tellHard_kept {job : DecJob} {fail : Bool} {c : Chan} {s : State} (hK : Kept V Q s) :
    Kept V Q (tellHard job fail c s) := by
  unfold tellHard
  repeat' first
      | assumption | apply decodeGone_kept | apply modRtn_kept

theorem hardEnd_kept {c : Chan} {s : State} (hK : Kept V Q s) : Kept V Q (hardEnd c s) := by
  unfold hardEnd
  repeat' first
      | with_reducible assumption | with_reducible intro _ | with_reducible apply modChan_kept
      | with_reducible apply cwGood_kept | with_reducible apply tellHard_kept | with_reducible apply cwReport_kept
      | with_reducible apply cwRead_kept | with_reducible apply plbSample_kept | with_reducible apply cwPoison_kept
      | with_reducible apply modReg_kept | with_reducible apply Kept.ite | split | exact ‹ChanOk _›

theorem tellSoft_kept {h : Handoff} {s : State} (hK : Kept V Q s) : Kept V Q (tellSoft h s) := by
  unfold tellSoft
  repeat' first
      | assumption | apply decodeGone_kept | apply modRtn_kept

theorem noBank_kept {h : Handoff} {s : State} (hK : Kept V Q s) : Kept V Q (noBank h s) := by
  unfold noBank
  repeat' first
      | assumption | with_reducible apply cwPoison_kept | with_reducible apply cwReport_kept
      | with_reducible apply tellSoft_kept | with_reducible apply modReg_kept

theorem softHeads_kept {fuel : Nat} {a1 : State} (hK : Kept V Q a1) : Kept V Q (softHeads fuel a1) := by
  induction fuel generalizing a1 with
  | zero =>
    unfold softHeads
    repeat' first
        | with_reducible apply autoWake_kept | with_reducible apply noBank_kept | split
        | exact Kept.mk_upd ‹_›
  | succ n ih =>
    unfold softHeads
    repeat' first
        | with_reducible apply ih | with_reducible apply autoWake_kept | with_reducible apply noBank_kept | split
        | exact Kept.mk_upd ‹_›

theorem softLook_kept {s : State} (hK : Kept V Q s) : Kept V Q (softLook s) := softHeads_kept hK

theorem softAssign_kept {s : State} (hK : Kept V Q s) : Kept V Q (softAssign s) := by
  unfold softAssign
  repeat' first
      | apply softLook_kept | split | exact Kept.mk_upd ‹_›

theorem softEnd_kept {k : Nat} {s : State} (hK : Kept V Q s) : Kept V Q (softEnd k s) := by
  unfold softEnd
  repeat' first
      | with_reducible intro _ | with_reducible apply cwRead_kept | with_reducible apply cwGood_kept
      | with_reducible apply cwReport_kept | with_reducible apply softLook_kept
      | with_reducible apply tellSoft_kept | with_reducible apply modReg_kept | with_reducible apply cwPoison_kept
      | with_reducible apply cwWrite_kept | with_reducible apply Kept.ite | with_reducible apply Kept.foldl2
      | split | exact Kept.mk_upd ‹_›

theorem execHardDecodeEnd_kept {c : Chan} {s : State} (hK : Kept V Q s) : OutKept V Q (execHardDecodeEnd c s) :=
  hardEnd_kept hK

theorem execSoftAssign_kept {s : State} (hK : Kept V Q s) : OutKept V Q (execSoftAssign s) := softAssign_kept hK

theorem execSoftDecodeEnd_kept {k : BitVec 4} {s : State} (hK : Kept V Q s) : OutKept V Q (execSoftDecodeEnd k s) :=
  softEnd_kept hK

/-! ## Micro -/

theorem firstStart_kept {c : Chan} {t : Thr} {r : Routine} {s : State} (hK : Kept V Q s) :
    Kept V Q (firstStart c t r s) := by
  unfold firstStart
  repeat' first
      | assumption | intro _ | apply modRtn_kept
      | apply Kept.foldl | split

theorem refuseStale_kept {c : Chan} {t : Thr} {k : Byte} {j : Ctx} {s : State} (hK : Kept V Q s) :
    Kept V Q (refuseStale c t k j s) := by
  unfold refuseStale
  exact tryEnd_kept (dopRetry_kept (wakeDopw_kept (noteOut_kept (modThr_kept hK))))

theorem routineStart_kept {c : Chan} {s : State} (hK : Kept V Q s) : Kept V Q (routineStart c s) := by
  unfold routineStart
  repeat' first
      | assumption | with_reducible intro _ | with_reducible apply refuseStale_kept
      | with_reducible apply boundary_kept | with_reducible apply firstStart_kept
      | with_reducible apply modRtn_kept | with_reducible apply modChan_kept | split | exact ‹ChanOk _› | dsimp only

theorem writePrg_kept {c : Chan} {t : Thr} {resume : BitVec 12} {yaddr : BitVec 12} {parked : Bool} {s : State} (hK : Kept V Q s) :
    Kept V Q (writePrg c t resume yaddr parked s) := by
  unfold writePrg
  repeat' first
      | assumption | apply modThr_kept | split

theorem yieldNow_kept {c : Chan} {t : Thr} {res : BitVec 12} {park : Bool} {dly : Nat} {s : State} (hK : Kept V Q s) :
    Kept V Q (yieldNow c t res park dly s) := by
  unfold yieldNow
  repeat' first
      | assumption | apply modRtn_kept | apply leaveBus_kept
      | apply idlePins_kept

theorem takeToken_kept {p : PumpWait} {s : State} (hK : Kept V Q s) : Kept V Q (takeToken p s) := hK.mk_upd

theorem dinBurst_kept {c : Chan} {t : Thr} {r : Routine} {w : BitVec 128} {s : State} (hK : Kept V Q s) :
    Kept V Q (dinBurst c t r w s) := by
  unfold dinBurst
  repeat' first
      | with_reducible assumption | with_reducible apply cwRead_kept | with_reducible apply cwWrite_kept
      | with_reducible apply cwReport_kept | with_reducible apply setCycle_kept | with_reducible apply modRtn_kept
      | with_reducible apply freeBytes_kept | split

theorem captured_kept {n : Nat} {d : List Byte} {s : State} (hK : Kept V Q s) : Kept V Q (captured n d s).2 :=
  freeBytes_kept hK

theorem captureTiming_kept {c : Chan} {s : State} (hK : Kept V Q s) : Kept V Q (captureTiming c s) := by
  unfold captureTiming
  repeat' first
      | assumption | intro _ | apply draw_kept
      | apply modChan_kept | apply Kept.foldl2 | exact ‹ChanOk _›

theorem doutBurst_kept {c : Chan} {t : Thr} {r : Routine} {w : BitVec 128} {d : List Byte} {s : State} (hK : Kept V Q s) :
    Kept V Q (doutBurst c t r w d s) := by
  unfold doutBurst
  repeat' first
      | assumption | with_reducible intro _ | with_reducible apply captured_kept
      | with_reducible apply setCycle_kept | with_reducible apply captureTiming_kept
      | with_reducible apply cwWrite_kept | with_reducible apply modRtn_kept | with_reducible apply modChan_kept
      | with_reducible apply cwRead_kept | split | exact ‹ChanOk _›

theorem handoff_kept {c : Chan} {t : Thr} {r : Routine} {w : BitVec 128} {s : State} (hK : Kept V Q s) :
    Kept V Q (handoff c t r w s) := by
  unfold handoff
  have h1 : Kept V Q (if bankTakes s 2 then meetWake 2 s else if bankTakes s 3 then meetWake 3 s else s) :=
    Kept.ite (meetWake_kept hK) (Kept.ite (meetWake_kept hK) hK)
  repeat' first
      | apply softLook_kept | apply modRtn_kept
      | exact Kept.mk_upd ‹_›

theorem driveCycle_kept {c : Chan} {t : Thr} {r : Routine} {w : BitVec 128} {d : List Byte} {s : State} (hK : Kept V Q s) :
    Kept V Q (driveCycle c t r w d s) := by
  unfold driveCycle
  repeat' first
      | assumption | with_reducible apply setCe_kept | with_reducible apply setCycle_kept
      | with_reducible apply captured_kept | with_reducible apply modRtn_kept | with_reducible apply handoff_kept
      | with_reducible apply dinBurst_kept | with_reducible apply doutBurst_kept
      | with_reducible apply quietPins_kept | split | dsimp only

theorem finishStep_kept {c : Chan} {t : Thr} {w : BitVec 128} {s : State} (hK : Kept V Q s) :
    Kept V Q (finishStep c t w s) := by
  unfold finishStep
  repeat' first
      | assumption | apply modRtn_kept | apply chooseNext_kept
      | apply Kept.ite

theorem driveStep_kept {c : Chan} {t : Thr} {w : BitVec 128} {d : List Byte} {s : State} (hK : Kept V Q s) :
    Kept V Q (driveStep c t w d s) := by
  unfold driveStep
  repeat' first
      | assumption | apply modRtn_kept | apply driveCycle_kept
      | apply chooseNext_kept | apply Kept.ite | split

theorem admitPump_kept {p : PumpWait} {s : State} (hK : Kept V Q s) : Kept V Q (admitPump p s) := by
  unfold admitPump
  repeat' first
      | apply driveStep_kept | apply takeToken_kept | split
      | exact Kept.mk_upd ‹_›

theorem pumpStep_kept {c : Chan} {t : Thr} {r : Routine} {w : BitVec 128} {s : State} (hK : Kept V Q s) :
    Kept V Q (pumpStep c t r w s) := by
  have hq : Kept V Q (quietPins c s) := quietPins_kept hK
  unfold pumpStep
  repeat' first
      | assumption
      | apply stepDone_kept | apply modRtn_kept | apply quietPins_kept | apply finishStep_kept
      | apply chooseNext_kept | apply admitPump_kept | apply Kept.ite
      | exact Kept.mk_upd ‹_›

theorem stepBody_kept {c : Chan} {t : Thr} {w : BitVec 128} {d : List Byte} {s : State} (hK : Kept V Q s) :
    Kept V Q (stepBody c t w d s) := by
  unfold stepBody
  repeat' first
      | assumption | apply modRtn_kept | apply pumpStep_kept | apply quietPins_kept
      | apply driveStep_kept | split

/-- What the yield check decides keeps the invariants. -/
def YckKept (v : Variant) (q : List Instr) : Yck → Prop
  | .go s | .stop s => Kept v q s

theorem yieldCheck_kept {c : Chan} {t : Thr} {r : Routine} {w : BitVec 128} {s : State} (hK : Kept V Q s) :
    YckKept V Q (yieldCheck c t r w s) := by
  unfold yieldCheck
  split
  · exact hK
  · dsimp only
    split
    · exact endRoutine_kept hK
    · split
      · exact writePrg_kept (modRtn_kept hK)
      · split
        · exact yieldNow_kept (writePrg_kept (modRtn_kept hK))
        · exact writePrg_kept (modRtn_kept hK)

theorem microStep_kept {c : Chan} {row : URow} {d : List Byte} {s : State} (hK : Kept V Q s) :
    Kept V Q (microStep c row d s) := by
  unfold microStep
  split
  · exact hK
  · split
    · exact hK
    · split
      · exact hK
      · dsimp only
        split
        · split
          · exact stepBody_kept hK
          · exact hK
        · split
          · exact hK
          · split
            · exact endRoutine_kept (fetchStore_kept hK)
            · next w _ =>
              split
              · exact endRoutine_kept (refuseWord_kept (fetchStore_kept hK))
              · split
                · exact hK
                · next r _ _ _ _ _ _ _ =>
                  have hy := yieldCheck_kept (c := c) (t := ‹Thr›) (r := ‹Routine›) (w := w)
                    (fetchStore_kept (c := c) (disp := false) (i := (‹Routine› : Routine).upc.toNat) hK)
                  split
                  · next he => rw [he] at hy; exact hy
                  · next he => rw [he] at hy; exact stepBody_kept hy

theorem guardRelease_kept {c : Chan} {d : List Byte} {s : State} (hK : Kept V Q s) :
    Kept V Q (guardRelease c d s) := by
  unfold guardRelease
  repeat' first
      | assumption | apply driveStep_kept | split

theorem tokenReturn_kept {s : State} (hK : Kept V Q s) : Kept V Q (tokenReturn s) := by
  unfold tokenReturn
  repeat' first
      | split | exact Kept.mk_upd ‹_›

theorem execRoutineStart_kept {c : Chan} {s : State} (hK : Kept V Q s) : OutKept V Q (execRoutineStart c s) :=
  routineStart_kept hK

theorem execIdle_kept {c : Chan} {s : State} (hK : Kept V Q s) : OutKept V Q (execIdle c s) := microStep_kept hK

theorem execCmd_kept {c : Chan} {s : State} (hK : Kept V Q s) : OutKept V Q (execCmd c s) := microStep_kept hK

theorem execAddr_kept {c : Chan} {s : State} (hK : Kept V Q s) : OutKept V Q (execAddr c s) := microStep_kept hK

theorem execDin_kept {c : Chan} {s : State} (hK : Kept V Q s) : OutKept V Q (execDin c s) := microStep_kept hK

theorem execDout_kept {c : Chan} {d : List Byte} {s : State} (hK : Kept V Q s) : OutKept V Q (execDout c d s) :=
  microStep_kept hK

theorem execStat_kept {c : Chan} {b : Byte} {s : State} (hK : Kept V Q s) : OutKept V Q (execStat c b s) :=
  microStep_kept hK

theorem execTrainOut_kept {c : Chan} {d : List Byte} {s : State} (hK : Kept V Q s) :
    OutKept V Q (execTrainOut c d s) :=
  microStep_kept hK

theorem execTrainIn_kept {c : Chan} {s : State} (hK : Kept V Q s) : OutKept V Q (execTrainIn c s) :=
  microStep_kept hK

theorem execSoftHandoff_kept {c : Chan} {s : State} (hK : Kept V Q s) : OutKept V Q (execSoftHandoff c s) :=
  microStep_kept hK

theorem execRoutineEnd_kept {c : Chan} {d : List Byte} {s : State} (hK : Kept V Q s) :
    OutKept V Q (execRoutineEnd c d s) :=
  microStep_kept hK

theorem execPumpStartAdmit_kept {s : State} (hK : Kept V Q s) : OutKept V Q (execPumpStartAdmit s) := by
  unfold execPumpStartAdmit
  repeat' first
      | assumption | with_reducible apply admitPump_kept | with_reducible apply OutKept.next | split

theorem execDqGuardRelease_kept {c : Chan} {d : List Byte} {s : State} (hK : Kept V Q s) :
    OutKept V Q (execDqGuardRelease c d s) :=
  guardRelease_kept hK

theorem execTokenReturn_kept {s : State} (hK : Kept V Q s) : OutKept V Q (execTokenReturn s) := tokenReturn_kept hK

end Sys2Proof.Machine
end

