-- ==== Sys2Proof/Laws/KeptUnits.lean ====
section
/-! SUPPORT. What KeptBase says of a step, for power and resets, Render, admin commands, the Lath, interrupts, streams, registers and the port: one lemma per function. -/

namespace Sys2Proof.Machine

open Sys2Proof

variable {V : Variant} {Q : List Instr}

set_option maxRecDepth 8000

/-! ## Power -/

theorem staleTrace_kept {a0 : List (Nat × List W64)} {a1 : State} (hK : Kept V Q a1) :
    Kept V Q (staleTrace a0 a1).2 := by
  induction a0 generalizing a1 with
  | nil =>
    unfold staleTrace
    repeat' first
        | assumption | apply draw_kept
  | cons x xs ih =>
    unfold staleTrace
    repeat' first
        | apply ih | assumption | apply draw_kept

theorem clearChannel_kept {c : Chan} {s : State} (hK : Kept V Q s) : Kept V Q (clearChannel c s) := by
  unfold clearChannel
  dsimp only
  exact modChan_kept (staleTrace_kept hK) fun _ _ =>
    ⟨⟨Canon.cells _ _ _, Canon.nil _, Canon.nil _, Canon.nil _⟩, RamOk.empty⟩

theorem dropChannel_kept {c : Chan} {s : State} (hK : Kept V Q s) : Kept V Q (dropChannel c s) :=
  modChan_kept hK fun _ _ => ChanOk.empty

theorem dropStores_kept {q : BitVec 4} {s : State} (hK : Kept V Q s) : Kept V Q (dropStores q s) := modQuad_kept hK

theorem dropStg_kept {s : State} (hK : Kept V Q s) : Kept V Q (dropStg s) := by
  unfold dropStg
  refine Kept.foldl (fun s i h => modStrm_kept h fun x hx => ?_) _ _ ⟨hK.1, hK.2, hK.3, RamOk.empty, hK.5⟩
  unfold StrmOk at *
  dsimp only
  rw [List.length_nil]
  omega

theorem isolate_kept {d : Nat} {s : State} (hK : Kept V Q s) : Kept V Q (isolate d s) := by
  unfold isolate
  repeat' first
      | with_reducible assumption | with_reducible intro _ | with_reducible apply setReq_kept
      | with_reducible apply setIso_kept | with_reducible apply dropStg_kept | with_reducible apply dropStores_kept
      | with_reducible apply dropChannel_kept | with_reducible apply Kept.foldl | split

theorem grantAll_kept {s : State} (hK : Kept V Q s) : Kept V Q (grantAll s) := by
  unfold grantAll
  repeat' first
      | assumption | intro _ | apply grantServe_kept
      | apply Kept.foldl

theorem grantRise_kept {d : Nat} {s : State} (hK : Kept V Q s) : Kept V Q (grantRise d s) := by
  unfold grantRise
  refine Kept.ite hK ?_
  extract_lets _ s1
  have h1 : Kept V Q s1 := setIso_kept hK.mk_upd
  refine Kept.ite (grantAll_kept h1) (Kept.ite (softLook_kept (upDone_kept h1)) ?_)
  exact (Kept.foldl (fun s c h => clearChannel_kept h) _ _ h1).mk_upd

theorem checkImage_kept {prog : Bool} {q : Nat} {s : State} (hK : Kept V Q s) : Kept V Q (checkImage prog q s).2 := by
  unfold checkImage
  repeat' first
      | assumption | apply loaderWords_kept | apply draw_kept | split
      | dsimp only

theorem refuseLoad_kept {prog : Bool} {q : Nat} {reason : Nat} {s : State} (hK : Kept V Q s) :
    Kept V Q (refuseLoad prog q reason s) := by
  unfold refuseLoad
  repeat' first
      | with_reducible intro _
      | (with_reducible apply Kept.mk_upd; first | with_reducible assumption | with_reducible apply modPrm_kept | with_reducible apply setDue_kept | with_reducible apply setDom_kept | with_reducible apply isolate_kept | with_reducible apply setOn_kept | with_reducible apply failEntry_kept | with_reducible apply Kept.foldl)

theorem loadMicro_kept {c : Chan} {ws : List W64} {s : State} (hK : Kept V Q s) : Kept V Q (loadMicro c ws s) := by
  unfold loadMicro
  repeat' first
      | assumption | intro _ | apply modChan_kept | exact ‹ChanOk _›

theorem loadProgram_kept {q : BitVec 4} {ws : List W64} {s : State} (hK : Kept V Q s) :
    Kept V Q (loadProgram q ws s) :=
  modQuad_kept hK

theorem quadRuns_kept {q : Nat} {s : State} (hK : Kept V Q s) : Kept V Q (quadRuns q s) := by
  unfold quadRuns
  repeat' first
      | with_reducible intro _ | with_reducible apply staleAll_kept | with_reducible apply wantCalib_kept
      | with_reducible apply atRest_kept | with_reducible apply modChan_kept | with_reducible apply upDone_kept
      | with_reducible apply Kept.foldl | split | exact ‹ChanOk _›
      | exact Kept.mk_upd ‹_›

theorem quadLoad_kept {q : BitVec 4} {s : State} (hK : Kept V Q s) : Kept V Q (quadLoad q s) := by
  unfold quadLoad
  repeat' first
      | with_reducible intro _ | with_reducible apply checkImage_kept | with_reducible apply refuseLoad_kept
      | with_reducible apply loadMicro_kept | with_reducible apply quadRuns_kept
      | with_reducible apply loadProgram_kept | with_reducible apply Kept.foldl | split
      | exact Kept.mk_upd ‹_› | dsimp only

theorem applySpares_kept {s : State} (hK : Kept V Q s) : Kept V Q (applySpares s) := by
  unfold applySpares
  repeat' first
      | with_reducible intro _ | with_reducible apply logRec_kept | with_reducible apply Kept.ite
      | with_reducible apply Kept.foldl | exact Kept.mk_upd ‹_›

theorem retireForce_kept {s : State} (hK : Kept V Q s) : Kept V Q (retireForce s) := by
  unfold retireForce
  repeat' first
      | intro _ | apply logRec_kept | apply Kept.foldl
      | exact Kept.mk_upd ‹_›

theorem stgInitEnd_kept {s : State} (hK : Kept V Q s) : Kept V Q (stgInitEnd s) := by
  unfold stgInitEnd
  refine Kept.ite hK (upDone_kept (rebuildPools_kept (retireForce_kept (applySpares_kept ?_))))
  exact ⟨hK.1, hK.2, hK.3, RamOk.empty, hK.5⟩

theorem saveUid_kept {c : Chan} {s : State} (hK : Kept V Q s) : Kept V Q (saveUid c s) := by
  unfold saveUid
  repeat' first
      | with_reducible assumption | with_reducible intro _ | with_reducible apply readMem_kept
      | with_reducible apply modChan_kept | exact ‹ChanOk _›

theorem waitEnds_kept {s : State} (hK : Kept V Q s) : Kept V Q (waitEnds s) := by
  unfold waitEnds
  split
  · exact hK
  · exact hK
  · exact respond_kept hK.mk_upd

theorem stgWithdraw_kept {s : State} (hK : Kept V Q s) : Kept V Q (stgWithdraw s) := by
  unfold stgWithdraw
  exact waitEnds_kept (Kept.foldl (f := fun s id => wakeOrFail id 1 .waitStg false s) (fun _ _ h => wakeOrFail_kept h) _ _
    hK.mk_upd)

theorem quiescence_kept {d : Nat} {s : State} (hK : Kept V Q s) : Kept V Q (quiescence d s) := by
  unfold quiescence
  repeat' first
      | with_reducible intro _
      | (with_reducible apply Kept.mk_upd; first | with_reducible assumption | with_reducible apply stgWithdraw_kept | with_reducible apply setIso_kept | with_reducible apply isolate_kept | with_reducible apply softLook_kept | with_reducible apply saveUid_kept | with_reducible apply Kept.foldl | split)

theorem grantFall_kept {d : Nat} {s : State} (hK : Kept V Q s) : Kept V Q (grantFall d s) := by
  unfold grantFall
  refine Kept.ite hK (Kept.ite (runWants_kept hK.mk_upd) (serveDue_kept (setDom_kept ?_)))
  have h : ∀ {x : State} {o : BitVec 3}, Kept V Q x → Kept V Q (if bit s.pwr.noOut d then x else setOutcome d o x) :=
    fun hx => Kept.ite hx (setOutcome_kept hx)
  exact Kept.ite (dropStg_kept (h hK.mk_upd).mk_upd) (h hK.mk_upd).mk_upd

theorem retGrant_kept {level : Bool} {s : State} (hK : Kept V Q s) : Kept V Q (retGrant level s) := by
  unfold retGrant
  repeat' first
      | with_reducible apply setOutcome_kept | with_reducible apply setDom_kept
      | with_reducible apply serveDue_kept | with_reducible apply grantAll_kept
      | with_reducible apply setIso_kept | with_reducible apply retireForce_kept | with_reducible apply upDone_kept
      | with_reducible apply withholdStart_kept | split
      | exact Kept.mk_upd ‹_› | dsimp only

theorem retSet_kept {s : State} (hK : Kept V Q s) : Kept V Q (retSet s) := by
  have hW := wakeWins_kept (d := 1) hK
  unfold retSet
  dsimp only
  repeat' first
      | apply sleepReq_kept | apply ask_kept | apply setOutcome_kept hW | split
      | exact Kept.mk_upd hW | exact Kept.mk_upd ‹_›

theorem retClear_kept {s : State} (hK : Kept V Q s) : Kept V Q (retClear s) := by
  unfold retClear
  repeat' first
      | apply stgUp_kept | apply ask_kept | apply Kept.ite
      | exact Kept.mk_upd ‹_›

theorem domainCtrl_kept {v : W64} {s : State} (hK : Kept V Q s) : Kept V Q (domainCtrl v s) := by
  unfold domainCtrl
  repeat' first
      | with_reducible assumption | with_reducible intro _ | with_reducible apply autoWake_kept
      | with_reducible apply sleepWrite_kept | with_reducible apply retSet_kept
      | with_reducible apply retClear_kept | with_reducible apply softLook_kept | with_reducible apply Kept.ite
      | with_reducible apply Kept.foldl

theorem patchGo_kept {c : Chan} {v : W64} {s : State} (hK : Kept V Q s) : Kept V Q (patchGo c v s) := by
  unfold patchGo
  repeat' first
      | assumption | apply modReg_kept

theorem patchWords_kept {c : Chan} {disp : Bool} : ∀ {n src dst : Nat} {s : State}, Kept V Q s →
    Kept V Q (patchWords c disp n src dst s).2
  | 0, _, _, _, h => h
  | n + 1, src, dst, s, h => by
    unfold patchWords
    extract_lets ws lo hi v x
    split
    · exact logPrimer_kept h
    · refine patchWords_kept (modChan_kept h fun ch hc => ?_)
      cases disp <;> exact hc

theorem patchCopy_kept {c : Chan} {s : State} (hK : Kept V Q s) : Kept V Q (patchCopy c s) := by
  unfold patchCopy
  repeat' first
      | with_reducible assumption | with_reducible apply patchWords_kept | with_reducible apply dopRetries_kept
      | with_reducible apply modReg_kept | with_reducible apply Kept.ite

theorem fillEnd_kept {c : Chan} {s : State} (hK : Kept V Q s) : Kept V Q (fillEnd c s) := by
  unfold fillEnd
  repeat' first
      | with_reducible assumption | with_reducible apply dopRetries_kept | with_reducible apply modReg_kept
      | with_reducible apply fillRegion_kept | split

theorem cutFill_kept {c : Chan} {s : State} (hK : Kept V Q s) : Kept V Q (cutFill c s) := by
  unfold cutFill
  repeat' first
      | assumption | apply draw_kept | apply stgWrite_kept | split

theorem portReset_kept {s : State} (hK : Kept V Q s) : Kept V Q (portReset s) := hK.mk_upd

theorem coldState_kept {cause : Byte} {boot : Boot} {s : State} (hK : Kept V Q s) :
    Kept V Q (coldState cause boot s) := by
  have h := portReset_kept (tripDetector_kept hK)
  refine ⟨h.1, h.2, fun e he => ?_, RamOk.empty, h.5.map fun _ _ => ChanOk.empty⟩
  obtain ⟨x, hx, rfl⟩ := List.mem_map.mp he
  have := h.3 _ (List.mem_filter.mp hx).1
  unfold StrmOk lateWords
  dsimp only
  simp

theorem coldReset_kept {s : State} (hK : Kept V Q s) : Kept V Q (coldReset s) :=
  (coldState_kept (cause := 3) (boot := .init) hK).mk_upd

theorem coldWins_kept {s : State} (hK : Kept V Q s) : Kept V Q (coldWins s).2 := by
  unfold coldWins
  exact Kept.ite2 (draw_kept hK) hK

theorem warmChannel_kept {c : Chan} {s : State} (hK : Kept V Q s) : Kept V Q (warmChannel c s) := by
  unfold warmChannel
  repeat' first
      | assumption | intro _ | apply cutFill_kept
      | apply modChan_kept | exact ‹ChanOk _›

theorem warmReset_kept {s : State} (hK : Kept V Q s) : Kept V Q (warmReset s) := by
  have h := Kept.foldl (fun s (c : Nat) h => warmChannel_kept (c := BitVec.ofNat 6 c) h)
    ((List.range 64).filter fun c => quadUp (portReset (tripDetector s)) (BitVec.ofNat 6 c)) _
    (portReset_kept (tripDetector_kept hK))
  refine ⟨h.1, h.2, h.3.map fun x _ => ?_, h.4, h.5⟩
  unfold StrmOk warmStream
  exact Nat.zero_le _

theorem fuseOver_kept {s : State} (hK : Kept V Q s) : Kept V Q (fuseOver s) := by
  unfold fuseOver
  repeat' first
      | split | exact Kept.mk_upd ‹_› | dsimp only

theorem fuseFault_kept {detail : W64} {s : State} (hK : Kept V Q s) : Kept V Q (fuseFault detail s) := by
  unfold fuseFault
  repeat' first
      | apply fuseOver_kept | apply logRec_kept
      | exact Kept.mk_upd ‹_›

theorem fuseWord_kept {w : W64} {s : State} (hK : Kept V Q s) : Kept V Q (fuseWord w s) := by
  unfold fuseWord
  repeat' first
      | with_reducible apply fuseOver_kept | with_reducible apply fuseFault_kept | split
      | exact Kept.mk_upd ‹_›

theorem fuseTimeout_kept {s : State} (hK : Kept V Q s) : Kept V Q (fuseTimeout s) := by
  unfold fuseTimeout
  repeat' first
      | assumption | apply fuseFault_kept | split

theorem bootInitEnd_kept {s : State} (hK : Kept V Q s) : Kept V Q (bootInitEnd s) := by
  unfold bootInitEnd
  refine Kept.ite hK ?_
  have h : Kept V Q (if s.gctl.warmBoot then rebuildPools s else s) := Kept.ite (rebuildPools_kept hK) hK
  exact Kept.mk_upd (Kept.ite (resample_kept h) h)

theorem bootJournal_kept {s : State} (hK : Kept V Q s) : Kept V Q (bootJournal s) := by
  unfold bootJournal
  repeat' ((with_reducible apply Kept.mk_upd; first | assumption | with_reducible apply journalBoot_kept | split))

theorem bootDirectory_kept {s : State} (hK : Kept V Q s) : Kept V Q (bootDirectory s) := by
  unfold bootDirectory
  repeat' first
      | with_reducible intro _
      | (with_reducible apply Kept.mk_upd; first | assumption | with_reducible apply directoryBoot_kept | with_reducible apply trainAll_kept | with_reducible apply atRest_kept | with_reducible apply Kept.foldl | split)

theorem execPwrGrantRise_kept {d : Nat} {s : State} (hK : Kept V Q s) : OutKept V Q (execPwrGrantRise d s) :=
  grantRise_kept hK

theorem execPwrGrantFall_kept {d : Nat} {s : State} (hK : Kept V Q s) : OutKept V Q (execPwrGrantFall d s) :=
  grantFall_kept hK

theorem execRetGrant_kept {level : Bool} {s : State} (hK : Kept V Q s) : OutKept V Q (execRetGrant level s) :=
  retGrant_kept hK

theorem execQuiescence_kept {d : Nat} {s : State} (hK : Kept V Q s) : OutKept V Q (execQuiescence d s) :=
  quiescence_kept hK

theorem execQuadLoad_kept {q : BitVec 4} {s : State} (hK : Kept V Q s) : OutKept V Q (execQuadLoad q s) :=
  quadLoad_kept hK

theorem execStgInitEnd_kept {s : State} (hK : Kept V Q s) : OutKept V Q (execStgInitEnd s) := stgInitEnd_kept hK

theorem execPfailRise_kept {s : State} (hK : Kept V Q s) : OutKept V Q (execPfailRise s) := by
  unfold execPfailRise
  repeat' first
      | with_reducible apply post_kept | with_reducible apply OutKept.next | with_reducible apply Kept.ite
      | exact Kept.mk_upd ‹_›

theorem execPfailFall_kept {s : State} (hK : Kept V Q s) : OutKept V Q (execPfailFall s) := by
  unfold execPfailFall
  repeat' first
      | with_reducible apply OutKept.next | exact Kept.mk_upd ‹_›

theorem execBrownoutRise_kept {s : State} (hK : Kept V Q s) : OutKept V Q (execBrownoutRise s) := by
  unfold execBrownoutRise
  repeat' first
      | with_reducible apply coldState_kept | with_reducible apply OutKept.next | split
      | exact Kept.mk_upd ‹_›

theorem execBrownoutFall_kept {s : State} (hK : Kept V Q s) : OutKept V Q (execBrownoutFall s) := by
  unfold execBrownoutFall
  repeat' first
      | with_reducible apply coldState_kept | with_reducible apply OutKept.next | split
      | exact Kept.mk_upd ‹_›

theorem execPowerOnReset_kept {s : State} (hK : Kept V Q s) : OutKept V Q (execPowerOnReset s) := by
  unfold execPowerOnReset
  repeat' first
      | with_reducible apply coldState_kept | with_reducible apply OutKept.next
      | exact Kept.mk_upd ‹_›

theorem execFuseWord_kept {w : W64} {s : State} (hK : Kept V Q s) : OutKept V Q (execFuseWord w s) :=
  fuseWord_kept hK

theorem execFuseTimeout_kept {s : State} (hK : Kept V Q s) : OutKept V Q (execFuseTimeout s) := fuseTimeout_kept hK

theorem execBootInitEnd_kept {s : State} (hK : Kept V Q s) : OutKept V Q (execBootInitEnd s) := bootInitEnd_kept hK

theorem execBootJournal_kept {s : State} (hK : Kept V Q s) : OutKept V Q (execBootJournal s) := bootJournal_kept hK

theorem execBootDirectory_kept {s : State} (hK : Kept V Q s) : OutKept V Q (execBootDirectory s) :=
  bootDirectory_kept hK

theorem execPatchCopy_kept {c : Chan} {s : State} (hK : Kept V Q s) : OutKept V Q (execPatchCopy c s) :=
  patchCopy_kept hK

theorem execFenceFillEnd_kept {c : Chan} {s : State} (hK : Kept V Q s) : OutKept V Q (execFenceFillEnd c s) :=
  fillEnd_kept hK

/-! ## Integrity -/

theorem modIntg_kept {f : Intg → Intg} {s : State} (hK : Kept V Q s) : Kept V Q (modIntg f s) := hK.mk_upd

theorem retireBanks_kept {bits : BitVec 16} {s : State} (hK : Kept V Q s) : Kept V Q (retireBanks bits s) := by
  unfold retireBanks
  repeat' first
      | with_reducible assumption | with_reducible apply modIntg_kept | with_reducible apply withholdStart_kept
      | with_reducible apply retireForce_kept | with_reducible apply Kept.ite

theorem splitWord_kept {o lo n : Nat} {s : State} (hK : Kept V Q s) : Kept V Q (splitWord o lo n s).2 := by
  unfold splitWord
  extract_lets a
  refine Kept.ite2 hK.mkp (Kept.ite2 (hit_kept hK).mkp ?_)
  split
  · exact Kept.mkp (readMem_kept hK)
  · exact hK.mkp
  · exact Kept.mkp (checkGroup_kept hK)

theorem splitWrite_kept {o : Nat} {m v : W64} {s : State} (hK : Kept V Q s) : Kept V Q (splitWrite o m v s) := by
  unfold splitWrite
  extract_lets a ks
  refine Kept.ite hK (Kept.ite (hit_kept hK) ?_)
  split
  · exact hK
  · exact writeMem_kept hK
  · refine Kept.foldl (fun s i h => modRam_kept h fun r hr => ?_) _ _ hK
    exact ⟨hr.1.tset _ _, hr.2.1.tset _ _, hr.2.2.1, hr.2.2.2⟩
  · refine Kept.ite hK (setMark_kept (checkGroup_kept (Kept.foldl (fun s i h => modRam_kept h fun r hr => ?_) _ _ hK)))
    exact ⟨hr.1, hr.2.1.tset _ _, hr.2.2.1, hr.2.2.2⟩

theorem intReadAct_kept {o : Nat} {m : W64} {s : State} (hK : Kept V Q s) : Kept V Q (intReadAct o m s) := by
  unfold intReadAct
  repeat' first
      | assumption | apply modIntg_kept | split

theorem intWrite_kept {o : Nat} {v : W64} {act : W64} {s : State} (hK : Kept V Q s) :
    Kept V Q (intWrite o v act s) := by
  unfold intWrite
  repeat' first
      | assumption | apply modIntg_kept | apply retireBanks_kept
      | split

/-! ## Render -/

theorem modRctx_kept {i : Nat} {f : RCtx → RCtx} {s : State} (hK : Kept V Q s) : Kept V Q (modRctx i f s) :=
  hK.mk_upd

theorem cwCode_kept {h : BitVec 32} {off : Nat} {s : State} (hK : Kept V Q s) : Kept V Q (cwCode h off s).2 :=
  bufRead_kept hK

theorem writeCw_kept {h : BitVec 32} {off : Nat} {code : List Byte} {g : W64} {ws : BitVec 32} {marks : List Bool} {s : State} (hK : Kept V Q s) :
    Kept V Q (writeCw h off code g ws marks s) :=
  bufWrite_kept hK

theorem accWrite_kept {x : RCtx} {t : Nat} {off : Nat} {bs : List (Byte × Bool)} {s : State} (hK : Kept V Q s) :
    Kept V Q (accWrite x t off bs s) := by
  unfold accWrite
  repeat' first
      | with_reducible assumption | with_reducible intro _ | with_reducible apply cwCode_kept
      | with_reducible apply bufWrite_kept | with_reducible apply Kept.foldl

theorem accRead_kept {id : Nat} {t : Nat} {off : Nat} {sym : Nat} {bs : List (Byte × Bool)} {s : State} (hK : Kept V Q s) :
    Kept V Q (accRead id t off sym bs s) :=
  modRctx_kept hK

theorem accPages_kept {id : Nat} {t : Nat} {h : BitVec 32} {src : Nat} {dst : Nat} {pages : Nat} {s : State} (hK : Kept V Q s) :
    Kept V Q (accPages id t h src dst pages s) := by
  unfold accPages
  repeat' first
      | with_reducible assumption | with_reducible intro _ | with_reducible apply cwCode_kept
      | with_reducible apply accRead_kept | with_reducible apply accWrite_kept | with_reducible apply Kept.ite
      | with_reducible apply Kept.foldl

theorem noteAcc_kept {id : Nat} {t : Nat} {node : BitVec 16} {a3 : State} (hK : Kept V Q a3) :
    Kept V Q (noteAcc id t node a3) :=
  modRctx_kept hK

theorem takeFree_kept {s : State} (hK : Kept V Q s) : OptKept V Q (takeFree s) := by
  unfold takeFree
  repeat' first
      | assumption | apply draw_kept | exact OptKept.none
      | refine OptKept.some ?_ | split | dsimp only

theorem popBuffers_kept {p : Nat} {a1 : Nat} {a2 : State} (hK : Kept V Q a2) : Kept V Q (popBuffers p a1 a2).2 := by
  induction a1 generalizing p a2 with
  | zero =>
    unfold popBuffers
    repeat' first
        | assumption | apply popBuffer_kept
  | succ n ih =>
    unfold popBuffers
    repeat' first
        | apply ih | assumption | apply popBuffer_kept

theorem zeroBuffer_kept {h : BitVec 32} {s : State} (hK : Kept V Q s) : Kept V Q (zeroBuffer h s) :=
  bufWrite_kept hK

theorem openWrite_kept {g : W64} {s : State} (hK : Kept V Q s) : Kept V Q (openWrite g s).2 := by
  unfold openWrite
  repeat' first
      | assumption | intro _ | apply takeFree_kept
      | apply popBuffers_kept | apply zeroBuffer_kept
      | apply modRctx_kept | apply Kept.foldl | split
      | refine Kept.opt2 (by assumption) ?_

theorem openRead_kept {g : W64} {b : W64} {s : State} (hK : Kept V Q s) : Kept V Q (openRead g b s).2 := by
  unfold openRead
  repeat' first
      | assumption | apply takeFree_kept | apply modRctx_kept
      | apply Kept.ite2 | split | refine Kept.opt2 (by assumption) ?_

theorem rOpen_kept {a : W64} {b : W64} {s : State} (hK : Kept V Q s) : Kept V Q (rOpen a b s).2 := by
  unfold rOpen
  repeat' first
      | assumption | apply openRead_kept | apply openWrite_kept
      | split

theorem rAccumulate_kept {a : W64} {b : W64} {s : State} (hK : Kept V Q s) : Kept V Q (rAccumulate a b s).2 := by
  unfold rAccumulate
  repeat' first
      | assumption | apply noteAcc_kept | apply accPages_kept
      | apply Kept.ite2

theorem accReads_kept {off : Nat} {a1 : List (BitVec 32)} {a2 : State} (hK : Kept V Q a2) :
    Kept V Q (accReads off a1 a2).2 := by
  induction a1 generalizing off a2 with
  | nil =>
    unfold accReads
    repeat' first
        | assumption | with_reducible apply cwCode_kept
  | cons x xs ih =>
    unfold accReads
    repeat' first
        | with_reducible apply ih | assumption | with_reducible apply cwCode_kept

theorem solveWrite_kept {i : Nat} {s : State} (hK : Kept V Q s) : Kept V Q (solveWrite i s) := by
  unfold solveWrite
  repeat' first
      | with_reducible intro _
      | (with_reducible apply Kept.mk_upd; first | assumption | with_reducible apply accReads_kept | with_reducible apply writeCw_kept | with_reducible apply modRctx_kept | with_reducible apply Kept.foldl | split)

theorem rParityOut_kept {a : W64} {s : State} (hK : Kept V Q s) : Kept V Q (rParityOut a s).2 := by
  unfold rParityOut
  repeat' first
      | assumption | apply solveWrite_kept | split | dsimp only

theorem rRelease_kept {a : W64} {s : State} (hK : Kept V Q s) : Kept V Q (rRelease a s).2 := by
  unfold rRelease
  repeat' first
      | assumption | apply modRctx_kept | apply Kept.ite2

theorem rClose_kept {a : W64} {b : W64} {s : State} (hK : Kept V Q s) : Kept V Q (rClose a b s).2 := by
  unfold rClose
  repeat' first
      | intro _ | apply modRctx_kept | apply freeBuffer_kept
      | apply Kept.foldl | split | exact Kept.mk_upd ‹_›
      | dsimp only

theorem takeParity_kept {i : Nat} {s : State} (hK : Kept V Q s) : Kept V Q (takeParity i s) := by
  unfold takeParity
  repeat' first
      | assumption | intro _ | apply noteAcc_kept
      | apply accPages_kept | apply Kept.foldl | split | dsimp only

theorem listEntry_kept {h : BitVec 32} {u : Nat} {t : Nat} {p : Nat} {s : State} (hK : Kept V Q s) :
    Kept V Q (listEntry h u t p s).2 :=
  bufRead_kept hK

theorem requestFetch_kept {i : Nat} {t : Nat} {p : Nat} {e : W64} {s : State} (hK : Kept V Q s) :
    Kept V Q (requestFetch i t p e s) :=
  hK.mk_upd

theorem posEntries_kept {h : BitVec 32} {u : Nat} {t : Nat} {a3 : List Nat} {a4 : State} (hK : Kept V Q a4) :
    Kept V Q (posEntries h u t a3 a4).2 := by
  induction a3 generalizing h u a4 with
  | nil =>
    unfold posEntries
    repeat' first
        | assumption | apply listEntry_kept
  | cons x xs ih =>
    unfold posEntries
    repeat' first
        | apply ih | assumption | apply listEntry_kept

theorem fetchPos_kept {i : Nat} {x : RCtx} {h : BitVec 32} {t : Nat} {s : State} (hK : Kept V Q s) :
    Kept V Q (fetchPos i x h t s) := by
  unfold fetchPos
  repeat' first
      | assumption | intro _ | apply posEntries_kept
      | apply requestFetch_kept | apply Kept.ite | apply Kept.foldl

theorem startFetches_kept {i : Nat} {target : Nat} {s : State} (hK : Kept V Q s) :
    Kept V Q (startFetches i target s) := by
  unfold startFetches
  repeat' first
      | assumption | intro _ | apply modRctx_kept
      | apply fetchPos_kept | apply Kept.foldl | split | dsimp only

theorem solveRead_kept {x : RCtx} {ts : List Nat} {target : Nat} {h : BitVec 32} {a4 : List Nat} {a5 : State} (hK : Kept V Q a5) :
    Kept V Q (solveRead x ts target h a4 a5).2.2 := by
  induction a4 generalizing x ts target h a5 with
  | nil =>
    unfold solveRead
    repeat' first
        | with_reducible assumption | with_reducible apply writeCw_kept
  | cons x xs ih =>
    unfold solveRead
    repeat' first
        | with_reducible apply ih | with_reducible assumption | with_reducible apply writeCw_kept

theorem rSolve_kept {i : Nat} {target : Nat} {h : BitVec 32} {s : State} (hK : Kept V Q s) :
    Kept V Q (rSolve i target h s).2 := by
  unfold rSolve
  repeat' ((with_reducible apply Kept.mk_upd; first | assumption | with_reducible apply solveRead_kept | with_reducible apply Kept.ite2 | split))

theorem rRebuild_kept {a : W64} {b : W64} {s : State} (hK : Kept V Q s) : Kept V Q (rRebuild a b s).2 := by
  unfold rRebuild
  repeat' first
      | assumption | apply takeParity_kept | apply rSolve_kept
      | apply startFetches_kept | apply Kept.ite2

theorem rServe_kept {k : Nat} {a : W64} {b : W64} {s : State} (hK : Kept V Q s) : Kept V Q (rServe k a b s).2 := by
  unfold rServe
  repeat' first
      | assumption | apply rOpen_kept | apply rAccumulate_kept
      | apply rParityOut_kept | apply rRebuild_kept
      | apply rRelease_kept | apply rClose_kept | split

theorem rGo_kept {k : Nat} {c : Chan} {t : Thr} {w : W64} {a : W64} {b : W64} {s : State} (hK : Kept V Q s) :
    EffKept V Q (rGo k c t w a b s) := by
  unfold rGo
  repeat' first
      | with_reducible apply EffKept.waited | with_reducible apply EffKept.wait | split
      | (with_reducible apply Kept.mk_upd; first | assumption | with_reducible apply rServe_kept | refine Kept.snd (by assumption) ?_)

theorem semRcmd_kept {k : Nat} {c : Chan} {t : Thr} {w : W64} {s : State} (hK : Kept V Q s) :
    EffKept V Q (semRcmd k c t w s) := by
  unfold semRcmd
  repeat' first
      | with_reducible apply rGo_kept | with_reducible apply EffKept.wait | with_reducible apply EffKept.ite
      | (with_reducible apply Kept.mk_upd; first | assumption | with_reducible apply operand_kept)

theorem rNext_kept {m : RCmd} {s : State} (hK : Kept V Q s) : Kept V Q (rNext m s) := by
  unfold rNext
  repeat' first
      | with_reducible apply rGo_kept
      | (with_reducible apply Kept.mk_upd; first | assumption | with_reducible apply applyEff_kept | with_reducible apply rServe_kept | split | refine Kept.snd (by assumption) ?_)

theorem renderNext_kept {a0 : List RCmd} {a1 : State} (hK : Kept V Q a1) : Kept V Q (renderNext a0 a1) := by
  induction a0 generalizing a1 with
  | nil =>
    unfold renderNext
    repeat' first
        | apply rNext_kept | split | exact Kept.mk_upd ‹_›
  | cons x xs ih =>
    unfold renderNext
    repeat' first
        | apply ih | apply rNext_kept | split
        | exact Kept.mk_upd ‹_›

theorem renderDone_kept {m : RCmd} {v : W64} {s : State} (hK : Kept V Q s) : Kept V Q (renderDone m v s) := by
  unfold renderDone
  exact renderNext_kept (Kept.ite (applyEff_kept (EffKept.waited hK.mk_upd)) hK.mk_upd)

theorem renderOn_kept {s : State} (hK : Kept V Q s) : Kept V Q (renderOn s) := by
  unfold renderOn
  split
  · exact hK
  · next m _ =>
    have h := rServe_kept (k := 0) (a := m.a) (b := m.b) hK
    split
    · split
      · next he => rw [he] at h; exact renderDone_kept h
      · next he => rw [he] at h; exact h
    · dsimp only
      split
      · exact hK
      · exact renderDone_kept (rSolve_kept hK.mk_upd)

theorem settlePos_kept {i : Nat} {t : Nat} {s : State} (hK : Kept V Q s) : Kept V Q (settlePos i t s) := by
  unfold settlePos
  repeat' first
      | with_reducible assumption | with_reducible intro _ | with_reducible apply noteAcc_kept
      | with_reducible apply accPages_kept | with_reducible apply freeEntryBuffer_kept
      | with_reducible apply Kept.ite | with_reducible apply Kept.foldl | split

theorem fetchOver_kept {i : Nat} {t : Nat} {p : Nat} {good : Bool} {s : State} (hK : Kept V Q s) :
    Kept V Q (fetchOver i t p good s) := by
  unfold fetchOver
  repeat' first
      | apply renderOn_kept | apply settlePos_kept
      | exact Kept.mk_upd ‹_›

theorem fetchEnd_kept {i : Nat} {t : Nat} {p : Nat} {s : State} (hK : Kept V Q s) : Kept V Q (fetchEnd i t p s) := by
  unfold fetchEnd
  repeat' first
      | assumption | apply fetchOver_kept | split

theorem renderDepart_kept {n : BitVec 16} {s : State} (hK : Kept V Q s) : Kept V Q (renderDepart n s) := hK.mk_upd

theorem rndWrite_kept {o : Nat} {v : W64} {act : W64} {s : State} (hK : Kept V Q s) :
    Kept V Q (rndWrite o v act s) := by
  unfold rndWrite
  repeat' first
      | split | exact Kept.mk_upd ‹_›

theorem execOpenCtx_kept {c : Chan} {t : Thr} {s : State} (hK : Kept V Q s) : OutKept V Q (execOpenCtx c t s) := by
  unfold execOpenCtx
  repeat' first
      | assumption | apply issue_kept | apply semRcmd_kept
      | apply OutKept.next

theorem execAccumulate_kept {c : Chan} {t : Thr} {s : State} (hK : Kept V Q s) :
    OutKept V Q (execAccumulate c t s) := by
  unfold execAccumulate
  repeat' first
      | assumption | apply issue_kept | apply semRcmd_kept
      | apply OutKept.next

theorem execParityOut_kept {c : Chan} {t : Thr} {s : State} (hK : Kept V Q s) :
    OutKept V Q (execParityOut c t s) := by
  unfold execParityOut
  repeat' first
      | assumption | apply issue_kept | apply semRcmd_kept
      | apply OutKept.next

theorem execRebuild_kept {c : Chan} {t : Thr} {s : State} (hK : Kept V Q s) : OutKept V Q (execRebuild c t s) := by
  unfold execRebuild
  repeat' first
      | assumption | apply issue_kept | apply semRcmd_kept
      | apply OutKept.next

theorem execRelease_kept {c : Chan} {t : Thr} {s : State} (hK : Kept V Q s) : OutKept V Q (execRelease c t s) := by
  unfold execRelease
  repeat' first
      | assumption | apply issue_kept | apply semRcmd_kept
      | apply OutKept.next

theorem execCloseCtx_kept {c : Chan} {t : Thr} {s : State} (hK : Kept V Q s) : OutKept V Q (execCloseCtx c t s) := by
  unfold execCloseCtx
  repeat' first
      | assumption | apply issue_kept | apply semRcmd_kept
      | apply OutKept.next

theorem execRenderFetchEnd_kept {id : BitVec 10} {pos : Ctx} {pg : BitVec 4} {s : State} (hK : Kept V Q s) :
    OutKept V Q (execRenderFetchEnd id pos pg s) :=
  fetchEnd_kept hK

/-! ## Admin -/

theorem endUnbounded_kept {c : Chan} {t : Thr} {s : State} (hK : Kept V Q s) : Kept V Q (endUnbounded c t s) := by
  unfold endUnbounded
  repeat' first
      | assumption | with_reducible intro _ | with_reducible apply applyEff_kept
      | with_reducible apply modChan_kept | with_reducible apply dropWaiter_kept
      | with_reducible apply unlockPop_kept | with_reducible apply recognise_kept
      | with_reducible apply EffKept.waited | split | exact ‹ChanOk _›

theorem abortThread_kept {c : Chan} {t : Thr} {s : State} (hK : Kept V Q s) : Kept V Q (abortThread c t s) := by
  unfold abortThread
  repeat' first
      | assumption | apply endUnbounded_kept | apply modThr_kept

theorem abortEntry_kept {id : Nat} {s : State} (hK : Kept V Q s) : Kept V Q (abortEntry id s).2 := by
  unfold abortEntry
  repeat' first
      | assumption | intro _ | apply modEntry_kept
      | apply abortThread_kept | apply failEntry_kept
      | apply modChan_kept | apply dropWaiter_kept | split | exact ‹ChanOk _›

theorem abortOutcome_kept {id : Nat} {won : Bool} {s : State} (hK : Kept V Q s) : Kept V Q (abortOutcome id won s) :=
  finishEntry_kept hK

theorem abortRemote_kept {id : Nat} {tag : BitVec 12} {s : State} (hK : Kept V Q s) :
    Kept V Q (abortRemote id tag s) := by
  unfold abortRemote
  repeat' first
      | apply abortOutcome_kept | apply sendNode_kept
      | apply modEntry_kept | split | exact Kept.mk_upd ‹_›

theorem fetchTimeout_kept {i : Nat} {t : Nat} {p : Nat} {s : State} (hK : Kept V Q s) :
    Kept V Q (fetchTimeout i t p s) := by
  unfold fetchTimeout
  repeat' first
      | apply sendNode_kept | apply abortEntry_kept
      | apply fetchOver_kept | split | exact Kept.mk_upd ‹_›
      | dsimp only

theorem admin_kept {op : Nat} {f : Entry → State → State} {s : State} (hK : Kept V Q s) (hf : ∀ e s, Kept V Q s → Kept V Q (f e s)) :
    Kept V Q (admin op f s) := by
  unfold admin
  repeat' first
      | assumption | apply hf | apply adminRefuse_kept | split

theorem adminCreate_kept {cq : Bool} {e : Entry} {s : State} (hK : Kept V Q s) : Kept V Q (adminCreate cq e s) := by
  unfold adminCreate
  refine Kept.ite (adminRefuse_kept hK) ?_
  split
  · exact adminRefuse_kept hK
  · exact finishEntry_kept (modQctx_kept (enableCtx_kept hK))

theorem adminDeleteSq_kept {e : Entry} {s : State} (hK : Kept V Q s) : Kept V Q (adminDeleteSq e s) := by
  unfold adminDeleteSq
  have h := fun f g => modEntry_kept (id := e.id) (f := f) (modQctx_kept (k := ctxKey false (adminQ e)) (f := g) hK)
  exact Kept.ite (adminRefuse_kept hK)
    (adminSettle_kept (Kept.ite (disableSq_kept (h _ _)) (waitStop_kept (h _ _))))

theorem adminDeleteCq_kept {e : Entry} {s : State} (hK : Kept V Q s) : Kept V Q (adminDeleteCq e s) := by
  unfold adminDeleteCq
  repeat' first
      | assumption | with_reducible apply adminRefuse_kept | with_reducible apply disableCq_kept
      | with_reducible apply finishEntry_kept | with_reducible apply modQctx_kept | with_reducible apply Kept.ite

theorem adminDisable_kept {e : Entry} {s : State} (hK : Kept V Q s) : Kept V Q (adminDisable e s) := by
  unfold adminDisable
  repeat' first
      | assumption | with_reducible apply adminRefuse_kept | with_reducible apply modEntry_kept
      | with_reducible apply waitStop_kept
      | with_reducible apply disableSq_kept | with_reducible apply finishEntry_kept | with_reducible apply Kept.ite

theorem adminEnable_kept {e : Entry} {s : State} (hK : Kept V Q s) : Kept V Q (adminEnable e s) := by
  unfold adminEnable
  repeat' first
      | assumption | apply adminRefuse_kept | apply adminCtx_kept
      | apply askCtx_kept | apply modEntry_kept | apply Kept.ite

theorem adminSetArb_kept {e : Entry} {s : State} (hK : Kept V Q s) : Kept V Q (adminSetArb e s) := by
  unfold adminSetArb
  repeat' first
      | assumption | apply adminRefuse_kept | apply adminCtx_kept
      | apply askCtx_kept | apply modEntry_kept | apply Kept.ite

theorem adminAbort_kept {e : Entry} {s : State} (hK : Kept V Q s) : Kept V Q (adminAbort e s) := by
  unfold adminAbort
  repeat' first
      | assumption | apply abortOutcome_kept | apply abortRemote_kept
      | apply abortEntry_kept | split | dsimp only

theorem execAdminNop_kept {s : State} (hK : Kept V Q s) : OutKept V Q (execAdminNop s) := by
  unfold execAdminNop
  repeat' first
      | assumption | intro _ | apply admin_kept
      | apply finishEntry_kept | apply OutKept.next

theorem execCreateCq_kept {s : State} (hK : Kept V Q s) : OutKept V Q (execCreateCq s) := by
  unfold execCreateCq
  repeat' first
      | assumption | apply admin_kept | apply adminCreate_kept
      | apply OutKept.next

theorem execCreateSq_kept {s : State} (hK : Kept V Q s) : OutKept V Q (execCreateSq s) := by
  unfold execCreateSq
  repeat' first
      | assumption | apply admin_kept | apply adminCreate_kept
      | apply OutKept.next

theorem execDeleteSq_kept {s : State} (hK : Kept V Q s) : OutKept V Q (execDeleteSq s) := by
  unfold execDeleteSq
  repeat' first
      | assumption | apply admin_kept | apply adminDeleteSq_kept
      | apply OutKept.next

theorem execDeleteCq_kept {s : State} (hK : Kept V Q s) : OutKept V Q (execDeleteCq s) := by
  unfold execDeleteCq
  repeat' first
      | assumption | apply admin_kept | apply adminDeleteCq_kept
      | apply OutKept.next

theorem execDisableSq_kept {s : State} (hK : Kept V Q s) : OutKept V Q (execDisableSq s) := by
  unfold execDisableSq
  repeat' first
      | assumption | apply admin_kept | apply adminDisable_kept
      | apply OutKept.next

theorem execEnableSq_kept {s : State} (hK : Kept V Q s) : OutKept V Q (execEnableSq s) := by
  unfold execEnableSq
  repeat' first
      | assumption | apply admin_kept | apply adminEnable_kept
      | apply OutKept.next

theorem execAbort_kept {s : State} (hK : Kept V Q s) : OutKept V Q (execAbort s) := by
  unfold execAbort
  repeat' first
      | assumption | apply admin_kept | apply adminAbort_kept
      | apply OutKept.next

theorem execSetArb_kept {s : State} (hK : Kept V Q s) : OutKept V Q (execSetArb s) := by
  unfold execSetArb
  repeat' first
      | assumption | apply admin_kept | apply adminSetArb_kept
      | apply OutKept.next

theorem execRenderFetchTimeout_kept {id : BitVec 10} {pos : Ctx} {pg : BitVec 4} {s : State} (hK : Kept V Q s) :
    OutKept V Q (execRenderFetchTimeout id pos pg s) :=
  fetchTimeout_kept hK

/-! ## Lath -/

theorem modLath_kept {f : Lath → Lath} {s : State} (hK : Kept V Q s) : Kept V Q (modLath f s) := hK.mk_upd

theorem lateRsp_kept {s : State} (hK : Kept V Q s) : Kept V Q (lateRsp s) := modLath_kept hK

theorem cfgReject_kept {s : State} (hK : Kept V Q s) : Kept V Q (cfgReject s) := modLath_kept hK

theorem linkDown_kept {x : BitVec 2} {s : State} (hK : Kept V Q s) : Kept V Q (linkDown x s) := by
  unfold linkDown
  repeat' first
      | assumption | intro _ | apply startTimers_kept
      | apply giveQueued_kept | apply modLath_kept
      | apply lathEvent_kept | apply modLport_kept | apply Kept.foldl

theorem linkFail_kept {x : BitVec 2} {s : State} (hK : Kept V Q s) : Kept V Q (linkFail x s) := by
  unfold linkFail
  repeat' first
      | assumption | apply trainStart_kept | apply linkDown_kept

theorem loseEntry_kept {t : Nat} {s : State} (hK : Kept V Q s) : Kept V Q (loseEntry t s) := by
  unfold loseEntry
  repeat' first
      | assumption | apply modLath_kept | apply failEntry_kept
      | apply abortOutcome_kept | split

theorem depart_kept {n : BitVec 16} {s : State} (hK : Kept V Q s) : Kept V Q (depart n s) := by
  unfold depart
  repeat' first
      | assumption | apply renderDepart_kept | apply lathEvent_kept
      | apply modLath_kept | split

theorem restart_kept {n : BitVec 16} {s : State} (hK : Kept V Q s) : Kept V Q (restart n s) := modLath_kept hK

theorem heard_kept {n : BitVec 16} {epoch : BitVec 16} {s : State} (hK : Kept V Q s) :
    Kept V Q (heard n epoch s) := by
  unfold heard
  repeat' first
      | assumption | intro _ | apply depart_kept
      | apply lathEvent_kept | apply loseEntry_kept
      | apply modLath_kept | apply Kept.foldl | split

theorem drained_kept {x : BitVec 2} {f : Frame} {s : State} (hK : Kept V Q s) : Kept V Q (drained x f s) :=
  giveBack_kept hK

theorem refuseIn_kept {f : Frame} {s : State} (hK : Kept V Q s) : Kept V Q (refuseIn f s) := by
  unfold refuseIn
  repeat' first
      | assumption | apply modLath_kept | apply sendRoute_kept | split
      | dsimp only

theorem requestIn_kept {x : BitVec 2} {f : Frame} {s : State} (hK : Kept V Q s) : OptKept1 V Q (requestIn x f s) := by
  unfold requestIn
  repeat' first
      | exact OptKept1.none | with_reducible refine OptKept1.some ?_ | split
      | (with_reducible apply Kept.mk_upd; first | assumption | with_reducible apply sendNode_kept | with_reducible apply refuseIn_kept | with_reducible apply modLath_kept | with_reducible apply addEntry_kept)
      | dsimp only

theorem dataIn_kept {x : BitVec 2} {f : Frame} {s : State} (hK : Kept V Q s) : OptKept1 V Q (dataIn x f s) := by
  unfold dataIn
  repeat' first
      | assumption | apply bufWrite_kept | apply modEntry_kept
      | apply modLath_kept | exact OptKept1.none | refine OptKept1.some ?_ | split
      | dsimp only

theorem abortIn_kept {f : Frame} {s : State} (hK : Kept V Q s) : Kept V Q (abortIn f s) := by
  unfold abortIn
  repeat' first
      | assumption | apply abortEntry_kept | apply sendNode_kept
      | split

theorem modRemote_kept {tag : BitVec 12} {g : Remote → Remote} {s : State} (hK : Kept V Q s) :
    Kept V Q (modRemote tag g s) :=
  modLath_kept hK

theorem dataBack_kept {x : BitVec 2} {f : Frame} {s : State} (hK : Kept V Q s) : Kept V Q (dataBack x f s) := by
  unfold dataBack
  repeat' first
      | assumption | apply lateRsp_kept | apply modRemote_kept
      | apply bufWrite_kept | split

theorem acceptBack_kept {f : Frame} {s : State} (hK : Kept V Q s) : Kept V Q (acceptBack f s) := by
  unfold acceptBack
  repeat' first
      | assumption | apply lateRsp_kept | apply modRemote_kept | split

theorem freeSlot_kept {tag : BitVec 12} {r : Remote} {s : State} (hK : Kept V Q s) : Kept V Q (freeSlot tag r s) := by
  unfold freeSlot
  repeat' first
      | assumption | apply modRemote_kept | apply modLath_kept | split

theorem completeBack_kept {f : Frame} {s : State} (hK : Kept V Q s) : Kept V Q (completeBack f s) := by
  unfold completeBack
  repeat' first
      | assumption | apply lateRsp_kept | apply freeSlot_kept
      | apply endFetch_kept | apply startXfer_kept
      | apply modEntry_kept | apply finishEntry_kept
      | apply freeEntryBuffer_kept | split

theorem rejectBack_kept {f : Frame} {s : State} (hK : Kept V Q s) : Kept V Q (rejectBack f s) := by
  unfold rejectBack
  repeat' first
      | assumption | apply lateRsp_kept | apply depart_kept
      | apply loseEntry_kept | apply freeSlot_kept | apply halt_kept
      | apply endFetch_kept | split

theorem abortBack_kept {f : Frame} {s : State} (hK : Kept V Q s) : Kept V Q (abortBack f s) := by
  unfold abortBack
  repeat' first
      | assumption | apply lateRsp_kept | apply modLath_kept
      | apply modRemote_kept | apply abortOutcome_kept | split

theorem heartbeat_kept {n : BitVec 16} {s : State} (hK : Kept V Q s) : Kept V Q (heartbeat n s) := by
  unfold heartbeat
  repeat' first
      | assumption | apply sendNode_kept | apply modLath_kept | split

theorem remoteTimeout_kept {tag : BitVec 12} {s : State} (hK : Kept V Q s) : Kept V Q (remoteTimeout tag s) := by
  unfold remoteTimeout
  repeat' first
      | assumption | apply loseEntry_kept | apply depart_kept | split

theorem probeIn_kept {x : BitVec 2} {f : Frame} {s : State} (hK : Kept V Q s) : Kept V Q (probeIn x f s) :=
  sendRoute_kept hK

theorem probeEnd_kept {r : BitVec 2} {res : W64} {s : State} (hK : Kept V Q s) : Kept V Q (probeEnd r res s) := by
  unfold probeEnd
  repeat' first
      | assumption | apply lathEvent_kept | apply modLath_kept

theorem probeReply_kept {f : Frame} {s : State} (hK : Kept V Q s) : Kept V Q (probeReply f s) := by
  unfold probeReply
  repeat' first
      | assumption | apply probeEnd_kept | split

theorem probeTimeout_kept {s : State} (hK : Kept V Q s) : Kept V Q (probeTimeout s) := by
  unfold probeTimeout
  repeat' first
      | assumption | apply probeEnd_kept | split

theorem linkOut_kept {x : BitVec 2} {s : State} (hK : Kept V Q s) : Kept V Q (linkOut x s) := by
  unfold linkOut
  repeat' first
      | assumption | apply modLport_kept | apply Kept.ite

theorem frameEffect_kept {x : BitVec 2} {f : Frame} {s : State} (hK : Kept V Q s) :
    OptKept1 V Q (frameEffect x f s) := by
  unfold frameEffect
  repeat' first
      | assumption | with_reducible apply requestIn_kept | with_reducible apply dataBack_kept
      | with_reducible apply dataIn_kept | with_reducible apply acceptBack_kept
      | with_reducible apply completeBack_kept | with_reducible apply rejectBack_kept
      | with_reducible apply abortIn_kept | with_reducible apply abortBack_kept | with_reducible apply probeIn_kept
      | with_reducible apply probeReply_kept | with_reducible refine OptKept1.some ?_ | split

theorem frameHere_kept {x : BitVec 2} {f : Frame} {s : State} (hK : Kept V Q s) : OptKept1 V Q (frameHere x f s) := by
  unfold frameHere
  repeat' first
      | assumption | with_reducible apply frameEffect_kept | with_reducible apply modLath_kept
      | with_reducible refine OptKept1.some ?_ | split

theorem rxEffect_kept {x : BitVec 2} {f : Frame} {s : State} (hK : Kept V Q s) : OptKept1 V Q (rxEffect x f s) := by
  unfold rxEffect
  repeat' first
      | assumption | with_reducible refine OptKept1.some ?_ | with_reducible apply drained_kept
      | with_reducible apply discardFrame_kept | with_reducible apply enqueue_kept
      | exact OptKept1.map (fun _ h => drained_kept h) (frameHere_kept hK) | exact OptKept1.none | split

theorem takeHead_kept {s : State} {x : BitVec 2} {b : Nat} (hK : Kept V Q s) : OptKept1 V Q (takeHead s x b) := by
  unfold takeHead
  repeat' first
      | assumption | with_reducible apply rxEffect_kept | with_reducible apply modLport_kept
      | exact OptKept1.none | split

theorem takeLoop_kept {s : State} (hK : Kept V Q s) : OptKept1 V Q (takeLoop s) := by
  unfold takeLoop
  repeat' first
      | assumption | with_reducible apply frameHere_kept | with_reducible apply modLath_kept
      | exact OptKept1.none | split

theorem lathStep_kept {s : State} (hK : Kept V Q s) : OptKept1 V Q (lathStep s) := by
  unfold lathStep
  split
  · next h => exact OptKept1.some (OptKept1.findSome (fun i => takeHead_kept hK) _ _ h)
  · exact takeLoop_kept hK

theorem lathRun_kept {fuel : Nat} {a1 : State} (hK : Kept V Q a1) : Kept V Q (lathRun fuel a1) := by
  induction fuel generalizing a1 with
  | zero =>
    unfold lathRun
    repeat' first
        | assumption | with_reducible apply lathStep_kept | split
        | refine Kept.opt1 (by assumption) ?_
  | succ n ih =>
    unfold lathRun
    repeat' first
        | with_reducible apply ih | assumption | with_reducible apply lathStep_kept | split
        | refine Kept.opt1 (by assumption) ?_

theorem lathGo_kept {s : State} (hK : Kept V Q s) : Kept V Q (lathGo s) := by
  unfold lathGo
  repeat' first
      | assumption | apply linkOut_kept | apply lathRun_kept

theorem arrive_kept {x : BitVec 2} {f : Frame} {s : State} (hK : Kept V Q s) : Kept V Q (arrive x f s) := by
  unfold arrive
  repeat' first
      | assumption | with_reducible apply lathGo_kept | with_reducible apply modLport_kept
      | with_reducible apply heard_kept | split

theorem deliverAs_kept {t : BitVec 4} {x : BitVec 2} {f : Frame} {s : State} (hK : Kept V Q s) :
    Kept V Q (deliverAs t x f s) := by
  unfold deliverAs
  repeat' first
      | assumption | with_reducible apply arrive_kept | split

theorem forward_kept {x : BitVec 2} {f : Frame} {s : State} (hK : Kept V Q s) : Kept V Q (forward x f s) := by
  unfold forward
  repeat' first
      | assumption | with_reducible apply arrive_kept | split

theorem sayHello_kept {x : BitVec 2} {r : BitVec 2} {s : State} (hK : Kept V Q s) : Kept V Q (sayHello x r s) :=
  modLport_kept hK

theorem trainStep_kept {x : BitVec 2} {pass : Bool} {s : State} (hK : Kept V Q s) :
    Kept V Q (trainStep x pass s) := by
  unfold trainStep
  repeat' first
      | assumption | apply modLport_kept | apply sayHello_kept | split
      | dsimp only

theorem trainRetry_kept {x : BitVec 2} {s : State} (hK : Kept V Q s) : Kept V Q (trainRetry x s) := by
  unfold trainRetry
  repeat' first
      | assumption | apply trainStart_kept | apply Kept.ite

theorem portCtl_kept {x : BitVec 2} {v : W64} {s : State} (hK : Kept V Q s) : Kept V Q (portCtl x v s) := by
  unfold portCtl
  repeat' first
      | assumption | apply modLport_kept | apply trainStart_kept
      | apply linkDown_kept | apply Kept.ite

theorem helloIn_kept {x : BitVec 2} {f : Frame} {s : State} (hK : Kept V Q s) : Kept V Q (helloIn x f s) := by
  unfold helloIn
  repeat' first
      | assumption | apply modLport_kept | apply lathEvent_kept
      | apply heard_kept | apply Kept.ite

theorem replayAll_kept {x : BitVec 2} {s : State} (hK : Kept V Q s) : Kept V Q (replayAll x s) := by
  unfold replayAll
  repeat' first
      | assumption | apply linkFail_kept | apply modLport_kept
      | apply Kept.ite

theorem linkIn_kept {x : BitVec 2} {f : Frame} {s : State} (hK : Kept V Q s) : Kept V Q (linkIn x f s) := by
  unfold linkIn
  repeat' first
      | with_reducible assumption | with_reducible apply lathGo_kept | with_reducible apply modLport_kept
      | with_reducible apply restart_kept | with_reducible apply pumpLath_kept
      | with_reducible apply replayAll_kept | split

theorem probeGo_kept {v : W64} {s : State} (hK : Kept V Q s) : Kept V Q (probeGo v s) := by
  unfold probeGo
  repeat' ((with_reducible apply Kept.mk_upd; first | assumption | with_reducible apply cfgReject_kept | with_reducible apply modLath_kept | with_reducible apply lathGo_kept | with_reducible apply sendRoute_kept | split))

theorem lathReadAct_kept {o : Nat} {m : W64} {s : State} (hK : Kept V Q s) : Kept V Q (lathReadAct o m s) := by
  unfold lathReadAct
  repeat' first
      | assumption | apply modLath_kept | apply modLport_kept | split

theorem selfWrite_kept {m : W64} {v : W64} {s : State} (hK : Kept V Q s) : Kept V Q (selfWrite m v s) := by
  unfold selfWrite
  repeat' first
      | assumption | apply modLath_kept | apply cfgReject_kept
      | apply Kept.ite

theorem cfgWrite_kept {m : W64} {v : W64} {s : State} (hK : Kept V Q s) : Kept V Q (cfgWrite m v s) := by
  unfold cfgWrite
  repeat' first
      | assumption | intro _ | apply modLath_kept
      | apply cfgReject_kept | apply trainStart_kept | apply Kept.ite
      | apply Kept.foldl

theorem nodeWrite_kept {i : Nat} {v : W64} {s : State} (hK : Kept V Q s) : Kept V Q (nodeWrite i v s) := by
  unfold nodeWrite
  repeat' first
      | assumption | apply cfgReject_kept | apply modLath_kept
      | apply Kept.ite

theorem lathWrite_kept {o : Nat} {m : W64} {v : W64} {act : W64} {s : State} (hK : Kept V Q s) :
    Kept V Q (lathWrite o m v act s) := by
  unfold lathWrite
  repeat' first
      | assumption | apply selfWrite_kept | apply cfgWrite_kept
      | apply modLath_kept | apply probeGo_kept | apply portCtl_kept
      | apply nodeWrite_kept | split

theorem execLathRequest_kept {x : BitVec 2} {f : Frame} {s : State} (hK : Kept V Q s) :
    OutKept V Q (execLathRequest x f s) :=
  deliverAs_kept hK

theorem execLathData_kept {x : BitVec 2} {f : Frame} {s : State} (hK : Kept V Q s) :
    OutKept V Q (execLathData x f s) :=
  deliverAs_kept hK

theorem execLathAccept_kept {x : BitVec 2} {f : Frame} {s : State} (hK : Kept V Q s) :
    OutKept V Q (execLathAccept x f s) :=
  deliverAs_kept hK

theorem execLathComplete_kept {x : BitVec 2} {f : Frame} {s : State} (hK : Kept V Q s) :
    OutKept V Q (execLathComplete x f s) :=
  deliverAs_kept hK

theorem execLathReject_kept {x : BitVec 2} {f : Frame} {s : State} (hK : Kept V Q s) :
    OutKept V Q (execLathReject x f s) :=
  deliverAs_kept hK

theorem execLathAbort_kept {x : BitVec 2} {f : Frame} {s : State} (hK : Kept V Q s) :
    OutKept V Q (execLathAbort x f s) :=
  deliverAs_kept hK

theorem execLathAbortResult_kept {x : BitVec 2} {f : Frame} {s : State} (hK : Kept V Q s) :
    OutKept V Q (execLathAbortResult x f s) :=
  deliverAs_kept hK

theorem execLathHeartbeat_kept {x : BitVec 2} {f : Frame} {s : State} (hK : Kept V Q s) :
    OutKept V Q (execLathHeartbeat x f s) :=
  deliverAs_kept hK

theorem execLathProbe_kept {x : BitVec 2} {f : Frame} {s : State} (hK : Kept V Q s) :
    OutKept V Q (execLathProbe x f s) :=
  deliverAs_kept hK

theorem execLathProbeReply_kept {x : BitVec 2} {f : Frame} {s : State} (hK : Kept V Q s) :
    OutKept V Q (execLathProbeReply x f s) :=
  deliverAs_kept hK

theorem execLathHello_kept {x : BitVec 2} {f : Frame} {s : State} (hK : Kept V Q s) :
    OutKept V Q (execLathHello x f s) :=
  helloIn_kept hK

theorem execLathLink_kept {x : BitVec 2} {f : Frame} {s : State} (hK : Kept V Q s) :
    OutKept V Q (execLathLink x f s) :=
  linkIn_kept hK

theorem execLathFrameForward_kept {x : BitVec 2} {f : Frame} {s : State} (hK : Kept V Q s) :
    OutKept V Q (execLathFrameForward x f s) :=
  forward_kept hK

theorem execLinkTrainStep_kept {x : BitVec 2} {pass : Bool} {s : State} (hK : Kept V Q s) :
    OutKept V Q (execLinkTrainStep x pass s) :=
  trainStep_kept hK

theorem execLinkTrainRetry_kept {x : BitVec 2} {s : State} (hK : Kept V Q s) : OutKept V Q (execLinkTrainRetry x s) :=
  trainRetry_kept hK

theorem execHeartbeatTimer_kept {node : BitVec 16} {s : State} (hK : Kept V Q s) :
    OutKept V Q (execHeartbeatTimer node s) :=
  heartbeat_kept hK

theorem execRemoteTimeout_kept {tag : BitVec 12} {s : State} (hK : Kept V Q s) :
    OutKept V Q (execRemoteTimeout tag s) :=
  remoteTimeout_kept hK

theorem execProbeTimeout_kept {s : State} (hK : Kept V Q s) : OutKept V Q (execProbeTimeout s) :=
  probeTimeout_kept hK

theorem execLathNoLink_kept {x : BitVec 2} {s : State} (hK : Kept V Q s) : OutKept V Q (execLathNoLink x s) := by
  unfold execLathNoLink
  repeat' first
      | assumption | with_reducible apply linkFail_kept | with_reducible apply OutKept.next | split

/-! ## Interrupt -/

theorem place_kept {s : State} (hK : Kept V Q s) : Kept V Q (place s) := by
  unfold place
  repeat' first
      | assumption | apply modProc_kept | split

theorem placeAll_kept {fuel : Nat} {a1 : State} (hK : Kept V Q a1) : Kept V Q (placeAll fuel a1) := by
  induction fuel generalizing a1 with
  | zero =>
    unfold placeAll
    repeat' first
        | assumption | apply place_kept | split
  | succ n ih =>
    unfold placeAll
    repeat' first
        | apply ih | assumption | apply place_kept | split

theorem withdrawDue_kept {s : State} (hK : Kept V Q s) : Kept V Q (withdrawDue s) := hK.mk_upd

theorem markDue_kept {f : Nat → Pres → Bool} {s : State} (hK : Kept V Q s) : Kept V Q (markDue f s) := hK.mk_upd

theorem syncServe_kept {s : State} (hK : Kept V Q s) : Kept V Q (syncServe s) := by
  unfold syncServe
  repeat' first
      | with_reducible apply respond_kept | split | exact Kept.mk_upd ‹_›

theorem startHold_kept {g : Nat} {s : State} (hK : Kept V Q s) : Kept V Q (startHold g s) := by
  unfold startHold
  repeat' first
      | apply markDue_kept | apply Kept.ite
      | exact Kept.mk_upd ‹_›

theorem icTaken_kept {p : Nat} {s : State} (hK : Kept V Q s) : Kept V Q (icTaken p s) := by
  unfold icTaken
  repeat' ((apply Kept.mk_upd; first | assumption | apply setPend_kept | apply modProc_kept | apply startHold_kept | split))

theorem holdEnd_kept {g : Nat} {s : State} (hK : Kept V Q s) : Kept V Q (holdEnd g s) := by
  unfold holdEnd
  repeat' first
      | apply Kept.ite | exact Kept.mk_upd ‹_›

theorem icMsg_kept {src : BitVec 18} {s : State} (hK : Kept V Q s) : Kept V Q (icMsg src s) := by
  unfold icMsg
  repeat' first
      | apply post_kept | apply Kept.ite
      | exact Kept.mk_upd ‹_›

theorem icEoi_kept {p : Nat} {level : BitVec 4} {s : State} (hK : Kept V Q s) : Kept V Q (icEoi p level s) := by
  unfold icEoi
  repeat' first
      | apply placeAll_kept | apply resample_kept | apply modProc_kept
      | apply Kept.ite | exact Kept.mk_upd ‹_›

theorem icWrite_kept {o : Nat} {m : W64} {v : W64} {act : W64} {s : State} (hK : Kept V Q s) :
    Kept V Q (icWrite o m v act s) := by
  unfold icWrite
  repeat' first
      | with_reducible apply icMsg_kept | with_reducible apply markDue_kept | with_reducible apply modProc_kept
      | with_reducible apply icEoi_kept | with_reducible apply Kept.ite | split
      | exact Kept.mk_upd ‹_›

/-! ## Streams -/

theorem windowExpire_kept {i : BitVec 2} {s : State} (hK : Kept V Q s) : Kept V Q (windowExpire i s) := by
  unfold windowExpire
  repeat' first
      | intro _ | apply respond_kept | apply modStrm_kept
      | exact ‹StrmOk _› | exact Kept.mk_upd ‹_›

theorem strEnable_kept {i : Nat} {b : Bool} {s : State} (hK : Kept V Q s) : Kept V Q (strEnable i b s) := by
  unfold strEnable
  repeat' first
      | assumption | intro _ | apply grantServe_kept
      | apply modStrm_kept | exact ‹StrmOk _›

theorem endPops_kept {i : Nat} {s : State} (hK : Kept V Q s) : Kept V Q (endPops i s) := by
  unfold endPops
  repeat' first
      | with_reducible assumption | with_reducible intro _ | with_reducible apply recognise_kept
      | with_reducible apply finishWait_kept | with_reducible apply unlockPop_kept
      | with_reducible apply Kept.foldl | split | dsimp only

theorem strFlush_kept {i : BitVec 2} {s : State} (hK : Kept V Q s) : Kept V Q (strFlush i s) := by
  unfold strFlush
  extract_lets x n s1 s2
  have h1 : Kept V Q s1 := modStrm_kept hK fun y hy => by
    unfold StrmOk at *
    dsimp only
    rw [List.length_take]
    omega
  have h2 : Kept V Q s2 := endPops_kept (grant_kept h1)
  split
  · exact Kept.ite (windowExpire_kept h2) h2
  · exact h2

theorem streamWordIn_kept {i : BitVec 2} {w : W64} {em : Bool} {s : State} (hK : Kept V Q s) :
    Kept V Q (streamWordIn i w em s) := by
  unfold streamWordIn
  refine Kept.ite hK (Kept.ite (acceptWord_kept hK) ?_)
  split
  · next hl =>
    refine dropWord_kept (modStrm_kept hK fun _ hx => hx) ?_
    simp only [Bool.and_eq_true, Bool.not_eq_true'] at hl
    rw [← hl.2]
    unfold grants modStrm strm
    rw [tget_tmod, if_pos rfl]
    rfl
  · exact modStrm_kept hK fun _ hx => hx

theorem traceFreeze_kept {s : State} (hK : Kept V Q s) : Kept V Q (traceFreeze s) := by
  unfold traceFreeze
  repeat' first
      | assumption | intro _ | apply modStrm_kept
      | apply Kept.ite | exact ‹StrmOk _›

theorem strRegWrite_kept {i : BitVec 2} {k : Nat} {m : W64} {v : W64} {act : W64} {s : State} (hK : Kept V Q s) :
    Kept V Q (strRegWrite i k m v act s) := by
  unfold strRegWrite
  repeat' first
      | with_reducible assumption | with_reducible intro _ | with_reducible apply strEnable_kept
      | with_reducible apply strFlush_kept | with_reducible apply modStrm_kept
      | with_reducible apply grantServe_kept | split | exact ‹StrmOk _›

/-! ## Registers -/

theorem clearEvidence_kept {s : State} (hK : Kept V Q s) : Kept V Q (clearEvidence s) := by
  unfold clearEvidence
  repeat' first
      | split | exact Kept.mk_upd ‹_›

theorem resetWrite_kept {act : W64} {s : State} (hK : Kept V Q s) : Kept V Q (resetWrite act s) := by
  unfold resetWrite
  repeat' first
      | assumption | apply coldReset_kept | apply warmReset_kept | apply coldWins_kept
      | split | dsimp only

theorem gctlWrite_kept {o : Nat} {v : W64} {act : W64} {s : State} (hK : Kept V Q s) :
    Kept V Q (gctlWrite o v act s) := by
  unfold gctlWrite
  repeat' first
      | apply clearEvidence_kept | split
      | exact Kept.mk_upd ‹_›

theorem pwrWrite_kept {o : Nat} {v : W64} {s : State} (hK : Kept V Q s) : Kept V Q (pwrWrite o v s) := by
  unfold pwrWrite
  repeat' first
      | with_reducible apply domainCtrl_kept | split
      | exact Kept.mk_upd ‹_›

theorem calWrite_kept {o : Nat} {m : W64} {v : W64} {act : W64} {s : State} (hK : Kept V Q s) :
    Kept V Q (calWrite o m v act s) := by
  unfold calWrite
  repeat' first
      | apply post_kept | split | exact Kept.mk_upd ‹_›
      | dsimp only

theorem srvReadAct_kept {o : Nat} {m : W64} {s : State} (hK : Kept V Q s) : Kept V Q (srvReadAct o m s) := by
  unfold srvReadAct
  repeat' first
      | split | exact Kept.mk_upd ‹_› | dsimp only

theorem srvWrite_kept {o : Nat} {v : W64} {act : W64} {s : State} (hK : Kept V Q s) :
    Kept V Q (srvWrite o v act s) := by
  unfold srvWrite
  repeat' first
      | split | exact Kept.mk_upd ‹_›

theorem qeWrite_kept {o : Nat} {m : W64} {v : W64} {act : W64} {s : State} (hK : Kept V Q s) :
    Kept V Q (qeWrite o m v act s) := by
  unfold qeWrite
  repeat' first
      | apply qctl_kept | split | exact Kept.mk_upd ‹_›

theorem dmaCtrl_kept {e : BitVec 2} {v : W64} {s : State} (hK : Kept V Q s) : Kept V Q (dmaCtrl e v s) := by
  unfold dmaCtrl
  repeat' first
      | assumption | with_reducible apply modEng_kept | with_reducible apply senableSet_kept
      | with_reducible apply senableClear_kept | with_reducible apply Kept.ite

theorem dmaWrite_kept {e : BitVec 2} {o : Nat} {m : W64} {v : W64} {act : W64} {s : State} (hK : Kept V Q s) :
    Kept V Q (dmaWrite e o m v act s) := by
  unfold dmaWrite
  repeat' first
      | assumption | apply dmaCtrl_kept | apply modEng_kept
      | apply sdoor_kept | split

theorem poolReject_kept {s : State} (hK : Kept V Q s) : Kept V Q (poolReject s) := hK.mk_upd

theorem poolCfg_kept {k : Nat} {v : W64} {s : State} (hK : Kept V Q s) : Kept V Q (poolCfg k v s) := by
  unfold poolCfg
  repeat' first
      | assumption | apply modPool_kept | apply poolReject_kept
      | apply serveWaiting_kept | apply rebuildPool_kept
      | apply Kept.ite

theorem hawkWrite_kept {o : Nat} {m : W64} {v : W64} {act : W64} {s : State} (hK : Kept V Q s) :
    Kept V Q (hawkWrite o m v act s) := by
  unfold hawkWrite
  repeat' first
      | apply poolCfg_kept | apply freeBuffer_kept | split
      | exact Kept.mk_upd ‹_›

theorem plbReadAct_kept {o : Nat} {m : W64} {s : State} (hK : Kept V Q s) : Kept V Q (plbReadAct o m s) := by
  unfold plbReadAct
  repeat' first
      | split | exact Kept.mk_upd ‹_› | dsimp only

theorem plbWrite_kept {o : Nat} {v : W64} {s : State} (hK : Kept V Q s) : Kept V Q (plbWrite o v s) := by
  unfold plbWrite
  repeat' first
      | split | exact Kept.mk_upd ‹_›

theorem dieWrite_kept {c : Chan} {j : Ctx} {v : W64} {s : State} (hK : Kept V Q s) : Kept V Q (dieWrite c j v s) := by
  unfold dieWrite
  repeat' first
      | assumption | intro _ | apply modChan_kept
      | apply plbResetDie_kept | apply Kept.ite | exact ‹ChanOk _›

theorem pinctl_kept {c : Chan} {b : Bool} {s : State} (hK : Kept V Q s) : Kept V Q (pinctl c b s) := by
  unfold pinctl
  repeat' first
      | assumption | intro _ | apply atRest_kept
      | apply modChan_kept | exact ‹ChanOk _›

theorem fenceCfgWrite_kept {c : Chan} {v : W64} {act : W64} {s : State} (hK : Kept V Q s) :
    Kept V Q (fenceCfgWrite c v act s) := by
  unfold fenceCfgWrite
  repeat' first
      | assumption | intro _ | apply modChan_kept | exact ‹ChanOk _›

theorem fenceDataRead_kept {c : Chan} {s : State} (hK : Kept V Q s) : Kept V Q (fenceDataRead c s).2 := by
  unfold fenceDataRead
  repeat' first
      | assumption | apply fenceRead_kept | split

theorem fenceDataWrite_kept {c : Chan} {v : BitVec 16} {s : State} (hK : Kept V Q s) :
    Kept V Q (fenceDataWrite c v s) := by
  unfold fenceDataWrite
  repeat' first
      | assumption | apply fenceWrite_kept | split

theorem chReadAct_kept {c : Chan} {o : Nat} {m : W64} {s : State} (hK : Kept V Q s) :
    Kept V Q (chReadAct c o m s) := by
  unfold chReadAct
  repeat' first
      | assumption | apply modReg_kept | split

theorem chWrite_kept {c : Chan} {o : Nat} {m : W64} {v : W64} {act : W64} {s : State} (hK : Kept V Q s) :
    Kept V Q (chWrite c o m v act s) := by
  unfold chWrite
  repeat' first
      | assumption | intro _ | apply modChan_kept
      | apply modReg_kept | apply patchGo_kept | apply pinctl_kept
      | apply fenceCfgWrite_kept | apply dieWrite_kept
      | apply Kept.ite | exact ‹ChanOk _›

/-! ## Port -/

theorem regReadAct_kept {o : Nat} {m : W64} {s : State} (hK : Kept V Q s) : Kept V Q (regReadAct o m s) := by
  unfold regReadAct
  refine Kept.ite (Kept.ite hK.mk_upd hK) (Kept.ite (Kept.ite hK.mk_upd hK) (Kept.ite (srvReadAct_kept hK)
    (Kept.ite (plbReadAct_kept hK) (Kept.ite (intReadAct_kept hK) (Kept.ite (lathReadAct_kept hK) (Kept.ite ?_ ?_))))))
  · exact Kept.ite (chReadAct_kept hK) hK
  · exact Kept.ite (Kept.ite (modStrm_kept hK fun _ h => h) hK) hK

theorem actRead_kept {o : Nat} {m : W64} {s : State} (hK : Kept V Q s) : OptKept V Q (actRead o m s) := by
  unfold actRead
  refine OptKept.ite ?_ (OptKept.ite ?_ OptKept.none)
  · refine OptKept.ite OptKept.none (OptKept.ite (OptKept.some (Kept.ite2 (fenceDataRead_kept hK) hK.mkp)) ?_)
    split
    · exact OptKept.some (Kept.mkp (readMem_kept hK))
    · exact OptKept.none
  · extract_lets lo n
    exact OptKept.some (splitWord_kept hK)

theorem regWrite_kept {o : Nat} {m d : W64} {s : State} (hK : Kept V Q s) : Kept V Q (regWrite o m d s) := by
  unfold regWrite
  generalize windowOf o = w
  generalize merge (regRead o s) d m = v
  generalize d &&& m = act
  refine Kept.ite (Kept.ite (resetWrite_kept hK) (gctlWrite_kept hK)) (Kept.ite (pwrWrite_kept hK)
    (Kept.ite (calWrite_kept hK) (Kept.ite (srvWrite_kept hK) (Kept.ite hK (Kept.ite (qeWrite_kept hK)
    (Kept.ite (dmaWrite_kept hK) (Kept.ite (Kept.ite (renderOn_kept (hawkWrite_kept hK)) hK) (Kept.ite (Kept.ite (rndWrite_kept hK) hK)
    (Kept.ite (plbWrite_kept hK) (Kept.ite (intWrite_kept hK) (Kept.ite (lathWrite_kept hK)
    (Kept.ite (writeSet_kept hK) (Kept.ite hK (Kept.ite (Kept.ite (doorbell_kept hK) hK)
    (Kept.ite (Kept.ite (doorbell_kept hK) hK) (Kept.ite (Kept.ite hK ?_) (Kept.ite (icWrite_kept hK)
    (Kept.ite (Kept.ite (strRegWrite_kept hK) hK) (Kept.ite (prmRegWrite_kept hK)
    (Kept.ite (splitWrite_kept hK) hK))))))))))))))))))))
  refine Kept.ite (Kept.ite (fenceDataWrite_kept hK) hK) ?_
  split
  · exact writeMem_kept hK
  · exact chWrite_kept hK

theorem answer_kept {p : PResp} {s : State} (hK : Kept V Q s) : Kept V Q (answer p s) := hK.mk_upd

theorem hawkAlloc_kept {k : Nat} {s : State} (hK : Kept V Q s) : Kept V Q (hawkAlloc k s) := by
  unfold hawkAlloc
  split
  · next he => exact answer_kept (alloc_kept hK _ he)
  · exact Kept.ite (joinWaiting_kept hK.mk_upd) (answer_kept hK)

theorem burstRead_kept {o : Nat} {s : State} (hK : Kept V Q s) : Kept V Q (burstRead o s).2 := by
  unfold burstRead
  repeat' first
      | assumption | intro _ | apply splitWord_kept
      | apply windowRead_kept | apply Kept.foldl2 | split
      | refine Kept.snd (by assumption) ?_

theorem dataWindow_kept {i : BitVec 2} {k : Nat} {f : Acc} {s : State} (hK : Kept V Q s) :
    Kept V Q (dataWindow i k f s) := by
  unfold dataWindow
  repeat' first
      | apply answer_kept | apply windowPop_kept | split
      | refine Kept.opt2 (by assumption) ?_ | exact Kept.mk_upd ‹_›

theorem maskSync_kept {f : Acc} {s : State} (hK : Kept V Q s) : Kept V Q (maskSync f s) := by
  unfold maskSync
  repeat' ((with_reducible apply Kept.mk_upd; first | assumption | with_reducible apply answer_kept | with_reducible apply syncServe_kept | split))

theorem portRead_kept {o : Nat} {f : Acc} {s : State} (hK : Kept V Q s) : Kept V Q (portRead o f s) := by
  unfold portRead
  repeat' first
      | with_reducible assumption | with_reducible apply burstRead_kept | with_reducible apply answer_kept
      | with_reducible apply maskSync_kept | with_reducible apply dataWindow_kept | with_reducible apply hawkAlloc_kept
      | with_reducible apply windowRead_kept | with_reducible apply actRead_kept
      | with_reducible apply regReadAct_kept | with_reducible apply Kept.ite | split
      | refine Kept.snd (by assumption) ?_ | refine Kept.opt2 (by assumption) ?_

theorem portAct_kept {r : PReq} {s : State} (hK : Kept V Q s) : Kept V Q (portAct r s) := by
  unfold portAct
  repeat' ((with_reducible apply Kept.mk_upd; first | assumption | with_reducible apply answer_kept | with_reducible apply resetWrite_kept | with_reducible apply regWrite_kept | with_reducible apply portRead_kept | split))

theorem portGoFuel_kept {fuel : Nat} {a1 : State} (hK : Kept V Q a1) : Kept V Q (portGoFuel fuel a1) := by
  induction fuel generalizing a1 with
  | zero =>
    unfold portGoFuel
    repeat' first
        | apply portAct_kept | split | exact Kept.mk_upd ‹_›
  | succ n ih =>
    unfold portGoFuel
    repeat' first
        | apply ih | apply portAct_kept | split
        | exact Kept.mk_upd ‹_›

theorem portGo_kept {s : State} (hK : Kept V Q s) : Kept V Q (portGo s) := portGoFuel_kept hK

theorem execPoolWithholdEnd_kept {k : Nat} {s : State} (hK : Kept V Q s) : OutKept V Q (execPoolWithholdEnd k s) :=
  Kept.ite (portGo_kept (renderOn_kept (withholdEnd_kept hK))) hK

theorem portSubmit_kept {r : PReq} {s : State} (hK : Kept V Q s) : Kept V Q (portSubmit r s) := by
  unfold portSubmit
  repeat' first
      | apply portGo_kept | split | exact Kept.mk_upd ‹_›
      | dsimp only

theorem putReg_kept {off : Nat} {a : Acc} {v : W64} {s : State} (hK : Kept V Q s) : OutKept V Q (putReg off a v s) :=
  portSubmit_kept hK

theorem getReg_kept {off : Nat} {a : Acc} {s : State} (hK : Kept V Q s) : OutKept V Q (getReg off a s) :=
  portSubmit_kept hK

theorem execSqTailDoorbell_kept {n : QNum} {a : Acc} {v : W64} {s : State} (hK : Kept V Q s) :
    OutKept V Q (execSqTailDoorbell n a v s) :=
  putReg_kept hK

theorem execCqHeadDoorbell_kept {n : QNum} {a : Acc} {v : W64} {s : State} (hK : Kept V Q s) :
    OutKept V Q (execCqHeadDoorbell n a v s) :=
  putReg_kept hK

theorem execRegisterWrite_kept {off : Nat} {a : Acc} {v : W64} {s : State} (hK : Kept V Q s) :
    OutKept V Q (execRegisterWrite off a v s) :=
  putReg_kept hK

theorem execCalRecordWrite_kept {w : Nat} {a : Acc} {v : W64} {s : State} (hK : Kept V Q s) :
    OutKept V Q (execCalRecordWrite w a v s) :=
  putReg_kept hK

theorem execIcMsgWrite_kept {a : Acc} {v : W64} {s : State} (hK : Kept V Q s) : OutKept V Q (execIcMsgWrite a v s) :=
  putReg_kept hK

theorem execIcEoiWrite_kept {p : BitVec 4} {a : Acc} {v : W64} {s : State} (hK : Kept V Q s) :
    OutKept V Q (execIcEoiWrite p a v s) :=
  putReg_kept hK

theorem execHawkFreeWrite_kept {k : Nat} {a : Acc} {v : W64} {s : State} (hK : Kept V Q s) :
    OutKept V Q (execHawkFreeWrite k a v s) :=
  putReg_kept hK

theorem execHawkPoolCfgWrite_kept {k : Nat} {a : Acc} {v : W64} {s : State} (hK : Kept V Q s) :
    OutKept V Q (execHawkPoolCfgWrite k a v s) :=
  putReg_kept hK

theorem execFlush_kept {i : BitVec 2} {a : Acc} {v : W64} {s : State} (hK : Kept V Q s) :
    OutKept V Q (execFlush i a v s) :=
  putReg_kept hK

theorem execStreamEnableWrite_kept {i : BitVec 2} {a : Acc} {v : W64} {s : State} (hK : Kept V Q s) :
    OutKept V Q (execStreamEnableWrite i a v s) :=
  putReg_kept hK

theorem execDmaSdoorWrite_kept {e : BitVec 2} {a : Acc} {v : W64} {s : State} (hK : Kept V Q s) :
    OutKept V Q (execDmaSdoorWrite e a v s) :=
  putReg_kept hK

theorem execSenableWrite_kept {e : BitVec 2} {a : Acc} {v : W64} {s : State} (hK : Kept V Q s) :
    OutKept V Q (execSenableWrite e a v s) :=
  putReg_kept hK

theorem execQeQctlEnable_kept {cq : Bool} {q : QNum} {a : Acc} {s : State} (hK : Kept V Q s) :
    OutKept V Q (execQeQctlEnable cq q a s) :=
  putReg_kept hK

theorem execQeQctlDisable_kept {cq : Bool} {q : QNum} {a : Acc} {s : State} (hK : Kept V Q s) :
    OutKept V Q (execQeQctlDisable cq q a s) :=
  putReg_kept hK

theorem execQeQctlReserved_kept {cq : Bool} {q : QNum} {a : Acc} {s : State} (hK : Kept V Q s) :
    OutKept V Q (execQeQctlReserved cq q a s) :=
  putReg_kept hK

theorem execRegisterColdReset_kept {warmToo : Bool} {a : Acc} {s : State} (hK : Kept V Q s) :
    OutKept V Q (execRegisterColdReset warmToo a s) :=
  putReg_kept hK

theorem execRegisterWarmReset_kept {a : Acc} {s : State} (hK : Kept V Q s) :
    OutKept V Q (execRegisterWarmReset a s) :=
  putReg_kept hK

theorem execHaltEvidenceClear_kept {a : Acc} {s : State} (hK : Kept V Q s) :
    OutKept V Q (execHaltEvidenceClear a s) :=
  putReg_kept hK

theorem execChPatchGo_kept {c : Chan} {a : Acc} {v : W64} {s : State} (hK : Kept V Q s) :
    OutKept V Q (execChPatchGo c a v s) :=
  putReg_kept hK

theorem execFenceFill_kept {c : Chan} {a : Acc} {v : W64} {s : State} (hK : Kept V Q s) :
    OutKept V Q (execFenceFill c a v s) :=
  putReg_kept hK

theorem execChFenceDataWrite_kept {c : Chan} {a : Acc} {v : W64} {s : State} (hK : Kept V Q s) :
    OutKept V Q (execChFenceDataWrite c a v s) :=
  putReg_kept hK

theorem execChDieWrite_kept {c : Chan} {j : Ctx} {a : Acc} {v : W64} {s : State} (hK : Kept V Q s) :
    OutKept V Q (execChDieWrite c j a v s) :=
  putReg_kept hK

theorem execChPinctlWrite_kept {c : Chan} {a : Acc} {v : W64} {s : State} (hK : Kept V Q s) :
    OutKept V Q (execChPinctlWrite c a v s) :=
  putReg_kept hK

theorem execPwrDomainOn_kept {a : Acc} {v : W64} {s : State} (hK : Kept V Q s) :
    OutKept V Q (execPwrDomainOn a v s) :=
  putReg_kept hK

theorem execPwrDomainSleep_kept {a : Acc} {v : W64} {s : State} (hK : Kept V Q s) :
    OutKept V Q (execPwrDomainSleep a v s) :=
  putReg_kept hK

theorem execPwrRetentionRequest_kept {a : Acc} {v : W64} {s : State} (hK : Kept V Q s) :
    OutKept V Q (execPwrRetentionRequest a v s) :=
  putReg_kept hK

theorem execIntBankRetireWrite_kept {a : Acc} {v : W64} {s : State} (hK : Kept V Q s) :
    OutKept V Q (execIntBankRetireWrite a v s) :=
  putReg_kept hK

theorem execSplitWindowWrite_kept {o : BitVec 21} {a : Acc} {v : W64} {s : State} (hK : Kept V Q s) :
    OutKept V Q (execSplitWindowWrite o a v s) :=
  putReg_kept hK

theorem execPrmNop_kept {a : Acc} {s : State} (hK : Kept V Q s) : OutKept V Q (execPrmNop a s) := putReg_kept hK

theorem execPrmRead_kept {a : Acc} {s : State} (hK : Kept V Q s) : OutKept V Q (execPrmRead a s) := putReg_kept hK

theorem execPrmProgram_kept {a : Acc} {s : State} (hK : Kept V Q s) : OutKept V Q (execPrmProgram a s) :=
  putReg_kept hK

theorem execPrmErase_kept {a : Acc} {s : State} (hK : Kept V Q s) : OutKept V Q (execPrmErase a s) := putReg_kept hK

theorem execPrmSuspend_kept {a : Acc} {s : State} (hK : Kept V Q s) : OutKept V Q (execPrmSuspend a s) :=
  putReg_kept hK

theorem execPrmResume_kept {a : Acc} {s : State} (hK : Kept V Q s) : OutKept V Q (execPrmResume a s) :=
  putReg_kept hK

theorem execPrmReadFactory_kept {a : Acc} {s : State} (hK : Kept V Q s) : OutKept V Q (execPrmReadFactory a s) :=
  putReg_kept hK

theorem execPrmRotate_kept {a : Acc} {s : State} (hK : Kept V Q s) : OutKept V Q (execPrmRotate a s) :=
  putReg_kept hK

theorem execPrmEraseVerify_kept {a : Acc} {s : State} (hK : Kept V Q s) : OutKept V Q (execPrmEraseVerify a s) :=
  putReg_kept hK

theorem execPrmReservedCmd_kept {code : BitVec 4} {a : Acc} {s : State} (hK : Kept V Q s) :
    OutKept V Q (execPrmReservedCmd code a s) :=
  putReg_kept hK

theorem execPrmWindowEnable_kept {a : Acc} {v : W64} {s : State} (hK : Kept V Q s) :
    OutKept V Q (execPrmWindowEnable a v s) :=
  putReg_kept hK

theorem execLathProbeGo_kept {a : Acc} {v : W64} {s : State} (hK : Kept V Q s) :
    OutKept V Q (execLathProbeGo a v s) :=
  putReg_kept hK

theorem execLathSelfWrite_kept {a : Acc} {v : W64} {s : State} (hK : Kept V Q s) :
    OutKept V Q (execLathSelfWrite a v s) :=
  putReg_kept hK

theorem execLathNodeWrite_kept {i : BitVec 12} {a : Acc} {v : W64} {s : State} (hK : Kept V Q s) :
    OutKept V Q (execLathNodeWrite i a v s) :=
  putReg_kept hK

theorem execLathPortEnable_kept {x : BitVec 2} {a : Acc} {v : W64} {s : State} (hK : Kept V Q s) :
    OutKept V Q (execLathPortEnable x a v s) :=
  putReg_kept hK

theorem execIcMaskSyncRead_kept {a : Acc} {s : State} (hK : Kept V Q s) : OutKept V Q (execIcMaskSyncRead a s) :=
  getReg_kept hK

theorem execHawkAllocRead_kept {k : Nat} {a : Acc} {s : State} (hK : Kept V Q s) :
    OutKept V Q (execHawkAllocRead k a s) :=
  getReg_kept hK

theorem execStreamDataWindowRead_kept {i : BitVec 2} {o : BitVec 16} {a : Acc} {s : State} (hK : Kept V Q s) :
    OutKept V Q (execStreamDataWindowRead i o a s) :=
  getReg_kept hK

theorem execChFenceDataRead_kept {c : Chan} {a : Acc} {s : State} (hK : Kept V Q s) :
    OutKept V Q (execChFenceDataRead c a s) :=
  getReg_kept hK

theorem execSplitWindowRead_kept {o : BitVec 21} {a : Acc} {s : State} (hK : Kept V Q s) :
    OutKept V Q (execSplitWindowRead o a s) :=
  getReg_kept hK

theorem execPrimerWindowRead_kept {w : BitVec 20} {a : Acc} {s : State} (hK : Kept V Q s) :
    OutKept V Q (execPrimerWindowRead w a s) :=
  getReg_kept hK

theorem execSrvFaultInfoRead_kept {a : Acc} {s : State} (hK : Kept V Q s) : OutKept V Q (execSrvFaultInfoRead a s) :=
  getReg_kept hK

theorem execPlbFaultInfoRead_kept {a : Acc} {s : State} (hK : Kept V Q s) : OutKept V Q (execPlbFaultInfoRead a s) :=
  getReg_kept hK

theorem execLathEventRead_kept {a : Acc} {s : State} (hK : Kept V Q s) : OutKept V Q (execLathEventRead a s) :=
  getReg_kept hK

theorem execIntErrlogRead_kept {a : Acc} {s : State} (hK : Kept V Q s) : OutKept V Q (execIntErrlogRead a s) :=
  getReg_kept hK

theorem execChLdpcStatRead_kept {c : Chan} {a : Acc} {s : State} (hK : Kept V Q s) :
    OutKept V Q (execChLdpcStatRead c a s) :=
  getReg_kept hK

theorem execStrStatusRead_kept {i : BitVec 2} {a : Acc} {s : State} (hK : Kept V Q s) :
    OutKept V Q (execStrStatusRead i a s) :=
  getReg_kept hK

theorem execGctlSoftStateRead_kept {a : Acc} {s : State} (hK : Kept V Q s) :
    OutKept V Q (execGctlSoftStateRead a s) :=
  getReg_kept hK

theorem execPwrTokenStateRead_kept {a : Acc} {s : State} (hK : Kept V Q s) :
    OutKept V Q (execPwrTokenStateRead a s) :=
  getReg_kept hK

theorem execIntBankRetireRead_kept {a : Acc} {s : State} (hK : Kept V Q s) :
    OutKept V Q (execIntBankRetireRead a s) :=
  getReg_kept hK

theorem execLathPortStateRead_kept {x : BitVec 2} {a : Acc} {s : State} (hK : Kept V Q s) :
    OutKept V Q (execLathPortStateRead x a s) :=
  getReg_kept hK

end Sys2Proof.Machine
end

