-- ==== Sys2Proof/Laws/KeptCommands.lean ====
section
/-! SUPPORT. What KeptBase says of a step, for the arithmetic, branch and decimal instructions and the events from outside: one lemma per function. -/

namespace Sys2Proof.Machine

open Sys2Proof

variable {V : Variant} {Q : List Instr}

set_option maxRecDepth 8000

/-! ## Alu -/

theorem semExtr_kept {c : Chan} {t : Thr} {w : W64} {s : State} (hK : Kept V Q s) : EffKept V Q (semExtr c t w s) :=
  formU_kept hK

theorem semInsr_kept {c : Chan} {t : Thr} {w : W64} {s : State} (hK : Kept V Q s) :
    EffKept V Q (semInsr c t w s) := by
  unfold semInsr
  repeat' first
      | assumption | apply operand_kept | apply EffKept.write

theorem semLimm_kept {c : Chan} {t : Thr} {w : W64} {s : State} (hK : Kept V Q s) :
    EffKept V Q (semLimm c t w s) := by
  unfold semLimm
  repeat' first
      | assumption | apply operand_kept | apply EffKept.write | split

theorem execAdd_kept {c : Chan} {t : Thr} {s : State} (hK : Kept V Q s) : OutKept V Q (execAdd c t s) := by
  unfold execAdd
  repeat' first
      | assumption | apply issue_kept | apply formR_kept
      | apply OutKept.next

theorem execAddi_kept {c : Chan} {t : Thr} {s : State} (hK : Kept V Q s) : OutKept V Q (execAddi c t s) := by
  unfold execAddi
  repeat' first
      | assumption | apply issue_kept | apply formI_kept
      | apply OutKept.next

theorem execSub_kept {c : Chan} {t : Thr} {s : State} (hK : Kept V Q s) : OutKept V Q (execSub c t s) := by
  unfold execSub
  repeat' first
      | assumption | apply issue_kept | apply formR_kept
      | apply OutKept.next

theorem execSubi_kept {c : Chan} {t : Thr} {s : State} (hK : Kept V Q s) : OutKept V Q (execSubi c t s) := by
  unfold execSubi
  repeat' first
      | assumption | apply issue_kept | apply formI_kept
      | apply OutKept.next

theorem execAnd_kept {c : Chan} {t : Thr} {s : State} (hK : Kept V Q s) : OutKept V Q (execAnd c t s) := by
  unfold execAnd
  repeat' first
      | assumption | apply issue_kept | apply formR_kept
      | apply OutKept.next

theorem execAndi_kept {c : Chan} {t : Thr} {s : State} (hK : Kept V Q s) : OutKept V Q (execAndi c t s) := by
  unfold execAndi
  repeat' first
      | assumption | apply issue_kept | apply formI_kept
      | apply OutKept.next

theorem execOr_kept {c : Chan} {t : Thr} {s : State} (hK : Kept V Q s) : OutKept V Q (execOr c t s) := by
  unfold execOr
  repeat' first
      | assumption | apply issue_kept | apply formR_kept
      | apply OutKept.next

theorem execOri_kept {c : Chan} {t : Thr} {s : State} (hK : Kept V Q s) : OutKept V Q (execOri c t s) := by
  unfold execOri
  repeat' first
      | assumption | apply issue_kept | apply formI_kept
      | apply OutKept.next

theorem execXor_kept {c : Chan} {t : Thr} {s : State} (hK : Kept V Q s) : OutKept V Q (execXor c t s) := by
  unfold execXor
  repeat' first
      | assumption | apply issue_kept | apply formR_kept
      | apply OutKept.next

theorem execXori_kept {c : Chan} {t : Thr} {s : State} (hK : Kept V Q s) : OutKept V Q (execXori c t s) := by
  unfold execXori
  repeat' first
      | assumption | apply issue_kept | apply formI_kept
      | apply OutKept.next

theorem execShl_kept {c : Chan} {t : Thr} {s : State} (hK : Kept V Q s) : OutKept V Q (execShl c t s) := by
  unfold execShl
  repeat' first
      | assumption | apply issue_kept | apply formR_kept
      | apply OutKept.next

theorem execShli_kept {c : Chan} {t : Thr} {s : State} (hK : Kept V Q s) : OutKept V Q (execShli c t s) := by
  unfold execShli
  repeat' first
      | assumption | apply issue_kept | apply formI_kept
      | apply OutKept.next

theorem execShr_kept {c : Chan} {t : Thr} {s : State} (hK : Kept V Q s) : OutKept V Q (execShr c t s) := by
  unfold execShr
  repeat' first
      | assumption | apply issue_kept | apply formR_kept
      | apply OutKept.next

theorem execShri_kept {c : Chan} {t : Thr} {s : State} (hK : Kept V Q s) : OutKept V Q (execShri c t s) := by
  unfold execShri
  repeat' first
      | assumption | apply issue_kept | apply formI_kept
      | apply OutKept.next

theorem execSar_kept {c : Chan} {t : Thr} {s : State} (hK : Kept V Q s) : OutKept V Q (execSar c t s) := by
  unfold execSar
  repeat' first
      | assumption | apply issue_kept | apply formR_kept
      | apply OutKept.next

theorem execSari_kept {c : Chan} {t : Thr} {s : State} (hK : Kept V Q s) : OutKept V Q (execSari c t s) := by
  unfold execSari
  repeat' first
      | assumption | apply issue_kept | apply formI_kept
      | apply OutKept.next

theorem execRor_kept {c : Chan} {t : Thr} {s : State} (hK : Kept V Q s) : OutKept V Q (execRor c t s) := by
  unfold execRor
  repeat' first
      | assumption | apply issue_kept | apply formR_kept
      | apply OutKept.next

theorem execRori_kept {c : Chan} {t : Thr} {s : State} (hK : Kept V Q s) : OutKept V Q (execRori c t s) := by
  unfold execRori
  repeat' first
      | assumption | apply issue_kept | apply formI_kept
      | apply OutKept.next

theorem execMinu_kept {c : Chan} {t : Thr} {s : State} (hK : Kept V Q s) : OutKept V Q (execMinu c t s) := by
  unfold execMinu
  repeat' first
      | assumption | apply issue_kept | apply formR_kept
      | apply OutKept.next

theorem execMaxu_kept {c : Chan} {t : Thr} {s : State} (hK : Kept V Q s) : OutKept V Q (execMaxu c t s) := by
  unfold execMaxu
  repeat' first
      | assumption | apply issue_kept | apply formR_kept
      | apply OutKept.next

theorem execPopc_kept {c : Chan} {t : Thr} {s : State} (hK : Kept V Q s) : OutKept V Q (execPopc c t s) := by
  unfold execPopc
  repeat' first
      | assumption | apply issue_kept | apply formU_kept
      | apply OutKept.next

theorem execClz_kept {c : Chan} {t : Thr} {s : State} (hK : Kept V Q s) : OutKept V Q (execClz c t s) := by
  unfold execClz
  repeat' first
      | assumption | apply issue_kept | apply formU_kept
      | apply OutKept.next

theorem execCtz_kept {c : Chan} {t : Thr} {s : State} (hK : Kept V Q s) : OutKept V Q (execCtz c t s) := by
  unfold execCtz
  repeat' first
      | assumption | apply issue_kept | apply formU_kept
      | apply OutKept.next

theorem execExtr_kept {c : Chan} {t : Thr} {s : State} (hK : Kept V Q s) : OutKept V Q (execExtr c t s) := by
  unfold execExtr
  repeat' first
      | assumption | apply issue_kept | apply semExtr_kept
      | apply OutKept.next

theorem execInsr_kept {c : Chan} {t : Thr} {s : State} (hK : Kept V Q s) : OutKept V Q (execInsr c t s) := by
  unfold execInsr
  repeat' first
      | assumption | apply issue_kept | apply semInsr_kept
      | apply OutKept.next

theorem execMul_kept {c : Chan} {t : Thr} {s : State} (hK : Kept V Q s) : OutKept V Q (execMul c t s) := by
  unfold execMul
  repeat' first
      | assumption | apply issue_kept | apply formR_kept
      | apply OutKept.next

theorem execMulhu_kept {c : Chan} {t : Thr} {s : State} (hK : Kept V Q s) : OutKept V Q (execMulhu c t s) := by
  unfold execMulhu
  repeat' first
      | assumption | apply issue_kept | apply formR_kept
      | apply OutKept.next

theorem execMuli_kept {c : Chan} {t : Thr} {s : State} (hK : Kept V Q s) : OutKept V Q (execMuli c t s) := by
  unfold execMuli
  repeat' first
      | assumption | apply issue_kept | apply formI_kept
      | apply OutKept.next

theorem execMov_kept {c : Chan} {t : Thr} {s : State} (hK : Kept V Q s) : OutKept V Q (execMov c t s) := by
  unfold execMov
  repeat' first
      | assumption | apply issue_kept | apply formU_kept
      | apply OutKept.next

theorem execLimm_kept {c : Chan} {t : Thr} {s : State} (hK : Kept V Q s) : OutKept V Q (execLimm c t s) := by
  unfold execLimm
  repeat' first
      | assumption | apply issue_kept | apply semLimm_kept
      | apply OutKept.next

theorem execSeq_kept {c : Chan} {t : Thr} {s : State} (hK : Kept V Q s) : OutKept V Q (execSeq c t s) := by
  unfold execSeq
  repeat' first
      | assumption | apply issue_kept | apply formR_kept
      | apply OutKept.next

theorem execSeqi_kept {c : Chan} {t : Thr} {s : State} (hK : Kept V Q s) : OutKept V Q (execSeqi c t s) := by
  unfold execSeqi
  repeat' first
      | assumption | apply issue_kept | apply formI_kept
      | apply OutKept.next

theorem execSne_kept {c : Chan} {t : Thr} {s : State} (hK : Kept V Q s) : OutKept V Q (execSne c t s) := by
  unfold execSne
  repeat' first
      | assumption | apply issue_kept | apply formR_kept
      | apply OutKept.next

theorem execSnei_kept {c : Chan} {t : Thr} {s : State} (hK : Kept V Q s) : OutKept V Q (execSnei c t s) := by
  unfold execSnei
  repeat' first
      | assumption | apply issue_kept | apply formI_kept
      | apply OutKept.next

theorem execSlt_kept {c : Chan} {t : Thr} {s : State} (hK : Kept V Q s) : OutKept V Q (execSlt c t s) := by
  unfold execSlt
  repeat' first
      | assumption | apply issue_kept | apply formR_kept
      | apply OutKept.next

theorem execSlti_kept {c : Chan} {t : Thr} {s : State} (hK : Kept V Q s) : OutKept V Q (execSlti c t s) := by
  unfold execSlti
  repeat' first
      | assumption | apply issue_kept | apply formI_kept
      | apply OutKept.next

theorem execSltu_kept {c : Chan} {t : Thr} {s : State} (hK : Kept V Q s) : OutKept V Q (execSltu c t s) := by
  unfold execSltu
  repeat' first
      | assumption | apply issue_kept | apply formR_kept
      | apply OutKept.next

theorem execSltui_kept {c : Chan} {t : Thr} {s : State} (hK : Kept V Q s) : OutKept V Q (execSltui c t s) := by
  unfold execSltui
  repeat' first
      | assumption | apply issue_kept | apply formI_kept
      | apply OutKept.next

theorem execSle_kept {c : Chan} {t : Thr} {s : State} (hK : Kept V Q s) : OutKept V Q (execSle c t s) := by
  unfold execSle
  repeat' first
      | assumption | apply issue_kept | apply formR_kept
      | apply OutKept.next

theorem execSlei_kept {c : Chan} {t : Thr} {s : State} (hK : Kept V Q s) : OutKept V Q (execSlei c t s) := by
  unfold execSlei
  repeat' first
      | assumption | apply issue_kept | apply formI_kept
      | apply OutKept.next

theorem execSleu_kept {c : Chan} {t : Thr} {s : State} (hK : Kept V Q s) : OutKept V Q (execSleu c t s) := by
  unfold execSleu
  repeat' first
      | assumption | apply issue_kept | apply formR_kept
      | apply OutKept.next

theorem execSleui_kept {c : Chan} {t : Thr} {s : State} (hK : Kept V Q s) : OutKept V Q (execSleui c t s) := by
  unfold execSleui
  repeat' first
      | assumption | apply issue_kept | apply formI_kept
      | apply OutKept.next

/-! ## Branch -/

theorem semBr_kept {c : Chan} {t : Thr} {w : W64} {s : State} (hK : Kept V Q s) : EffKept V Q (semBr c t w s) := by
  unfold semBr
  repeat' first
      | assumption | with_reducible apply operand_kept | with_reducible apply EffKept.branch | split

theorem semCb_kept {c : Chan} {t : Thr} {w : W64} {s : State} (hK : Kept V Q s) : EffKept V Q (semCb c t w s) := by
  unfold semCb
  repeat' first
      | assumption | apply operand_kept | apply EffKept.branch

theorem link_kept {c : Chan} {t : Thr} {s : State} (hK : Kept V Q s) : Kept V Q (link c t s) := modThr_kept hK

theorem semCall_kept {c : Chan} {t : Thr} {w : W64} {s : State} (hK : Kept V Q s) :
    EffKept V Q (semCall c t w s) := by
  unfold semCall
  repeat' first
      | assumption | apply link_kept | apply EffKept.branch

theorem semCallr_kept {c : Chan} {t : Thr} {w : W64} {s : State} (hK : Kept V Q s) :
    EffKept V Q (semCallr c t w s) := by
  unfold semCallr
  repeat' first
      | assumption | apply operand_kept | apply link_kept
      | apply EffKept.branch

theorem semRet_kept {c : Chan} {t : Thr} {w : W64} {s : State} (hK : Kept V Q s) : EffKept V Q (semRet c t w s) := by
  unfold semRet
  repeat' first
      | assumption | apply operand_kept | apply EffKept.branch

theorem semEvret_kept {c : Chan} {t : Thr} {a2 : W64} {s : State} (hK : Kept V Q s) :
    EffKept V Q (semEvret c t a2 s) := by
  unfold semEvret
  repeat' first
      | assumption | with_reducible apply readMem_kept | with_reducible apply modThr_kept
      | with_reducible apply raiseEvent_kept | with_reducible apply EffKept.plain
      | with_reducible apply EffKept.gone | with_reducible apply EffKept.ite

theorem execBr_kept {c : Chan} {t : Thr} {s : State} (hK : Kept V Q s) : OutKept V Q (execBr c t s) := by
  unfold execBr
  repeat' first
      | assumption | apply issue_kept | apply semBr_kept
      | apply OutKept.next

theorem execCb_kept {c : Chan} {t : Thr} {s : State} (hK : Kept V Q s) : OutKept V Q (execCb c t s) := by
  unfold execCb
  repeat' first
      | assumption | apply issue_kept | apply semCb_kept
      | apply OutKept.next

theorem execCall_kept {c : Chan} {t : Thr} {s : State} (hK : Kept V Q s) : OutKept V Q (execCall c t s) := by
  unfold execCall
  repeat' first
      | assumption | apply issue_kept | apply semCall_kept
      | apply OutKept.next

theorem execCallr_kept {c : Chan} {t : Thr} {s : State} (hK : Kept V Q s) : OutKept V Q (execCallr c t s) := by
  unfold execCallr
  repeat' first
      | assumption | apply issue_kept | apply semCallr_kept
      | apply OutKept.next

theorem execRet_kept {c : Chan} {t : Thr} {s : State} (hK : Kept V Q s) : OutKept V Q (execRet c t s) := by
  unfold execRet
  repeat' first
      | assumption | apply issue_kept | apply semRet_kept
      | apply OutKept.next

theorem execEvret_kept {c : Chan} {t : Thr} {s : State} (hK : Kept V Q s) : OutKept V Q (execEvret c t s) := by
  unfold execEvret
  repeat' first
      | assumption | apply issue_kept | apply semEvret_kept
      | apply OutKept.next

/-! ## Decimal -/

theorem formD_kept {c : Chan} {t : Thr} {f : Nat → W64 → W64 → W64} {w : W64} {s : State} (hK : Kept V Q s) :
    EffKept V Q (formD c t f w s) :=
  formR_kept hK

theorem formD1_kept {c : Chan} {t : Thr} {f : Nat → W64 → W64} {w : W64} {s : State} (hK : Kept V Q s) :
    EffKept V Q (formD1 c t f w s) :=
  formU_kept hK

theorem execDadd_kept {c : Chan} {t : Thr} {s : State} (hK : Kept V Q s) : OutKept V Q (execDadd c t s) := by
  unfold execDadd
  repeat' first
      | assumption | apply issue_kept | apply formD_kept
      | apply OutKept.next

theorem execDsub_kept {c : Chan} {t : Thr} {s : State} (hK : Kept V Q s) : OutKept V Q (execDsub c t s) := by
  unfold execDsub
  repeat' first
      | assumption | apply issue_kept | apply formD_kept
      | apply OutKept.next

theorem execDadj_kept {c : Chan} {t : Thr} {s : State} (hK : Kept V Q s) : OutKept V Q (execDadj c t s) := by
  unfold execDadj
  repeat' first
      | assumption | apply issue_kept | apply formD1_kept
      | apply OutKept.next

theorem execBcd2bin_kept {c : Chan} {t : Thr} {s : State} (hK : Kept V Q s) : OutKept V Q (execBcd2bin c t s) := by
  unfold execBcd2bin
  repeat' first
      | assumption | apply issue_kept | apply formD1_kept
      | apply OutKept.next

theorem execBin2bcd_kept {c : Chan} {t : Thr} {s : State} (hK : Kept V Q s) : OutKept V Q (execBin2bcd c t s) := by
  unfold execBin2bcd
  repeat' first
      | assumption | apply issue_kept | apply formD1_kept
      | apply OutKept.next

theorem execMsfadd_kept {c : Chan} {t : Thr} {s : State} (hK : Kept V Q s) : OutKept V Q (execMsfadd c t s) := by
  unfold execMsfadd
  repeat' first
      | assumption | apply issue_kept | apply formR_kept
      | apply OutKept.next

theorem execMsfsub_kept {c : Chan} {t : Thr} {s : State} (hK : Kept V Q s) : OutKept V Q (execMsfsub c t s) := by
  unfold execMsfsub
  repeat' first
      | assumption | apply issue_kept | apply formR_kept
      | apply OutKept.next

theorem execMsf2n_kept {c : Chan} {t : Thr} {s : State} (hK : Kept V Q s) : OutKept V Q (execMsf2n c t s) := by
  unfold execMsf2n
  repeat' first
      | assumption | apply issue_kept | apply formU_kept
      | apply OutKept.next

theorem execN2msf_kept {c : Chan} {t : Thr} {s : State} (hK : Kept V Q s) : OutKept V Q (execN2msf c t s) := by
  unfold execN2msf
  repeat' first
      | assumption | apply issue_kept | apply formU_kept
      | apply OutKept.next

theorem execDslt_kept {c : Chan} {t : Thr} {s : State} (hK : Kept V Q s) : OutKept V Q (execDslt c t s) := by
  unfold execDslt
  repeat' first
      | assumption | apply issue_kept | apply formD_kept
      | apply OutKept.next

/-! ## Events -/

theorem srvPublish_kept {n : W64} {s : State} (hK : Kept V Q s) : Kept V Q (srvPublish n s) := hK.mk_upd

theorem servoFault_kept {mech : BitVec 3} {loop : BitVec 4} {s : State} (hK : Kept V Q s) :
    Kept V Q (servoFault mech loop s) := by
  unfold servoFault
  repeat' first
      | apply traceFreeze_kept | apply post_kept | split
      | exact Kept.mk_upd ‹_›

theorem icPresent_kept {s : State} (hK : Kept V Q s) : Kept V Q (icPresent s) := by
  unfold icPresent
  repeat' first
      | assumption | apply portGo_kept | apply syncServe_kept
      | apply withdrawDue_kept | apply place_kept | split

theorem rdWaitExpiry_kept {s : State} (hK : Kept V Q s) : Kept V Q (rdWaitExpiry s) := by
  unfold rdWaitExpiry
  repeat' first
      | assumption | apply portGo_kept | apply windowExpire_kept
      | split

theorem execRdWaitExpiry_kept {s : State} (hK : Kept V Q s) : OutKept V Q (execRdWaitExpiry s) :=
  rdWaitExpiry_kept hK

theorem execStreamWordIn_kept {i : BitVec 2} {w : W64} {em : Bool} {s : State} (hK : Kept V Q s) :
    OutKept V Q (execStreamWordIn i w em s) := by
  unfold execStreamWordIn
  repeat' first
      | assumption | apply portGo_kept | apply streamWordIn_kept
      | apply OutKept.next

theorem execSrvPublish_kept {n : W64} {s : State} (hK : Kept V Q s) : OutKept V Q (execSrvPublish n s) :=
  srvPublish_kept hK

theorem execServoFaultMsg_kept {mech : BitVec 3} {loopCode : BitVec 4} {s : State} (hK : Kept V Q s) :
    OutKept V Q (execServoFaultMsg mech loopCode s) :=
  servoFault_kept hK

theorem execIcPresent_kept {s : State} (hK : Kept V Q s) : OutKept V Q (execIcPresent s) := icPresent_kept hK

theorem execTaken_kept {p : BitVec 4} {s : State} (hK : Kept V Q s) : OutKept V Q (execTaken p s) := by
  unfold execTaken
  repeat' first
      | assumption | apply portGo_kept | apply syncServe_kept
      | apply icTaken_kept | apply OutKept.next

theorem execHoldoffExpiry_kept {g : Nat} {s : State} (hK : Kept V Q s) : OutKept V Q (execHoldoffExpiry g s) := by
  unfold execHoldoffExpiry
  repeat' first
      | assumption | with_reducible apply holdEnd_kept | with_reducible apply OutKept.next | split

end Sys2Proof.Machine
end

