-- ==== Sys2Proof/Laws/State.lean ====
section
/-! SUPPORT. One lemma for each field of the state and each named update that leaves it alone, and what the lookups
read after an update of their own place. -/

namespace Sys2Proof.Machine

open Sys2Proof

/-! ## setChan -/

@[simp] theorem setChan_variant (c : Chan) (x : Channel) (s : State) : (setChan c x s).variant = s.variant := rfl
@[simp] theorem setChan_time (c : Chan) (x : Channel) (s : State) : (setChan c x s).time = s.time := rfl
@[simp] theorem setChan_free (c : Chan) (x : Channel) (s : State) : (setChan c x s).free = s.free := rfl
@[simp] theorem setChan_pfail (c : Chan) (x : Channel) (s : State) : (setChan c x s).pfail = s.pfail := rfl
@[simp] theorem setChan_brownout (c : Chan) (x : Channel) (s : State) : (setChan c x s).brownout = s.brownout := rfl
@[simp] theorem setChan_gctl (c : Chan) (x : Channel) (s : State) : (setChan c x s).gctl = s.gctl := rfl
@[simp] theorem setChan_pwr (c : Chan) (x : Channel) (s : State) : (setChan c x s).pwr = s.pwr := rfl
@[simp] theorem setChan_tok (c : Chan) (x : Channel) (s : State) : (setChan c x s).tok = s.tok := rfl
@[simp] theorem setChan_cal (c : Chan) (x : Channel) (s : State) : (setChan c x s).cal = s.cal := rfl
@[simp] theorem setChan_srv (c : Chan) (x : Channel) (s : State) : (setChan c x s).srv = s.srv := rfl
@[simp] theorem setChan_ic (c : Chan) (x : Channel) (s : State) : (setChan c x s).ic = s.ic := rfl
@[simp] theorem setChan_str (c : Chan) (x : Channel) (s : State) : (setChan c x s).str = s.str := rfl
@[simp] theorem setChan_hawk (c : Chan) (x : Channel) (s : State) : (setChan c x s).hawk = s.hawk := rfl
@[simp] theorem setChan_eng (c : Chan) (x : Channel) (s : State) : (setChan c x s).eng = s.eng := rfl
@[simp] theorem setChan_xfer (c : Chan) (x : Channel) (s : State) : (setChan c x s).xfer = s.xfer := rfl
@[simp] theorem setChan_rnd (c : Chan) (x : Channel) (s : State) : (setChan c x s).rnd = s.rnd := rfl
@[simp] theorem setChan_qe (c : Chan) (x : Channel) (s : State) : (setChan c x s).qe = s.qe := rfl
@[simp] theorem setChan_plb (c : Chan) (x : Channel) (s : State) : (setChan c x s).plb = s.plb := rfl
@[simp] theorem setChan_soft (c : Chan) (x : Channel) (s : State) : (setChan c x s).soft = s.soft := rfl
@[simp] theorem setChan_intg (c : Chan) (x : Channel) (s : State) : (setChan c x s).intg = s.intg := rfl
@[simp] theorem setChan_stg (c : Chan) (x : Channel) (s : State) : (setChan c x s).stg = s.stg := rfl
@[simp] theorem setChan_prm (c : Chan) (x : Channel) (s : State) : (setChan c x s).prm = s.prm := rfl
@[simp] theorem setChan_lath (c : Chan) (x : Channel) (s : State) : (setChan c x s).lath = s.lath := rfl
@[simp] theorem setChan_quad (c : Chan) (x : Channel) (s : State) : (setChan c x s).quad = s.quad := rfl
@[simp] theorem setChan_port (c : Chan) (x : Channel) (s : State) : (setChan c x s).port = s.port := rfl
@[simp] theorem setChan_fm (c : Chan) (x : Channel) (s : State) : (setChan c x s).fm = s.fm := rfl
@[simp] theorem setChan_pending (c : Chan) (x : Channel) (s : State) : (setChan c x s).pending = s.pending := rfl

/-! ## modChan -/

@[simp] theorem modChan_variant (c : Chan) (f : Channel → Channel) (s : State) : (modChan c f s).variant = s.variant := rfl
@[simp] theorem modChan_time (c : Chan) (f : Channel → Channel) (s : State) : (modChan c f s).time = s.time := rfl
@[simp] theorem modChan_free (c : Chan) (f : Channel → Channel) (s : State) : (modChan c f s).free = s.free := rfl
@[simp] theorem modChan_pfail (c : Chan) (f : Channel → Channel) (s : State) : (modChan c f s).pfail = s.pfail := rfl
@[simp] theorem modChan_brownout (c : Chan) (f : Channel → Channel) (s : State) : (modChan c f s).brownout = s.brownout := rfl
@[simp] theorem modChan_gctl (c : Chan) (f : Channel → Channel) (s : State) : (modChan c f s).gctl = s.gctl := rfl
@[simp] theorem modChan_pwr (c : Chan) (f : Channel → Channel) (s : State) : (modChan c f s).pwr = s.pwr := rfl
@[simp] theorem modChan_tok (c : Chan) (f : Channel → Channel) (s : State) : (modChan c f s).tok = s.tok := rfl
@[simp] theorem modChan_cal (c : Chan) (f : Channel → Channel) (s : State) : (modChan c f s).cal = s.cal := rfl
@[simp] theorem modChan_srv (c : Chan) (f : Channel → Channel) (s : State) : (modChan c f s).srv = s.srv := rfl
@[simp] theorem modChan_ic (c : Chan) (f : Channel → Channel) (s : State) : (modChan c f s).ic = s.ic := rfl
@[simp] theorem modChan_str (c : Chan) (f : Channel → Channel) (s : State) : (modChan c f s).str = s.str := rfl
@[simp] theorem modChan_hawk (c : Chan) (f : Channel → Channel) (s : State) : (modChan c f s).hawk = s.hawk := rfl
@[simp] theorem modChan_eng (c : Chan) (f : Channel → Channel) (s : State) : (modChan c f s).eng = s.eng := rfl
@[simp] theorem modChan_xfer (c : Chan) (f : Channel → Channel) (s : State) : (modChan c f s).xfer = s.xfer := rfl
@[simp] theorem modChan_rnd (c : Chan) (f : Channel → Channel) (s : State) : (modChan c f s).rnd = s.rnd := rfl
@[simp] theorem modChan_qe (c : Chan) (f : Channel → Channel) (s : State) : (modChan c f s).qe = s.qe := rfl
@[simp] theorem modChan_plb (c : Chan) (f : Channel → Channel) (s : State) : (modChan c f s).plb = s.plb := rfl
@[simp] theorem modChan_soft (c : Chan) (f : Channel → Channel) (s : State) : (modChan c f s).soft = s.soft := rfl
@[simp] theorem modChan_intg (c : Chan) (f : Channel → Channel) (s : State) : (modChan c f s).intg = s.intg := rfl
@[simp] theorem modChan_stg (c : Chan) (f : Channel → Channel) (s : State) : (modChan c f s).stg = s.stg := rfl
@[simp] theorem modChan_prm (c : Chan) (f : Channel → Channel) (s : State) : (modChan c f s).prm = s.prm := rfl
@[simp] theorem modChan_lath (c : Chan) (f : Channel → Channel) (s : State) : (modChan c f s).lath = s.lath := rfl
@[simp] theorem modChan_quad (c : Chan) (f : Channel → Channel) (s : State) : (modChan c f s).quad = s.quad := rfl
@[simp] theorem modChan_port (c : Chan) (f : Channel → Channel) (s : State) : (modChan c f s).port = s.port := rfl
@[simp] theorem modChan_fm (c : Chan) (f : Channel → Channel) (s : State) : (modChan c f s).fm = s.fm := rfl
@[simp] theorem modChan_pending (c : Chan) (f : Channel → Channel) (s : State) : (modChan c f s).pending = s.pending := rfl

/-! ## modThr -/

@[simp] theorem modThr_variant (c : Chan) (t : Thr) (f : Thread → Thread) (s : State) : (modThr c t f s).variant = s.variant := rfl
@[simp] theorem modThr_time (c : Chan) (t : Thr) (f : Thread → Thread) (s : State) : (modThr c t f s).time = s.time := rfl
@[simp] theorem modThr_free (c : Chan) (t : Thr) (f : Thread → Thread) (s : State) : (modThr c t f s).free = s.free := rfl
@[simp] theorem modThr_pfail (c : Chan) (t : Thr) (f : Thread → Thread) (s : State) : (modThr c t f s).pfail = s.pfail := rfl
@[simp] theorem modThr_brownout (c : Chan) (t : Thr) (f : Thread → Thread) (s : State) : (modThr c t f s).brownout = s.brownout := rfl
@[simp] theorem modThr_gctl (c : Chan) (t : Thr) (f : Thread → Thread) (s : State) : (modThr c t f s).gctl = s.gctl := rfl
@[simp] theorem modThr_pwr (c : Chan) (t : Thr) (f : Thread → Thread) (s : State) : (modThr c t f s).pwr = s.pwr := rfl
@[simp] theorem modThr_tok (c : Chan) (t : Thr) (f : Thread → Thread) (s : State) : (modThr c t f s).tok = s.tok := rfl
@[simp] theorem modThr_cal (c : Chan) (t : Thr) (f : Thread → Thread) (s : State) : (modThr c t f s).cal = s.cal := rfl
@[simp] theorem modThr_srv (c : Chan) (t : Thr) (f : Thread → Thread) (s : State) : (modThr c t f s).srv = s.srv := rfl
@[simp] theorem modThr_ic (c : Chan) (t : Thr) (f : Thread → Thread) (s : State) : (modThr c t f s).ic = s.ic := rfl
@[simp] theorem modThr_str (c : Chan) (t : Thr) (f : Thread → Thread) (s : State) : (modThr c t f s).str = s.str := rfl
@[simp] theorem modThr_hawk (c : Chan) (t : Thr) (f : Thread → Thread) (s : State) : (modThr c t f s).hawk = s.hawk := rfl
@[simp] theorem modThr_eng (c : Chan) (t : Thr) (f : Thread → Thread) (s : State) : (modThr c t f s).eng = s.eng := rfl
@[simp] theorem modThr_xfer (c : Chan) (t : Thr) (f : Thread → Thread) (s : State) : (modThr c t f s).xfer = s.xfer := rfl
@[simp] theorem modThr_rnd (c : Chan) (t : Thr) (f : Thread → Thread) (s : State) : (modThr c t f s).rnd = s.rnd := rfl
@[simp] theorem modThr_qe (c : Chan) (t : Thr) (f : Thread → Thread) (s : State) : (modThr c t f s).qe = s.qe := rfl
@[simp] theorem modThr_plb (c : Chan) (t : Thr) (f : Thread → Thread) (s : State) : (modThr c t f s).plb = s.plb := rfl
@[simp] theorem modThr_soft (c : Chan) (t : Thr) (f : Thread → Thread) (s : State) : (modThr c t f s).soft = s.soft := rfl
@[simp] theorem modThr_intg (c : Chan) (t : Thr) (f : Thread → Thread) (s : State) : (modThr c t f s).intg = s.intg := rfl
@[simp] theorem modThr_stg (c : Chan) (t : Thr) (f : Thread → Thread) (s : State) : (modThr c t f s).stg = s.stg := rfl
@[simp] theorem modThr_prm (c : Chan) (t : Thr) (f : Thread → Thread) (s : State) : (modThr c t f s).prm = s.prm := rfl
@[simp] theorem modThr_lath (c : Chan) (t : Thr) (f : Thread → Thread) (s : State) : (modThr c t f s).lath = s.lath := rfl
@[simp] theorem modThr_quad (c : Chan) (t : Thr) (f : Thread → Thread) (s : State) : (modThr c t f s).quad = s.quad := rfl
@[simp] theorem modThr_port (c : Chan) (t : Thr) (f : Thread → Thread) (s : State) : (modThr c t f s).port = s.port := rfl
@[simp] theorem modThr_fm (c : Chan) (t : Thr) (f : Thread → Thread) (s : State) : (modThr c t f s).fm = s.fm := rfl
@[simp] theorem modThr_pending (c : Chan) (t : Thr) (f : Thread → Thread) (s : State) : (modThr c t f s).pending = s.pending := rfl

/-! ## modReg -/

@[simp] theorem modReg_variant (c : Chan) (f : ChReg → ChReg) (s : State) : (modReg c f s).variant = s.variant := rfl
@[simp] theorem modReg_time (c : Chan) (f : ChReg → ChReg) (s : State) : (modReg c f s).time = s.time := rfl
@[simp] theorem modReg_free (c : Chan) (f : ChReg → ChReg) (s : State) : (modReg c f s).free = s.free := rfl
@[simp] theorem modReg_pfail (c : Chan) (f : ChReg → ChReg) (s : State) : (modReg c f s).pfail = s.pfail := rfl
@[simp] theorem modReg_brownout (c : Chan) (f : ChReg → ChReg) (s : State) : (modReg c f s).brownout = s.brownout := rfl
@[simp] theorem modReg_gctl (c : Chan) (f : ChReg → ChReg) (s : State) : (modReg c f s).gctl = s.gctl := rfl
@[simp] theorem modReg_pwr (c : Chan) (f : ChReg → ChReg) (s : State) : (modReg c f s).pwr = s.pwr := rfl
@[simp] theorem modReg_tok (c : Chan) (f : ChReg → ChReg) (s : State) : (modReg c f s).tok = s.tok := rfl
@[simp] theorem modReg_cal (c : Chan) (f : ChReg → ChReg) (s : State) : (modReg c f s).cal = s.cal := rfl
@[simp] theorem modReg_srv (c : Chan) (f : ChReg → ChReg) (s : State) : (modReg c f s).srv = s.srv := rfl
@[simp] theorem modReg_ic (c : Chan) (f : ChReg → ChReg) (s : State) : (modReg c f s).ic = s.ic := rfl
@[simp] theorem modReg_str (c : Chan) (f : ChReg → ChReg) (s : State) : (modReg c f s).str = s.str := rfl
@[simp] theorem modReg_hawk (c : Chan) (f : ChReg → ChReg) (s : State) : (modReg c f s).hawk = s.hawk := rfl
@[simp] theorem modReg_eng (c : Chan) (f : ChReg → ChReg) (s : State) : (modReg c f s).eng = s.eng := rfl
@[simp] theorem modReg_xfer (c : Chan) (f : ChReg → ChReg) (s : State) : (modReg c f s).xfer = s.xfer := rfl
@[simp] theorem modReg_rnd (c : Chan) (f : ChReg → ChReg) (s : State) : (modReg c f s).rnd = s.rnd := rfl
@[simp] theorem modReg_qe (c : Chan) (f : ChReg → ChReg) (s : State) : (modReg c f s).qe = s.qe := rfl
@[simp] theorem modReg_plb (c : Chan) (f : ChReg → ChReg) (s : State) : (modReg c f s).plb = s.plb := rfl
@[simp] theorem modReg_soft (c : Chan) (f : ChReg → ChReg) (s : State) : (modReg c f s).soft = s.soft := rfl
@[simp] theorem modReg_intg (c : Chan) (f : ChReg → ChReg) (s : State) : (modReg c f s).intg = s.intg := rfl
@[simp] theorem modReg_stg (c : Chan) (f : ChReg → ChReg) (s : State) : (modReg c f s).stg = s.stg := rfl
@[simp] theorem modReg_prm (c : Chan) (f : ChReg → ChReg) (s : State) : (modReg c f s).prm = s.prm := rfl
@[simp] theorem modReg_lath (c : Chan) (f : ChReg → ChReg) (s : State) : (modReg c f s).lath = s.lath := rfl
@[simp] theorem modReg_quad (c : Chan) (f : ChReg → ChReg) (s : State) : (modReg c f s).quad = s.quad := rfl
@[simp] theorem modReg_port (c : Chan) (f : ChReg → ChReg) (s : State) : (modReg c f s).port = s.port := rfl
@[simp] theorem modReg_fm (c : Chan) (f : ChReg → ChReg) (s : State) : (modReg c f s).fm = s.fm := rfl
@[simp] theorem modReg_pending (c : Chan) (f : ChReg → ChReg) (s : State) : (modReg c f s).pending = s.pending := rfl

/-! ## modRtn -/

@[simp] theorem modRtn_variant (c : Chan) (t : Thr) (f : Routine → Routine) (s : State) : (modRtn c t f s).variant = s.variant := rfl
@[simp] theorem modRtn_time (c : Chan) (t : Thr) (f : Routine → Routine) (s : State) : (modRtn c t f s).time = s.time := rfl
@[simp] theorem modRtn_free (c : Chan) (t : Thr) (f : Routine → Routine) (s : State) : (modRtn c t f s).free = s.free := rfl
@[simp] theorem modRtn_pfail (c : Chan) (t : Thr) (f : Routine → Routine) (s : State) : (modRtn c t f s).pfail = s.pfail := rfl
@[simp] theorem modRtn_brownout (c : Chan) (t : Thr) (f : Routine → Routine) (s : State) : (modRtn c t f s).brownout = s.brownout := rfl
@[simp] theorem modRtn_gctl (c : Chan) (t : Thr) (f : Routine → Routine) (s : State) : (modRtn c t f s).gctl = s.gctl := rfl
@[simp] theorem modRtn_pwr (c : Chan) (t : Thr) (f : Routine → Routine) (s : State) : (modRtn c t f s).pwr = s.pwr := rfl
@[simp] theorem modRtn_tok (c : Chan) (t : Thr) (f : Routine → Routine) (s : State) : (modRtn c t f s).tok = s.tok := rfl
@[simp] theorem modRtn_cal (c : Chan) (t : Thr) (f : Routine → Routine) (s : State) : (modRtn c t f s).cal = s.cal := rfl
@[simp] theorem modRtn_srv (c : Chan) (t : Thr) (f : Routine → Routine) (s : State) : (modRtn c t f s).srv = s.srv := rfl
@[simp] theorem modRtn_ic (c : Chan) (t : Thr) (f : Routine → Routine) (s : State) : (modRtn c t f s).ic = s.ic := rfl
@[simp] theorem modRtn_str (c : Chan) (t : Thr) (f : Routine → Routine) (s : State) : (modRtn c t f s).str = s.str := rfl
@[simp] theorem modRtn_hawk (c : Chan) (t : Thr) (f : Routine → Routine) (s : State) : (modRtn c t f s).hawk = s.hawk := rfl
@[simp] theorem modRtn_eng (c : Chan) (t : Thr) (f : Routine → Routine) (s : State) : (modRtn c t f s).eng = s.eng := rfl
@[simp] theorem modRtn_xfer (c : Chan) (t : Thr) (f : Routine → Routine) (s : State) : (modRtn c t f s).xfer = s.xfer := rfl
@[simp] theorem modRtn_rnd (c : Chan) (t : Thr) (f : Routine → Routine) (s : State) : (modRtn c t f s).rnd = s.rnd := rfl
@[simp] theorem modRtn_qe (c : Chan) (t : Thr) (f : Routine → Routine) (s : State) : (modRtn c t f s).qe = s.qe := rfl
@[simp] theorem modRtn_plb (c : Chan) (t : Thr) (f : Routine → Routine) (s : State) : (modRtn c t f s).plb = s.plb := rfl
@[simp] theorem modRtn_soft (c : Chan) (t : Thr) (f : Routine → Routine) (s : State) : (modRtn c t f s).soft = s.soft := rfl
@[simp] theorem modRtn_intg (c : Chan) (t : Thr) (f : Routine → Routine) (s : State) : (modRtn c t f s).intg = s.intg := rfl
@[simp] theorem modRtn_stg (c : Chan) (t : Thr) (f : Routine → Routine) (s : State) : (modRtn c t f s).stg = s.stg := rfl
@[simp] theorem modRtn_prm (c : Chan) (t : Thr) (f : Routine → Routine) (s : State) : (modRtn c t f s).prm = s.prm := rfl
@[simp] theorem modRtn_lath (c : Chan) (t : Thr) (f : Routine → Routine) (s : State) : (modRtn c t f s).lath = s.lath := rfl
@[simp] theorem modRtn_quad (c : Chan) (t : Thr) (f : Routine → Routine) (s : State) : (modRtn c t f s).quad = s.quad := rfl
@[simp] theorem modRtn_port (c : Chan) (t : Thr) (f : Routine → Routine) (s : State) : (modRtn c t f s).port = s.port := rfl
@[simp] theorem modRtn_fm (c : Chan) (t : Thr) (f : Routine → Routine) (s : State) : (modRtn c t f s).fm = s.fm := rfl
@[simp] theorem modRtn_pending (c : Chan) (t : Thr) (f : Routine → Routine) (s : State) : (modRtn c t f s).pending = s.pending := rfl

/-! ## modPlb -/

@[simp] theorem modPlb_variant (c : Chan) (f : ChPlb → ChPlb) (s : State) : (modPlb c f s).variant = s.variant := rfl
@[simp] theorem modPlb_time (c : Chan) (f : ChPlb → ChPlb) (s : State) : (modPlb c f s).time = s.time := rfl
@[simp] theorem modPlb_free (c : Chan) (f : ChPlb → ChPlb) (s : State) : (modPlb c f s).free = s.free := rfl
@[simp] theorem modPlb_pfail (c : Chan) (f : ChPlb → ChPlb) (s : State) : (modPlb c f s).pfail = s.pfail := rfl
@[simp] theorem modPlb_brownout (c : Chan) (f : ChPlb → ChPlb) (s : State) : (modPlb c f s).brownout = s.brownout := rfl
@[simp] theorem modPlb_gctl (c : Chan) (f : ChPlb → ChPlb) (s : State) : (modPlb c f s).gctl = s.gctl := rfl
@[simp] theorem modPlb_pwr (c : Chan) (f : ChPlb → ChPlb) (s : State) : (modPlb c f s).pwr = s.pwr := rfl
@[simp] theorem modPlb_tok (c : Chan) (f : ChPlb → ChPlb) (s : State) : (modPlb c f s).tok = s.tok := rfl
@[simp] theorem modPlb_cal (c : Chan) (f : ChPlb → ChPlb) (s : State) : (modPlb c f s).cal = s.cal := rfl
@[simp] theorem modPlb_srv (c : Chan) (f : ChPlb → ChPlb) (s : State) : (modPlb c f s).srv = s.srv := rfl
@[simp] theorem modPlb_ic (c : Chan) (f : ChPlb → ChPlb) (s : State) : (modPlb c f s).ic = s.ic := rfl
@[simp] theorem modPlb_str (c : Chan) (f : ChPlb → ChPlb) (s : State) : (modPlb c f s).str = s.str := rfl
@[simp] theorem modPlb_hawk (c : Chan) (f : ChPlb → ChPlb) (s : State) : (modPlb c f s).hawk = s.hawk := rfl
@[simp] theorem modPlb_eng (c : Chan) (f : ChPlb → ChPlb) (s : State) : (modPlb c f s).eng = s.eng := rfl
@[simp] theorem modPlb_xfer (c : Chan) (f : ChPlb → ChPlb) (s : State) : (modPlb c f s).xfer = s.xfer := rfl
@[simp] theorem modPlb_rnd (c : Chan) (f : ChPlb → ChPlb) (s : State) : (modPlb c f s).rnd = s.rnd := rfl
@[simp] theorem modPlb_qe (c : Chan) (f : ChPlb → ChPlb) (s : State) : (modPlb c f s).qe = s.qe := rfl
@[simp] theorem modPlb_plb (c : Chan) (f : ChPlb → ChPlb) (s : State) : (modPlb c f s).plb = s.plb := rfl
@[simp] theorem modPlb_soft (c : Chan) (f : ChPlb → ChPlb) (s : State) : (modPlb c f s).soft = s.soft := rfl
@[simp] theorem modPlb_intg (c : Chan) (f : ChPlb → ChPlb) (s : State) : (modPlb c f s).intg = s.intg := rfl
@[simp] theorem modPlb_stg (c : Chan) (f : ChPlb → ChPlb) (s : State) : (modPlb c f s).stg = s.stg := rfl
@[simp] theorem modPlb_prm (c : Chan) (f : ChPlb → ChPlb) (s : State) : (modPlb c f s).prm = s.prm := rfl
@[simp] theorem modPlb_lath (c : Chan) (f : ChPlb → ChPlb) (s : State) : (modPlb c f s).lath = s.lath := rfl
@[simp] theorem modPlb_quad (c : Chan) (f : ChPlb → ChPlb) (s : State) : (modPlb c f s).quad = s.quad := rfl
@[simp] theorem modPlb_port (c : Chan) (f : ChPlb → ChPlb) (s : State) : (modPlb c f s).port = s.port := rfl
@[simp] theorem modPlb_fm (c : Chan) (f : ChPlb → ChPlb) (s : State) : (modPlb c f s).fm = s.fm := rfl
@[simp] theorem modPlb_pending (c : Chan) (f : ChPlb → ChPlb) (s : State) : (modPlb c f s).pending = s.pending := rfl

/-! ## modQuad -/

@[simp] theorem modQuad_variant (q : BitVec 4) (f : Quad → Quad) (s : State) : (modQuad q f s).variant = s.variant := rfl
@[simp] theorem modQuad_time (q : BitVec 4) (f : Quad → Quad) (s : State) : (modQuad q f s).time = s.time := rfl
@[simp] theorem modQuad_free (q : BitVec 4) (f : Quad → Quad) (s : State) : (modQuad q f s).free = s.free := rfl
@[simp] theorem modQuad_pfail (q : BitVec 4) (f : Quad → Quad) (s : State) : (modQuad q f s).pfail = s.pfail := rfl
@[simp] theorem modQuad_brownout (q : BitVec 4) (f : Quad → Quad) (s : State) : (modQuad q f s).brownout = s.brownout := rfl
@[simp] theorem modQuad_gctl (q : BitVec 4) (f : Quad → Quad) (s : State) : (modQuad q f s).gctl = s.gctl := rfl
@[simp] theorem modQuad_pwr (q : BitVec 4) (f : Quad → Quad) (s : State) : (modQuad q f s).pwr = s.pwr := rfl
@[simp] theorem modQuad_tok (q : BitVec 4) (f : Quad → Quad) (s : State) : (modQuad q f s).tok = s.tok := rfl
@[simp] theorem modQuad_cal (q : BitVec 4) (f : Quad → Quad) (s : State) : (modQuad q f s).cal = s.cal := rfl
@[simp] theorem modQuad_srv (q : BitVec 4) (f : Quad → Quad) (s : State) : (modQuad q f s).srv = s.srv := rfl
@[simp] theorem modQuad_ic (q : BitVec 4) (f : Quad → Quad) (s : State) : (modQuad q f s).ic = s.ic := rfl
@[simp] theorem modQuad_str (q : BitVec 4) (f : Quad → Quad) (s : State) : (modQuad q f s).str = s.str := rfl
@[simp] theorem modQuad_hawk (q : BitVec 4) (f : Quad → Quad) (s : State) : (modQuad q f s).hawk = s.hawk := rfl
@[simp] theorem modQuad_eng (q : BitVec 4) (f : Quad → Quad) (s : State) : (modQuad q f s).eng = s.eng := rfl
@[simp] theorem modQuad_xfer (q : BitVec 4) (f : Quad → Quad) (s : State) : (modQuad q f s).xfer = s.xfer := rfl
@[simp] theorem modQuad_rnd (q : BitVec 4) (f : Quad → Quad) (s : State) : (modQuad q f s).rnd = s.rnd := rfl
@[simp] theorem modQuad_qe (q : BitVec 4) (f : Quad → Quad) (s : State) : (modQuad q f s).qe = s.qe := rfl
@[simp] theorem modQuad_plb (q : BitVec 4) (f : Quad → Quad) (s : State) : (modQuad q f s).plb = s.plb := rfl
@[simp] theorem modQuad_soft (q : BitVec 4) (f : Quad → Quad) (s : State) : (modQuad q f s).soft = s.soft := rfl
@[simp] theorem modQuad_intg (q : BitVec 4) (f : Quad → Quad) (s : State) : (modQuad q f s).intg = s.intg := rfl
@[simp] theorem modQuad_stg (q : BitVec 4) (f : Quad → Quad) (s : State) : (modQuad q f s).stg = s.stg := rfl
@[simp] theorem modQuad_prm (q : BitVec 4) (f : Quad → Quad) (s : State) : (modQuad q f s).prm = s.prm := rfl
@[simp] theorem modQuad_lath (q : BitVec 4) (f : Quad → Quad) (s : State) : (modQuad q f s).lath = s.lath := rfl
@[simp] theorem modQuad_ch (q : BitVec 4) (f : Quad → Quad) (s : State) : (modQuad q f s).ch = s.ch := rfl
@[simp] theorem modQuad_port (q : BitVec 4) (f : Quad → Quad) (s : State) : (modQuad q f s).port = s.port := rfl
@[simp] theorem modQuad_fm (q : BitVec 4) (f : Quad → Quad) (s : State) : (modQuad q f s).fm = s.fm := rfl
@[simp] theorem modQuad_pending (q : BitVec 4) (f : Quad → Quad) (s : State) : (modQuad q f s).pending = s.pending := rfl

/-! ## modStrm -/

@[simp] theorem modStrm_variant (i : Nat) (f : Strm → Strm) (s : State) : (modStrm i f s).variant = s.variant := rfl
@[simp] theorem modStrm_time (i : Nat) (f : Strm → Strm) (s : State) : (modStrm i f s).time = s.time := rfl
@[simp] theorem modStrm_free (i : Nat) (f : Strm → Strm) (s : State) : (modStrm i f s).free = s.free := rfl
@[simp] theorem modStrm_pfail (i : Nat) (f : Strm → Strm) (s : State) : (modStrm i f s).pfail = s.pfail := rfl
@[simp] theorem modStrm_brownout (i : Nat) (f : Strm → Strm) (s : State) : (modStrm i f s).brownout = s.brownout := rfl
@[simp] theorem modStrm_gctl (i : Nat) (f : Strm → Strm) (s : State) : (modStrm i f s).gctl = s.gctl := rfl
@[simp] theorem modStrm_pwr (i : Nat) (f : Strm → Strm) (s : State) : (modStrm i f s).pwr = s.pwr := rfl
@[simp] theorem modStrm_tok (i : Nat) (f : Strm → Strm) (s : State) : (modStrm i f s).tok = s.tok := rfl
@[simp] theorem modStrm_cal (i : Nat) (f : Strm → Strm) (s : State) : (modStrm i f s).cal = s.cal := rfl
@[simp] theorem modStrm_srv (i : Nat) (f : Strm → Strm) (s : State) : (modStrm i f s).srv = s.srv := rfl
@[simp] theorem modStrm_ic (i : Nat) (f : Strm → Strm) (s : State) : (modStrm i f s).ic = s.ic := rfl
@[simp] theorem modStrm_hawk (i : Nat) (f : Strm → Strm) (s : State) : (modStrm i f s).hawk = s.hawk := rfl
@[simp] theorem modStrm_eng (i : Nat) (f : Strm → Strm) (s : State) : (modStrm i f s).eng = s.eng := rfl
@[simp] theorem modStrm_xfer (i : Nat) (f : Strm → Strm) (s : State) : (modStrm i f s).xfer = s.xfer := rfl
@[simp] theorem modStrm_rnd (i : Nat) (f : Strm → Strm) (s : State) : (modStrm i f s).rnd = s.rnd := rfl
@[simp] theorem modStrm_qe (i : Nat) (f : Strm → Strm) (s : State) : (modStrm i f s).qe = s.qe := rfl
@[simp] theorem modStrm_plb (i : Nat) (f : Strm → Strm) (s : State) : (modStrm i f s).plb = s.plb := rfl
@[simp] theorem modStrm_soft (i : Nat) (f : Strm → Strm) (s : State) : (modStrm i f s).soft = s.soft := rfl
@[simp] theorem modStrm_intg (i : Nat) (f : Strm → Strm) (s : State) : (modStrm i f s).intg = s.intg := rfl
@[simp] theorem modStrm_stg (i : Nat) (f : Strm → Strm) (s : State) : (modStrm i f s).stg = s.stg := rfl
@[simp] theorem modStrm_prm (i : Nat) (f : Strm → Strm) (s : State) : (modStrm i f s).prm = s.prm := rfl
@[simp] theorem modStrm_lath (i : Nat) (f : Strm → Strm) (s : State) : (modStrm i f s).lath = s.lath := rfl
@[simp] theorem modStrm_quad (i : Nat) (f : Strm → Strm) (s : State) : (modStrm i f s).quad = s.quad := rfl
@[simp] theorem modStrm_ch (i : Nat) (f : Strm → Strm) (s : State) : (modStrm i f s).ch = s.ch := rfl
@[simp] theorem modStrm_port (i : Nat) (f : Strm → Strm) (s : State) : (modStrm i f s).port = s.port := rfl
@[simp] theorem modStrm_fm (i : Nat) (f : Strm → Strm) (s : State) : (modStrm i f s).fm = s.fm := rfl
@[simp] theorem modStrm_pending (i : Nat) (f : Strm → Strm) (s : State) : (modStrm i f s).pending = s.pending := rfl

/-! ## modEng -/

@[simp] theorem modEng_variant (e : BitVec 2) (f : Eng → Eng) (s : State) : (modEng e f s).variant = s.variant := rfl
@[simp] theorem modEng_time (e : BitVec 2) (f : Eng → Eng) (s : State) : (modEng e f s).time = s.time := rfl
@[simp] theorem modEng_free (e : BitVec 2) (f : Eng → Eng) (s : State) : (modEng e f s).free = s.free := rfl
@[simp] theorem modEng_pfail (e : BitVec 2) (f : Eng → Eng) (s : State) : (modEng e f s).pfail = s.pfail := rfl
@[simp] theorem modEng_brownout (e : BitVec 2) (f : Eng → Eng) (s : State) : (modEng e f s).brownout = s.brownout := rfl
@[simp] theorem modEng_gctl (e : BitVec 2) (f : Eng → Eng) (s : State) : (modEng e f s).gctl = s.gctl := rfl
@[simp] theorem modEng_pwr (e : BitVec 2) (f : Eng → Eng) (s : State) : (modEng e f s).pwr = s.pwr := rfl
@[simp] theorem modEng_tok (e : BitVec 2) (f : Eng → Eng) (s : State) : (modEng e f s).tok = s.tok := rfl
@[simp] theorem modEng_cal (e : BitVec 2) (f : Eng → Eng) (s : State) : (modEng e f s).cal = s.cal := rfl
@[simp] theorem modEng_srv (e : BitVec 2) (f : Eng → Eng) (s : State) : (modEng e f s).srv = s.srv := rfl
@[simp] theorem modEng_ic (e : BitVec 2) (f : Eng → Eng) (s : State) : (modEng e f s).ic = s.ic := rfl
@[simp] theorem modEng_str (e : BitVec 2) (f : Eng → Eng) (s : State) : (modEng e f s).str = s.str := rfl
@[simp] theorem modEng_hawk (e : BitVec 2) (f : Eng → Eng) (s : State) : (modEng e f s).hawk = s.hawk := rfl
@[simp] theorem modEng_xfer (e : BitVec 2) (f : Eng → Eng) (s : State) : (modEng e f s).xfer = s.xfer := rfl
@[simp] theorem modEng_rnd (e : BitVec 2) (f : Eng → Eng) (s : State) : (modEng e f s).rnd = s.rnd := rfl
@[simp] theorem modEng_qe (e : BitVec 2) (f : Eng → Eng) (s : State) : (modEng e f s).qe = s.qe := rfl
@[simp] theorem modEng_plb (e : BitVec 2) (f : Eng → Eng) (s : State) : (modEng e f s).plb = s.plb := rfl
@[simp] theorem modEng_soft (e : BitVec 2) (f : Eng → Eng) (s : State) : (modEng e f s).soft = s.soft := rfl
@[simp] theorem modEng_intg (e : BitVec 2) (f : Eng → Eng) (s : State) : (modEng e f s).intg = s.intg := rfl
@[simp] theorem modEng_stg (e : BitVec 2) (f : Eng → Eng) (s : State) : (modEng e f s).stg = s.stg := rfl
@[simp] theorem modEng_prm (e : BitVec 2) (f : Eng → Eng) (s : State) : (modEng e f s).prm = s.prm := rfl
@[simp] theorem modEng_lath (e : BitVec 2) (f : Eng → Eng) (s : State) : (modEng e f s).lath = s.lath := rfl
@[simp] theorem modEng_quad (e : BitVec 2) (f : Eng → Eng) (s : State) : (modEng e f s).quad = s.quad := rfl
@[simp] theorem modEng_ch (e : BitVec 2) (f : Eng → Eng) (s : State) : (modEng e f s).ch = s.ch := rfl
@[simp] theorem modEng_port (e : BitVec 2) (f : Eng → Eng) (s : State) : (modEng e f s).port = s.port := rfl
@[simp] theorem modEng_fm (e : BitVec 2) (f : Eng → Eng) (s : State) : (modEng e f s).fm = s.fm := rfl
@[simp] theorem modEng_pending (e : BitVec 2) (f : Eng → Eng) (s : State) : (modEng e f s).pending = s.pending := rfl

/-! ## modPool -/

@[simp] theorem modPool_variant (k : Nat) (f : Pool → Pool) (s : State) : (modPool k f s).variant = s.variant := rfl
@[simp] theorem modPool_time (k : Nat) (f : Pool → Pool) (s : State) : (modPool k f s).time = s.time := rfl
@[simp] theorem modPool_free (k : Nat) (f : Pool → Pool) (s : State) : (modPool k f s).free = s.free := rfl
@[simp] theorem modPool_pfail (k : Nat) (f : Pool → Pool) (s : State) : (modPool k f s).pfail = s.pfail := rfl
@[simp] theorem modPool_brownout (k : Nat) (f : Pool → Pool) (s : State) : (modPool k f s).brownout = s.brownout := rfl
@[simp] theorem modPool_gctl (k : Nat) (f : Pool → Pool) (s : State) : (modPool k f s).gctl = s.gctl := rfl
@[simp] theorem modPool_pwr (k : Nat) (f : Pool → Pool) (s : State) : (modPool k f s).pwr = s.pwr := rfl
@[simp] theorem modPool_tok (k : Nat) (f : Pool → Pool) (s : State) : (modPool k f s).tok = s.tok := rfl
@[simp] theorem modPool_cal (k : Nat) (f : Pool → Pool) (s : State) : (modPool k f s).cal = s.cal := rfl
@[simp] theorem modPool_srv (k : Nat) (f : Pool → Pool) (s : State) : (modPool k f s).srv = s.srv := rfl
@[simp] theorem modPool_ic (k : Nat) (f : Pool → Pool) (s : State) : (modPool k f s).ic = s.ic := rfl
@[simp] theorem modPool_str (k : Nat) (f : Pool → Pool) (s : State) : (modPool k f s).str = s.str := rfl
@[simp] theorem modPool_eng (k : Nat) (f : Pool → Pool) (s : State) : (modPool k f s).eng = s.eng := rfl
@[simp] theorem modPool_xfer (k : Nat) (f : Pool → Pool) (s : State) : (modPool k f s).xfer = s.xfer := rfl
@[simp] theorem modPool_rnd (k : Nat) (f : Pool → Pool) (s : State) : (modPool k f s).rnd = s.rnd := rfl
@[simp] theorem modPool_qe (k : Nat) (f : Pool → Pool) (s : State) : (modPool k f s).qe = s.qe := rfl
@[simp] theorem modPool_plb (k : Nat) (f : Pool → Pool) (s : State) : (modPool k f s).plb = s.plb := rfl
@[simp] theorem modPool_soft (k : Nat) (f : Pool → Pool) (s : State) : (modPool k f s).soft = s.soft := rfl
@[simp] theorem modPool_intg (k : Nat) (f : Pool → Pool) (s : State) : (modPool k f s).intg = s.intg := rfl
@[simp] theorem modPool_stg (k : Nat) (f : Pool → Pool) (s : State) : (modPool k f s).stg = s.stg := rfl
@[simp] theorem modPool_prm (k : Nat) (f : Pool → Pool) (s : State) : (modPool k f s).prm = s.prm := rfl
@[simp] theorem modPool_lath (k : Nat) (f : Pool → Pool) (s : State) : (modPool k f s).lath = s.lath := rfl
@[simp] theorem modPool_quad (k : Nat) (f : Pool → Pool) (s : State) : (modPool k f s).quad = s.quad := rfl
@[simp] theorem modPool_ch (k : Nat) (f : Pool → Pool) (s : State) : (modPool k f s).ch = s.ch := rfl
@[simp] theorem modPool_port (k : Nat) (f : Pool → Pool) (s : State) : (modPool k f s).port = s.port := rfl
@[simp] theorem modPool_fm (k : Nat) (f : Pool → Pool) (s : State) : (modPool k f s).fm = s.fm := rfl
@[simp] theorem modPool_pending (k : Nat) (f : Pool → Pool) (s : State) : (modPool k f s).pending = s.pending := rfl

/-! ## modProc -/

@[simp] theorem modProc_variant (p : Nat) (f : Proc → Proc) (s : State) : (modProc p f s).variant = s.variant := rfl
@[simp] theorem modProc_time (p : Nat) (f : Proc → Proc) (s : State) : (modProc p f s).time = s.time := rfl
@[simp] theorem modProc_free (p : Nat) (f : Proc → Proc) (s : State) : (modProc p f s).free = s.free := rfl
@[simp] theorem modProc_pfail (p : Nat) (f : Proc → Proc) (s : State) : (modProc p f s).pfail = s.pfail := rfl
@[simp] theorem modProc_brownout (p : Nat) (f : Proc → Proc) (s : State) : (modProc p f s).brownout = s.brownout := rfl
@[simp] theorem modProc_gctl (p : Nat) (f : Proc → Proc) (s : State) : (modProc p f s).gctl = s.gctl := rfl
@[simp] theorem modProc_pwr (p : Nat) (f : Proc → Proc) (s : State) : (modProc p f s).pwr = s.pwr := rfl
@[simp] theorem modProc_tok (p : Nat) (f : Proc → Proc) (s : State) : (modProc p f s).tok = s.tok := rfl
@[simp] theorem modProc_cal (p : Nat) (f : Proc → Proc) (s : State) : (modProc p f s).cal = s.cal := rfl
@[simp] theorem modProc_srv (p : Nat) (f : Proc → Proc) (s : State) : (modProc p f s).srv = s.srv := rfl
@[simp] theorem modProc_str (p : Nat) (f : Proc → Proc) (s : State) : (modProc p f s).str = s.str := rfl
@[simp] theorem modProc_hawk (p : Nat) (f : Proc → Proc) (s : State) : (modProc p f s).hawk = s.hawk := rfl
@[simp] theorem modProc_eng (p : Nat) (f : Proc → Proc) (s : State) : (modProc p f s).eng = s.eng := rfl
@[simp] theorem modProc_xfer (p : Nat) (f : Proc → Proc) (s : State) : (modProc p f s).xfer = s.xfer := rfl
@[simp] theorem modProc_rnd (p : Nat) (f : Proc → Proc) (s : State) : (modProc p f s).rnd = s.rnd := rfl
@[simp] theorem modProc_qe (p : Nat) (f : Proc → Proc) (s : State) : (modProc p f s).qe = s.qe := rfl
@[simp] theorem modProc_plb (p : Nat) (f : Proc → Proc) (s : State) : (modProc p f s).plb = s.plb := rfl
@[simp] theorem modProc_soft (p : Nat) (f : Proc → Proc) (s : State) : (modProc p f s).soft = s.soft := rfl
@[simp] theorem modProc_intg (p : Nat) (f : Proc → Proc) (s : State) : (modProc p f s).intg = s.intg := rfl
@[simp] theorem modProc_stg (p : Nat) (f : Proc → Proc) (s : State) : (modProc p f s).stg = s.stg := rfl
@[simp] theorem modProc_prm (p : Nat) (f : Proc → Proc) (s : State) : (modProc p f s).prm = s.prm := rfl
@[simp] theorem modProc_lath (p : Nat) (f : Proc → Proc) (s : State) : (modProc p f s).lath = s.lath := rfl
@[simp] theorem modProc_quad (p : Nat) (f : Proc → Proc) (s : State) : (modProc p f s).quad = s.quad := rfl
@[simp] theorem modProc_ch (p : Nat) (f : Proc → Proc) (s : State) : (modProc p f s).ch = s.ch := rfl
@[simp] theorem modProc_port (p : Nat) (f : Proc → Proc) (s : State) : (modProc p f s).port = s.port := rfl
@[simp] theorem modProc_fm (p : Nat) (f : Proc → Proc) (s : State) : (modProc p f s).fm = s.fm := rfl
@[simp] theorem modProc_pending (p : Nat) (f : Proc → Proc) (s : State) : (modProc p f s).pending = s.pending := rfl

/-! ## setDom -/

@[simp] theorem setDom_variant (d : Nat) (x : DomSt) (s : State) : (setDom d x s).variant = s.variant := rfl
@[simp] theorem setDom_time (d : Nat) (x : DomSt) (s : State) : (setDom d x s).time = s.time := rfl
@[simp] theorem setDom_free (d : Nat) (x : DomSt) (s : State) : (setDom d x s).free = s.free := rfl
@[simp] theorem setDom_pfail (d : Nat) (x : DomSt) (s : State) : (setDom d x s).pfail = s.pfail := rfl
@[simp] theorem setDom_brownout (d : Nat) (x : DomSt) (s : State) : (setDom d x s).brownout = s.brownout := rfl
@[simp] theorem setDom_gctl (d : Nat) (x : DomSt) (s : State) : (setDom d x s).gctl = s.gctl := rfl
@[simp] theorem setDom_tok (d : Nat) (x : DomSt) (s : State) : (setDom d x s).tok = s.tok := rfl
@[simp] theorem setDom_cal (d : Nat) (x : DomSt) (s : State) : (setDom d x s).cal = s.cal := rfl
@[simp] theorem setDom_srv (d : Nat) (x : DomSt) (s : State) : (setDom d x s).srv = s.srv := rfl
@[simp] theorem setDom_ic (d : Nat) (x : DomSt) (s : State) : (setDom d x s).ic = s.ic := rfl
@[simp] theorem setDom_str (d : Nat) (x : DomSt) (s : State) : (setDom d x s).str = s.str := rfl
@[simp] theorem setDom_hawk (d : Nat) (x : DomSt) (s : State) : (setDom d x s).hawk = s.hawk := rfl
@[simp] theorem setDom_eng (d : Nat) (x : DomSt) (s : State) : (setDom d x s).eng = s.eng := rfl
@[simp] theorem setDom_xfer (d : Nat) (x : DomSt) (s : State) : (setDom d x s).xfer = s.xfer := rfl
@[simp] theorem setDom_rnd (d : Nat) (x : DomSt) (s : State) : (setDom d x s).rnd = s.rnd := rfl
@[simp] theorem setDom_qe (d : Nat) (x : DomSt) (s : State) : (setDom d x s).qe = s.qe := rfl
@[simp] theorem setDom_plb (d : Nat) (x : DomSt) (s : State) : (setDom d x s).plb = s.plb := rfl
@[simp] theorem setDom_soft (d : Nat) (x : DomSt) (s : State) : (setDom d x s).soft = s.soft := rfl
@[simp] theorem setDom_intg (d : Nat) (x : DomSt) (s : State) : (setDom d x s).intg = s.intg := rfl
@[simp] theorem setDom_stg (d : Nat) (x : DomSt) (s : State) : (setDom d x s).stg = s.stg := rfl
@[simp] theorem setDom_prm (d : Nat) (x : DomSt) (s : State) : (setDom d x s).prm = s.prm := rfl
@[simp] theorem setDom_lath (d : Nat) (x : DomSt) (s : State) : (setDom d x s).lath = s.lath := rfl
@[simp] theorem setDom_quad (d : Nat) (x : DomSt) (s : State) : (setDom d x s).quad = s.quad := rfl
@[simp] theorem setDom_ch (d : Nat) (x : DomSt) (s : State) : (setDom d x s).ch = s.ch := rfl
@[simp] theorem setDom_port (d : Nat) (x : DomSt) (s : State) : (setDom d x s).port = s.port := rfl
@[simp] theorem setDom_fm (d : Nat) (x : DomSt) (s : State) : (setDom d x s).fm = s.fm := rfl
@[simp] theorem setDom_pending (d : Nat) (x : DomSt) (s : State) : (setDom d x s).pending = s.pending := rfl

/-! ## setDue -/

@[simp] theorem setDue_variant (d : Nat) (l : List DomReq) (s : State) : (setDue d l s).variant = s.variant := rfl
@[simp] theorem setDue_time (d : Nat) (l : List DomReq) (s : State) : (setDue d l s).time = s.time := rfl
@[simp] theorem setDue_free (d : Nat) (l : List DomReq) (s : State) : (setDue d l s).free = s.free := rfl
@[simp] theorem setDue_pfail (d : Nat) (l : List DomReq) (s : State) : (setDue d l s).pfail = s.pfail := rfl
@[simp] theorem setDue_brownout (d : Nat) (l : List DomReq) (s : State) : (setDue d l s).brownout = s.brownout := rfl
@[simp] theorem setDue_gctl (d : Nat) (l : List DomReq) (s : State) : (setDue d l s).gctl = s.gctl := rfl
@[simp] theorem setDue_tok (d : Nat) (l : List DomReq) (s : State) : (setDue d l s).tok = s.tok := rfl
@[simp] theorem setDue_cal (d : Nat) (l : List DomReq) (s : State) : (setDue d l s).cal = s.cal := rfl
@[simp] theorem setDue_srv (d : Nat) (l : List DomReq) (s : State) : (setDue d l s).srv = s.srv := rfl
@[simp] theorem setDue_ic (d : Nat) (l : List DomReq) (s : State) : (setDue d l s).ic = s.ic := rfl
@[simp] theorem setDue_str (d : Nat) (l : List DomReq) (s : State) : (setDue d l s).str = s.str := rfl
@[simp] theorem setDue_hawk (d : Nat) (l : List DomReq) (s : State) : (setDue d l s).hawk = s.hawk := rfl
@[simp] theorem setDue_eng (d : Nat) (l : List DomReq) (s : State) : (setDue d l s).eng = s.eng := rfl
@[simp] theorem setDue_xfer (d : Nat) (l : List DomReq) (s : State) : (setDue d l s).xfer = s.xfer := rfl
@[simp] theorem setDue_rnd (d : Nat) (l : List DomReq) (s : State) : (setDue d l s).rnd = s.rnd := rfl
@[simp] theorem setDue_qe (d : Nat) (l : List DomReq) (s : State) : (setDue d l s).qe = s.qe := rfl
@[simp] theorem setDue_plb (d : Nat) (l : List DomReq) (s : State) : (setDue d l s).plb = s.plb := rfl
@[simp] theorem setDue_soft (d : Nat) (l : List DomReq) (s : State) : (setDue d l s).soft = s.soft := rfl
@[simp] theorem setDue_intg (d : Nat) (l : List DomReq) (s : State) : (setDue d l s).intg = s.intg := rfl
@[simp] theorem setDue_stg (d : Nat) (l : List DomReq) (s : State) : (setDue d l s).stg = s.stg := rfl
@[simp] theorem setDue_prm (d : Nat) (l : List DomReq) (s : State) : (setDue d l s).prm = s.prm := rfl
@[simp] theorem setDue_lath (d : Nat) (l : List DomReq) (s : State) : (setDue d l s).lath = s.lath := rfl
@[simp] theorem setDue_quad (d : Nat) (l : List DomReq) (s : State) : (setDue d l s).quad = s.quad := rfl
@[simp] theorem setDue_ch (d : Nat) (l : List DomReq) (s : State) : (setDue d l s).ch = s.ch := rfl
@[simp] theorem setDue_port (d : Nat) (l : List DomReq) (s : State) : (setDue d l s).port = s.port := rfl
@[simp] theorem setDue_fm (d : Nat) (l : List DomReq) (s : State) : (setDue d l s).fm = s.fm := rfl
@[simp] theorem setDue_pending (d : Nat) (l : List DomReq) (s : State) : (setDue d l s).pending = s.pending := rfl

/-! ## setPend -/

@[simp] theorem setPend_variant (n : Nat) (b : Bool) (s : State) : (setPend n b s).variant = s.variant := rfl
@[simp] theorem setPend_time (n : Nat) (b : Bool) (s : State) : (setPend n b s).time = s.time := rfl
@[simp] theorem setPend_free (n : Nat) (b : Bool) (s : State) : (setPend n b s).free = s.free := rfl
@[simp] theorem setPend_pfail (n : Nat) (b : Bool) (s : State) : (setPend n b s).pfail = s.pfail := rfl
@[simp] theorem setPend_brownout (n : Nat) (b : Bool) (s : State) : (setPend n b s).brownout = s.brownout := rfl
@[simp] theorem setPend_gctl (n : Nat) (b : Bool) (s : State) : (setPend n b s).gctl = s.gctl := rfl
@[simp] theorem setPend_pwr (n : Nat) (b : Bool) (s : State) : (setPend n b s).pwr = s.pwr := rfl
@[simp] theorem setPend_tok (n : Nat) (b : Bool) (s : State) : (setPend n b s).tok = s.tok := rfl
@[simp] theorem setPend_cal (n : Nat) (b : Bool) (s : State) : (setPend n b s).cal = s.cal := rfl
@[simp] theorem setPend_srv (n : Nat) (b : Bool) (s : State) : (setPend n b s).srv = s.srv := rfl
@[simp] theorem setPend_str (n : Nat) (b : Bool) (s : State) : (setPend n b s).str = s.str := rfl
@[simp] theorem setPend_hawk (n : Nat) (b : Bool) (s : State) : (setPend n b s).hawk = s.hawk := rfl
@[simp] theorem setPend_eng (n : Nat) (b : Bool) (s : State) : (setPend n b s).eng = s.eng := rfl
@[simp] theorem setPend_xfer (n : Nat) (b : Bool) (s : State) : (setPend n b s).xfer = s.xfer := rfl
@[simp] theorem setPend_rnd (n : Nat) (b : Bool) (s : State) : (setPend n b s).rnd = s.rnd := rfl
@[simp] theorem setPend_qe (n : Nat) (b : Bool) (s : State) : (setPend n b s).qe = s.qe := rfl
@[simp] theorem setPend_plb (n : Nat) (b : Bool) (s : State) : (setPend n b s).plb = s.plb := rfl
@[simp] theorem setPend_soft (n : Nat) (b : Bool) (s : State) : (setPend n b s).soft = s.soft := rfl
@[simp] theorem setPend_intg (n : Nat) (b : Bool) (s : State) : (setPend n b s).intg = s.intg := rfl
@[simp] theorem setPend_stg (n : Nat) (b : Bool) (s : State) : (setPend n b s).stg = s.stg := rfl
@[simp] theorem setPend_prm (n : Nat) (b : Bool) (s : State) : (setPend n b s).prm = s.prm := rfl
@[simp] theorem setPend_lath (n : Nat) (b : Bool) (s : State) : (setPend n b s).lath = s.lath := rfl
@[simp] theorem setPend_quad (n : Nat) (b : Bool) (s : State) : (setPend n b s).quad = s.quad := rfl
@[simp] theorem setPend_ch (n : Nat) (b : Bool) (s : State) : (setPend n b s).ch = s.ch := rfl
@[simp] theorem setPend_port (n : Nat) (b : Bool) (s : State) : (setPend n b s).port = s.port := rfl
@[simp] theorem setPend_fm (n : Nat) (b : Bool) (s : State) : (setPend n b s).fm = s.fm := rfl
@[simp] theorem setPend_pending (n : Nat) (b : Bool) (s : State) : (setPend n b s).pending = s.pending := rfl

/-! ## post -/

@[simp] theorem post_variant (n : Nat) (s : State) : (post n s).variant = s.variant := rfl
@[simp] theorem post_time (n : Nat) (s : State) : (post n s).time = s.time := rfl
@[simp] theorem post_free (n : Nat) (s : State) : (post n s).free = s.free := rfl
@[simp] theorem post_pfail (n : Nat) (s : State) : (post n s).pfail = s.pfail := rfl
@[simp] theorem post_brownout (n : Nat) (s : State) : (post n s).brownout = s.brownout := rfl
@[simp] theorem post_gctl (n : Nat) (s : State) : (post n s).gctl = s.gctl := rfl
@[simp] theorem post_pwr (n : Nat) (s : State) : (post n s).pwr = s.pwr := rfl
@[simp] theorem post_tok (n : Nat) (s : State) : (post n s).tok = s.tok := rfl
@[simp] theorem post_cal (n : Nat) (s : State) : (post n s).cal = s.cal := rfl
@[simp] theorem post_srv (n : Nat) (s : State) : (post n s).srv = s.srv := rfl
@[simp] theorem post_str (n : Nat) (s : State) : (post n s).str = s.str := rfl
@[simp] theorem post_hawk (n : Nat) (s : State) : (post n s).hawk = s.hawk := rfl
@[simp] theorem post_eng (n : Nat) (s : State) : (post n s).eng = s.eng := rfl
@[simp] theorem post_xfer (n : Nat) (s : State) : (post n s).xfer = s.xfer := rfl
@[simp] theorem post_rnd (n : Nat) (s : State) : (post n s).rnd = s.rnd := rfl
@[simp] theorem post_qe (n : Nat) (s : State) : (post n s).qe = s.qe := rfl
@[simp] theorem post_plb (n : Nat) (s : State) : (post n s).plb = s.plb := rfl
@[simp] theorem post_soft (n : Nat) (s : State) : (post n s).soft = s.soft := rfl
@[simp] theorem post_intg (n : Nat) (s : State) : (post n s).intg = s.intg := rfl
@[simp] theorem post_stg (n : Nat) (s : State) : (post n s).stg = s.stg := rfl
@[simp] theorem post_prm (n : Nat) (s : State) : (post n s).prm = s.prm := rfl
@[simp] theorem post_lath (n : Nat) (s : State) : (post n s).lath = s.lath := rfl
@[simp] theorem post_quad (n : Nat) (s : State) : (post n s).quad = s.quad := rfl
@[simp] theorem post_ch (n : Nat) (s : State) : (post n s).ch = s.ch := rfl
@[simp] theorem post_port (n : Nat) (s : State) : (post n s).port = s.port := rfl
@[simp] theorem post_fm (n : Nat) (s : State) : (post n s).fm = s.fm := rfl
@[simp] theorem post_pending (n : Nat) (s : State) : (post n s).pending = s.pending := rfl

/-! ## respond -/

@[simp] theorem respond_variant (rs : List PResp) (s : State) : (respond rs s).variant = s.variant := rfl
@[simp] theorem respond_time (rs : List PResp) (s : State) : (respond rs s).time = s.time := rfl
@[simp] theorem respond_free (rs : List PResp) (s : State) : (respond rs s).free = s.free := rfl
@[simp] theorem respond_pfail (rs : List PResp) (s : State) : (respond rs s).pfail = s.pfail := rfl
@[simp] theorem respond_brownout (rs : List PResp) (s : State) : (respond rs s).brownout = s.brownout := rfl
@[simp] theorem respond_gctl (rs : List PResp) (s : State) : (respond rs s).gctl = s.gctl := rfl
@[simp] theorem respond_pwr (rs : List PResp) (s : State) : (respond rs s).pwr = s.pwr := rfl
@[simp] theorem respond_tok (rs : List PResp) (s : State) : (respond rs s).tok = s.tok := rfl
@[simp] theorem respond_cal (rs : List PResp) (s : State) : (respond rs s).cal = s.cal := rfl
@[simp] theorem respond_srv (rs : List PResp) (s : State) : (respond rs s).srv = s.srv := rfl
@[simp] theorem respond_ic (rs : List PResp) (s : State) : (respond rs s).ic = s.ic := rfl
@[simp] theorem respond_str (rs : List PResp) (s : State) : (respond rs s).str = s.str := rfl
@[simp] theorem respond_hawk (rs : List PResp) (s : State) : (respond rs s).hawk = s.hawk := rfl
@[simp] theorem respond_eng (rs : List PResp) (s : State) : (respond rs s).eng = s.eng := rfl
@[simp] theorem respond_xfer (rs : List PResp) (s : State) : (respond rs s).xfer = s.xfer := rfl
@[simp] theorem respond_rnd (rs : List PResp) (s : State) : (respond rs s).rnd = s.rnd := rfl
@[simp] theorem respond_qe (rs : List PResp) (s : State) : (respond rs s).qe = s.qe := rfl
@[simp] theorem respond_plb (rs : List PResp) (s : State) : (respond rs s).plb = s.plb := rfl
@[simp] theorem respond_soft (rs : List PResp) (s : State) : (respond rs s).soft = s.soft := rfl
@[simp] theorem respond_intg (rs : List PResp) (s : State) : (respond rs s).intg = s.intg := rfl
@[simp] theorem respond_stg (rs : List PResp) (s : State) : (respond rs s).stg = s.stg := rfl
@[simp] theorem respond_prm (rs : List PResp) (s : State) : (respond rs s).prm = s.prm := rfl
@[simp] theorem respond_lath (rs : List PResp) (s : State) : (respond rs s).lath = s.lath := rfl
@[simp] theorem respond_quad (rs : List PResp) (s : State) : (respond rs s).quad = s.quad := rfl
@[simp] theorem respond_ch (rs : List PResp) (s : State) : (respond rs s).ch = s.ch := rfl
@[simp] theorem respond_fm (rs : List PResp) (s : State) : (respond rs s).fm = s.fm := rfl
@[simp] theorem respond_pending (rs : List PResp) (s : State) : (respond rs s).pending = s.pending := rfl

/-! ## modChRec -/

@[simp] theorem modChRec_variant (c : Chan) (f : ChRec → ChRec) (s : State) : (modChRec c f s).variant = s.variant := rfl
@[simp] theorem modChRec_time (c : Chan) (f : ChRec → ChRec) (s : State) : (modChRec c f s).time = s.time := rfl
@[simp] theorem modChRec_free (c : Chan) (f : ChRec → ChRec) (s : State) : (modChRec c f s).free = s.free := rfl
@[simp] theorem modChRec_pfail (c : Chan) (f : ChRec → ChRec) (s : State) : (modChRec c f s).pfail = s.pfail := rfl
@[simp] theorem modChRec_brownout (c : Chan) (f : ChRec → ChRec) (s : State) : (modChRec c f s).brownout = s.brownout := rfl
@[simp] theorem modChRec_gctl (c : Chan) (f : ChRec → ChRec) (s : State) : (modChRec c f s).gctl = s.gctl := rfl
@[simp] theorem modChRec_pwr (c : Chan) (f : ChRec → ChRec) (s : State) : (modChRec c f s).pwr = s.pwr := rfl
@[simp] theorem modChRec_tok (c : Chan) (f : ChRec → ChRec) (s : State) : (modChRec c f s).tok = s.tok := rfl
@[simp] theorem modChRec_srv (c : Chan) (f : ChRec → ChRec) (s : State) : (modChRec c f s).srv = s.srv := rfl
@[simp] theorem modChRec_ic (c : Chan) (f : ChRec → ChRec) (s : State) : (modChRec c f s).ic = s.ic := rfl
@[simp] theorem modChRec_str (c : Chan) (f : ChRec → ChRec) (s : State) : (modChRec c f s).str = s.str := rfl
@[simp] theorem modChRec_hawk (c : Chan) (f : ChRec → ChRec) (s : State) : (modChRec c f s).hawk = s.hawk := rfl
@[simp] theorem modChRec_eng (c : Chan) (f : ChRec → ChRec) (s : State) : (modChRec c f s).eng = s.eng := rfl
@[simp] theorem modChRec_xfer (c : Chan) (f : ChRec → ChRec) (s : State) : (modChRec c f s).xfer = s.xfer := rfl
@[simp] theorem modChRec_rnd (c : Chan) (f : ChRec → ChRec) (s : State) : (modChRec c f s).rnd = s.rnd := rfl
@[simp] theorem modChRec_qe (c : Chan) (f : ChRec → ChRec) (s : State) : (modChRec c f s).qe = s.qe := rfl
@[simp] theorem modChRec_plb (c : Chan) (f : ChRec → ChRec) (s : State) : (modChRec c f s).plb = s.plb := rfl
@[simp] theorem modChRec_soft (c : Chan) (f : ChRec → ChRec) (s : State) : (modChRec c f s).soft = s.soft := rfl
@[simp] theorem modChRec_intg (c : Chan) (f : ChRec → ChRec) (s : State) : (modChRec c f s).intg = s.intg := rfl
@[simp] theorem modChRec_stg (c : Chan) (f : ChRec → ChRec) (s : State) : (modChRec c f s).stg = s.stg := rfl
@[simp] theorem modChRec_prm (c : Chan) (f : ChRec → ChRec) (s : State) : (modChRec c f s).prm = s.prm := rfl
@[simp] theorem modChRec_lath (c : Chan) (f : ChRec → ChRec) (s : State) : (modChRec c f s).lath = s.lath := rfl
@[simp] theorem modChRec_quad (c : Chan) (f : ChRec → ChRec) (s : State) : (modChRec c f s).quad = s.quad := rfl
@[simp] theorem modChRec_ch (c : Chan) (f : ChRec → ChRec) (s : State) : (modChRec c f s).ch = s.ch := rfl
@[simp] theorem modChRec_port (c : Chan) (f : ChRec → ChRec) (s : State) : (modChRec c f s).port = s.port := rfl
@[simp] theorem modChRec_fm (c : Chan) (f : ChRec → ChRec) (s : State) : (modChRec c f s).fm = s.fm := rfl
@[simp] theorem modChRec_pending (c : Chan) (f : ChRec → ChRec) (s : State) : (modChRec c f s).pending = s.pending := rfl

/-! ## modDieRec -/

@[simp] theorem modDieRec_variant (i : Nat) (f : DieRec → DieRec) (s : State) : (modDieRec i f s).variant = s.variant := rfl
@[simp] theorem modDieRec_time (i : Nat) (f : DieRec → DieRec) (s : State) : (modDieRec i f s).time = s.time := rfl
@[simp] theorem modDieRec_free (i : Nat) (f : DieRec → DieRec) (s : State) : (modDieRec i f s).free = s.free := rfl
@[simp] theorem modDieRec_pfail (i : Nat) (f : DieRec → DieRec) (s : State) : (modDieRec i f s).pfail = s.pfail := rfl
@[simp] theorem modDieRec_brownout (i : Nat) (f : DieRec → DieRec) (s : State) : (modDieRec i f s).brownout = s.brownout := rfl
@[simp] theorem modDieRec_gctl (i : Nat) (f : DieRec → DieRec) (s : State) : (modDieRec i f s).gctl = s.gctl := rfl
@[simp] theorem modDieRec_pwr (i : Nat) (f : DieRec → DieRec) (s : State) : (modDieRec i f s).pwr = s.pwr := rfl
@[simp] theorem modDieRec_tok (i : Nat) (f : DieRec → DieRec) (s : State) : (modDieRec i f s).tok = s.tok := rfl
@[simp] theorem modDieRec_srv (i : Nat) (f : DieRec → DieRec) (s : State) : (modDieRec i f s).srv = s.srv := rfl
@[simp] theorem modDieRec_ic (i : Nat) (f : DieRec → DieRec) (s : State) : (modDieRec i f s).ic = s.ic := rfl
@[simp] theorem modDieRec_str (i : Nat) (f : DieRec → DieRec) (s : State) : (modDieRec i f s).str = s.str := rfl
@[simp] theorem modDieRec_hawk (i : Nat) (f : DieRec → DieRec) (s : State) : (modDieRec i f s).hawk = s.hawk := rfl
@[simp] theorem modDieRec_eng (i : Nat) (f : DieRec → DieRec) (s : State) : (modDieRec i f s).eng = s.eng := rfl
@[simp] theorem modDieRec_xfer (i : Nat) (f : DieRec → DieRec) (s : State) : (modDieRec i f s).xfer = s.xfer := rfl
@[simp] theorem modDieRec_rnd (i : Nat) (f : DieRec → DieRec) (s : State) : (modDieRec i f s).rnd = s.rnd := rfl
@[simp] theorem modDieRec_qe (i : Nat) (f : DieRec → DieRec) (s : State) : (modDieRec i f s).qe = s.qe := rfl
@[simp] theorem modDieRec_plb (i : Nat) (f : DieRec → DieRec) (s : State) : (modDieRec i f s).plb = s.plb := rfl
@[simp] theorem modDieRec_soft (i : Nat) (f : DieRec → DieRec) (s : State) : (modDieRec i f s).soft = s.soft := rfl
@[simp] theorem modDieRec_intg (i : Nat) (f : DieRec → DieRec) (s : State) : (modDieRec i f s).intg = s.intg := rfl
@[simp] theorem modDieRec_stg (i : Nat) (f : DieRec → DieRec) (s : State) : (modDieRec i f s).stg = s.stg := rfl
@[simp] theorem modDieRec_prm (i : Nat) (f : DieRec → DieRec) (s : State) : (modDieRec i f s).prm = s.prm := rfl
@[simp] theorem modDieRec_lath (i : Nat) (f : DieRec → DieRec) (s : State) : (modDieRec i f s).lath = s.lath := rfl
@[simp] theorem modDieRec_quad (i : Nat) (f : DieRec → DieRec) (s : State) : (modDieRec i f s).quad = s.quad := rfl
@[simp] theorem modDieRec_ch (i : Nat) (f : DieRec → DieRec) (s : State) : (modDieRec i f s).ch = s.ch := rfl
@[simp] theorem modDieRec_port (i : Nat) (f : DieRec → DieRec) (s : State) : (modDieRec i f s).port = s.port := rfl
@[simp] theorem modDieRec_fm (i : Nat) (f : DieRec → DieRec) (s : State) : (modDieRec i f s).fm = s.fm := rfl
@[simp] theorem modDieRec_pending (i : Nat) (f : DieRec → DieRec) (s : State) : (modDieRec i f s).pending = s.pending := rfl

/-! ## modEntry -/

@[simp] theorem modEntry_variant (id : Nat) (f : Entry → Entry) (s : State) : (modEntry id f s).variant = s.variant := rfl
@[simp] theorem modEntry_time (id : Nat) (f : Entry → Entry) (s : State) : (modEntry id f s).time = s.time := rfl
@[simp] theorem modEntry_free (id : Nat) (f : Entry → Entry) (s : State) : (modEntry id f s).free = s.free := rfl
@[simp] theorem modEntry_pfail (id : Nat) (f : Entry → Entry) (s : State) : (modEntry id f s).pfail = s.pfail := rfl
@[simp] theorem modEntry_brownout (id : Nat) (f : Entry → Entry) (s : State) : (modEntry id f s).brownout = s.brownout := rfl
@[simp] theorem modEntry_gctl (id : Nat) (f : Entry → Entry) (s : State) : (modEntry id f s).gctl = s.gctl := rfl
@[simp] theorem modEntry_pwr (id : Nat) (f : Entry → Entry) (s : State) : (modEntry id f s).pwr = s.pwr := rfl
@[simp] theorem modEntry_tok (id : Nat) (f : Entry → Entry) (s : State) : (modEntry id f s).tok = s.tok := rfl
@[simp] theorem modEntry_cal (id : Nat) (f : Entry → Entry) (s : State) : (modEntry id f s).cal = s.cal := rfl
@[simp] theorem modEntry_srv (id : Nat) (f : Entry → Entry) (s : State) : (modEntry id f s).srv = s.srv := rfl
@[simp] theorem modEntry_ic (id : Nat) (f : Entry → Entry) (s : State) : (modEntry id f s).ic = s.ic := rfl
@[simp] theorem modEntry_str (id : Nat) (f : Entry → Entry) (s : State) : (modEntry id f s).str = s.str := rfl
@[simp] theorem modEntry_hawk (id : Nat) (f : Entry → Entry) (s : State) : (modEntry id f s).hawk = s.hawk := rfl
@[simp] theorem modEntry_eng (id : Nat) (f : Entry → Entry) (s : State) : (modEntry id f s).eng = s.eng := rfl
@[simp] theorem modEntry_xfer (id : Nat) (f : Entry → Entry) (s : State) : (modEntry id f s).xfer = s.xfer := rfl
@[simp] theorem modEntry_rnd (id : Nat) (f : Entry → Entry) (s : State) : (modEntry id f s).rnd = s.rnd := rfl
@[simp] theorem modEntry_plb (id : Nat) (f : Entry → Entry) (s : State) : (modEntry id f s).plb = s.plb := rfl
@[simp] theorem modEntry_soft (id : Nat) (f : Entry → Entry) (s : State) : (modEntry id f s).soft = s.soft := rfl
@[simp] theorem modEntry_intg (id : Nat) (f : Entry → Entry) (s : State) : (modEntry id f s).intg = s.intg := rfl
@[simp] theorem modEntry_stg (id : Nat) (f : Entry → Entry) (s : State) : (modEntry id f s).stg = s.stg := rfl
@[simp] theorem modEntry_prm (id : Nat) (f : Entry → Entry) (s : State) : (modEntry id f s).prm = s.prm := rfl
@[simp] theorem modEntry_lath (id : Nat) (f : Entry → Entry) (s : State) : (modEntry id f s).lath = s.lath := rfl
@[simp] theorem modEntry_quad (id : Nat) (f : Entry → Entry) (s : State) : (modEntry id f s).quad = s.quad := rfl
@[simp] theorem modEntry_ch (id : Nat) (f : Entry → Entry) (s : State) : (modEntry id f s).ch = s.ch := rfl
@[simp] theorem modEntry_port (id : Nat) (f : Entry → Entry) (s : State) : (modEntry id f s).port = s.port := rfl
@[simp] theorem modEntry_fm (id : Nat) (f : Entry → Entry) (s : State) : (modEntry id f s).fm = s.fm := rfl
@[simp] theorem modEntry_pending (id : Nat) (f : Entry → Entry) (s : State) : (modEntry id f s).pending = s.pending := rfl

/-! ## dropEntry -/

@[simp] theorem dropEntry_variant (id : Nat) (s : State) : (dropEntry id s).variant = s.variant := rfl
@[simp] theorem dropEntry_time (id : Nat) (s : State) : (dropEntry id s).time = s.time := rfl
@[simp] theorem dropEntry_free (id : Nat) (s : State) : (dropEntry id s).free = s.free := rfl
@[simp] theorem dropEntry_pfail (id : Nat) (s : State) : (dropEntry id s).pfail = s.pfail := rfl
@[simp] theorem dropEntry_brownout (id : Nat) (s : State) : (dropEntry id s).brownout = s.brownout := rfl
@[simp] theorem dropEntry_gctl (id : Nat) (s : State) : (dropEntry id s).gctl = s.gctl := rfl
@[simp] theorem dropEntry_pwr (id : Nat) (s : State) : (dropEntry id s).pwr = s.pwr := rfl
@[simp] theorem dropEntry_tok (id : Nat) (s : State) : (dropEntry id s).tok = s.tok := rfl
@[simp] theorem dropEntry_cal (id : Nat) (s : State) : (dropEntry id s).cal = s.cal := rfl
@[simp] theorem dropEntry_srv (id : Nat) (s : State) : (dropEntry id s).srv = s.srv := rfl
@[simp] theorem dropEntry_ic (id : Nat) (s : State) : (dropEntry id s).ic = s.ic := rfl
@[simp] theorem dropEntry_str (id : Nat) (s : State) : (dropEntry id s).str = s.str := rfl
@[simp] theorem dropEntry_hawk (id : Nat) (s : State) : (dropEntry id s).hawk = s.hawk := rfl
@[simp] theorem dropEntry_eng (id : Nat) (s : State) : (dropEntry id s).eng = s.eng := rfl
@[simp] theorem dropEntry_xfer (id : Nat) (s : State) : (dropEntry id s).xfer = s.xfer := rfl
@[simp] theorem dropEntry_rnd (id : Nat) (s : State) : (dropEntry id s).rnd = s.rnd := rfl
@[simp] theorem dropEntry_plb (id : Nat) (s : State) : (dropEntry id s).plb = s.plb := rfl
@[simp] theorem dropEntry_soft (id : Nat) (s : State) : (dropEntry id s).soft = s.soft := rfl
@[simp] theorem dropEntry_intg (id : Nat) (s : State) : (dropEntry id s).intg = s.intg := rfl
@[simp] theorem dropEntry_stg (id : Nat) (s : State) : (dropEntry id s).stg = s.stg := rfl
@[simp] theorem dropEntry_prm (id : Nat) (s : State) : (dropEntry id s).prm = s.prm := rfl
@[simp] theorem dropEntry_lath (id : Nat) (s : State) : (dropEntry id s).lath = s.lath := rfl
@[simp] theorem dropEntry_quad (id : Nat) (s : State) : (dropEntry id s).quad = s.quad := rfl
@[simp] theorem dropEntry_ch (id : Nat) (s : State) : (dropEntry id s).ch = s.ch := rfl
@[simp] theorem dropEntry_port (id : Nat) (s : State) : (dropEntry id s).port = s.port := rfl
@[simp] theorem dropEntry_fm (id : Nat) (s : State) : (dropEntry id s).fm = s.fm := rfl
@[simp] theorem dropEntry_pending (id : Nat) (s : State) : (dropEntry id s).pending = s.pending := rfl

/-! ## modQctx -/

@[simp] theorem modQctx_variant (k : Nat) (f : QCtx → QCtx) (s : State) : (modQctx k f s).variant = s.variant := rfl
@[simp] theorem modQctx_time (k : Nat) (f : QCtx → QCtx) (s : State) : (modQctx k f s).time = s.time := rfl
@[simp] theorem modQctx_free (k : Nat) (f : QCtx → QCtx) (s : State) : (modQctx k f s).free = s.free := rfl
@[simp] theorem modQctx_pfail (k : Nat) (f : QCtx → QCtx) (s : State) : (modQctx k f s).pfail = s.pfail := rfl
@[simp] theorem modQctx_brownout (k : Nat) (f : QCtx → QCtx) (s : State) : (modQctx k f s).brownout = s.brownout := rfl
@[simp] theorem modQctx_gctl (k : Nat) (f : QCtx → QCtx) (s : State) : (modQctx k f s).gctl = s.gctl := rfl
@[simp] theorem modQctx_pwr (k : Nat) (f : QCtx → QCtx) (s : State) : (modQctx k f s).pwr = s.pwr := rfl
@[simp] theorem modQctx_tok (k : Nat) (f : QCtx → QCtx) (s : State) : (modQctx k f s).tok = s.tok := rfl
@[simp] theorem modQctx_cal (k : Nat) (f : QCtx → QCtx) (s : State) : (modQctx k f s).cal = s.cal := rfl
@[simp] theorem modQctx_srv (k : Nat) (f : QCtx → QCtx) (s : State) : (modQctx k f s).srv = s.srv := rfl
@[simp] theorem modQctx_ic (k : Nat) (f : QCtx → QCtx) (s : State) : (modQctx k f s).ic = s.ic := rfl
@[simp] theorem modQctx_str (k : Nat) (f : QCtx → QCtx) (s : State) : (modQctx k f s).str = s.str := rfl
@[simp] theorem modQctx_hawk (k : Nat) (f : QCtx → QCtx) (s : State) : (modQctx k f s).hawk = s.hawk := rfl
@[simp] theorem modQctx_eng (k : Nat) (f : QCtx → QCtx) (s : State) : (modQctx k f s).eng = s.eng := rfl
@[simp] theorem modQctx_xfer (k : Nat) (f : QCtx → QCtx) (s : State) : (modQctx k f s).xfer = s.xfer := rfl
@[simp] theorem modQctx_rnd (k : Nat) (f : QCtx → QCtx) (s : State) : (modQctx k f s).rnd = s.rnd := rfl
@[simp] theorem modQctx_plb (k : Nat) (f : QCtx → QCtx) (s : State) : (modQctx k f s).plb = s.plb := rfl
@[simp] theorem modQctx_soft (k : Nat) (f : QCtx → QCtx) (s : State) : (modQctx k f s).soft = s.soft := rfl
@[simp] theorem modQctx_intg (k : Nat) (f : QCtx → QCtx) (s : State) : (modQctx k f s).intg = s.intg := rfl
@[simp] theorem modQctx_stg (k : Nat) (f : QCtx → QCtx) (s : State) : (modQctx k f s).stg = s.stg := rfl
@[simp] theorem modQctx_prm (k : Nat) (f : QCtx → QCtx) (s : State) : (modQctx k f s).prm = s.prm := rfl
@[simp] theorem modQctx_lath (k : Nat) (f : QCtx → QCtx) (s : State) : (modQctx k f s).lath = s.lath := rfl
@[simp] theorem modQctx_quad (k : Nat) (f : QCtx → QCtx) (s : State) : (modQctx k f s).quad = s.quad := rfl
@[simp] theorem modQctx_ch (k : Nat) (f : QCtx → QCtx) (s : State) : (modQctx k f s).ch = s.ch := rfl
@[simp] theorem modQctx_port (k : Nat) (f : QCtx → QCtx) (s : State) : (modQctx k f s).port = s.port := rfl
@[simp] theorem modQctx_fm (k : Nat) (f : QCtx → QCtx) (s : State) : (modQctx k f s).fm = s.fm := rfl
@[simp] theorem modQctx_pending (k : Nat) (f : QCtx → QCtx) (s : State) : (modQctx k f s).pending = s.pending := rfl

/-! ## modXfer -/

@[simp] theorem modXfer_variant (x : XferRef) (f : Xfer → Xfer) (s : State) : (modXfer x f s).variant = s.variant := rfl
@[simp] theorem modXfer_time (x : XferRef) (f : Xfer → Xfer) (s : State) : (modXfer x f s).time = s.time := rfl
@[simp] theorem modXfer_free (x : XferRef) (f : Xfer → Xfer) (s : State) : (modXfer x f s).free = s.free := rfl
@[simp] theorem modXfer_pfail (x : XferRef) (f : Xfer → Xfer) (s : State) : (modXfer x f s).pfail = s.pfail := rfl
@[simp] theorem modXfer_brownout (x : XferRef) (f : Xfer → Xfer) (s : State) : (modXfer x f s).brownout = s.brownout := rfl
@[simp] theorem modXfer_gctl (x : XferRef) (f : Xfer → Xfer) (s : State) : (modXfer x f s).gctl = s.gctl := rfl
@[simp] theorem modXfer_pwr (x : XferRef) (f : Xfer → Xfer) (s : State) : (modXfer x f s).pwr = s.pwr := rfl
@[simp] theorem modXfer_tok (x : XferRef) (f : Xfer → Xfer) (s : State) : (modXfer x f s).tok = s.tok := rfl
@[simp] theorem modXfer_cal (x : XferRef) (f : Xfer → Xfer) (s : State) : (modXfer x f s).cal = s.cal := rfl
@[simp] theorem modXfer_srv (x : XferRef) (f : Xfer → Xfer) (s : State) : (modXfer x f s).srv = s.srv := rfl
@[simp] theorem modXfer_ic (x : XferRef) (f : Xfer → Xfer) (s : State) : (modXfer x f s).ic = s.ic := rfl
@[simp] theorem modXfer_str (x : XferRef) (f : Xfer → Xfer) (s : State) : (modXfer x f s).str = s.str := rfl
@[simp] theorem modXfer_hawk (x : XferRef) (f : Xfer → Xfer) (s : State) : (modXfer x f s).hawk = s.hawk := rfl
@[simp] theorem modXfer_eng (x : XferRef) (f : Xfer → Xfer) (s : State) : (modXfer x f s).eng = s.eng := rfl
@[simp] theorem modXfer_rnd (x : XferRef) (f : Xfer → Xfer) (s : State) : (modXfer x f s).rnd = s.rnd := rfl
@[simp] theorem modXfer_qe (x : XferRef) (f : Xfer → Xfer) (s : State) : (modXfer x f s).qe = s.qe := rfl
@[simp] theorem modXfer_plb (x : XferRef) (f : Xfer → Xfer) (s : State) : (modXfer x f s).plb = s.plb := rfl
@[simp] theorem modXfer_soft (x : XferRef) (f : Xfer → Xfer) (s : State) : (modXfer x f s).soft = s.soft := rfl
@[simp] theorem modXfer_intg (x : XferRef) (f : Xfer → Xfer) (s : State) : (modXfer x f s).intg = s.intg := rfl
@[simp] theorem modXfer_stg (x : XferRef) (f : Xfer → Xfer) (s : State) : (modXfer x f s).stg = s.stg := rfl
@[simp] theorem modXfer_prm (x : XferRef) (f : Xfer → Xfer) (s : State) : (modXfer x f s).prm = s.prm := rfl
@[simp] theorem modXfer_lath (x : XferRef) (f : Xfer → Xfer) (s : State) : (modXfer x f s).lath = s.lath := rfl
@[simp] theorem modXfer_quad (x : XferRef) (f : Xfer → Xfer) (s : State) : (modXfer x f s).quad = s.quad := rfl
@[simp] theorem modXfer_ch (x : XferRef) (f : Xfer → Xfer) (s : State) : (modXfer x f s).ch = s.ch := rfl
@[simp] theorem modXfer_port (x : XferRef) (f : Xfer → Xfer) (s : State) : (modXfer x f s).port = s.port := rfl
@[simp] theorem modXfer_fm (x : XferRef) (f : Xfer → Xfer) (s : State) : (modXfer x f s).fm = s.fm := rfl
@[simp] theorem modXfer_pending (x : XferRef) (f : Xfer → Xfer) (s : State) : (modXfer x f s).pending = s.pending := rfl

/-! ## dropXfer -/

@[simp] theorem dropXfer_variant (x : XferRef) (s : State) : (dropXfer x s).variant = s.variant := rfl
@[simp] theorem dropXfer_time (x : XferRef) (s : State) : (dropXfer x s).time = s.time := rfl
@[simp] theorem dropXfer_free (x : XferRef) (s : State) : (dropXfer x s).free = s.free := rfl
@[simp] theorem dropXfer_pfail (x : XferRef) (s : State) : (dropXfer x s).pfail = s.pfail := rfl
@[simp] theorem dropXfer_brownout (x : XferRef) (s : State) : (dropXfer x s).brownout = s.brownout := rfl
@[simp] theorem dropXfer_gctl (x : XferRef) (s : State) : (dropXfer x s).gctl = s.gctl := rfl
@[simp] theorem dropXfer_pwr (x : XferRef) (s : State) : (dropXfer x s).pwr = s.pwr := rfl
@[simp] theorem dropXfer_tok (x : XferRef) (s : State) : (dropXfer x s).tok = s.tok := rfl
@[simp] theorem dropXfer_cal (x : XferRef) (s : State) : (dropXfer x s).cal = s.cal := rfl
@[simp] theorem dropXfer_srv (x : XferRef) (s : State) : (dropXfer x s).srv = s.srv := rfl
@[simp] theorem dropXfer_ic (x : XferRef) (s : State) : (dropXfer x s).ic = s.ic := rfl
@[simp] theorem dropXfer_str (x : XferRef) (s : State) : (dropXfer x s).str = s.str := rfl
@[simp] theorem dropXfer_hawk (x : XferRef) (s : State) : (dropXfer x s).hawk = s.hawk := rfl
@[simp] theorem dropXfer_eng (x : XferRef) (s : State) : (dropXfer x s).eng = s.eng := rfl
@[simp] theorem dropXfer_rnd (x : XferRef) (s : State) : (dropXfer x s).rnd = s.rnd := rfl
@[simp] theorem dropXfer_qe (x : XferRef) (s : State) : (dropXfer x s).qe = s.qe := rfl
@[simp] theorem dropXfer_plb (x : XferRef) (s : State) : (dropXfer x s).plb = s.plb := rfl
@[simp] theorem dropXfer_soft (x : XferRef) (s : State) : (dropXfer x s).soft = s.soft := rfl
@[simp] theorem dropXfer_intg (x : XferRef) (s : State) : (dropXfer x s).intg = s.intg := rfl
@[simp] theorem dropXfer_stg (x : XferRef) (s : State) : (dropXfer x s).stg = s.stg := rfl
@[simp] theorem dropXfer_prm (x : XferRef) (s : State) : (dropXfer x s).prm = s.prm := rfl
@[simp] theorem dropXfer_lath (x : XferRef) (s : State) : (dropXfer x s).lath = s.lath := rfl
@[simp] theorem dropXfer_quad (x : XferRef) (s : State) : (dropXfer x s).quad = s.quad := rfl
@[simp] theorem dropXfer_ch (x : XferRef) (s : State) : (dropXfer x s).ch = s.ch := rfl
@[simp] theorem dropXfer_port (x : XferRef) (s : State) : (dropXfer x s).port = s.port := rfl
@[simp] theorem dropXfer_fm (x : XferRef) (s : State) : (dropXfer x s).fm = s.fm := rfl
@[simp] theorem dropXfer_pending (x : XferRef) (s : State) : (dropXfer x s).pending = s.pending := rfl

/-! ## issueFm -/

@[simp] theorem issueFm_variant (r : FmReq) (s : State) : (issueFm r s).variant = s.variant := rfl
@[simp] theorem issueFm_time (r : FmReq) (s : State) : (issueFm r s).time = s.time := rfl
@[simp] theorem issueFm_free (r : FmReq) (s : State) : (issueFm r s).free = s.free := rfl
@[simp] theorem issueFm_pfail (r : FmReq) (s : State) : (issueFm r s).pfail = s.pfail := rfl
@[simp] theorem issueFm_brownout (r : FmReq) (s : State) : (issueFm r s).brownout = s.brownout := rfl
@[simp] theorem issueFm_gctl (r : FmReq) (s : State) : (issueFm r s).gctl = s.gctl := rfl
@[simp] theorem issueFm_pwr (r : FmReq) (s : State) : (issueFm r s).pwr = s.pwr := rfl
@[simp] theorem issueFm_tok (r : FmReq) (s : State) : (issueFm r s).tok = s.tok := rfl
@[simp] theorem issueFm_cal (r : FmReq) (s : State) : (issueFm r s).cal = s.cal := rfl
@[simp] theorem issueFm_srv (r : FmReq) (s : State) : (issueFm r s).srv = s.srv := rfl
@[simp] theorem issueFm_ic (r : FmReq) (s : State) : (issueFm r s).ic = s.ic := rfl
@[simp] theorem issueFm_str (r : FmReq) (s : State) : (issueFm r s).str = s.str := rfl
@[simp] theorem issueFm_hawk (r : FmReq) (s : State) : (issueFm r s).hawk = s.hawk := rfl
@[simp] theorem issueFm_eng (r : FmReq) (s : State) : (issueFm r s).eng = s.eng := rfl
@[simp] theorem issueFm_xfer (r : FmReq) (s : State) : (issueFm r s).xfer = s.xfer := rfl
@[simp] theorem issueFm_rnd (r : FmReq) (s : State) : (issueFm r s).rnd = s.rnd := rfl
@[simp] theorem issueFm_qe (r : FmReq) (s : State) : (issueFm r s).qe = s.qe := rfl
@[simp] theorem issueFm_plb (r : FmReq) (s : State) : (issueFm r s).plb = s.plb := rfl
@[simp] theorem issueFm_soft (r : FmReq) (s : State) : (issueFm r s).soft = s.soft := rfl
@[simp] theorem issueFm_intg (r : FmReq) (s : State) : (issueFm r s).intg = s.intg := rfl
@[simp] theorem issueFm_stg (r : FmReq) (s : State) : (issueFm r s).stg = s.stg := rfl
@[simp] theorem issueFm_prm (r : FmReq) (s : State) : (issueFm r s).prm = s.prm := rfl
@[simp] theorem issueFm_lath (r : FmReq) (s : State) : (issueFm r s).lath = s.lath := rfl
@[simp] theorem issueFm_quad (r : FmReq) (s : State) : (issueFm r s).quad = s.quad := rfl
@[simp] theorem issueFm_ch (r : FmReq) (s : State) : (issueFm r s).ch = s.ch := rfl
@[simp] theorem issueFm_port (r : FmReq) (s : State) : (issueFm r s).port = s.port := rfl
@[simp] theorem issueFm_pending (r : FmReq) (s : State) : (issueFm r s).pending = s.pending := rfl

/-! ## modIntg -/

@[simp] theorem modIntg_variant (f : Intg → Intg) (s : State) : (modIntg f s).variant = s.variant := rfl
@[simp] theorem modIntg_time (f : Intg → Intg) (s : State) : (modIntg f s).time = s.time := rfl
@[simp] theorem modIntg_free (f : Intg → Intg) (s : State) : (modIntg f s).free = s.free := rfl
@[simp] theorem modIntg_pfail (f : Intg → Intg) (s : State) : (modIntg f s).pfail = s.pfail := rfl
@[simp] theorem modIntg_brownout (f : Intg → Intg) (s : State) : (modIntg f s).brownout = s.brownout := rfl
@[simp] theorem modIntg_gctl (f : Intg → Intg) (s : State) : (modIntg f s).gctl = s.gctl := rfl
@[simp] theorem modIntg_pwr (f : Intg → Intg) (s : State) : (modIntg f s).pwr = s.pwr := rfl
@[simp] theorem modIntg_tok (f : Intg → Intg) (s : State) : (modIntg f s).tok = s.tok := rfl
@[simp] theorem modIntg_cal (f : Intg → Intg) (s : State) : (modIntg f s).cal = s.cal := rfl
@[simp] theorem modIntg_srv (f : Intg → Intg) (s : State) : (modIntg f s).srv = s.srv := rfl
@[simp] theorem modIntg_ic (f : Intg → Intg) (s : State) : (modIntg f s).ic = s.ic := rfl
@[simp] theorem modIntg_str (f : Intg → Intg) (s : State) : (modIntg f s).str = s.str := rfl
@[simp] theorem modIntg_hawk (f : Intg → Intg) (s : State) : (modIntg f s).hawk = s.hawk := rfl
@[simp] theorem modIntg_eng (f : Intg → Intg) (s : State) : (modIntg f s).eng = s.eng := rfl
@[simp] theorem modIntg_xfer (f : Intg → Intg) (s : State) : (modIntg f s).xfer = s.xfer := rfl
@[simp] theorem modIntg_rnd (f : Intg → Intg) (s : State) : (modIntg f s).rnd = s.rnd := rfl
@[simp] theorem modIntg_qe (f : Intg → Intg) (s : State) : (modIntg f s).qe = s.qe := rfl
@[simp] theorem modIntg_plb (f : Intg → Intg) (s : State) : (modIntg f s).plb = s.plb := rfl
@[simp] theorem modIntg_soft (f : Intg → Intg) (s : State) : (modIntg f s).soft = s.soft := rfl
@[simp] theorem modIntg_stg (f : Intg → Intg) (s : State) : (modIntg f s).stg = s.stg := rfl
@[simp] theorem modIntg_prm (f : Intg → Intg) (s : State) : (modIntg f s).prm = s.prm := rfl
@[simp] theorem modIntg_lath (f : Intg → Intg) (s : State) : (modIntg f s).lath = s.lath := rfl
@[simp] theorem modIntg_quad (f : Intg → Intg) (s : State) : (modIntg f s).quad = s.quad := rfl
@[simp] theorem modIntg_ch (f : Intg → Intg) (s : State) : (modIntg f s).ch = s.ch := rfl
@[simp] theorem modIntg_port (f : Intg → Intg) (s : State) : (modIntg f s).port = s.port := rfl
@[simp] theorem modIntg_fm (f : Intg → Intg) (s : State) : (modIntg f s).fm = s.fm := rfl
@[simp] theorem modIntg_pending (f : Intg → Intg) (s : State) : (modIntg f s).pending = s.pending := rfl

/-! ## modPrm -/

@[simp] theorem modPrm_variant (f : Prm → Prm) (s : State) : (modPrm f s).variant = s.variant := rfl
@[simp] theorem modPrm_time (f : Prm → Prm) (s : State) : (modPrm f s).time = s.time := rfl
@[simp] theorem modPrm_free (f : Prm → Prm) (s : State) : (modPrm f s).free = s.free := rfl
@[simp] theorem modPrm_pfail (f : Prm → Prm) (s : State) : (modPrm f s).pfail = s.pfail := rfl
@[simp] theorem modPrm_brownout (f : Prm → Prm) (s : State) : (modPrm f s).brownout = s.brownout := rfl
@[simp] theorem modPrm_gctl (f : Prm → Prm) (s : State) : (modPrm f s).gctl = s.gctl := rfl
@[simp] theorem modPrm_pwr (f : Prm → Prm) (s : State) : (modPrm f s).pwr = s.pwr := rfl
@[simp] theorem modPrm_tok (f : Prm → Prm) (s : State) : (modPrm f s).tok = s.tok := rfl
@[simp] theorem modPrm_cal (f : Prm → Prm) (s : State) : (modPrm f s).cal = s.cal := rfl
@[simp] theorem modPrm_srv (f : Prm → Prm) (s : State) : (modPrm f s).srv = s.srv := rfl
@[simp] theorem modPrm_ic (f : Prm → Prm) (s : State) : (modPrm f s).ic = s.ic := rfl
@[simp] theorem modPrm_str (f : Prm → Prm) (s : State) : (modPrm f s).str = s.str := rfl
@[simp] theorem modPrm_hawk (f : Prm → Prm) (s : State) : (modPrm f s).hawk = s.hawk := rfl
@[simp] theorem modPrm_eng (f : Prm → Prm) (s : State) : (modPrm f s).eng = s.eng := rfl
@[simp] theorem modPrm_xfer (f : Prm → Prm) (s : State) : (modPrm f s).xfer = s.xfer := rfl
@[simp] theorem modPrm_rnd (f : Prm → Prm) (s : State) : (modPrm f s).rnd = s.rnd := rfl
@[simp] theorem modPrm_qe (f : Prm → Prm) (s : State) : (modPrm f s).qe = s.qe := rfl
@[simp] theorem modPrm_plb (f : Prm → Prm) (s : State) : (modPrm f s).plb = s.plb := rfl
@[simp] theorem modPrm_soft (f : Prm → Prm) (s : State) : (modPrm f s).soft = s.soft := rfl
@[simp] theorem modPrm_intg (f : Prm → Prm) (s : State) : (modPrm f s).intg = s.intg := rfl
@[simp] theorem modPrm_stg (f : Prm → Prm) (s : State) : (modPrm f s).stg = s.stg := rfl
@[simp] theorem modPrm_lath (f : Prm → Prm) (s : State) : (modPrm f s).lath = s.lath := rfl
@[simp] theorem modPrm_quad (f : Prm → Prm) (s : State) : (modPrm f s).quad = s.quad := rfl
@[simp] theorem modPrm_ch (f : Prm → Prm) (s : State) : (modPrm f s).ch = s.ch := rfl
@[simp] theorem modPrm_port (f : Prm → Prm) (s : State) : (modPrm f s).port = s.port := rfl
@[simp] theorem modPrm_fm (f : Prm → Prm) (s : State) : (modPrm f s).fm = s.fm := rfl
@[simp] theorem modPrm_pending (f : Prm → Prm) (s : State) : (modPrm f s).pending = s.pending := rfl

/-! ## modLath -/

@[simp] theorem modLath_variant (f : Lath → Lath) (s : State) : (modLath f s).variant = s.variant := rfl
@[simp] theorem modLath_time (f : Lath → Lath) (s : State) : (modLath f s).time = s.time := rfl
@[simp] theorem modLath_free (f : Lath → Lath) (s : State) : (modLath f s).free = s.free := rfl
@[simp] theorem modLath_pfail (f : Lath → Lath) (s : State) : (modLath f s).pfail = s.pfail := rfl
@[simp] theorem modLath_brownout (f : Lath → Lath) (s : State) : (modLath f s).brownout = s.brownout := rfl
@[simp] theorem modLath_gctl (f : Lath → Lath) (s : State) : (modLath f s).gctl = s.gctl := rfl
@[simp] theorem modLath_pwr (f : Lath → Lath) (s : State) : (modLath f s).pwr = s.pwr := rfl
@[simp] theorem modLath_tok (f : Lath → Lath) (s : State) : (modLath f s).tok = s.tok := rfl
@[simp] theorem modLath_cal (f : Lath → Lath) (s : State) : (modLath f s).cal = s.cal := rfl
@[simp] theorem modLath_srv (f : Lath → Lath) (s : State) : (modLath f s).srv = s.srv := rfl
@[simp] theorem modLath_ic (f : Lath → Lath) (s : State) : (modLath f s).ic = s.ic := rfl
@[simp] theorem modLath_str (f : Lath → Lath) (s : State) : (modLath f s).str = s.str := rfl
@[simp] theorem modLath_hawk (f : Lath → Lath) (s : State) : (modLath f s).hawk = s.hawk := rfl
@[simp] theorem modLath_eng (f : Lath → Lath) (s : State) : (modLath f s).eng = s.eng := rfl
@[simp] theorem modLath_xfer (f : Lath → Lath) (s : State) : (modLath f s).xfer = s.xfer := rfl
@[simp] theorem modLath_rnd (f : Lath → Lath) (s : State) : (modLath f s).rnd = s.rnd := rfl
@[simp] theorem modLath_qe (f : Lath → Lath) (s : State) : (modLath f s).qe = s.qe := rfl
@[simp] theorem modLath_plb (f : Lath → Lath) (s : State) : (modLath f s).plb = s.plb := rfl
@[simp] theorem modLath_soft (f : Lath → Lath) (s : State) : (modLath f s).soft = s.soft := rfl
@[simp] theorem modLath_intg (f : Lath → Lath) (s : State) : (modLath f s).intg = s.intg := rfl
@[simp] theorem modLath_stg (f : Lath → Lath) (s : State) : (modLath f s).stg = s.stg := rfl
@[simp] theorem modLath_prm (f : Lath → Lath) (s : State) : (modLath f s).prm = s.prm := rfl
@[simp] theorem modLath_quad (f : Lath → Lath) (s : State) : (modLath f s).quad = s.quad := rfl
@[simp] theorem modLath_ch (f : Lath → Lath) (s : State) : (modLath f s).ch = s.ch := rfl
@[simp] theorem modLath_port (f : Lath → Lath) (s : State) : (modLath f s).port = s.port := rfl
@[simp] theorem modLath_fm (f : Lath → Lath) (s : State) : (modLath f s).fm = s.fm := rfl
@[simp] theorem modLath_pending (f : Lath → Lath) (s : State) : (modLath f s).pending = s.pending := rfl

/-! ## modLport -/

@[simp] theorem modLport_variant (x : BitVec 2) (f : LPort → LPort) (s : State) : (modLport x f s).variant = s.variant := rfl
@[simp] theorem modLport_time (x : BitVec 2) (f : LPort → LPort) (s : State) : (modLport x f s).time = s.time := rfl
@[simp] theorem modLport_free (x : BitVec 2) (f : LPort → LPort) (s : State) : (modLport x f s).free = s.free := rfl
@[simp] theorem modLport_pfail (x : BitVec 2) (f : LPort → LPort) (s : State) : (modLport x f s).pfail = s.pfail := rfl
@[simp] theorem modLport_brownout (x : BitVec 2) (f : LPort → LPort) (s : State) : (modLport x f s).brownout = s.brownout := rfl
@[simp] theorem modLport_gctl (x : BitVec 2) (f : LPort → LPort) (s : State) : (modLport x f s).gctl = s.gctl := rfl
@[simp] theorem modLport_pwr (x : BitVec 2) (f : LPort → LPort) (s : State) : (modLport x f s).pwr = s.pwr := rfl
@[simp] theorem modLport_tok (x : BitVec 2) (f : LPort → LPort) (s : State) : (modLport x f s).tok = s.tok := rfl
@[simp] theorem modLport_cal (x : BitVec 2) (f : LPort → LPort) (s : State) : (modLport x f s).cal = s.cal := rfl
@[simp] theorem modLport_srv (x : BitVec 2) (f : LPort → LPort) (s : State) : (modLport x f s).srv = s.srv := rfl
@[simp] theorem modLport_ic (x : BitVec 2) (f : LPort → LPort) (s : State) : (modLport x f s).ic = s.ic := rfl
@[simp] theorem modLport_str (x : BitVec 2) (f : LPort → LPort) (s : State) : (modLport x f s).str = s.str := rfl
@[simp] theorem modLport_hawk (x : BitVec 2) (f : LPort → LPort) (s : State) : (modLport x f s).hawk = s.hawk := rfl
@[simp] theorem modLport_eng (x : BitVec 2) (f : LPort → LPort) (s : State) : (modLport x f s).eng = s.eng := rfl
@[simp] theorem modLport_xfer (x : BitVec 2) (f : LPort → LPort) (s : State) : (modLport x f s).xfer = s.xfer := rfl
@[simp] theorem modLport_rnd (x : BitVec 2) (f : LPort → LPort) (s : State) : (modLport x f s).rnd = s.rnd := rfl
@[simp] theorem modLport_qe (x : BitVec 2) (f : LPort → LPort) (s : State) : (modLport x f s).qe = s.qe := rfl
@[simp] theorem modLport_plb (x : BitVec 2) (f : LPort → LPort) (s : State) : (modLport x f s).plb = s.plb := rfl
@[simp] theorem modLport_soft (x : BitVec 2) (f : LPort → LPort) (s : State) : (modLport x f s).soft = s.soft := rfl
@[simp] theorem modLport_intg (x : BitVec 2) (f : LPort → LPort) (s : State) : (modLport x f s).intg = s.intg := rfl
@[simp] theorem modLport_stg (x : BitVec 2) (f : LPort → LPort) (s : State) : (modLport x f s).stg = s.stg := rfl
@[simp] theorem modLport_prm (x : BitVec 2) (f : LPort → LPort) (s : State) : (modLport x f s).prm = s.prm := rfl
@[simp] theorem modLport_quad (x : BitVec 2) (f : LPort → LPort) (s : State) : (modLport x f s).quad = s.quad := rfl
@[simp] theorem modLport_ch (x : BitVec 2) (f : LPort → LPort) (s : State) : (modLport x f s).ch = s.ch := rfl
@[simp] theorem modLport_port (x : BitVec 2) (f : LPort → LPort) (s : State) : (modLport x f s).port = s.port := rfl
@[simp] theorem modLport_fm (x : BitVec 2) (f : LPort → LPort) (s : State) : (modLport x f s).fm = s.fm := rfl
@[simp] theorem modLport_pending (x : BitVec 2) (f : LPort → LPort) (s : State) : (modLport x f s).pending = s.pending := rfl

/-! ## modRctx -/

@[simp] theorem modRctx_variant (i : Nat) (f : RCtx → RCtx) (s : State) : (modRctx i f s).variant = s.variant := rfl
@[simp] theorem modRctx_time (i : Nat) (f : RCtx → RCtx) (s : State) : (modRctx i f s).time = s.time := rfl
@[simp] theorem modRctx_free (i : Nat) (f : RCtx → RCtx) (s : State) : (modRctx i f s).free = s.free := rfl
@[simp] theorem modRctx_pfail (i : Nat) (f : RCtx → RCtx) (s : State) : (modRctx i f s).pfail = s.pfail := rfl
@[simp] theorem modRctx_brownout (i : Nat) (f : RCtx → RCtx) (s : State) : (modRctx i f s).brownout = s.brownout := rfl
@[simp] theorem modRctx_gctl (i : Nat) (f : RCtx → RCtx) (s : State) : (modRctx i f s).gctl = s.gctl := rfl
@[simp] theorem modRctx_pwr (i : Nat) (f : RCtx → RCtx) (s : State) : (modRctx i f s).pwr = s.pwr := rfl
@[simp] theorem modRctx_tok (i : Nat) (f : RCtx → RCtx) (s : State) : (modRctx i f s).tok = s.tok := rfl
@[simp] theorem modRctx_cal (i : Nat) (f : RCtx → RCtx) (s : State) : (modRctx i f s).cal = s.cal := rfl
@[simp] theorem modRctx_srv (i : Nat) (f : RCtx → RCtx) (s : State) : (modRctx i f s).srv = s.srv := rfl
@[simp] theorem modRctx_ic (i : Nat) (f : RCtx → RCtx) (s : State) : (modRctx i f s).ic = s.ic := rfl
@[simp] theorem modRctx_str (i : Nat) (f : RCtx → RCtx) (s : State) : (modRctx i f s).str = s.str := rfl
@[simp] theorem modRctx_hawk (i : Nat) (f : RCtx → RCtx) (s : State) : (modRctx i f s).hawk = s.hawk := rfl
@[simp] theorem modRctx_eng (i : Nat) (f : RCtx → RCtx) (s : State) : (modRctx i f s).eng = s.eng := rfl
@[simp] theorem modRctx_xfer (i : Nat) (f : RCtx → RCtx) (s : State) : (modRctx i f s).xfer = s.xfer := rfl
@[simp] theorem modRctx_qe (i : Nat) (f : RCtx → RCtx) (s : State) : (modRctx i f s).qe = s.qe := rfl
@[simp] theorem modRctx_plb (i : Nat) (f : RCtx → RCtx) (s : State) : (modRctx i f s).plb = s.plb := rfl
@[simp] theorem modRctx_soft (i : Nat) (f : RCtx → RCtx) (s : State) : (modRctx i f s).soft = s.soft := rfl
@[simp] theorem modRctx_intg (i : Nat) (f : RCtx → RCtx) (s : State) : (modRctx i f s).intg = s.intg := rfl
@[simp] theorem modRctx_stg (i : Nat) (f : RCtx → RCtx) (s : State) : (modRctx i f s).stg = s.stg := rfl
@[simp] theorem modRctx_prm (i : Nat) (f : RCtx → RCtx) (s : State) : (modRctx i f s).prm = s.prm := rfl
@[simp] theorem modRctx_lath (i : Nat) (f : RCtx → RCtx) (s : State) : (modRctx i f s).lath = s.lath := rfl
@[simp] theorem modRctx_quad (i : Nat) (f : RCtx → RCtx) (s : State) : (modRctx i f s).quad = s.quad := rfl
@[simp] theorem modRctx_ch (i : Nat) (f : RCtx → RCtx) (s : State) : (modRctx i f s).ch = s.ch := rfl
@[simp] theorem modRctx_port (i : Nat) (f : RCtx → RCtx) (s : State) : (modRctx i f s).port = s.port := rfl
@[simp] theorem modRctx_fm (i : Nat) (f : RCtx → RCtx) (s : State) : (modRctx i f s).fm = s.fm := rfl
@[simp] theorem modRctx_pending (i : Nat) (f : RCtx → RCtx) (s : State) : (modRctx i f s).pending = s.pending := rfl

/-! ## Lookups -/

@[simp] theorem chan_setChan (c : Chan) (x : Channel) (s : State) : chan (setChan c x s) c = x := by
  unfold chan setChan; simp [tget_tput]
@[simp] theorem chan_modChan (c : Chan) (f : Channel → Channel) (s : State) : chan (modChan c f s) c = f (chan s c) :=
  chan_setChan c _ s
@[simp] theorem thr_modThr (c : Chan) (t : Thr) (f : Thread → Thread) (s : State) :
    thr (modThr c t f s) c t = f (thr s c t) := by
  unfold modThr thr; simp [tget_tmod]
@[simp] theorem quad_modQuad (q : BitVec 4) (f : Quad → Quad) (s : State) : quad (modQuad q f s) q = f (quad s q) := by
  unfold quad modQuad; simp [tget_tmod]
@[simp] theorem strm_modStrm (i : Nat) (f : Strm → Strm) (s : State) : strm (modStrm i f s) i = f (strm s i) := by
  unfold strm modStrm; simp [tget_tmod]
@[simp] theorem eng_modEng (e : BitVec 2) (f : Eng → Eng) (s : State) : eng (modEng e f s) e = f (eng s e) := by
  unfold eng modEng; simp [tget_tmod]
@[simp] theorem pool_modPool (k : Nat) (f : Pool → Pool) (s : State) : pool (modPool k f s) k = f (pool s k) := by
  unfold pool modPool; simp [tget_tmod]
@[simp] theorem proc_modProc (p : Nat) (f : Proc → Proc) (s : State) : proc (modProc p f s) p = f (proc s p) := by
  unfold proc modProc; simp [tget_tmod]
@[simp] theorem qctx_modQctx (k : Nat) (f : QCtx → QCtx) (s : State) : qctx (modQctx k f s) k = f (qctx s k) := by
  unfold qctx modQctx; simp [tget_tmod]

@[simp] theorem domSt_setDue (d k : Nat) (l : List DomReq) (s : State) : domSt (setDue d l s) k = domSt s k := rfl
@[simp] theorem dueOf_setDom (d k : Nat) (x : DomSt) (s : State) : dueOf (setDom d x s) k = dueOf s k := rfl
@[simp] theorem dueOf_setDue (d : Nat) (l : List DomReq) (s : State) : dueOf (setDue d l s) d = l := by
  unfold dueOf setDue; simp [tget_tset]

/-- A change of a channel that leaves its threads alone. -/
theorem thr_modChan (c : Chan) (t : Thr) (f : Channel → Channel) (s : State) (h : ∀ x, (f x).thr = x.thr) :
    thr (modChan c f s) c t = thr s c t := by unfold thr; simp [h]

end Sys2Proof.Machine
end

