-- ==== Sys2Proof/Laws/Threads.lean ====
section
/-! SUPPORT. Threads and the issue of an instruction: the reading of an operand, the landing of results, what leaves
the channels alone, and the issue of a word by a thread whose turn it is (R88, R107-R110). -/

namespace Sys2Proof.Machine

open Sys2Proof

theorem tput_tput {α : Type} (k : Nat) (v w : α) (m : List (Nat × α)) : tput k w (tput k v m) = tput k w m := by
  unfold tput
  have h1 : (fun a : Nat × α => decide (a.1 < k) && decide (k < a.1)) = fun _ => false := by
    funext a; simp; omega
  have h2 : (fun a : Nat × α => decide (k < a.1) && decide (a.1 < k)) = fun _ => false := by
    funext a; simp; omega
  have h3 : m.filter (fun _ => false) = [] := by rw [List.filter_eq_nil_iff]; simp
  simp [List.filter_append, List.filter_filter, h1, h2, h3]

theorem modThr_modThr (c : Chan) (t : Thr) (f g : Thread → Thread) (s : State) :
    modThr c t f (modThr c t g s) = modThr c t (f ∘ g) s := by
  unfold modThr modChan setChan
  simp only [chan, tget_tput_same, tput_tput, tmod]
  rfl
theorem modThr_congr {c : Chan} {t : Thr} {f g : Thread → Thread} {s : State} (h : f (thr s c t) = g (thr s c t)) :
    modThr c t f s = modThr c t g s := by
  unfold modThr modChan tmod
  have : tget {} t.toNat (chan s c).thr = thr s c t := rfl
  simp only [this, h]

theorem crossing_ch (i n s) : (crossing i n s).ch = s.ch := by unfold crossing; dsimp only; split <;> rfl
theorem grantPlaces_ch (i s) : (grantPlaces i s).ch = s.ch := by unfold grantPlaces; split <;> rfl
theorem sendWord_ch (i sw s) : (sendWord i sw s).ch = s.ch := by
  unfold sendWord
  dsimp only
  split
  · rfl
  · exact crossing_ch _ _ _
theorem grant_ch (i s) : (grant i s).ch = s.ch := by
  unfold grant
  dsimp only
  split
  · split
    · exact grantPlaces_ch _ _
    · rw [grantPlaces_ch, sendWord_ch]
      exact grantPlaces_ch _ _
  · exact grantPlaces_ch _ _
theorem popWord_ch (i s) (p) (h : popWord i s = some p) : p.2.ch = s.ch := by
  unfold popWord at h; split at h
  · cases h
  · cases h; exact grant_ch _ _
theorem windowPop_ch (i s) (p) (h : windowPop i s = some p) : p.2.ch = s.ch := by
  unfold windowPop at h; split at h
  · cases h
  · next hh => cases h; exact popWord_ch _ _ _ hh
theorem windowServe_ch (i s) : (windowServe i s).ch = s.ch := by
  unfold windowServe
  split
  · split
    · split
      · rfl
      · next hh => exact windowPop_ch _ _ _ hh
    · rfl
  · rfl
theorem acceptWord_ch (i sw s) : (acceptWord i sw s).ch = s.ch := by
  unfold acceptWord grantServe
  split
  · rfl
  · rw [windowServe_ch, grant_ch, sendWord_ch]
theorem logRec_ch (k i l d s) : (logRec k i l d s).ch = s.ch := by
  unfold logRec
  dsimp only
  split
  · show (if _ then _ else _ : State).ch = _
    split <;> simp [acceptWord_ch] <;> rfl
  · split <;> simp [acceptWord_ch] <;> rfl
theorem fetchInstr_ch (q i s) : (fetchInstr q i s).2.ch = s.ch := by
  unfold fetchInstr
  split
  · rw [logRec_ch]; rfl
  · split
    · rfl
    · rw [logRec_ch]; rfl
    · rw [logRec_ch]

theorem operand_spec (c t r s) : ∃ a n, operand c t r s = (a, { s with free := n }) ∧ a ∈ readChoices (thr s c t) r := by
  unfold operand
  dsimp only
  split
  · next h => subst h; exact ⟨0, s.free, rfl, by simp [readChoices, regOf]⟩
  · split
    · exact ⟨_, s.free, rfl, by simp [readChoices]⟩
    · refine ⟨_, s.free + 1, rfl, ?_⟩
      have hl : 0 < (readChoices (thr s c t) r).length := by simp [readChoices]
      have hm := Nat.mod_lt (draw s).1.toNat hl
      simp only [List.getD, List.getElem?_eq_getElem hm, Option.getD_some]
      exact List.getElem_mem _

theorem recognise_calm (c t s) (h : (thr s c t).abortP = false) : recognise c t s = s := by
  simp [recognise, abortDue, h]

theorem setReg_abortP (r v th) : (setReg r v th).abortP = th.abortP := by unfold setReg; split <;> rfl
theorem landDue_abortP (fs : List Flight) : ∀ th, (landDue fs th).abortP = th.abortP := by
  induction fs with
  | nil => intro th; rfl
  | cons f fs ih =>
    intro th; unfold landDue; split <;> rw [ih]
    exact setReg_abortP _ _ _
theorem ageFlights_abortP (th) : (ageFlights th).abortP = th.abortP := landDue_abortP _ _
theorem advance_abortP (th) : (advance th).abortP = th.abortP := by unfold advance; split <;> rfl
theorem launch_abortP (r v d th) : (launch r v d th).abortP = th.abortP := by unfold launch; split <;> rfl
theorem foldl_setReg_abortP (fs : List Flight) : ∀ th : Thread, (fs.foldl (fun t f => setReg f.reg f.val t) th).abortP = th.abortP := by
  induction fs with
  | nil => intro th; rfl
  | cons f fs ih => intro th; rw [List.foldl_cons, ih, setReg_abortP]
theorem landAll_abortP (th) : (landAll th).abortP = th.abortP := foldl_setReg_abortP _ _
theorem endWait_abortP (r v th) : (endWait r v th).abortP = th.abortP := by
  unfold endWait; rw [advance_abortP]; exact (setReg_abortP _ _ _).trans (landAll_abortP _)

/-- fields other than regs and flight of an aged thread -/
theorem setReg_eq (r v th) : ∃ g, setReg r v th = { th with regs := g } := by
  unfold setReg; split
  · exact ⟨th.regs, rfl⟩
  · exact ⟨_, rfl⟩
theorem landDue_eq (fs : List Flight) : ∀ th, ∃ g l, landDue fs th = { th with regs := g, flight := l } := by
  induction fs with
  | nil => intro th; exact ⟨th.regs, th.flight, rfl⟩
  | cons f fs ih =>
    intro th; unfold landDue; split
    · obtain ⟨g, hg⟩ := setReg_eq f.reg f.val th
      rw [hg]
      obtain ⟨g', l', h⟩ := ih { { th with regs := g } with flight := th.flight.filter (·.reg ≠ f.reg) }
      exact ⟨g', l', h⟩
    · obtain ⟨g', l', h⟩ := ih { th with flight := th.flight ++ [f] }
      exact ⟨g', l', h⟩
theorem ageFlights_eq (th) : ∃ g l, ageFlights th = { th with regs := g, flight := l } := by
  unfold ageFlights
  obtain ⟨g, l, h⟩ := landDue_eq (th.flight.map fun f => { f with left := f.left - 1 }) { th with flight := [] }
  exact ⟨g, l, h⟩

/-- Rows whose key is their opcode alone. -/
theorem rowKey_plain {w : W64} {op : Nat} (h : (opc w).toNat = op) (h1 : op ≠ 0x88) (h2 : op ≠ 0x64) (h3 : op ≠ 0x93) :
    rowKey w = 16 * op := by unfold rowKey; subst h; split <;> simp_all

/-- A thread whose turn it is issues a legal word of the row named: the meaning acts in the state in which the results
due have landed (R88, R97, R105, R107). -/
theorem issue_eq {c : Chan} {t : Thr} {w : W64} {s u : State} {key : Nat} {sem : W64 → State → Eff}
    (h1 : engineRuns s c = true) (h2 : turnOf (chan s c) = some t.toNat) (h0 : abortDue (thr s c t) = false)
    (h3 : fetchInstr (quadOf c) (thr s c t).pc s = (some w, u)) (h4 : legal w = true)
    (h5 : noSlot w = true → (thr s c t).after = none) (hk : rowKey w = key) :
    issue c t key sem s =
      applyEff c t (sem w (modThr c t ageFlights (modChan c (fun ch => { ch with lastT := t }) u))) := by
  unfold issue
  simp [h1, h2, h0, h3, h4, hk]
  intro h6 h7
  simp [h5 h7] at h6

/-- A fetch leaves the threads alone. -/
theorem fetch_thr {c : Chan} {t : Thr} {q : BitVec 4} {i : BitVec 15} {s : State} :
    thr (fetchInstr q i s).2 c t = thr s c t := by
  unfold thr chan; rw [fetchInstr_ch]

end Sys2Proof.Machine
end

