-- ==== Sys2Proof/Laws/Memory.lean ====
section
/-! SUPPORT. Bit fields as numbers, and what reads and writes of checked memory leave alone (R429-R434). -/

namespace Sys2Proof.Machine

open Sys2Proof

/-! ## Bit fields -/

/-- A field as the number between its bounds. -/
theorem fld_toNat {n : Nat} (w : BitVec n) (lo len : Nat) : (fld w lo len).toNat = w.toNat / 2 ^ lo % 2 ^ len := by
  unfold fld; simp [Nat.shiftRight_eq_div_pow]

/-- A bit as a number. -/
theorem bit_eq {n : Nat} (w : BitVec n) (i : Nat) : bit w i = decide (w.toNat / 2 ^ i % 2 = 1) := by
  unfold bit BitVec.getLsbD; rw [Nat.testBit_eq_decide_div_mod_eq]

/-- IMM32, sign-extended (R104). -/
theorem imm_eq (w : W64) :
    imm w = BitVec.ofInt 64 ((w.toNat : Int) % 2 ^ 32 - if 2 ^ 31 ≤ w.toNat % 2 ^ 32 then 2 ^ 32 else 0) := by
  unfold imm imm32 fld
  apply BitVec.eq_of_toNat_eq
  rw [BitVec.toNat_signExtend, BitVec.toNat_ofInt]
  have := w.isLt
  have h2 : (BitVec.extractLsb' 0 32 w).toNat = w.toNat % 2 ^ 32 := by simp
  have h3 : (BitVec.extractLsb' 0 32 w).msb = decide (2 ^ 31 ≤ w.toNat % 2 ^ 32) := by
    rw [BitVec.msb_eq_decide, h2]
  rw [h3, BitVec.toNat_setWidth, h2]
  split <;> simp_all <;> omega

/-! ## Memory -/

theorem thr_modRam (sp f s d k) : thr (modRam sp f s) d k = thr s d k := by
  unfold modRam setRam
  cases sp with
  | stg => rfl
  | scr c => dsimp only; unfold thr modChan setChan chan; rw [tget_tput]; split
             · next e => rw [← e]
             · rfl
  | cwb c => dsimp only; unfold thr modChan setChan chan; rw [tget_tput]; split
             · next e => rw [← e]
             · rfl
theorem thr_of_ch {x y : State} (h : x.ch = y.ch) (d : Chan) (k : Thr) : thr x d k = thr y d k := by unfold thr chan; rw [h]
theorem thr_logParity (sp a m rq s d k) : thr (logParity sp a m rq s) d k = thr s d k := by
  apply thr_of_ch; unfold logParity; cases sp <;> dsimp only <;> rw [logRec_ch]
theorem thr_pathCheck (sp a rq s d k) : thr (pathCheck sp a rq s) d k = thr s d k := by
  unfold pathCheck; dsimp only; split
  · rfl
  · rw [thr_of_ch (logRec_ch _ _ _ _ _)]; rfl
theorem thr_checkGroup (sp a rq s d k) : thr (checkGroup sp a rq s) d k = thr s d k := by
  unfold checkGroup; dsimp only; split
  · rw [thr_of_ch (logRec_ch _ _ _ _ _), thr_modRam]
  · rfl
theorem thr_readWord (sp w lo n rq s d k) : thr (readWord sp w lo n rq s).2 d k = thr s d k := by
  unfold readWord; split
  · rfl
  · dsimp only; split
    · rw [thr_logParity]; unfold setMark; rw [thr_modRam, thr_checkGroup]
    · rw [thr_checkGroup]
theorem thr_readFuel (sp rq d k) : ∀ fuel a n s, thr (readFuel sp rq fuel a n s).2 d k = thr s d k
  | 0, _, _, _ => rfl
  | fuel + 1, a, n, s => by
    unfold readFuel; split
    · rfl
    · dsimp only; rw [thr_readFuel, thr_readWord]
/-- A read of memory leaves every thread alone. -/
theorem thr_readMem (sp a n rq s d k) : thr (readMem sp a n rq s).2 d k = thr s d k := thr_readFuel _ _ _ _ _ _ _ _
theorem thr_writeChunk (sp a bs rq s d k) : thr (writeChunk sp a bs rq s) d k = thr s d k := by
  unfold writeChunk; split
  · rfl
  · dsimp only; unfold setMark; split
    · rw [thr_modRam, thr_modRam, thr_checkGroup, thr_pathCheck]
    · split
      · rw [thr_modRam, thr_modRam, thr_checkGroup, thr_pathCheck]
      · rw [thr_modRam, thr_checkGroup, thr_pathCheck]
theorem thr_writeFuel (sp rq d k) : ∀ fuel a bs s, thr (writeFuel sp rq fuel a bs s) d k = thr s d k
  | 0, _, _, _ => rfl
  | fuel + 1, a, bs, s => by
    unfold writeFuel; split
    · rfl
    · dsimp only; rw [thr_writeFuel, thr_writeChunk]
/-- A write of memory leaves every thread alone. -/
theorem thr_writeMem (sp a bs rq s d k) : thr (writeMem sp a bs rq s) d k = thr s d k := thr_writeFuel _ _ _ _ _ _ _ _

/-- A read gives at most the bytes asked for. -/
theorem readFuel_len (sp rq) : ∀ fuel a n s, (readFuel sp rq fuel a n s).1.length ≤ n
  | 0, _, _, _ => by unfold readFuel; simp
  | fuel + 1, a, n, s => by
    unfold readFuel; split
    · simp
    · dsimp only
      rw [List.length_append]
      have := readFuel_len sp rq fuel (a + min n (8 - a % 8)) (n - min n (8 - a % 8)) (readWord sp (a/8) (a%8) (min n (8 - a % 8)) rq s).2
      have h2 : (readWord sp (a/8) (a%8) (min n (8 - a % 8)) rq s).1.length = min n (8 - a % 8) := by
        unfold readWord; split <;> simp
      omega


end Sys2Proof.Machine
end

