-- ==== Sys2Proof/Laws/Port.lean ====
section
/-! SUPPORT. The register port: what one access is when no read waits and nothing is held (R59-R61, R510). -/

namespace Sys2Proof.Machine

open Sys2Proof

/-- The responses of the step before are gone. -/
def quietPort (s : State) : State := { s with port := { s.port with resp := [] } }

theorem putReg_free {s : State} (h1 : s.port.wait = none) (h2 : s.port.held = []) (o : Nat) (a : Acc) (v : W64) :
    putReg o a v s = .next (portAct ⟨true, o, a, v⟩ (quietPort s)) := by
  unfold putReg portSubmit quietPort
  simp [h1, h2, portGo, portGoFuel]

theorem getReg_free {s : State} (h1 : s.port.wait = none) (h2 : s.port.held = []) (o : Nat) (a : Acc) :
    getReg o a s = .next (portAct ⟨false, o, a, 0⟩ (quietPort s)) := by
  unfold getReg portSubmit quietPort
  simp [h1, h2, portGo, portGoFuel]

theorem ready_quietPort {s : State} (h : s.gctl.boot = .ready) : ready (quietPort s) = true := by
  unfold ready quietPort; simp [h]

/-- A write of a register: its effect, and an OK response. -/
theorem putReg_word {s : State} (h1 : s.port.wait = none) (h2 : s.port.held = []) (h3 : s.gctl.boot = .ready) {o : Nat}
    {a : Acc} {v : W64} (ha : a = .full ∨ a = .low ∨ a = .high) (ho : o < 0x1000000) (h8 : o % 8 = 0) :
    ∀ x, x = regWrite o (formMask a) v (quietPort s) →
    putReg o a v s = .next { x with port := { x.port with resp := { ok := true } :: x.port.resp } } := by
  rintro x rfl
  rw [putReg_free h1 h2]
  unfold portAct
  have hr := ready_quietPort h3
  have hb : formBad ⟨true, o, a, v⟩ = false := by rcases ha with h | h | h <;> subst h <;> simp [formBad, h8]
  simp only [hb, hr]
  rw [if_neg (by simp; omega)]
  simp [quietPort]

/-- A read of a register goes to its unit. -/
theorem getReg_word {s : State} (h1 : s.port.wait = none) (h2 : s.port.held = []) (h3 : s.gctl.boot = .ready) {o : Nat}
    {a : Acc} (ha : a = .full ∨ a = .low ∨ a = .high) (ho : o < 0x1000000) (h8 : o % 8 = 0) :
    getReg o a s = .next (portRead o a (quietPort s)) := by
  rw [getReg_free h1 h2]
  unfold portAct
  have hr := ready_quietPort h3
  have hb : formBad ⟨false, o, a, 0⟩ = false := by rcases ha with h | h | h <;> subst h <;> simp [formBad, h8]
  simp only [hb, hr]
  rw [if_neg (by simp; omega)]
  simp

end Sys2Proof.Machine
end

