-- ==== Sys2Proof/Machine/Library.lean ====
section
/-! DEFINITION. The formats and tables of the Trowel library (the basic level of 00_scope.md) beyond LibraryBase.lean:
its call slots (R209), zones and page types (R266), results (R218, R275, R279), packets and records (R278, R281, R311),
the stripe tag and write sequence (R286, R287), suspends by policy (R220), die signatures (R522, R523) and the classes
of recovery (R312). What each library operation does is in LibraryTrain.lean, LibraryRead.lean and LibraryWrite.lean.
The library's program text is not in the spec, and the block runs it as it runs any program: these files state what its
programs decide and in which order they act (log entry 125). -/

namespace Sys2Proof.Machine

open Sys2Proof

/-- The library's call slots (R209). -/
inductive LibCall where
  | dieSelect | readPage | programPage | eraseBlock | statusPoll | retryLadder | softRead | policyGet
  deriving DecidableEq, Repr

/-- Call slot s. -/
def callSlot : LibCall → Nat
  | .dieSelect => 0 | .readPage => 1 | .programPage => 2 | .eraseBlock => 3
  | .statusPoll => 4 | .retryLadder => 5 | .softRead => 6 | .policyGet => 7

/-- Its program store index: a BR always and its delay slot. -/
def callIndex (x : LibCall) : Nat := 2 * callSlot x

/-- The arguments of a call, g1 on. -/
inductive CallArg where
  | context | column | row | rate | buffer | handle | releaseFlag | mask | codeword | planes
  deriving DecidableEq, Repr

/-- Arguments in g1-g8 (R209). -/
def callArgs : LibCall → List CallArg
  | .dieSelect => [.context, .column]
  | .readPage => [.context, .row, .rate, .buffer]
  | .programPage => [.context, .row, .rate, .handle, .releaseFlag]
  | .eraseBlock => [.context, .row]
  | .statusPoll => [.context, .row]
  | .retryLadder => [.context, .row, .mask]
  | .softRead => [.context, .row, .codeword, .planes]
  | .policyGet => []

/-- What g1 holds after a call (R209). -/
inductive CallResult where
  | zero | outcomeWord | statusCode | statusByte | decoderStatus | policyWord
  deriving DecidableEq, Repr

def callResult : LibCall → CallResult
  | .dieSelect => .zero
  | .readPage | .retryLadder => .outcomeWord
  | .programPage | .eraseBlock => .statusCode
  | .statusPoll => .statusByte
  | .softRead => .decoderStatus
  | .policyGet => .policyWord

/-! ## The die table and the ladder -/

/-- The zone of page `p`: the largest `z` with ZB[z] ≤ p (R266). -/
def zoneOf (zb : List Nat) (p : Nat) : Nat := (List.range 16).foldl (fun z i => if zb.getD i 0 ≤ p then i else z) 0

/-- The page type of page `p` (R266). -/
def pageType (base modulus p : Nat) : Nat := base + p % modulus

/-! ## Results -/

/-- A count held at 15. -/
def sat4 (n : Nat) : BitVec 4 := BitVec.ofNat 4 (min n 15)

/-- The result of a library read (R275): `erased` its bits [3:0]. -/
def readResult (erased : BitVec 4) (rung soft rebuilt : Nat) (left : Bool) : BitVec 32 :=
  (flag 16 left ||| at_ 12 (sat4 rebuilt) ||| at_ 8 (sat4 soft) ||| at_ 4 (sat4 rung) ||| at_ 0 erased).setWidth 32

/-- The result of ERASE-CHECK: the largest count and the page that gave it (R218). -/
def eraseCheckResult (zeros : BitVec 24) (page : Nat) : BitVec 32 :=
  (at_ 24 (BitVec.ofNat 8 (page / 64)) ||| at_ 0 zeros).setWidth 32

/-- The result of SKIM: pages read and erase blocks flagged, both saturating (R279). -/
def skimResult (pages blocks : Nat) : BitVec 32 :=
  (at_ 16 (BitVec.ofNat 16 (min blocks 65535)) ||| at_ 0 (BitVec.ofNat 16 (min pages 65535))).setWidth 32

/-- A page of a Skim pass flags its erase block (R279). -/
def skimFlags (fail : Bool) (corrected passes cl pl : Nat) : Bool :=
  fail || (cl ≠ 0 && cl ≤ corrected) || (pl ≠ 0 && pl ≤ passes)

/-! ## Packets and records -/

/-- The sweep packet (R278): `reads` holds each offset with its ones counted. -/
def sweepPacket (die : BitVec 12) (zone level type : BitVec 4) (row : BitVec 24) (time : W64)
    (reads : List (BitVec 8 × BitVec 32)) : List W64 :=
  (at_ 56 0x10#8 ||| at_ 48 (BitVec.ofNat 8 reads.length) ||| at_ 36 die ||| at_ 32 zone ||| at_ 28 level |||
    at_ 24 type ||| at_ 0 row) :: time :: reads.map fun x => at_ 56 x.1 ||| at_ 0 x.2

/-- The Skim packet (R281). -/
def skimPacket (passHit corrHit fail : Bool) (die : BitVec 12) (zone : BitVec 4) (row : BitVec 24) (time : W64)
    (corrected : BitVec 16) (passes : BitVec 6) : List W64 :=
  [at_ 56 0x20#8 ||| flag 50 passHit ||| flag 49 corrHit ||| flag 48 fail ||| at_ 36 die ||| at_ 32 zone |||
     at_ 0 row, time, at_ 48 corrected ||| at_ 42 passes]

/-- The stripe tag (R286): FORMAT 0x5. -/
def stripeTag (serial : BitVec 32) (owner : BitVec 16) (k : BitVec 6) (mm : BitVec 2) (uu : BitVec 4) : W64 :=
  at_ 32 serial ||| at_ 16 owner ||| at_ 10 k ||| at_ 8 mm ||| at_ 4 uu ||| at_ 0 0x5#4

/-- The write sequence (R287). -/
def writeSeq (pos : BitVec 6) (page : BitVec 4) (cw : BitVec 2) (attempt : BitVec 4) : BitVec 32 :=
  (at_ 26 pos ||| at_ 22 page ||| at_ 20 cw ||| at_ 16 attempt).setWidth 32

/-- A RECOVER record (R311). -/
def recoverRecord (tag : W64) (seq : BitVec 32) (die : BitVec 12) (result : BitVec 3) (failed : Bool)
    (index : BitVec 16) : List W64 :=
  let known := result = 0 ∨ result = 3
  [if known then tag else 0,
   at_ 32 (if known then seq else 0) ||| at_ 20 die ||| at_ 17 result ||| flag 16 failed ||| at_ 0 index]

/-- The classes of a stripe found at recovery (R312). -/
inductive StripeClass where
  | complete | repairable | lost
  deriving DecidableEq, Repr

/-- R312: by the number of missing positions and m. -/
def stripeClass (missing m : Nat) : StripeClass :=
  if missing = 0 then .complete else if missing ≤ m then .repairable else .lost

/-! ## Entry operands and policy -/

/-- The policy allows a suspend (R219, R220): of an erase or of a page program that was suspended `times` times and
ran `us` microseconds since its start or last resume. -/
def suspendAllowed (policy : W64) (erase : Bool) (times us : Nat) : Bool :=
  let mode := fld policy 0 2
  (mode = 2 || (mode = 1 && erase)) && times < (fld policy 16 8).toNat && (fld policy 32 32).toNat ≤ us

/-! ## Die signatures -/

/-- The signature from one copy of the unique ID: bytes 0-7 XOR bytes 8-15, a result of 0 replaced by 1 (R522). -/
def signature (id : List Byte) : W64 :=
  let x := bytesWord (id.take 8) ^^^ bytesWord ((id.drop 8).take 8)
  if x = 0 then 1 else x

/-- A copy is usable when its 16 bytes each XOR with their complement to 0xFF (R522). -/
def copyOk (id comp : List Byte) : Bool := (id.zip comp).all fun p => p.1 ^^^ p.2 = 0xFF

/-- The signature of a die from the copies of its unique ID, each with its complement (R522): the first usable
copy; 0 where there is none. -/
def dieSignature (copies : List (List Byte × List Byte)) : W64 :=
  match copies.find? fun c => copyOk c.1 c.2 with
  | some c => signature c.1
  | none => 0

/-- What INIT and RETRAIN do with a recorded and a read signature (R523). -/
inductive SigAction where
  | record | train | foreign
  deriving DecidableEq, Repr

/-- R523. A read signature of 0 names no die, whatever is recorded. -/
def sigAction (recorded read : W64) : SigAction :=
  if read = 0 then .foreign else if recorded = 0 then .record else if recorded = read then .train else .foreign

end Sys2Proof.Machine
end

