-- ==== Sys2Proof/Machine/LibraryTrain.lean ====
section
/-! DEFINITION. What the library's INIT, RETRAIN, QUAL-SWEEP and POLICY decide: the training sequence, volume
appointment and termination (R190), the training windows (R191), qualification (R193, R194), the delay slots (R195),
DSTATE (R203, R523), page layouts (R234), the library's own state of a channel (R219, R266, R273). -/

namespace Sys2Proof.Machine

open Sys2Proof

/-! ## The library's state of a channel (R219, R266, R273) -/

/-- The bounds of R266: ZB ascends from 0, TYPE_MOD is 1 to 4, the types stay below 16; those of R273 and R276. -/
def DieTab.ok (d : DieTab) : Bool :=
  d.zb.length = 16 && d.zb.getD 0 1 = 0 && (d.zb.zip (d.zb.drop 1)).all (fun p => p.1 ≤ p.2) &&
  1 ≤ d.typeMod && d.typeMod ≤ 4 && d.typeBase + (d.typeMod - 1) ≤ 15 &&
  d.ladder.all (fun l => 1 ≤ l.length && l.length ≤ 15 && l.all (·.length = 16)) && d.s2 < d.s1 && d.s3 < d.s2

/-- Zone and page type of a page under a die's table (R266). -/
def DieTab.place (d : DieTab) (p : Nat) : Nat × Nat := (zoneOf d.zb p, pageType d.typeBase d.typeMod p)

/-- At a power-up of the quad the policy word returns to its default and no lock is held (R219). -/
def LibState.powerUp : LibState := {}

/-- ADOPT of the policy word. -/
def LibState.adopt (l : LibState) : Bool := bit l.policy 8

/-- The ladder lock of a die is taken; none: it is held, and the program polls again (R273). -/
def LibState.take (l : LibState) (j : Ctx) : Option LibState :=
  if l.locks.contains j then none else some { l with locks := j :: l.locks }

def LibState.release (l : LibState) (j : Ctx) : LibState := { l with locks := l.locks.filter (· ≠ j) }

/-- TIME for which the WAITT of a program that polls a lock, a NOT_READY or a CLOSE waits: 1 µs (R273, R300, R301). -/
def pollAgain (time : W64) : W64 := time + 1000

/-! ## The training sequence -/

/-- The steps of INIT, in order (the training table of 07_channel_signalling.md); its step 3 appoints the volumes, then
reads the parameter page of each, then sets their termination (R190). -/
inductive TrainStep where
  | reset | identify | appoint | volumePages | terminate | eccOff | interface | zqLong | zqShort | dutyCycle | readDq
  | writeDq | commit
  deriving DecidableEq, Repr

/-- INIT runs every step; RETRAIN runs steps 6-10, with ZQ short in place of ZQ long. -/
def trainSteps (init : Bool) : List TrainStep :=
  if init then [.reset, .identify, .appoint, .volumePages, .terminate, .eccOff, .interface, .zqLong, .dutyCycle, .readDq,
    .writeDq, .commit]
  else [.zqShort, .dutyCycle, .readDq, .writeDq, .commit]

/-- What the program meets at one context: whether its read ID and its parameter page pass their checks, what its
signature asks for (R523), whether it reports die-side ECC, and whether it accepts that being switched off (R183). -/
structure DieFind where
  idOk     : Bool
  pageOk   : Bool
  sig      : SigAction
  ecc      : Bool
  eccTaken : Bool
  deriving DecidableEq, Repr

/-- A die is there: by the read ID and parameter page checks of step 2, never by a status byte (R177). -/
def DieFind.here (f : DieFind) : Bool := f.idOk && f.pageOk

/-- It keeps its die-side ECC (R183). -/
def DieFind.keepsEcc (f : DieFind) : Bool := f.ecc && !f.eccTaken

/-- RETRAIN deals with a die whose record is STALE and whose context is ACTIVE (R523). -/
def retrains (record : DieRec) (d : DieCtl) : Bool := record.st = 2 && d.dstate = 1

/-- The steps that one die goes through: no die, or one found FOREIGN, stops at step 2 of INIT (R177, R523), a FOREIGN one
before RETRAIN trains it; a die that keeps its ECC stops at step 4, its record left INVALID (R183). -/
def dieSteps (init : Bool) (f : DieFind) : List TrainStep :=
  if init && !f.here then [.reset, .identify]
  else if f.sig = .foreign then (if init then [.reset, .identify] else [])
  else if init && f.keepsEcc then [.reset, .identify, .appoint, .volumePages, .terminate, .eccOff]
  else (trainSteps init).filter fun t => t ≠ .eccOff || f.ecc

/-- A die of the channel has a ZQ short from RETRAIN: after a wake of the quad, or with the channel record STALE and
DRIFT set (R192). -/
def zqDue (wake : Bool) (r : ChRec) : Bool := wake || (r.st = 2 && r.drift)

/-! ## Volumes and termination (R188, R190) -/

/-- The ODT matrix byte of target `t`, from OPA and OPB of the INIT entry (R330). -/
def odtByte (opa opb : W64) (t : Nat) : Byte := if t < 8 then fld opa (8 * t) 8 else fld opb (8 * (t - 8)) 8

/-- The targets that INIT configures with E2h, each with its matrix byte: those whose byte is not 0. -/
def odtTargets (opa opb : W64) : List (Nat × Byte) :=
  ((List.range 16).map fun t => (t, odtByte opa opb t)).filter fun x => x.2 ≠ 0

/-- Volume appointment on one chip enable: the volume at position v of the ENi/ENo chain gets address v, for the
`present` volumes of the chain, at most 8. -/
def appoint (present : Nat) : List (Nat × BitVec 3) := (List.range (min present 8)).map fun v => (v, BitVec.ofNat 3 v)

/-- Die context of chip enable `ce`, volume `v`, LUN `l` (R201). -/
def ctxOf (ce : Bool) (v : BitVec 3) (l : BitVec 2) : Ctx := BitVec.ofBool ce ++ v ++ l

/-! ## DSTATE (R203, R523) and the die record -/

/-- What the program makes of a context; `passed`: some timing mode passed its training (R191). -/
def found (init : Bool) (f : DieFind) (passed : Bool) : Found :=
  if init && !f.here then .absent
  else if f.sig = .foreign then .foreign
  else if init && f.keepsEcc then .untrained
  else if passed then .trained else .untrained

/-- The USER byte through which the context's DSTATE changes; none: it is left alone (R203). -/
def trainUser : Found → Option Byte
  | .absent => none
  | .foreign => some 0xD2
  | .trained => some 0xD1
  | .untrained => none

/-! ## Training windows (R191) -/

/-- A passing window of a DQ bit in ps: from, to. -/
abbrev Window := Int × Int

/-- The window is at least 0.30 UI, or 0.35 UI for IFACE 3; one UI is 10^6 / MTS ps. -/
def windowOk (iface mts : Nat) (w : Window) : Bool :=
  decide ((if iface = 3 then 35 else 30) * 1000000 ≤ 100 * (w.2 - w.1) * mts)

/-- The die is accepted at its rate: every DQ bit's read window after deskew and write window hold. -/
def trainedOk (iface mts : Nat) (reads writes : List Window) : Bool :=
  reads.all (windowOk iface mts) && writes.all (windowOk iface mts)

/-- The common window of the bits. -/
def commonWindow (ws : List Window) : Window :=
  (ws.foldl (fun m w => max m w.1) ((ws.headD (0, 0)).1), ws.foldl (fun m w => min m w.2) ((ws.headD (0, 0)).2))

/-- Its centre, to which RD_DQS or WR_DQ is set; an odd sum is rounded down (DESIGN CHOICE, log entry 160). -/
def centre (w : Window) : Int := (w.1 + w.2) / 2

/-- DESKEW[b]: the distance of the bit's centre from the common centre, in units of 2 ps, an odd distance rounded down
(DESIGN CHOICE, log entry 160). -/
def deskewSet (ws : List Window) : List Int := ws.map fun w => (centre w - centre (commonWindow ws)) / 2

/-- The outcome of training over the timing modes `(IFACE, MTS)`, highest first: the first that passes; none: the
record is left INVALID. -/
def trainMode (modes : List (Nat × Nat)) (passes : Nat × Nat → Bool) : Option (Nat × Nat) := modes.find? passes

/-- STD_MTS and EXT_MTS (R113). -/
def stdMts : Nat := 3600
def extMts : Nat := 4800

/-- RETRAIN of a die at `(iface, mts)`: an IFACE 3 die that fails is committed as IFACE 2 at STD_MTS (R191, R194). -/
def retrainMode (iface mts : Nat) (passes : Bool) (lower : List (Nat × Nat)) (lowerPasses : Nat × Nat → Bool) :
    Option (Nat × Nat) :=
  if passes then some (iface, mts) else if iface = 3 then some (2, stdMts) else trainMode lower lowerPasses

/-- The IFACE and MTS that INIT gives a die whose record came back from a saved set: IFACE 3 only if RETRAIN passes at
the saved MTS (R194). -/
def restoredMode (iface mts : Nat) (passes : Bool) : Nat × Nat :=
  if iface = 3 then (if passes then (3, mts) else (2, stdMts)) else (iface, mts)

/-- A die may run at IFACE 3: it has passed a sweep, and since then neither fell back nor was FOREIGN (R193, R194). -/
def qualified (swept fellBack wasForeign : Bool) : Bool := swept && !fellBack && !wasForeign

/-! ## The qualification sweep (R193) -/

/-- The rates that QUAL-SWEEP tries: 3,800 to EXT_MTS by 200. -/
def sweepRates : List Nat := (List.range ((extMts - 3800) / 200 + 1)).map fun i => 3800 + 200 * i

/-- A rate is passed: R191's IFACE 3 windows hold, and the pattern of 16 MiB shows no bit error. -/
def ratePassed (mts : Nat) (reads writes : List Window) (errors : Nat) : Bool :=
  trainedOk 3 mts reads writes && errors = 0

/-- The outcome of the sweep: none when the die fails at IFACE 2 and STD_MTS; else the highest passed rate whose next
lower rate also passed, STD_MTS being the rate below 3,800; without a pass at 3,800, IFACE 2 at STD_MTS. -/
def qualify (std : Bool) (passed : Nat → Bool) : Option (Nat × Nat) :=
  if !std then none
  else if !passed 3800 then some (2, stdMts)
  else (sweepRates.reverse.find? fun r => passed r && (r = 3800 || passed (r - 200))).map fun r => (3, r)

/-- What QUAL-SWEEP does with its die, in order. -/
inductive SweepAct where
  /-- a training step at an interface and rate -/
  | train (step : TrainStep) (iface mts : Nat)
  /-- bytes of the pseudo-random pattern through the page register, by TRAIN_IN and TRAIN_OUT on the RAW path -/
  | pattern (mts bytes : Nat)
  /-- the commit of its record -/
  | commit (iface mts : Nat)
  deriving DecidableEq, Repr

/-- Training steps 7-9 at an interface and rate. -/
def rateTrain (iface mts : Nat) : List SweepAct :=
  [.train .dutyCycle iface mts, .train .readDq iface mts, .train .writeDq iface mts]

/-- One rate of the sweep: steps 7-9 at IFACE 3, then 16 MiB of the pattern, which is not run where the windows do not
hold (the worked example of R193). -/
def rateActs (windows : Nat → Bool) (mts : Nat) : List SweepAct :=
  rateTrain 3 mts ++ (if windows mts then [.pattern mts (16 * 2 ^ 20)] else [])

/-- QUAL-SWEEP on the one die of its entry, while every other die of the channel is idle on the bus: training at IFACE 2
and STD_MTS; every rate; the commit. `windows r`: R191's IFACE 3 windows hold at rate r; `errors r`: bit errors of the
pattern. -/
def qualSweep (j : Ctx) (std : Bool) (windows : Nat → Bool) (errors : Nat → Nat) : List (Ctx × SweepAct) :=
  let rest := match qualify std (fun r => windows r && errors r = 0) with
    | none => []
    | some (i, m) => sweepRates.flatMap (rateActs windows) ++ [.commit i m]
  (rateTrain 2 stdMts ++ rest).map fun a => (j, a)

/-! ## Page programs (R234) -/

/-- A DIN burst of a library page program: its column, its bytes, and the codeword it carries; none: the pad, RAW with
LEN 1 and LC its length. -/
structure PageBurst where
  column   : Nat
  length   : Nat
  codeword : Option Nat
  deriving DecidableEq, Repr

/-- The bursts of a page of `size` bytes at rate code `r`, before the confirm: codeword k at column k × N, then the pad up
to the end of the page. -/
def pageBursts (size r : Nat) : List PageBurst :=
  (List.range 4).map (fun k => { column := k * cwLen r, length := cwLen r, codeword := some k }) ++
  (if libPad size r = 0 then [] else [{ column := libPage r, length := libPad size r, codeword := none }])

/-- The bytes of the pad. -/
def padBytes (size r : Nat) : List Byte := List.replicate (libPad size r) 0xA5

/-! ## Delay slots (R195) -/

/-- The PHY floor of a slot in ps, for IFACE 0 or for IFACE 1-4; none: the slot has no floor. -/
def slotFloor (sdr : Bool) (n : Nat) : Option Nat :=
  let v := fun (a b : Nat) => some (1000 * if sdr then a else b)
  match n with
  | 1 => v 70 20
  | 2 => v 20 5
  | 3 => v 100 10
  | 4 => v 50 4
  | 5 => v 20 4
  | 6 => v 120 80
  | 7 => v 200 150
  | 8 => if sdr then none else some 300000
  | 9 => v 200 100
  | 10 => v 200 100
  | 11 => v 40 20
  | 12 => v 0 15
  | 13 => v 0 5
  | 14 => v 0 15
  | 15 => v 0 5
  | 16 => v 0 30
  | _ => none

/-- The library default, in ps, of a slot without a floor for which neither the parameter page nor the library's tables
give a value. -/
def slotDefault (n : Nat) : Option Nat :=
  match n with
  | 8 => some 500000
  | 17 | 18 | 19 => some 1000000
  | 20 => some 400000
  | 21 => some 1000000000
  | _ => none

/-- What RETRAIN writes into slot `n`: the larger of the die's value and the floor; without a floor the die's value, or
the default. -/
def slotValue (sdr : Bool) (n : Nat) (die : Option Nat) : Option Nat :=
  match slotFloor sdr n, die with
  | some f, some d => some (max f d)
  | some f, none => some f
  | none, some d => some d
  | none, none => slotDefault n

end Sys2Proof.Machine
end

