-- ==== Sys2Proof/Machine/LibraryRead.lean ====
section
/-! DEFINITION. What the library's reads decide and in which order they act: suspends for reads (R220, R221), the
ladder (R273, R274), soft reads (R276), the Render stage (R302), statuses and results (R22, R275), sweeps (R277, R278),
ERASE-CHECK (R218) and Skim (R279-R281). -/

namespace Sys2Proof.Machine

open Sys2Proof

/-! ## Actions -/

/-- How a read captures a codeword. -/
inductive Capture where
  | coded
  | raw
  | soft
  deriving DecidableEq, Repr

/-- What a library program asks of the block, each with its operands: the ladder lock of its die, taken or only waited
for, PLBFRZ, PLBRD, PLBWR, one read routine with its capture, its first buffer and its rate code, which is that of the die's
table (R234), a CODED read of codeword 0 of a row, cycles to the die, a park at a slot until the die's status shows it ready, WAITT, words to S2 with an end mark on the last, which wait while S2 is full (R136). -/
inductive LibAct where
  | lock
  | unlock
  | awaitLock
  | freeze (b : Bool)
  | plbrd (level : Nat)
  | plbwr (level : Nat) (v : Int)
  | read (codewords : List Nat) (how : Capture) (buffer rate : Nat)
  | readRow (die : BitVec 12) (row : BitVec 24)
  | status
  | status78 (j : Ctx)
  | park (slot : Nat)
  | suspend
  | resume
  | dieReset
  | waitUs (us : Nat)
  | push (ws : List W64)
  deriving DecidableEq, Repr

/-- PLBRD of every level. -/
def readOffsets (levels : List Nat) : List LibAct := levels.map LibAct.plbrd

/-- PLBWR of every level with the offsets `vs`. -/
def writeOffsets (levels : List Nat) (vs : List Int) : List LibAct := (levels.zip vs).map fun p => .plbwr p.1 p.2

/-! ## The ladder (R274) -/

/-- The offsets of a rung: base plus its deltas, per level; PLBWR clamps each (R263). -/
def rungOffsets (base delta : List Int) : List Int := base.zipWith (· + ·) delta

/-- A ladder under way: what it has done, the codewords that still fail, and those that it decoded, each with its rung. -/
structure Ladder where
  acts    : List LibAct := []
  failing : List Nat
  decoded : List (Nat × Nat) := []
  deriving DecidableEq, Repr

/-- The codewords of a page that fail, by CWFAIL of the outcome word (R172). -/
def cwFailing (cwfail : Byte) : List Nat := (List.range 4).filter cwfail.getLsbD

/-- One rung: its offsets, a re-read of the codewords still failing; `decodes k` says whether codeword k decodes. -/
def ladderRung (rate : Nat) (levels : List Nat) (base delta : List Int) (n : Nat) (decodes : Nat → Bool) (x : Ladder) :
    Ladder :=
  { acts := x.acts ++ writeOffsets levels (rungOffsets base delta) ++ [.read x.failing .coded 0 rate],
    failing := x.failing.filter fun k => !decodes k,
    decoded := x.decoded ++ (x.failing.filter decodes).map fun k => (k, n) }

/-- The rungs from number `n` on, until every codeword has decoded. `decodes n k`: at rung n codeword k decodes. -/
def ladderRungs (rate : Nat) (levels : List Nat) (base : List Int) (decodes : Nat → Nat → Bool) :
    (deltas : List (List Int)) → (n : Nat) → Ladder → Ladder
  | [], _, x => x
  | d :: ds, n, x =>
    if x.failing.isEmpty then x
    else ladderRungs rate levels base decodes ds (n + 1) (ladderRung rate levels base d n (decodes n) x)

/-- The ladder of a page of type `t` on a die with table `d`, which runs when CWFAIL of its read is not 0: lock and
freeze; the base offsets; the rungs; the offsets of the rung that decoded the last codeword stay where ADOPT is set, else
the base offsets are restored; unfreeze and release. The codewords of `failing` go on to soft reads. -/
def ladder (d : DieTab) (t : Nat) (levels : List Nat) (base : List Int) (adopt : Bool) (decodes : Nat → Nat → Bool)
    (cwfail : Byte) : Ladder :=
  if (cwFailing cwfail).isEmpty then { failing := [] }
  else
    let start : Ladder := { acts := [.lock, .freeze true] ++ readOffsets levels, failing := cwFailing cwfail }
    let deltas := (d.ladder.getD t []).map fun r => levels.map fun l => r.getD l 0
    let x := ladderRungs d.rate levels base decodes deltas 1 start
    let keep := x.failing.isEmpty && adopt
    { x with acts := x.acts ++ (if keep then [] else writeOffsets levels base) ++ [.freeze false, .unlock] }

/-- What the handler does when an abort wins while the ladder, a soft read or a sweep runs (R274, R277). -/
def ladderAborted (levels : List Nat) (base : List Int) : List LibAct :=
  writeOffsets levels base ++ [.freeze false, .unlock]

/-! ## Soft reads (R276) -/

/-- The offset shift of soft read `i`, 1 to 1 + 2r. -/
def softShift (d : DieTab) : (i : Nat) → Int
  | 2 => -d.s1 | 3 => d.s1 | 4 => -d.s2 | 5 => d.s2 | 6 => -d.s3 | 7 => d.s3
  | _ => 0

/-- Capture and buffer of soft read `i` from first buffer `b0`: the hard plane, then for each pair a RAW and a SOFT
DOUT into one buffer. -/
def softCapture (b0 : Nat) (i : Nat) : Capture × Nat :=
  if i ≤ 1 then (.raw, b0 % 8) else (if i % 2 = 0 then .raw else .soft, (b0 + i / 2) % 8)

/-- The reads of a soft read of codeword `k` with `r` planes: each sets its offsets by PLBWR and runs one routine, under
the ladder lock with the die frozen; the base offsets are restored after them. -/
def softRead (d : DieTab) (levels : List Nat) (base : List Int) (k b0 r : Nat) : List LibAct :=
  [.lock, .freeze true] ++ readOffsets levels ++
  ((List.range (1 + 2 * r)).flatMap fun i =>
    let x := softCapture b0 (i + 1)
    writeOffsets levels (base.map (· + softShift d (i + 1))) ++ [.read [k] x.1 x.2 d.rate]) ++
  writeOffsets levels base ++ [.freeze false, .unlock]

/-! ## Status and result of a read (R22, R241, R275, R302) -/

/-- The first stage at which a codeword was recovered (R22). -/
inductive Stage where
  | erased
  | hard
  | ladder (rung : Nat)
  | soft
  | render
  | lost
  deriving DecidableEq, Repr

/-- Where a codeword goes after its hard read and ladder: to a soft read, and on to Render only when the entry names a
location list; NOBANK goes on to Render at once (R252, R302). -/
def nextStage (softOk list rendered : Bool) : Stage :=
  if softOk then .soft else if list && rendered then .render else .lost

/-- The stage of a codeword by RESULT of its hard decode report (R244). -/
def hardStage (result : BitVec 3) : Option Stage :=
  if result = 0 then some .hard else if result = 5 then some .erased else none

/-- Where each codeword of a page was recovered, in order: by RESULT of its hard report, by its ladder, by a soft read
whose report shows SOFT_OK, by Render. -/
def pageStages (hard : Nat → BitVec 3) (x : Ladder) (soft : Nat → BitVec 3) (list : Bool) (rendered : Nat → Bool) :
    List Stage :=
  (List.range 4).map fun k =>
    match hardStage (hard k), x.decoded.find? (·.1 = k) with
    | some st, _ => st
    | none, some (_, n) => .ladder n
    | none, none => nextStage (soft k = 3) list (rendered k)

/-- The status of a library read over its codewords (R22). -/
def readStatus (xs : List Stage) : Byte :=
  if xs.any (· = .lost) then 0x18
  else if xs.any (· = .render) then 0x02
  else if xs.any (· = .soft) then 0x01
  else 0x00

/-- The rung of a codeword. -/
def rungOf : Stage → Nat
  | .ladder n => n
  | _ => 0

/-- A page read by the library: its codewords, and whether its ladder ran and left one undecoded. -/
structure PageRead where
  words : List Stage
  left  : Bool
  deriving DecidableEq, Repr

/-- The erased codewords of one page as a mask, bit k for codeword k (R241). -/
def erasedMask (xs : List Stage) : BitVec 4 :=
  (List.range 4).foldl (fun m k => if xs.getD k .hard = .erased then m ||| (1#4 <<< k) else m) 0

/-- A page of a library read whose hard read left CWFAIL and whose ladder is `x` (R274). -/
def pageRead (hard : Nat → BitVec 3) (x : Ladder) (soft : Nat → BitVec 3) (list : Bool) (rendered : Nat → Bool) :
    PageRead :=
  { words := pageStages hard x soft list rendered, left := !x.failing.isEmpty }

/-- The result of READ: one page (R241, R275). -/
def readPageResult (p : PageRead) : BitVec 32 :=
  readResult (erasedMask p.words) ((p.words.map rungOf).foldl max 0) (p.words.countP (· = .soft))
    (p.words.countP (· = .render)) p.left

/-- The result of READ-MP and READ-CACHE over the pages of the entry: counts, each saturating at 15, the highest rung,
LADDER_LEFT of any page (R275). -/
def readPagesResult (ps : List PageRead) : BitVec 32 :=
  let ws := ps.flatMap (·.words)
  readResult (sat4 (ws.countP (· = .erased))) ((ws.map rungOf).foldl max 0) (ws.countP (· = .soft))
    (ws.countP (· = .render)) (ps.any (·.left))

/-! ## The Render stage (R302) -/

/-- What a REBUILD of the failing page ended with (R290). -/
inductive Rebuilt where
  | done
  | residual
  | failed
  deriving DecidableEq, Repr

/-- After a REBUILD of a page of a stripe with `m` parities and `e` erased positions: once more, in a new context, with
the accumulated position of the highest PASSES declared erased too. -/
def rebuildAgain (x : Rebuilt) (second : Bool) (e m : Nat) : Bool := x = .residual && e < m && !second

/-- The position to declare erased: of the fetches `(position, PASSES)`, the first with the highest PASSES. -/
def suspectOf : List (Nat × Nat) → Option Nat
  | [] => none
  | x :: xs => some (xs.foldl (fun m y => if m.2 < y.2 then y else m) x).1

/-- The status of a library READ after its Render stage: OK_RENDER when every replaced codeword is unmarked. -/
def renderStatus (marked : List Bool) : Byte := if marked.any id then 0x18 else 0x02

/-- The status of the REBUILD operation: OK unless any output chunk is marked. -/
def rebuildStatus (marked : List Bool) : Byte := if marked.any id then 0x18 else 0x00

/-- Where a REBUILD writes: a P2 buffer of the program, or the entry's own buffers. -/
inductive RebuildTo where
  | p2
  | entry
  deriving DecidableEq, Repr

/-- The commands of a library rebuild, in order: OPEN of a READ context, for one page (ONEPAGE) or for the whole member. -/
inductive RenderAct where
  | openRead (onePage : Option Nat)
  | rebuild (target : Nat) (alsoErased : Option Nat) (dest : RebuildTo)
  | replace
  | close
  deriving DecidableEq, Repr

/-- OPEN and REBUILD of a target position, `after` each, once more in a new context where `rebuildAgain` says so, CLOSE. -/
def rebuildActs (page : Option Nat) (dest : RebuildTo) (after : List RenderAct) (target e m : Nat) (x : Rebuilt)
    (fetches : List (Nat × Nat)) : List RenderAct :=
  let once := fun also => [RenderAct.openRead page, .rebuild target also dest] ++ after
  once none ++ (if rebuildAgain x false e m then .close :: once (suspectOf fetches) else []) ++ [.close]

/-- The Render stage of a READ: ONEPAGE for the failing page, its own position into a P2 buffer, from which the failed
codewords are replaced. -/
def renderStage (page target e m : Nat) (x : Rebuilt) (fetches : List (Nat × Nat)) : List RenderAct :=
  rebuildActs (some page) .p2 [.replace] target e m x fetches

/-- The REBUILD operation (slot 0x03A): the same for the whole member that OPB names, into the entry's buffers. -/
def rebuildOp (opb : W64) (e m : Nat) (x : Rebuilt) (fetches : List (Nat × Nat)) : List RenderAct :=
  rebuildActs none .entry [] (fld opb 0 6).toNat e m x fetches

/-! ## Suspend for a read (R220, R221) -/

/-- An operation in flight on the die from another thread: an erase or a page program, its suspends so far, its µs since
its start or last resume, whether it is suspended now, whether the die's parameter page declares suspend. -/
structure InFlight where
  erase     : Bool
  times     : Nat
  us        : Nat
  suspended : Bool
  declared  : Bool
  deriving DecidableEq, Repr

/-- The read issues its SUSP routine at PRIO 3; else its ordinary routine, which waits (R153). The library never
suspends a suspended operation, nor one of a die that does not declare suspend. -/
def usesSusp (policy : W64) : Option InFlight → Bool
  | none => false
  | some x => x.declared && !x.suspended && suspendAllowed policy x.erase x.times x.us

/-- The library starts no page program or erase on a die whose operation is suspended (R221). -/
def mayStartWrite : Option InFlight → Bool
  | none => true
  | some x => !x.suspended

/-- The SUSP read routine on a die that is ready or busy at its status read, in order: a busy die is suspended, and the
routine parks at slot 25 until the status shows it ready (R220). -/
def suspRead (ready : Bool) (page : List LibAct) : List LibAct :=
  .status :: (if ready then page else [.suspend, .park 25] ++ page ++ [.resume])

/-- Its ABT path: the resume, if it sent a suspend, before END (R221). -/
def suspAbort (sent : Bool) : List LibAct := if sent then [.resume] else []

/-- CH_PUMP_CMD with the dies' resume opcodes, at most four, which then pass the pulse-start scheduler (R175, R220). -/
def pumpCmds (opcodes : List Byte) : BitVec 32 :=
  (opcodes.take 4).zipIdx.foldl (fun (w : BitVec 32) (p : Byte × Nat) =>
    w ||| (BitVec.setWidth 32 p.1 <<< (8 * p.2 : Nat))) 0

/-! ## Sweeps (R277, R278) -/

/-- The offset of read `i` of a sweep. -/
def sweepOffset (off0 : Int) (d i : Nat) : Int := off0 + (i * d : Nat)

/-- The reads of a sweep of `n`: the number of the first whose offset lies outside [LO, HI], or n. -/
def sweepReads (lo hi off0 : Int) (d n : Nat) : Nat :=
  ((List.range n).takeWhile fun i => lo ≤ sweepOffset off0 d i && sweepOffset off0 d i ≤ hi).length

/-- A sweep's completion: ABORTED with the low half of its last outcome word where an abort won (R227, R228), DIE_FAIL
with the number of the read that stopped it, or OK with n. -/
def sweepEnd (lo hi off0 : Int) (d n : Nat) (aborted : Option W64) : Byte × BitVec 32 :=
  let k := sweepReads lo hi off0 d n
  match aborted with
  | some w => (0x08, (fld w 0 16).setWidth 32)
  | none => (if k < n then 0x19 else 0x00, BitVec.ofNat 32 k)

/-- Physical one bits of a raw read of four codewords of rate code `r`: 4 × N bytes (R277). -/
def sweepOnes (r : Nat) (bytes : List Byte) : Nat := oneBits (bytes.take (4 * cwLen r))

/-- The page that a sweep reads: its die index, its row, its zone and page type, and its levels with their Plumb offsets;
the die's table, TIME of the first read, and what read i gave. -/
structure SweepPage where
  die   : BitVec 12
  row   : BitVec 24
  zone  : BitVec 4
  type  : BitVec 4
  base  : List (Nat × Int)
  tab   : DieTab
  time  : W64
  read  : Nat → List Byte

/-- READ-SWEEP of level `l`: lock and freeze, the Plumb offsets, the reads at their offsets, the offsets restored,
unfreeze and release, then the packet from the reads. An offset outside the bounds, or an abort, which lets the first
`stop` reads be made, pushes none. -/
def sweep (p : SweepPage) (l : Nat) (lo hi off0 : Int) (d n : Nat) (stop : Option Nat) : List LibAct :=
  let k := sweepReads lo hi off0 d n
  let levels := p.base.map (·.1)
  let packet := sweepPacket p.die p.zone (BitVec.ofNat 4 l) p.type p.row p.time ((List.range n).map fun i =>
    (BitVec.ofInt 8 (sweepOffset off0 d i), BitVec.ofNat 32 (sweepOnes p.tab.rate (p.read i))))
  [.lock, .freeze true] ++ readOffsets levels ++
  ((List.range (min k (stop.getD k))).flatMap fun i => [.plbwr l (sweepOffset off0 d i), .read [0, 1, 2, 3] .raw 0 p.tab.rate]) ++
  ladderAborted levels (p.base.map (·.2)) ++ (if stop.isSome || k < n then [] else [.push packet])

/-! ## ERASE-CHECK (R218) -/

/-- The pages that ERASE-CHECK reads of an erase block of `n` pages: page 0, every 64th page, and the last page. -/
def eraseCheckPages (n : Nat) : List Nat :=
  (List.range n).filter fun p => p % 64 = 0 || p + 1 = n

/-- The bytes of a page that it counts: the length given, 18,432 for 0 (R330). -/
def eraseCheckLen (opa : W64) : Nat := if fld opa 0 24 = 0 then 18432 else (fld opa 0 24).toNat

/-- Its completion: OK, with the largest count of zero bits and the page that gave it, the first where several give the
same count (DESIGN CHOICE, log entry 161). -/
def eraseCheckEnd (pages : List (Nat × List Byte)) (len : Nat) : Byte × BitVec 32 :=
  let best := pages.foldl (fun (b : Option (Nat × Nat)) p =>
    let z := zeroBits (p.2.take len)
    match b with
    | some x => if x.2 < z then some (p.1, z) else some x
    | none => some (p.1, z)) none
  match best with
  | some (p, z) => (0x00, eraseCheckResult (BitVec.ofNat 24 z) p)
  | none => (0x00, 0)

/-! ## Skim (R279-R281) -/

/-- One codeword of a Skim read (R279). -/
structure SkimWord where
  erased    : Bool := false
  fail      : Bool := false
  corrected : Nat := 0
  passes    : Nat := 0
  deriving DecidableEq, Repr

/-- A page of a Skim pass: its row, its zone, TIME of its read, its codewords. -/
structure SkimPage where
  row   : BitVec 24
  zone  : BitVec 4
  time  : W64
  words : List SkimWord
  deriving DecidableEq, Repr

/-- The pages that Skim reads of an erase block of `n` pages: page 0 and every P-th after it. -/
def skimPages (n p : Nat) : List Nat := (List.range n).filter fun i => i % p = 0

/-- A page flags its erase block (R279). -/
def pageFlags (cl pl : Nat) (p : SkimPage) : Bool := p.words.any fun w => skimFlags w.fail w.corrected w.passes cl pl

/-- What Skim has read of an erase block when it stops there: through the first page that flags the block, after which it
moves on (DESIGN CHOICE, log entry 162), or through the first page that has an erased codeword, which ends the scan
unflagged (R280). -/
def skimScan (cl pl : Nat) : List SkimPage → List SkimPage × Bool
  | [] => ([], false)
  | p :: ps =>
    if p.words.any (·.erased) then ([p], false)
    else if pageFlags cl pl p then ([p], true)
    else
      let r := skimScan cl pl ps
      (p :: r.1, r.2)

/-- Highest CORRECTED among the HARD_OK codewords of a page, and highest PASSES. -/
def pageCorrected (p : SkimPage) : Nat := ((p.words.filter fun w => !w.fail).map (·.corrected)).foldl max 0
def pagePasses (p : SkimPage) : Nat := (p.words.map (·.passes)).foldl max 0

/-- The worst page of those read: the first with a failed codeword, else the one with the highest CORRECTED. -/
def worstPage : List SkimPage → Option SkimPage
  | [] => none
  | p :: ps =>
    match (p :: ps).find? fun x => x.words.any (·.fail) with
    | some x => some x
    | none => some (ps.foldl (fun m x => if pageCorrected m < pageCorrected x then x else m) p)

/-- The packet of a flagged erase block, from the pages read of it (R281). -/
def skimBlockPacket (die : BitVec 12) (cl pl : Nat) (read : List SkimPage) : Option (List W64) :=
  match worstPage read, read.getLast? with
  | some w, some l =>
    let ws := read.flatMap (·.words)
    let corr := (read.map pageCorrected).foldl max 0
    let pass := (read.map pagePasses).foldl max 0
    some (skimPacket (pl ≠ 0 && ws.any fun x => pl ≤ x.passes) (cl ≠ 0 && ws.any fun x => cl ≤ x.corrected)
      (ws.any (·.fail)) die w.zone w.row l.time (BitVec.ofNat 16 (min corr 65535)) (BitVec.ofNat 6 (min pass 63)))
  | _, _ => none

/-- A Skim pass over erase blocks: the packets pushed, the pages read and the erase blocks flagged. -/
def skimPass (die : BitVec 12) (cl pl : Nat) : List (List SkimPage) → List (List W64) × Nat × Nat
  | [] => ([], 0, 0)
  | b :: bs =>
    let x := skimScan cl pl b
    let r := skimPass die cl pl bs
    let packet := if x.2 then (skimBlockPacket die cl pl x.1).toList else []
    (packet ++ r.1, x.1.length + r.2.1, (if x.2 then 1 else 0) + r.2.2)

/-- The completion of SKIM: OK with its counts (R279). -/
def skimEnd (die : BitVec 12) (cl pl : Nat) (blocks : List (List SkimPage)) : Byte × BitVec 32 :=
  let r := skimPass die cl pl blocks
  (0x00, skimResult r.2.1 r.2.2)

/-- The erase blocks that a Skim pass has finished when an abort ends it after `n` reads (R280). -/
def skimBefore (cl pl : Nat) : (n : Nat) → List (List SkimPage) → List (List SkimPage)
  | _, [] => []
  | n, b :: bs =>
    let k := (skimScan cl pl b).1.length
    if k ≤ n then b :: skimBefore cl pl (n - k) bs else []

/-- An aborted pass: the packets pushed so far stay in S2, and the completion is ABORTED with the low half of the last
outcome word (R227, R280). -/
def skimAborted (die : BitVec 12) (cl pl n : Nat) (last : W64) (blocks : List (List SkimPage)) :
    List (List W64) × Byte × BitVec 32 :=
  ((skimPass die cl pl (skimBefore cl pl n blocks)).1, 0x08, (fld last 0 16).setWidth 32)

/-- The operands of a SKIM entry: E0, C, P, CL, PL and G (R279, R330). -/
structure SkimOps where
  e0 : Nat
  c  : Nat
  p  : Nat
  cl : Nat
  pl : Nat
  g  : Nat
  deriving DecidableEq, Repr

def skimOps (opa opb : W64) : SkimOps :=
  { e0 := (fld opa 0 16).toNat, c := (fld opa 16 16).toNat, p := (fld opb 0 12).toNat, cl := (fld opb 12 16).toNat,
    pl := (fld opb 28 6).toNat, g := (fld opb 34 30).toNat }

/-- The erase blocks of a pass and the pages to read of each, on a die of `n` pages per erase block. -/
def skimPlan (o : SkimOps) (n : Nat) : List (Nat × List Nat) :=
  (List.range o.c).map fun i => (o.e0 + i, skimPages n o.p)

/-- What a pass does on a die with table `d`, block by block: before each read G µs and the ladder lock's release, the read on the CODED path
without ladder, soft read or rebuild; the packet of a flagged block. -/
def skimActs (d : DieTab) (die : BitVec 12) (o : SkimOps) (blocks : List (List SkimPage)) : List LibAct :=
  blocks.flatMap fun b =>
    let x := skimScan o.cl o.pl b
    x.1.flatMap (fun _ => [.waitUs o.g, .awaitLock, .read [0, 1, 2, 3] .coded 0 d.rate]) ++
    (if x.2 then ((skimBlockPacket die o.cl o.pl x.1).map LibAct.push).toList else [])

/-- TIME at which Skim may start its next read: G µs after the end of its previous read of the die, and not while the
die's ladder lock is held (R280). -/
def skimNext (l : LibState) (j : Ctx) (lastEnd now : W64) (g : Nat) : W64 :=
  let t := lastEnd + BitVec.ofNat 64 (1000 * g)
  if now < t then t else if l.locks.contains j then pollAgain now else now

end Sys2Proof.Machine
end

