-- ==== Sys2Proof/Machine/LibraryWrite.lean ====
section
/-! DEFINITION. What the library's writes decide and in which order they act: buffer release (R27, R217), the way out of
a refusal (R47, R207), stripe members (R300), STRIPE-CLOSE (R301) and RECOVER (R310, R311). -/

namespace Sys2Proof.Machine

open Sys2Proof

/-! ## Buffer release (R27) -/

/-- The page is a member of a stripe whose parity is held until every member has reported: a WRITE context of its tag
is open (R288, R293). -/
def parityHeld (s : State) (tag : W64) : Bool :=
  s.rnd.ctx.any fun x => x.2.tag = tag && (x.2.phase = .acc || x.2.phase = .solved)

/-- The page runs release-at-transfer: asked for (RELEASE of the entry, R326) by a member of such a stripe, in the state
that its own OPEN leaves. For any other page the request is ignored, and it runs hold-to-status. -/
def releaseAtTransfer (s : State) (w0 tag : W64) : Bool := bit w0 39 && tag ≠ 0 && parityHeld s tag

/-! ## After a refusal -/

/-- After a DIE_TIMEOUT the library resets the die before it completes with TIMEOUT (R207). -/
def afterTimeout : LibOut → List LibAct
  | .timeout => [.dieReset]
  | _ => []

/-- A DOP that raised CAL_INVALID is retried once after RETRAIN (R47). -/
def retryAfterRetrain (retrained : Bool) : LibOut → Bool
  | .calInvalid => !retrained
  | _ => false

/-! ## Stripe members (R300) -/

/-- What a library PROGRAM of a stripe member does. -/
inductive WriteAct where
  | openWrite
  | accumulate
  | parityOut
  | waitUs (us : Nat)
  | transfer
  | free
  | awaitStatus
  | release (failed : Bool)
  | complete (status : Byte)
  deriving DecidableEq, Repr

/-- The position is released FAILED for every status but OK; an ABORTED page program only when its routine's CODE is
other than DONE (R228, R300). A member that reports REMOTE_LOST is released FAILED. So is one that ends PROGRAM_FENCE,
which R300 does not list (DESIGN CHOICE, log entry 170). -/
def releaseFailed (status : Byte) (code : Nat) : Bool :=
  if status = 0x08 then code ≠ 0 else status ≠ 0x00

/-- The steps of a stripe member, in order: a data member accumulates its buffer and transfers its pages, and frees the
buffer after the last burst when it runs release-at-transfer; a parity member retries PARITY_OUT every 1 µs, `notReady`
times here, and keeps its handle. Hold-to-status frees a data member's buffer after the status (R27). -/
def memberProgram (parity early : Bool) (notReady : Nat) (status : Byte) (code : Nat) : List WriteAct :=
  .openWrite ::
  (if parity then (List.replicate notReady [.parityOut, .waitUs 1]).flatten ++ [.parityOut, .transfer]
   else [.accumulate, .transfer] ++ (if early then [.free] else [])) ++
  [.awaitStatus] ++ (if parity || early then [] else [.free]) ++
  [.release (releaseFailed status code), .complete status]

/-- A page outside a stripe: it runs hold-to-status whatever its entry asks for (R27). -/
def plainProgram (status : Byte) : List WriteAct := [.transfer, .awaitStatus, .free, .complete status]

/-- A library PROGRAM by its entry's words 0 and 7, in the state in which it starts: a page without a tag is no member; a
member's first k positions are data (R285). Whether it releases early is judged after its OPEN, so that the first member
of a stripe may too. -/
def programActs (s : State) (w0 tag : W64) (parity : Bool) (notReady : Nat) (status : Byte) (code : Nat) :
    List WriteAct :=
  if tag = 0 then plainProgram status
  else memberProgram parity (releaseAtTransfer (rOpen tag 0 s).2 w0 tag) notReady status code

/-! ## STRIPE-CLOSE (R301) -/

/-- What STRIPE-CLOSE does with a stripe of `n` positions whose masks are REP_MASK and FAIL_MASK (R309). -/
inductive CloseStep where
  | retry
  | close (force : Bool)
  | fail (result : BitVec 32)
  deriving DecidableEq, Repr

/-- The positions below `n` whose bit is set. -/
def positions (n : Nat) (mask : W64) : List Nat := (List.range n).filter mask.getLsbD

/-- FORCE is passed to CLOSE; else it waits while a position is unreported, closes when all are OK, and with a FAILED
one completes DIE_FAIL: their count in [7:0], the lowest in [15:8]. -/
def stripeClose (force : Bool) (n : Nat) (rep fail : W64) : CloseStep :=
  let bad := positions n fail
  if force then .close true
  else if (positions n rep).length < n then .retry
  else match bad with
    | [] => .close false
    | t :: _ => .fail (BitVec.ofNat 32 (bad.length + 256 * t))

/-! ## RECOVER (R310, R311) -/

/-- A die at RECOVER's poll: ready with its status byte, still busy when the routine's timeout expired, or one that did
not answer. -/
inductive Polled where
  | ready (status : Byte)
  | busy
  | silent
  deriving DecidableEq, Repr

/-- The poll of one die: 78h at slot 24 intervals, `busy` times busy before it answers or the timeout expires; a die still
busy then is reset. -/
def recoverPoll (j : Ctx) (busy : Nat) (x : Polled) : List LibAct :=
  (List.replicate busy [.status78 j, .park 24]).flatten ++ .status78 j :: (if x = .busy then [.dieReset] else [])

/-- A candidate of the list that AUX names, in the layout of R297: its die index and row. Its NODE has no effect (log
entry 163). -/
def candDie (w : W64) : BitVec 12 := fld w 36 12
def candRow (w : W64) : BitVec 24 := fld w 0 24

/-- What RECOVER does: the poll of every ACTIVE die of the channel, then codeword 0 of each candidate page on the CODED
path; `busy j` says how often die j showed busy. -/
def recoverActs (active : List Ctx) (busy : Ctx → Nat) (polled : Ctx → Polled) (list : List W64) : List LibAct :=
  active.flatMap (fun j => recoverPoll j (busy j) (polled j)) ++ list.map fun w => .readRow (candDie w) (candRow w)

/-- The ACTIVE dies of a channel (R202). -/
def activeDies (s : State) (c : Chan) : List Ctx :=
  ((List.range 64).filter fun j => (tget {} j (chan s c).ctl.die).dstate = 1).map (BitVec.ofNat 6)

/-- STATUS_FAIL of the candidates of a die: its fail bit, or that it was reset. -/
def recoverFail : Polled → Bool
  | .ready st => bit st 0
  | .busy => true
  | .silent => false

/-- A candidate: its die index and what the CODED read of codeword 0 gave: tag and write sequence in the decoded user
part (R286, R287), RESULT of its report (R244). -/
structure Candidate where
  die    : BitVec 12
  tag    : W64
  seq    : BitVec 32
  result : BitVec 3
  deriving DecidableEq, Repr

/-- The candidate that list entry `w` names, from its buffer and report. -/
def candidate (w : W64) (buffer : List Byte) (report : W64) : Candidate :=
  { die := candDie w, tag := bytesWord ((buffer.drop 4144).take 8),
    seq := (bytesWord ((buffer.drop 4152).take 4)).setWidth 32, result := fld report 53 3 }

/-- The records of RECOVER, 16 B for each candidate, in the order of the list. -/
def recoverRecords (polled : Ctx → Polled) (cs : List Candidate) : List (List W64) :=
  cs.zipIdx.map fun p => recoverRecord p.1.tag p.1.seq p.1.die p.1.result (recoverFail (polled (fld p.1.die 0 6)))
    (BitVec.ofNat 16 p.2)

/-- Its completion: OK with the record count, or DIE_FAIL when no die of the channel answered. -/
def recoverEnd (polled : List Polled) (records : Nat) : Byte × BitVec 32 :=
  if polled.all (· = .silent) then (0x19, 0) else (0x00, BitVec.ofNat 32 records)

end Sys2Proof.Machine
end

