-- ==== Sys2Proof/WellFormed.lean ====
section
/-! DEFINITION. Which commands the boundary can send: operands within the ranges the spec gives them.
The meanings are total and do not use this predicate. -/

namespace Sys2Proof

/-- A register port offset of the aperture (R7): below 0x100_0000. -/
def offOk (off : Nat) : Bool := off < 0x1000000

/-- A Hawk pool number, 0-5 (R375). -/
def poolOk (k : Nat) : Bool := k < 6

/-- An access form that carries an action: a 64-bit or a 32-bit access (R59). -/
def formOk : Acc → Bool
  | .full | .low | .high => true
  | .burst | .other => false

/-- A fabric read of control data brings whole words, at most the 64 beats of R63. -/
def memOk : MemResp → Bool
  | .words ws => 0 < ws.length && ws.length ≤ 512
  | .error | .poisoned => true

/-- A data read brings at most 4,096 bytes with one mark for each beat touched (R63, R65). -/
def dataOk : DataResp → Bool
  | .read bytes poison => bytes.length ≤ 4096 && poison.length ≤ 65
  | .wrote | .error => true

/-- A frame's payload is its chunks of 64 bytes (R476). -/
def frameOk (f : Frame) : Bool := f.payload.length = 64 * f.chunks.toNat && f.chunks.toNat ≤ 64

/-- Well-formed commands. -/
def wf : Instr → Bool
  | .registerWrite off a _ => offOk off && a ≠ .burst
  | .calRecordWrite w _ _ => w < 20512
  | .hawkAllocRead k _ => poolOk k
  | .hawkFreeWrite k _ _ => poolOk k
  | .hawkPoolCfgWrite k _ _ => poolOk k
  | .poolWithholdEnd k => poolOk k
  | .prmReservedCmd code _ => 9 ≤ code.toNat
  | .registerColdReset _ a => formOk a
  | .registerWarmReset a => formOk a
  | .haltEvidenceClear a => formOk a
  | .prmPulseEnd _ => true
  | .dout _ d => d.length ≤ 4928
  | .trainOut _ d => d.length ≤ 4928
  | .routineEnd _ d => d.length ≤ 4928
  | .dqGuardRelease _ d => d.length ≤ 4928
  | .entryCheck _ r => memOk r
  | .contextReadDone _ _ r => memOk r
  | .fragmentTableReadDone _ r => memOk r
  | .dmaDescriptorReadDone _ r => memOk r
  | .dmaDataResponse _ _ _ r => dataOk r
  | .holdoffExpiry g => g < 2064
  | .pwrGrantRise d => 1 ≤ d && d < 20
  | .pwrGrantFall d => 1 ≤ d && d < 20
  | .quiescence d => 1 ≤ d && d < 20
  | .lathPortEnable x _ _ => x ≠ 3
  | .lathPortStateRead x _ => x ≠ 3
  | .lathRequest x f => x ≠ 3 && frameOk f
  | .lathData x f => x ≠ 3 && frameOk f
  | .lathAccept x f => x ≠ 3 && frameOk f
  | .lathComplete x f => x ≠ 3 && frameOk f
  | .lathReject x f => x ≠ 3 && frameOk f
  | .lathAbort x f => x ≠ 3 && frameOk f
  | .lathAbortResult x f => x ≠ 3 && frameOk f
  | .lathHeartbeat x f => x ≠ 3 && frameOk f
  | .lathProbe x f => x ≠ 3 && frameOk f
  | .lathProbeReply x f => x ≠ 3 && frameOk f
  | .lathHello x f => x ≠ 3 && frameOk f
  | .lathLink x f => x ≠ 3 && frameOk f
  | .lathFrameForward x f => x ≠ 3 && frameOk f
  | .linkTrainStep x _ => x ≠ 3
  | .linkTrainRetry x => x ≠ 3
  | .lathNoLink x => x ≠ 3
  | _ => true

end Sys2Proof
end

