-- ==== Sys2Proof/Tests/Slice0.lean ====
section
/-! SUPPORT. Tests: small states on which each statement's hypotheses hold, clause by clause, and one step of
instructions and commands with results worked out from the spec. -/

namespace Sys2Proof.Tests

open Sys2Proof Sys2Proof.Machine Sys2Proof.Spec

set_option Elab.async false

/-! ## Small states -/

/-- READY, nothing powered but CTL. -/
def quiet : State := { State.reset with gctl := { State.reset.gctl with boot := .ready } }

/-- STG, both processor domains and quad 0 ON. -/
def up : State := { quiet with pwr := { quiet.pwr with
  on := 0x1F, iso := 0xFFFE0, gnt := 0x1F, req := 0x1F, st := [(0, .on), (1, .on), (2, .on), (3, .on), (4, .on)] } }

/-- Channel 0 issues: its thread 0 runs at index 0 with these registers, and its program store holds `w` there. -/
def prog (w : W64) (rs : Tab W64) : State := { up with
  quad := [(0, { pstore := [(0, ⟨w.setWidth 128, .good⟩)] })],
  ch := [(0, { engine := 1, thr := [(0, { run := true, regs := rs })] })] }

/-- Words by their format (R104). -/
def wR (op rd ra rb fn : Nat) : W64 := BitVec.ofNat 64 (op * 2 ^ 56 + rd * 2 ^ 51 + ra * 2 ^ 46 + rb * 2 ^ 41 + fn * 2 ^ 32)
def wI (op rd ra fn imm : Nat) : W64 := BitVec.ofNat 64 (op * 2 ^ 56 + rd * 2 ^ 51 + ra * 2 ^ 46 + fn * 2 ^ 32 + imm)
def wB (op ra rb cond target : Nat) : W64 :=
  BitVec.ofNat 64 (op * 2 ^ 56 + ra * 2 ^ 51 + rb * 2 ^ 46 + cond * 2 ^ 42 + target)
def wM (op rd ra size off : Nat) : W64 := BitVec.ofNat 64 (op * 2 ^ 56 + rd * 2 ^ 51 + ra * 2 ^ 46 + size * 2 ^ 44 + off)
def wL (rd high imm : Nat) : W64 := BitVec.ofNat 64 (0x2F * 2 ^ 56 + rd * 2 ^ 51 + high * 2 ^ 48 + imm)
def wD (ra rb prio imm : Nat) : W64 := BitVec.ofNat 64 (0x60 * 2 ^ 56 + ra * 2 ^ 46 + rb * 2 ^ 41 + prio * 2 ^ 38 + imm)

/-- What is read off the next state of a command. -/
def look {α : Type} (o : Out) (f : State → α) : Option α :=
  match o with
  | .next t => some (f t)
  | _ => none

/-- The conditions of `Issues` for thread 0 of channel 0. -/
def issuesOk (w : W64) (s : State) : Bool :=
  engineRuns s 0 && decide (turnOf (chan s 0) = some 0) && decide ((fetchInstr 0 (thr s 0 0).pc s).1 = some w) &&
  legal w && (!noSlot w || (thr s 0 0).after.isNone) &&
  (!(thr s 0 0).abortP || (thr s 0 0).handler || decide ((thr s 0 0).after ≠ none))

theorem issues_of {w : W64} {s : State} (h : issuesOk w s = true) : Issues 0 0 w s (fetchInstr 0 (thr s 0 0).pc s).2 := by
  unfold issuesOk at h
  simp only [Bool.and_eq_true, decide_eq_true_eq, Bool.or_eq_true, Bool.not_eq_true', Option.isNone_iff_eq_none] at h
  obtain ⟨⟨⟨⟨⟨h1, h2⟩, h3⟩, h4⟩, h5⟩, h6⟩ := h
  exact ⟨h1, h2, Prod.ext h3 rfl, h4, fun h => h5.resolve_left (by simp [h]),
    fun h => h6.elim (fun k => .inl (k.resolve_left fun e => nomatch e.symm.trans h)) .inr⟩

/-! ## Arithmetic and decimal instructions -/

/-- R122, R124: each instruction of its row's word, RD g5, RA g1 = 0x8000000000000003, RB g2 = 0xfffffffffffffffd; the value and the
distance worked out by hand from the row. -/
def aluRows : List ((Chan → Thr → Instr) × W64 × W64 × Nat) :=
  [(.add, wR 0x0 5 1 2 0, 0x8000000000000000, 1), (.sub, wR 0x2 5 1 2 0, 0x8000000000000006, 1),
   (.and, wR 0x4 5 1 2 0, 0x8000000000000001, 1), (.or, wR 0x6 5 1 2 0, 0xFFFFFFFFFFFFFFFF, 1),
   (.xor, wR 0x8 5 1 2 0, 0x7FFFFFFFFFFFFFFE, 1), (.shl, wR 0xA 5 1 2 0, 0x6000000000000000, 1),
   (.shr, wR 0xC 5 1 2 0, 0x4, 1), (.sar, wR 0xE 5 1 2 0, 0xFFFFFFFFFFFFFFFC, 1), (.ror, wR 0x10 5 1 2 0, 0x1C, 1),
   (.minu, wR 0x12 5 1 2 0, 0x8000000000000003, 1), (.maxu, wR 0x13 5 1 2 0, 0xFFFFFFFFFFFFFFFD, 1),
   (.mul, wR 0x20 5 1 2 0, 0x7FFFFFFFFFFFFFF7, 4), (.mulhu, wR 0x21 5 1 2 0, 0x8000000000000001, 4),
   (.seq, wR 0x30 5 1 2 0, 0x0, 1), (.sne, wR 0x32 5 1 2 0, 0x1, 1), (.slt, wR 0x34 5 1 2 0, 0x1, 1),
   (.sltu, wR 0x36 5 1 2 0, 0x1, 1), (.sle, wR 0x38 5 1 2 0, 0x1, 1), (.sleu, wR 0x3A 5 1 2 0, 0x1, 1),
   (.addi, wI 0x1 5 1 0 0xFFFFFFFB, 0x7FFFFFFFFFFFFFFE, 1), (.subi, wI 0x3 5 1 0 0xFFFFFFFB, 0x8000000000000008, 1),
   (.andi, wI 0x5 5 1 0 0xFFFFFFFB, 0x8000000000000003, 1), (.ori, wI 0x7 5 1 0 0xFFFFFFFB, 0xFFFFFFFFFFFFFFFB, 1),
   (.xori, wI 0x9 5 1 0 0xFFFFFFFB, 0x7FFFFFFFFFFFFFF8, 1), (.muli, wI 0x22 5 1 0 0xFFFFFFFB, 0x7FFFFFFFFFFFFFF1, 4),
   (.seqi, wI 0x31 5 1 0 0xFFFFFFFB, 0x0, 1), (.snei, wI 0x33 5 1 0 0xFFFFFFFB, 0x1, 1),
   (.slti, wI 0x35 5 1 0 0xFFFFFFFB, 0x1, 1), (.sltui, wI 0x37 5 1 0 0xFFFFFFFB, 0x1, 1),
   (.slei, wI 0x39 5 1 0 0xFFFFFFFB, 0x1, 1), (.sleui, wI 0x3B 5 1 0 0xFFFFFFFB, 0x1, 1),
   (.shli, wI 0xB 5 1 0 5, 0x60, 1), (.shri, wI 0xD 5 1 0 5, 0x400000000000000, 1),
   (.sari, wI 0xF 5 1 0 5, 0xFC00000000000000, 1), (.rori, wI 0x11 5 1 0 5, 0x1C00000000000000, 1),
   (.popc, wR 0x14 5 1 0 0, 0x3, 1), (.clz, wR 0x15 5 1 0 0, 0x0, 1), (.ctz, wR 0x16 5 1 0 0, 0x0, 1),
   (.mov, wR 0x28 5 1 0 0, 0x8000000000000003, 1), (.extr, wI 0x17 5 1 4032 0, 0x1, 1),
   (.insr, wI 0x18 5 1 263 0, 0x1111111111111031, 1), (.limm, wL 5 0 0x800000000001, 0x800000000001, 1),
   (.limm, wL 5 1 0x8001, 0x8001111111111111, 1)]

/-- R146-R149: the spec's own examples, and the smallest and largest digit count. -/
def decimalRows : List ((Chan → Thr → Instr) × W64 × W64 × W64 × W64) :=
  [(.dadd, wR 0xB0 5 1 2 8, 0x123456, 0x987655, 0x1111111),
   (.dadd, wR 0xB0 5 1 2 8, 0x90000001, 0x10000009, 0x100000010), (.dsub, wR 0xB1 5 1 2 4, 0x100, 0x250, 0x19850),
   (.dadd, wR 0xB0 5 1 2 4, 0x12A, 0x1, 0xFFFFFFFFFFFFFFFF), (.dadj, wR 0xB2 5 1 0 2, 0x5A, 0x0, 0x60),
   (.dadj, wR 0xB2 5 1 0 2, 0x9A, 0x0, 0x100), (.bcd2bin, wR 0xB3 5 1 0 6, 0x4500, 0x0, 0x1194),
   (.bin2bcd, wR 0xB4 5 1 0 8, 0x96, 0x0, 0x150), (.bin2bcd, wR 0xB4 5 1 0 2, 0x96, 0x0, 0xFFFFFFFFFFFFFFFF),
   (.msfadd, wR 0xB5 5 1 2 0, 0x743215, 0x170, 0x743410), (.msfsub, wR 0xB6 5 1 2 0, 0x10, 0x100, 0x199995910),
   (.msf2n, wR 0xB7 5 1 0 0, 0x743215, 0x0, 0x51E37), (.n2msf, wR 0xB8 5 1 0 0, 0x51E37, 0x0, 0x743215),
   (.msfadd, wR 0xB5 5 1 2 0, 0x746000, 0x0, 0xFFFFFFFFFFFFFFFF),
   (.msfadd, wR 0xB5 5 1 2 0, 0x99995974, 0x1, 0x100000000), (.dslt, wR 0xB9 5 1 2 16, 0x12, 0x13, 0x1),
   (.bcd2bin, wR 0xB3 5 1 0 1, 0x9, 0x0, 0x9)]

/-- What the instruction has launched, and the thread's next index. -/
def launched (o : Out) : Option (List Flight × Nat) := look o fun t => ((thr t 0 0).flight, (thr t 0 0).pc.toNat)

def aluRegs : Tab W64 := [(1, 0x8000000000000003), (2, 0xFFFFFFFFFFFFFFFD), (5, 0x1111111111111111)]

theorem test_alu : ∀ r ∈ aluRows, issuesOk r.2.1 (prog r.2.1 aluRegs) = true ∧
    launched (exec (r.1 0 0) (prog r.2.1 aluRegs)) = some ([⟨5, r.2.2.1, r.2.2.2⟩], 1) := by decide +kernel

theorem test_decimal : ∀ r ∈ decimalRows, issuesOk r.2.1 (prog r.2.1 [(1, r.2.2.1), (2, r.2.2.2.1)]) = true ∧
    launched (exec (r.1 0 0) (prog r.2.1 [(1, r.2.2.1), (2, r.2.2.2.1)])) = some ([⟨5, r.2.2.2.2, 2⟩], 1) := by
  decide +kernel

/-- TwoSourceResult, ImmediateResult, OneSourceResult, InsertResult: every row has a word that issues. -/
theorem witness_alu : ∀ op ∈ rowsR.map (·.op) ++ rowsI.map (·.op) ++ rowsU.map (·.op) ++ [0x18, 0x2F],
    ∃ r ∈ aluRows, (opc r.2.1).toNat = op ∧ issuesOk r.2.1 (prog r.2.1 aluRegs) = true := by decide +kernel

/-- DecimalResult: every row has a word that issues. -/
theorem witness_decimal : ∀ op ∈ rowsD2.map (·.op) ++ rowsD1.map (·.op),
    ∃ r ∈ decimalRows, (opc r.2.1).toNat = op ∧ issuesOk r.2.1 (prog r.2.1 aluRegs) = true := by decide +kernel

/-! ## Branches, memory, events and waits -/

/-- Thread 0 of channel 0 after a command. -/
def after0 {α : Type} (cmd : Chan → Thr → Instr) (s : State) (f : Thread → α) : Option α :=
  look (exec (cmd 0 0) s) fun t => f (thr t 0 0)

/-- BranchResult, CallResult: a row of R125, its register values, where it goes after the delay slot, what g31 gets. -/
def branchRows : List ((Chan → Thr → Instr) × W64 × Tab W64 × Nat × List Flight) :=
  [(.br, wB 0x40 0 0 0 0x7FFF, [], 0x7FFF, []), (.br, wB 0x40 1 0 1 9, [], 9, []), (.br, wB 0x40 1 0 1 9, [(1, 1)], 2, []),
   (.br, wB 0x40 1 0 2 9, [(1, 1)], 9, []), (.br, wB 0x40 1 0 2 9, [], 2, []),
   (.br, wB 0x40 1 0 3 9, [(1, 0x8000000000000000)], 9, []), (.br, wB 0x40 1 0 3 9, [], 2, []),
   (.br, wB 0x40 1 0 4 9, [], 9, []), (.br, wB 0x40 1 0 4 9, [(1, 0xFFFFFFFFFFFFFFFF)], 2, []),
   (.cb, wB 0x41 1 2 0 9, [], 9, []), (.cb, wB 0x41 1 2 0 9, [(1, 1)], 2, []),
   (.cb, wB 0x41 1 2 1 9, [(1, 1)], 9, []), (.cb, wB 0x41 1 2 1 9, [], 2, []),
   (.cb, wB 0x41 1 2 2 9, [(1, 0xFFFFFFFFFFFFFFFF)], 9, []), (.cb, wB 0x41 1 2 2 9, [], 2, []),
   (.cb, wB 0x41 1 2 3 9, [], 9, []), (.cb, wB 0x41 1 2 3 9, [(1, 0xFFFFFFFFFFFFFFFF)], 2, []),
   (.cb, wB 0x41 1 2 4 9, [(2, 1)], 9, []), (.cb, wB 0x41 1 2 4 9, [], 2, []),
   (.cb, wB 0x41 1 2 5 9, [], 9, []), (.cb, wB 0x41 1 2 5 9, [(2, 1)], 2, []),
   (.ret, wR 0x44 0 31 0 0, [(31, 0x1000B)], 11, []), (.call, wB 0x42 0 0 0 9, [], 9, [⟨31, 2, 1⟩]),
   (.callr, wR 0x43 0 1 0 0, [(1, 0xFFFF)], 0x7FFF, [⟨31, 2, 1⟩])]

theorem test_branch : ∀ r ∈ branchRows, issuesOk r.2.1 (prog r.2.1 r.2.2.1) = true ∧
    after0 r.1 (prog r.2.1 r.2.2.1) (fun th => (th.pc.toNat, th.after.map (·.toNat), th.flight)) =
      some (1, some r.2.2.2.1, r.2.2.2.2) := by decide +kernel

/-- Scratch of channel 0 with bytes 0x80 to 0x87 at 0xFFF8 and a marked chunk at 64. -/
def withScratch (s : State) : State := modChan 0 (fun ch => { ch with scratch := {
  bytes := (List.range 8).map (fun i => (0xFFF8 + i, BitVec.ofNat 8 (0x80 + i))), mark := [(1, true)] } }) s

/-- LoadResult, StoreResult: the value at the top of scratch, sign and zero extended, by size. -/
def loadRows : List ((Chan → Thr → Instr) × W64 × Tab W64 × W64) :=
  [(.ld, wM 0x50 5 1 3 0, [(1, 0xFFF8)], 0x8786858483828180), (.ld, wM 0x50 5 1 0 0xFFFFFFFF, [(1, 0x10000)], 0x87),
   (.lds, wM 0x51 5 1 0 0, [(1, 0xFFF8)], 0xFFFFFFFFFFFFFF80), (.lds, wM 0x51 5 1 2 4, [(1, 0xFFF8)], 0xFFFFFFFF87868584),
   (.ld, wM 0x50 5 1 1 2, [(1, 0xFFF8)], 0x8382)]

theorem test_load : ∀ r ∈ loadRows, issuesOk r.2.1 (withScratch (prog r.2.1 r.2.2.1)) = true ∧
    after0 r.1 (withScratch (prog r.2.1 r.2.2.1)) (·.flight) = some [⟨5, r.2.2.2, 3⟩] := by decide +kernel

/-- ST, SWAP and FADD of 2 bytes at 0xFFFE: the bytes there after, and what comes back. -/
def storeRows : List ((Chan → Thr → Instr) × W64 × List Byte × List Flight) :=
  [(.st, wM 0x52 5 1 1 6, [0x85, 0x34, 0x12], []), (.swap, wM 0x53 5 1 1 6, [0x85, 0x34, 0x12], [⟨5, 0x8786, 3⟩]),
   (.fadd, wM 0x54 5 1 1 6, [0x85, 0xBA, 0x99], [⟨5, 0x8786, 3⟩])]

theorem test_store : ∀ r ∈ storeRows, issuesOk r.2.1 (withScratch (prog r.2.1 [(1, 0xFFF8), (5, 0xFF1234)])) = true ∧
    look (exec (r.1 0 0) (withScratch (prog r.2.1 [(1, 0xFFF8), (5, 0xFF1234)]))) (fun t =>
      ((List.range 3).map fun i => rawByte t (.scr 0) (0xFFFD + i), (thr t 0 0).flight)) = some (r.2.2.1, r.2.2.2) := by
  decide +kernel

/-- The event word of thread 0's frame: its code and its detail. -/
def eventOf (s : State) : Nat × W64 × W64 :=
  ((number ((List.range 8).map fun i => rawByte s (.scr 0) (0x8040 + i))),
    nat64 (number ((List.range 8).map fun i => rawByte s (.scr 0) (0x8048 + i))),
    nat64 (number ((List.range 8).map fun i => rawByte s (.scr 0) (0x8050 + i))))

/-- ADDRESS for a misaligned access and one past scratch, POISON for a marked chunk. -/
def badRows : List ((Chan → Thr → Instr) × W64 × Tab W64 × Nat × W64) :=
  [(.ld, wM 0x50 5 1 3 4, [(1, 0xFFF8)], 2, 0xFFFC), (.lds, wM 0x51 5 1 0 8, [(1, 0xFFF8)], 2, 0x10000),
   (.st, wM 0x52 5 1 1 7, [(1, 0xFFF8)], 2, 0xFFFF), (.swap, wM 0x53 5 1 3 1, [], 2, 1), (.fadd, wM 0x54 5 1 2 2, [], 2, 2),
   (.ld, wM 0x50 5 1 0 0, [(1, 127)], 4, 64), (.lds, wM 0x51 5 1 0 0, [(1, 64)], 4, 64),
   (.swap, wM 0x53 5 1 3 0, [(1, 120)], 4, 64), (.fadd, wM 0x54 5 1 3 0, [(1, 64)], 4, 64)]

theorem test_event : ∀ r ∈ badRows, issuesOk r.2.1 (withScratch (prog r.2.1 r.2.2.1)) = true ∧
    look (exec (r.1 0 0) (withScratch (modThr 0 0 (fun th => { th with slot := 3 }) (modQuad 0 (fun q =>
      { q with slots := [(3, 0x81230005)] }) (prog r.2.1 r.2.2.1))))) (fun t => (eventOf t, (thr t 0 0).pc, (thr t 0 0).handler)) =
      some ((r.2.2.2.1, 0, r.2.2.2.2), 0x123, true) := by decide +kernel

/-- ScratchAccess: the smallest and the largest access. -/
theorem witness_scratch : ∀ e ∈ [((0xFFFF : Nat), (1 : Nat)), (0xFFF8, 8)], e.2 ∈ [1, 2, 4, 8] ∧ e.1 % e.2 = 0 ∧
    ((List.range e.2).map fun _ => ((0 : Byte), false)).length = e.2 ∧
    (∀ b ∈ (List.range e.2).map (fun _ => ((0 : Byte), false)), b.2 = false) ∧
    (∀ i < e.2, tget false (e.1 + i) (chan (withScratch up) 0).scratch.bad = false) := by decide +kernel

/-- A thread in its handler, with 5 as event pc word. -/
def inHandler (abort : Bool) (w : W64) : State := modChan 0 (fun ch => { ch with scratch := { bytes := [(0x8048, 5)] } })
  (modThr 0 0 (fun th => { th with handler := true, abortP := abort, slot := 3 })
    (modQuad 0 (fun q => { q with slots := [(3, 0x81230005)] }) (prog w [])))

/-- EventReturn: EVRET outside a handler, inside one, and with an ABORT pending. -/
theorem test_evret : issuesOk (wR 0x46 0 0 0 0) (prog (wR 0x46 0 0 0 0) []) = true ∧
    after0 .evret (prog (wR 0x46 0 0 0 0) []) (·.pc) = some 1 ∧
    issuesOk (wR 0x46 0 0 0 0) (inHandler false (wR 0x46 0 0 0 0)) = true ∧
    after0 .evret (inHandler false (wR 0x46 0 0 0 0)) (fun th => (th.pc, th.handler)) = some (5, false) ∧
    issuesOk (wR 0x46 0 0 0 0) (inHandler true (wR 0x46 0 0 0 0)) = true ∧
    look (exec (.evret 0 0) (inHandler true (wR 0x46 0 0 0 0))) (fun t => (eventOf t, (thr t 0 0).pc)) =
      some ((5, 5, 0), 0x123) := by decide +kernel

/-- ThreadReads: each instruction, and what it launches or writes to g5. -/
def readRows : List ((Chan → Thr → Instr) × W64 × Thread × List Flight × W64) :=
  [(.nop, wR 0xAF 0 0 0 0, {}, [], 0), (.feat, wI 0xA0 5 0 0 4, {}, [⟨5, 0xABCD0000, 2⟩], 0),
   (.time, wR 0xA1 5 0 0 0, {}, [], 77), (.dopt, wR 0x62 5 0 0 0, {}, [⟨5, 1, 1⟩], 0),
   (.dopt, wR 0x62 5 0 0 0, { dop := .out }, [⟨5, 0, 1⟩], 0), (.prgr, wR 0x63 5 0 0 0, { prg := 9 }, [⟨5, 9, 2⟩], 0),
   (.dopw, wR 0x61 5 0 0 0, {}, [], 0), (.dopw, wR 0x61 5 0 0 0, { dop := .done 0x100 }, [], 0x100),
   (.waitt, wR 0xA2 5 1 0 0, { regs := [(1, 77)] }, [], 77), (.waite, wI 0xA3 5 0 0 0x8003, {}, [], 0x8001)]

/-- The thread of `prog` with other fields, at TIME 77, on node 0xABCD, with signal flags 15 and 0. -/
def withThread (w : W64) (x : Thread) : State :=
  let s := modChan 0 (fun ch => { ch with flags := 0x8001 })
    (modThr 0 0 (fun th => { x with run := true, regs := th.regs ++ x.regs }) (prog w []))
  { s with time := 77, lath := { s.lath with node := 0xABCD } }

theorem test_reads : ∀ r ∈ readRows, issuesOk r.2.1 (withThread r.2.1 r.2.2.1) = true ∧
    after0 r.1 (withThread r.2.1 r.2.2.1) (fun th => (th.flight, regOf th 5, th.pc)) = some (r.2.2.2.1, r.2.2.2.2, 1) := by
  decide +kernel

/-- FEAT of the other words: the smallest and the largest selector. -/
theorem witness_feat : ∀ k ∈ [(0 : Nat), 3, 5, 15], issuesOk (wI 0xA0 5 0 0 k) (prog (wI 0xA0 5 0 0 k) []) = true ∧
    bits (wI 0xA0 5 0 0 k) 0 4 ≠ 4 := by decide +kernel

/-- ThreadWaits, WaitsEnd: waits that begin, the flag that ends one, and the time that does. -/
theorem test_waits :
    after0 .waitt (withThread (wR 0xA2 5 1 0 0) { regs := [(1, 78)] }) (·.wait) = some (.time 5 78) ∧
    after0 .waite (withThread (wI 0xA3 5 0 0 0x7FFE) {}) (·.wait) = some (.event 5 0x7FFE) ∧
    after0 .dopw (withThread (wR 0x61 5 0 0 0) { dop := .out }) (·.wait) = some (.dopw 5) ∧
    look (exec (.dopw 0 0) (withThread (wR 0x61 5 0 0 0) { dop := .timeout 63 })) (fun t =>
      ((chan t 0).reg.faultC, eventOf t, (thr t 0 0).run)) = some (6, (6, 0, 63), false) ∧
    look (exec (.sigset 0 1) (modThr 0 1 (fun th => { th with run := true })
      (modChan 0 (fun ch => { ch with flags := 0, evq := [0], lastT := 0 })
        (withThread (wI 0xA4 0 0 0 0x8001) { wait := .event 5 0x8000 })))) (fun t =>
          ((chan t 0).flags, (chan t 0).evq, (thr t 0 0).wait, regOf (thr t 0 0) 5)) = some (1, [], .none, 0x8000) ∧
    engineRuns (withThread 0 { wait := .time 5 77 }) 0 = true ∧
    after0 .waittExpiry (withThread 0 { wait := .time 5 77 }) (fun th => (regOf th 5, th.wait)) = some (77, .none) := by
  decide +kernel

/-! ## Plumb, buffers, calibration commit, die operations, ends, MOVE, Render -/

/-- What a thread that has gone on from a wait holds: g5, its index, its wait. -/
def waited (cmd : Chan → Thr → Instr) (s : State) : Option (W64 × Nat × TWait) :=
  after0 cmd s fun th => (regOf th 5, th.pc.toNat, th.wait)

/-- EventEntry: every instruction's command raises ILLEGAL on a word that is not legal, on one never loaded, and
branches in a delay slot do. -/
theorem test_illegal :
    (issues.all fun cmd => decide (look (exec (cmd 0 0) (prog 0xFF00000000000000 []))
      (fun t => (eventOf t, (thr t 0 0).run)) = some ((1, 0, 0), false))) = true ∧
    legal 0xFF00000000000000 = false ∧
    (fetchInstr 0 1 (prog 0 [])).1 = none ∧
    ([wB 0x40 0 0 0 9, wB 0x41 1 2 0 9, wB 0x42 0 0 0 9, wR 0x43 0 1 0 0, wR 0x44 0 31 0 0, wR 0x46 0 0 0 0,
      wR 0x9F 0 1 2 0].all fun w => noSlot w && legal w &&
        (thr (modThr 0 0 (fun th => { th with after := some 7 }) (prog w [])) 0 0).after.isSome) = true := by decide +kernel

/-- EventEntry: a handler that is set, one that is not, and an event within the handler. -/
theorem witness_events :
    (tget 0 (thr (inHandler false 0) 0 0).slot.toNat (quad (inHandler false 0) 0).slots).toNat / 2 ^ 31 = 1 ∧
    (thr (inHandler false 0) 0 0).handler = true ∧ (tget (0 : BitVec 32) 0 (quad (prog 0 []) 0).slots).toNat / 2 ^ 31 = 0 := by
  decide +kernel

/-- Channel 0's Plumb state for die 63, zone 15, level 15, with limits 64 and -64. -/
def plumb (w : W64) (rs : Tab W64) : State := modPlb 0 (fun p => { p with
  ofs := [(16383, 0xC1)], acc := [(16383, 9)], frozen := 0x8000000000000000 }) (prog w rs)

/-- PlumbResult: the last selector, clamping from both sides, a reserved pair, freeze and resume. -/
theorem test_plumb : issuesOk (wR 0x90 5 1 0 0) (plumb (wR 0x90 5 1 0 0) [(1, 0xFF3F)]) = true ∧
    waited .plbrd (plumb (wR 0x90 5 1 0 0) [(1, 0xFF3F)]) = some (0xFFFFFFFFFFFFFFC1, 1, .none) ∧
    issuesOk (wR 0x91 0 1 2 0) (plumb (wR 0x91 0 1 2 0) [(1, 0xFF3F), (2, 100)]) = true ∧
    look (exec (.plbwr 0 0) (plumb (wR 0x91 0 1 2 0) [(1, 0xFF3F), (2, 100)])) (fun t => ((chan t 0).plb.ofs,
      (chan t 0).plb.acc)) = some ([(16383, 64)], [(16383, 262144)]) ∧
    plbClamped (plumb 0 []) (-100) = -64 ∧ plbClamped { up with plb := { up.plb with lo := 1, hi := 0 } } 5 = 0 ∧
    issuesOk (wR 0x92 0 1 0 0) (plumb (wR 0x92 0 1 0 0) [(1, 63)]) = true ∧
    look (exec (.plbrst 0 0) (plumb (wR 0x92 0 1 0 0) [(1, 63)])) (fun t => ((chan t 0).plb.ofs, (chan t 0).plb.frozen)) =
      some ([], 0) ∧
    issuesOk (wI 0x93 0 1 1 0) (plumb (wI 0x93 0 1 1 0) []) = true ∧
    look (exec (.plbfrzFreeze 0 0) (plumb (wI 0x93 0 1 1 0) [])) (fun t => (chan t 0).plb.frozen) = some 0x8000000000000001 ∧
    issuesOk (wI 0x93 0 1 0 0) (plumb (wI 0x93 0 1 0 0) [(1, 63)]) = true ∧
    look (exec (.plbfrzResume 0 0) (plumb (wI 0x93 0 1 0 0) [(1, 63)])) (fun t => (chan t 0).plb.frozen) = some 0 := by
  decide +kernel

/-- Pool 0 with one free buffer, number 3 of 4. -/
def withPool (s : State) : State := modPool 0 (fun p => { p with enable := true, count := 4, low := 1, free := [3] }) s

/-- BufferResult: a buffer, none without WAIT, none with WAIT, the two frees. -/
theorem test_buffer : issuesOk (wI 0x80 5 0 0 0) (withPool (prog (wI 0x80 5 0 0 0) [])) = true ∧
    waited .halloc (withPool (prog (wI 0x80 5 0 0 0) [])) = some (0x20000003, 1, .none) ∧
    issuesOk (wI 0x80 5 0 0 13) (prog (wI 0x80 5 0 0 13) []) = true ∧ (alloc 5 true (prog (wI 0x80 5 0 0 13) [])).isNone = true ∧
    waited .halloc (prog (wI 0x80 5 0 0 13) []) = some (0, 1, .none) ∧
    waited .halloc (prog (wI 0x80 5 0 0 29) []) = some (0, 0, .hawk 5) ∧
    issuesOk (wR 0x81 0 1 0 0) (withPool (prog (wR 0x81 0 1 0 0) [(1, 0x20000000)])) = true ∧
    look (exec (.hfree 0 0) (withPool (prog (wR 0x81 0 1 0 0) [(1, 0x20000000)]))) (fun t => (pool t 0).free) = some [3, 0] ∧
    look (exec (.hfree 0 0) (withPool (prog (wR 0x81 0 1 0 0) [(1, 0x100000000)]))) (fun t => (pool t 0).free) = some [3] := by
  decide +kernel

/-- CommitResult: a die record's image at 0, CHANGE and REVALIDATE, the refusals, ADDRESS and POISON. -/
def commitW (re : Nat) : W64 := wR 0x64 5 1 2 re
def commitS (re a b : Nat) : State := modChan 0 (fun ch => { ch with scratch := {
  bytes := [(0, 0x20), (4, 0x10)], mark := [(2, true)] } }) (prog (commitW re) [(1, BitVec.ofNat 64 a), (2, BitVec.ofNat 64 b)])

theorem test_commit : issuesOk (commitW 0) (commitS 0 0 0x1000) = true ∧ issuesOk (commitW 1) (commitS 1 0 0x1000) = true ∧
    waited .calcommitChange (commitS 0 0 0x1000) = some (1, 1, .none) ∧
    waited .calcommitRevalidate (commitS 1 0 0x1000) = some (0, 1, .none) ∧
    waited .calcommitChange (commitS 0 0 0x3000) = some (2, 1, .none) ∧
    waited .calcommitChange (commitS 0 65504 0x1040) = some (2, 1, .none) ∧
    waited .calcommitChange (commitS 0 512 1) = some (2, 1, .none) ∧
    look (exec (.calcommitChange 0 0) (commitS 0 65512 0x1000)) eventOf = some (2, 0, 65512) ∧
    look (exec (.calcommitChange 0 0) (commitS 0 4 0x1000)) eventOf = some (2, 0, 4) ∧
    look (exec (.calcommitChange 0 0) (commitS 0 120 0x1000)) eventOf = some (4, 0, 128) ∧
    (commitCh 0 true ([0, 0, 0, 5] ++ List.replicate 60 0) up).1 = true := by decide +kernel

/-- CommitEffect: a commit of a die record that counts, and one of a channel's record that does not. -/
theorem test_commit_effect : (commitDie 4095 true [0x0000001000000020, 5, 7, 0] up).1 = true ∧
    (dieRec (commitDie 4095 true [0x0000001000000020, 5, 7, 0] up).2 4095).st = 1 ∧
    (dieRec (commitDie 4095 true [0x0000001000000020, 5, 7, 0] up).2 4095).iface = 2 ∧
    (commitCh 0 false (List.replicate 64 0) up).1 = false := by decide +kernel

/-- Channel 0 with dispatch entries: 1 an operation, 2 a data operation, 3 of class 1, 4 of class 2, 5 none; die 63
ACTIVE without planes. Classes 1 and 2 are routine 3's and 4's. -/
def dies (w : W64) (rs : Tab W64) : State := modChan 0 (fun ch => { ch with
  disp := [(1, ⟨0x80000123, .good⟩), (2, ⟨0xC0000123, .good⟩), (3, ⟨0x80000123, .good⟩), (4, ⟨0x80000123, .good⟩),
           (5, ⟨0x00000123, .good⟩), (6, ⟨0xE0000123, .good⟩), (7, ⟨0x80000123, .good⟩)],
  ctl := { ch.ctl with die := [(63, { dstate := 1 })], fclass := [(0, 0xC240)] } }) (prog w rs)

def dopAt (n : Nat) : State := dies (wD 1 2 3 n) [(1, 63), (2, 0)]

/-- DopResult: the classes and entries named above. -/
theorem witness_dop : (∀ n ∈ ([1, 2, 3, 4, 5, 6, 7] : List Nat), issuesOk (wD 1 2 3 n) (dopAt n) = true) ∧
    (fetchStore 0 true 255 (dopAt 255)).1 = none ∧
    fenceClass (dopAt 3) 0 3 = 1 ∧ fenceClass (dopAt 4) 0 4 = 2 ∧ fenceClass (dopAt 7) 0 7 = 3 ∧ fenceClass (dopAt 1) 0 1 = 0 ∧
    entValid 0x80000123 = true ∧ entValid 0x00000123 = false ∧ entXfer 0xC0000123 = true ∧ entTrain 0xE0000123 = true ∧
    calOk (dopAt 2) 0 63 = false ∧ ctxAccepts (dieCtl (dopAt 1) 0 63) false = true ∧
    ctxAccepts (dieCtl (dopAt 1) 0 0) false = false ∧
    (fenceAccept 0 0 2 63 0 0 (dopAt 4)).1 = true ∧ (fenceAccept 0 0 1 63 0xFFFF000000 0 (dopAt 3)).1 = true ∧
    (fenceAccept 0 0 1 63 0 0xF00000 { dopAt 3 with pwr := quiet.pwr }).1 = false := by decide +kernel

/-- DopResult, DopStart: accepted, refused with code 3, CAL_INVALID, refused by the fence, and the waits. -/
theorem test_dop :
    after0 .dop (dopAt 1) (·.dop) = some .out ∧
    after0 .dop (dopAt 1) (fun th => th.rtn.map fun r => [r.num.toNat, r.die.toNat, r.prio.toNat, r.upc.toNat]) =
      some (some [1, 63, 3, 0x123]) ∧
    after0 .dop (dopAt 5) (·.dop) = some (.done 0x300) ∧
    after0 .dop (dopAt 7) (·.dop) = some (.done 0x300) ∧
    look (exec (.dop 0 0) (dopAt 2)) eventOf = some (3, 0, 63) := by decide +kernel

theorem test_dop_fence :
    after0 .dop (dopAt 4) (·.dop) = some .out ∧
    after0 .dop (modRam .stg (fun _ => { bytes := [(0x3F000, 0xFF), (0x3F001, 0xFF)] }) (dopAt 3)) (·.dop) = some (.done 0x400) ∧
    after0 .dop (modThr 0 0 (fun th => { th with dop := .out }) (dopAt 1)) (·.wait) = some (.dop 63 0) ∧
    after0 .dop (modReg 0 (fun r => { r with pState := 1 }) (dopAt 1)) (·.wait) = some (.dop 63 0) ∧
    after0 .dop (modReg 0 (fun r => { r with filling := true }) (dopAt 3)) (·.wait) = some (.dop 63 0) := by decide +kernel

/-- An image at 0xFFF0: RESULT 7, CID 0x1234, STATUS 0x10; CQ131071 enabled or not. -/
def posts (en : Bool) (st : Byte) (b : W64) : State :=
  modQctx 262143 (fun x => { x with enabled := en, cached := true, w0 := 0x0800000000000000 })
  (modChan 0 (fun ch => { ch with scratch := {
    bytes := [(0xFFF0, 7), (0xFFF4, 0x34), (0xFFF5, 0x12), (0xFFF8, st)], mark := [(1, true)] } }) (prog (wR 0x98 5 1 2 0) [(1, 0x1FFFF), (2, b)]))

/-- QpostResult: posted, with a reserved STATUS, not enabled, no room, ADDRESS and POISON. -/
theorem test_qpost : issuesOk (wR 0x98 5 1 2 0) (posts true 0x10 0xFFF0) = true ∧
    waited .qpost (posts true 0x10 0xFFF0) = some (0, 1, .none) ∧
    look (exec (.qpost 0 0) (posts true 0x10 0xFFF0)) (fun t => t.qe.flying.map fun p => (p.cq, p.cid, p.result, p.status)) =
      some [(131071, 0x1234, 7, 0x10)] ∧
    look (exec (.qpost 0 0) (posts true 0x03 0xFFF0)) (fun t => t.qe.flying.map fun p => p.status) = some [0x08] := by decide +kernel

theorem test_qpost_stops :
    waited .qpost (posts false 0 0xFFF0) = some (1, 1, .none) ∧
    waited .qpost (withQe (fun q => { q with held := 1024 }) (posts true 0 0xFFF0)) = some (0, 0, .qpost 0x1FFFF 0xFFF0) ∧
    look (exec (.qpost 0 0) (posts true 0 0xFFF8)) eventOf = some (2, 0, 0xFFF8) ∧
    look (exec (.qpost 0 0) (posts true 0 64)) eventOf = some (4, 0, 64) := by decide +kernel

/-- EndResult: a status of R101, a reserved one, and an ABORT pending in a handler. -/
theorem test_end : issuesOk (wR 0x9F 0 1 2 0) (prog (wR 0x9F 0 1 2 0) [(1, 0x10)]) = true ∧
    statusOk 0x10 = true ∧ statusOk 0x03 = false ∧
    look (exec (.endProg 0 0) (prog (wR 0x9F 0 1 2 0) [(1, 0x10)])) (fun t => ((thr t 0 0).run, (chan t 0).reg.faultC)) =
      some (false, 0) ∧
    look (exec (.endProg 0 0) (prog (wR 0x9F 0 1 2 0) [(1, 3)])) (fun t => ((thr t 0 0).run, (chan t 0).reg.faultC)) =
      some (false, 1) ∧
    issuesOk (wR 0x9F 0 1 2 0) (inHandler true (wR 0x9F 0 1 2 0)) = true ∧
    look (exec (.endProg 0 0) (inHandler true (wR 0x9F 0 1 2 0))) eventOf = some (5, 0, 0) := by decide +kernel

/-- A MOVE of g5 bytes from g1 to g2, the streams with the words given. -/
def moveW : W64 := wR 0x70 5 1 2 0
def moveS (src dst len : W64) (ws : List SW) : State := modStrm 2 (fun x => { x with
    words := List.replicate 255 ⟨0, false, false⟩, credits := 1, enable := true })
  (modStrm 1 (fun x => { x with words := ws }) (modChan 0 (fun ch => { ch with scratch := { bytes := [(0, 1), (15, 2)] } })
    (prog moveW [(1, src), (2, dst), (5, len)])))

/-- A command given twice. -/
def again (i : Instr) (s : State) : Out :=
  match exec i s with
  | .next t => exec i t
  | o => o

/-- MoveResult: each pair of sides, done and waiting, and the ways to move nothing. -/
theorem test_move : issuesOk moveW (moveS 0 0x1000000000000000 16 []) = true ∧
    waited .move (moveS 0 0x100000000000E000 16 []) = some (16, 0, .move 0 0x100000000000E000 16 8 [] false) ∧
    look (again (.move 0 0) (moveS 0 0x100000000000E000 16 [])) (fun t => (regOf (thr t 0 0) 5, (thr t 0 0).pc.toNat,
      rawByte t (.cwb 0) 0xE000, rawByte t (.cwb 0) 0xE00F)) = some (16, 1, 1, 2) ∧
    look (exec (.move 0 0) (moveS 4 0 16 [])) eventOf = some (2, 0, 4) ∧
    look (exec (.move 0 0) (moveS 0 0xFFF8 16 [])) eventOf = some (2, 0, 0xFFF8) ∧
    look (exec (.move 0 0) (moveS 0 0 0 [])) eventOf = some (2, 0, 0) ∧
    waited .move (moveS 0x4000000000000000 0x1000000000000000 16 []) = some (0, 1, .none) ∧
    waited .move (moveS 0x1000000000000000 0x1000000000002000 12 []) = some (0, 1, .none) := by decide +kernel

theorem test_move_streams :
    waited .move (moveS 0x3000000000000001 0 8 [⟨7, false, false⟩]) = some (8, 1, .none) ∧
    waited .move (moveS 0x3000000000000001 0 16 [⟨7, true, false⟩]) = some (8, 1, .none) ∧
    waited .move (moveS 0x3000000000000001 0 16 [⟨7, false, false⟩]) =
      some (16, 0, .move 0x3000000000000001 0 16 8 [] false) ∧
    waited .move (moveS 0 0x3000000000000002 8 []) = some (8, 1, .none) ∧
    waited .move (moveS 0 0x3000000000000002 16 []) = some (16, 0, .move 0 0x3000000000000002 16 8 [] false) ∧
    waited .move (moveS 0x3000000000000001 0x3000000000000002 8 [⟨7, false, false⟩]) = some (8, 1, .none) ∧
    waited .move (moveS 0x3000000000000001 0x3000000000000002 16 []) =
      some (16, 0, .move 0x3000000000000001 0x3000000000000002 16 0 [] false) := by decide +kernel

/-- Context 1023 in a phase, with a tag of k = 2, m = 1, U = 1. -/
def render (p : RPhase) : State := { up with rnd := { up.rnd with ctx := [(1023, { phase := p, tag := 0x0000000100000805 })] } }

/-- RenderStatus: the codes of R290 in each phase; a good tag and a bad one. -/
theorem test_render_status :
    stgOn quiet = false ∧ (answers 5 1023 0 quiet).1 = some (status 0 11) ∧
    (answers 0 4 0 up).1 = some (status 0 6) ∧ (rctx up 0).phase = .free ∧
    (∀ k ∈ ([1, 2, 3, 4, 5] : List Nat), (answers k 0 0 up).1 = some (status 0 4)) ∧
    (rctx (render .solved) 1023).phase = .solved ∧ (answers 1 1023 0 (render .solved)).1 = some (status 0 5) ∧
    (rctx (render .read) 1023).phase = .read ∧ (answers 5 1023 0 (render .read)).1 = some (status 0 0) ∧
    (rctx (render .acc) 1023).phase = .acc ∧ 2 < tagN (rctx (render .acc) 1023).tag ∧
    (answers 4 (1023 + 2 * 65536) 0 (render .acc)).1 = some (status 1 0) := by decide +kernel

/-- RenderResult: each command's word issues, with the unit busy and not. -/
theorem test_rcmd : (rcmds.all fun e => decide (issuesOk (wR 0x88 5 1 2 e.1) (prog (wR 0x88 5 1 2 e.1) []) = true ∧
      waited e.2 (prog (wR 0x88 5 1 2 e.1) []) = some (if e.1 = 0 then 6 else 4, 1, .none) ∧
      waited e.2 { prog (wR 0x88 5 1 2 e.1) [] with rnd := { up.rnd with busy := some ⟨0, 7, 3, 0, 0⟩ } } =
        some (0, 0, .unit_ 0 0 0))) = true := by decide +kernel

/-- A member fetch of context 1023, position 63, page 15. -/
def fetching (d : Option (Byte × BitVec 32)) (st : EStage) (node : W64) : State :=
  let s := render .read
  { s with time := 5, rnd := { s.rnd with fetch := [{ ctx := 1023, pos := 63, page := 15, entry := 4, due := 5, done := d }] },
           qe := { s.qe with store := [{ id := 4, kind := .fetch, words := [0, node, 1, 0, 0, 0, 0, 0], stage := st }] } }

set_option maxRecDepth 8000 in
/-- RenderFetch: ended, past its time with its entry here, at another node, and without an entry. -/
theorem test_fetch : (fetchOf (fetching (some (1, 0)) .finish 0) 1023 63 15).map (·.done) = some (some (1, 0)) ∧
    look (exec (.renderFetchEnd 1023 63 15) (fetching (some (1, 0)) .finish 0)) (fun t => t.rnd.fetch.map (·.fin)) =
      some [some true] ∧
    (fetchOf (fetching none .ready 0) 1023 63 15).map (·.done) = some none := by decide +kernel

set_option maxRecDepth 8000 in
theorem test_fetch_late :
    look (exec (.renderFetchTimeout 1023 63 15) (fetching none .ready 0)) (fun t => (t.rnd.sTmo, t.rnd.fetch.map (·.fin), t.qe.store)) =
      some (true, [some false], []) ∧
    (entryOf (fetching none (.remote 9) 0) 4).map (·.stage) = some (.remote 9) ∧
    look (exec (.renderFetchTimeout 1023 63 15) (fetching none (.remote 9) 0x0005000000000000)) (fun t => t.rnd.sTmo) = some true ∧
    (entryOf (withQe (fun q => { q with store := [] }) (fetching none .ready 0)) 4).isNone = true := by decide +kernel

/-! ## The register port and the interrupt controller -/

/-- The command answers exactly this state. -/
def gives (o : Out) (t : State) : Bool :=
  match o with
  | .next x => decide (x = t)
  | _ => false

/-- The command answers what the statement says, as an outcome. -/
def agrees (o p : Out) : Bool :=
  match p with
  | .next t => gives o t
  | _ => false

/-- PortFree as a Bool. -/
def portFree (s : State) : Bool := s.port.wait.isNone && s.port.held.isEmpty && decide (s.gctl.boot = .ready)

theorem portFree_of {s : State} (h : portFree s = true) : PortFree s := by
  unfold portFree at h
  simp only [Bool.and_eq_true, decide_eq_true_eq, Option.isNone_iff_eq_none, List.isEmpty_iff] at h
  exact ⟨h.1.1, h.1.2, h.2⟩

/-- StepRunsFront, EmptyQueueTick: a queue of one and an empty queue; one tick. -/
theorem test_step : gives (step { up with pending := [.nop 0 0] })
      (match exec (.nop 0 0) { up with pending := [] } with | .next t => t | _ => quiet) = true ∧
    up.pending = [] ∧ up.port.wait = none ∧ up.port.held = [] ∧ gives (step up) { up with time := 1 } = true := by
  decide +kernel

/-- StreamsStayInCapacity, MemoryStaysCanonical: a state that holds words and bytes, and one step from it. -/
def kept : State := { modStrm 3 (fun x => { x with words := List.replicate 255 ⟨0, true, false⟩, credits := 1, enable := true })
  (withScratch (prog (wM 0x52 5 1 3 0) [(1, 64), (5, 0x11)])) with pending := [.st 0 0] }

theorem witness_streams : StreamsFit kept := by
  have h : kept.str.all (fun e => decide (e.2.words.length + e.2.credits ≤ 256)) = true := by decide +kernel
  intro e he
  simpa using List.all_eq_true.mp h e he

theorem witness_memory : Memory.wf kept = true ∧ (look (step kept) Memory.wf) = some true := by decide +kernel

/-- AccessForms: the forms at the aperture's last word, at a misaligned one and at each register with a read of
its own. -/
theorem test_access : portFree up = true ∧
    agrees (exec (.registerWrite 0xFFFFFF .full 1) up) (fails [] (atPort up)) = true ∧
    agrees (exec (.registerWrite 1 .high 1) up) (fails [] (atPort up)) = true ∧
    agrees (exec (.registerWrite 0xFFFFF8 .other 1) up) (fails [] (atPort up)) = true ∧
    agrees (exec (.registerWrite 0xFFFFC0 .burst 1) up) (fails (List.replicate 8 0) (atPort up)) = true ∧
    (([0x3020, 0x50020, 0x70018, 0x60000, 0x60010, 0x100, 0x1048, 0x400008] : List Nat).all fun o => match readOff o with
      | some f => agrees (exec (f .burst) up) (fails (List.replicate 8 0) (atPort up)) &&
          agrees (exec (f .other) up) (fails [] (atPort up))
      | none => false) = true := by decide +kernel

/-- BeforeReady: a write and the reads in INIT. -/
theorem test_before : State.reset.port.wait = none ∧ State.reset.port.held = [] ∧ State.reset.gctl.boot ≠ .ready ∧
    agrees (exec (.registerWrite 0xFFFFF8 .low 1) State.reset) (wrote (atPort State.reset)) = true ∧
    (([0x3020, 0x50020, 0x70018, 0x60000, 0x60010, 0x100, 0x1048, 0x400008] : List Nat).all fun o => match readOff o with
      | some f => agrees (exec (f .high) State.reset) (returns 0 (atPort State.reset))
      | none => false) = true := by decide +kernel

/-- PortHolds: a read waits, with 0, 14 and 15 transactions held. -/
def holding (n : Nat) : State := { up with port := {
  resp := [{ ok := true }], wait := some .sync, held := List.replicate n { write := false, off := 0, form := .full } } }

theorem test_holds : (([0, 14] : List Nat).all fun n => gives (exec (.registerWrite 8 .low 3) (holding n)) { holding n with
      port := { (holding n).port with resp := [], held := (holding n).port.held ++
        [{ write := true, off := 8, form := .low, data := 3 }] } }) = true ∧
    gives (exec (.registerWrite 8 .low 3) (holding 15)) (atPort (holding 15)) = true := by decide +kernel

/-- MessageWrite: the first and last sources, those next to the reserved ones, and each that is refused. -/
theorem test_message : (([0, 131072, 131074, 131083, 131328, 132095] : List Nat).all fun n =>
      agrees (exec (.icMsgWrite .low (nat64 n)) up) (wrote (post n (atPort up)))) = true ∧
    (([131073, 131084, 131085, 131327, 132096, 262143] : List Nat).all fun n =>
      agrees (exec (.icMsgWrite .full (nat64 n)) up) (wrote { atPort up with ic := { up.ic with
        badMsg := true, badSrc := BitVec.ofNat 18 n } })) = true := by decide +kernel

/-- Processor 15 enabled with level 7 in service; source 132095 of priority 9 pending, unmasked and targeted there. -/
def vectors (pf : Bool) : State := { up with
  pfail := pf
  ic := { up.ic with
    proc := [(15, { enable := true, active := 0x80, base := 2, vbase := 0xFFFFFFFFFFFFFF })]
    prio := [(8192, 0x0000000000000090), (8255, 0x9000000000000000)]
    target := [(32768, 0x80000000), (33023, 0x8000000000000000)]
    mask := [(2048, 0xFFFFFFFFFFFFFFFD), (2063, 0x7FFFFFFFFFFFFFFF)]
    pend := [(2063, 0x8000000000000000)] } }

/-- EndOfInterrupt: level 0, one not in service, and the one that is, with the level of PFAIL high: of two sources of
one priority the one after the last taken, by wrapping, is placed. -/
theorem test_eoi : portFree (vectors true) = true ∧ bit (proc (vectors true) 15).active 7 = true ∧
    agrees (exec (.icEoiWrite 15 .low 16) (vectors true)) (wrote { atPort (vectors true) with ic := { (vectors true).ic with
      badEoi := true, eoiProc := 15 } }) = true ∧
    agrees (exec (.icEoiWrite 15 .full 15) (vectors true)) (wrote { atPort (vectors true) with ic := { (vectors true).ic with
      badEoi := true, eoiProc := 15 } }) = true ∧
    look (exec (.icEoiWrite 15 .full 7) (vectors true)) (fun t => ((proc t 15).active, pendOf t 131073,
      (proc t 15).pres.map (·.src))) = some (0, true, some 131073) := by decide +kernel

/-- PickFollowsRule, PresentEffect: the source is picked and placed; a withdrawal comes first. -/
theorem test_present : pickSource (vectors false) = some 132095 ∧ pickProc (vectors false) 132095 = some 15 ∧
    withdrawing (vectors false) = false ∧
    look (exec .icPresent (vectors false)) (fun t => (proc t 15).pres) =
      some (some ⟨132095, 9, nat64 (0xFFFFFFFFFFFFFF * 16 + 16 * 132095), false⟩) ∧
    withdrawing (modProc 0 (fun x => { x with pres := some ⟨5, 1, 0, true⟩ }) up) = true ∧
    pickSource up = none := by decide +kernel

/-- TakenEffect: the placed vector with its source masked, its group with a hold-off value and without. -/
def presented15 (v : BitVec 16) : State := modProc 15 (fun x => { x with pres := some ⟨132095, 9, 0, false⟩ })
  { vectors false with time := 100, ic := { (vectors false).ic with mask := [], hold := [(2063, { value := v })] } }

theorem test_taken : look (exec (.taken 15) (presented15 0xFFFF)) (fun t => (pendOf t 132095, (proc t 15).active,
      (proc t 15).lastTaken, t.ic.escaped)) = some (false, 0x280, 132095, 0x8000) ∧
    look (exec (.taken 15) (presented15 0xFFFF)) (fun t => (t.ic.hold, t.ic.lastSrc, t.ic.lastProc, (proc t 15).pres)) =
      some ([(2063, ⟨0xFFFF, true, 1048660⟩)], [(9, 132095)], 15, none) ∧
    look (exec (.taken 15) (presented15 0)) (fun t => (tget {} 2063 t.ic.hold).running) = some false := by decide +kernel

/-- HoldoffEnd: at the end time and before it. -/
def holdoff (n : W64) : State := { up with time := n, ic := { up.ic with hold := [(2063, ⟨1, true, 16⟩)] } }

theorem test_holdoff :
    look (exec (.holdoffExpiry 2063) (holdoff 16)) (·.ic.hold) = some [(2063, ⟨1, false, 16⟩)] ∧
    gives (exec (.holdoffExpiry 2063) (holdoff 15)) (holdoff 15) = true := by decide +kernel

/-- MaskSync: a presented vector whose source is masked, and one whose source is not. -/
theorem test_sync : maskOf (presented15 0) 132095 = true ∧ maskOf (modProc 15 (fun x => { x with
      pres := some ⟨132095, 9, 0, false⟩ }) (vectors false)) 132095 = false ∧
    look (exec (.icMaskSyncRead .low) (presented15 0)) (fun t => t.port.wait) = some (some .sync) ∧
    look (exec (.icMaskSyncRead .full) { vectors false with ic := { (vectors false).ic with escaped := 0x8001 } })
      (fun t => (t.port.resp, t.ic.escaped)) = some ([{ ok := true, value := 0x8001 }], 0) := by decide +kernel
/-! ## Registers -/

/-- Every unit's counters and flags set. -/
def marked : State := { modReg 63 (fun r => { r with hardFail := 1, softOk := 2, softFail := 3, noBank := 4 }) up with
  pwr := { up.pwr with iso := 0, noFetch := false }
  gctl := { up.gctl with queues := true }
  srv := { up.srv with fCount := 9, fValid := true, fLoop := 3, fMech := 5, late := true }
  plb := { up.plb with fCount := 9, fValid := true, fCh := 63, fDie := 62, fZone := 15, fLevel := 14, fClamp := true }
  lath := { up.lath with
    eKind := 1, eCount := 2, eValid := true, ePort := 2, eNode := 0xABCD
    port := [(2, { peer := 7, peerEp := 8, crcErr := 9, downs := 10, rate := 1, link := .up })] }
  intg := { up.intg with fKind := 1, count := 2, dropped := 3, valid := true, fLoc := 0xFFFFFFFF, hits := 5 }
  cal := { up.cal with badMode := true, wreject := true, mfault := true, sdrift := true }
  qe := { up.qe with ctxError := true, badDoor := true, idxError := true, cqStall := true }
  ic := { up.ic with badEoi := true, badMsg := true }
  prm := { up.prm with refused := true, rdBusy := true, parity := true }
  soft := { up.soft with maxWait := 77 }
  tok := { up.tok with maxWait := 99 }
  str := [(3, { discarded := 0xFFFF, left := 3, crossed := true, dropped := true })] }

/-- RegisterStores: every register of each list, all forms, all bits set and none. -/
theorem test_stores : portFree marked = true ∧
    (([.full, .low, .high] : List Acc).all fun a => ([0xFFFFFFFFFFFFFFFF, 0x1248124812481248] : List W64).all fun v =>
      rwRegs.all fun r => agrees (exec (.registerWrite r.off a v) marked)
          (wrote (r.put (stored a (regRead r.off marked) v) (atPort marked))) &&
        decide (regRead r.off (r.put v marked) = v &&& r.has)) = true := by decide +kernel

theorem test_clears : (([.full, .low, .high] : List Acc).all fun a => ([0xFFFFFFFFFFFFFFFF, 0x5] : List W64).all fun v =>
      clearRegs.all fun r => agrees (exec (.registerWrite r.1 a v) marked) (wrote (r.2 (given a v) (atPort marked)))) = true ∧
    (readOnly.all fun o => agrees (exec (.registerWrite o .full 0xFFFFFFFFFFFFFFFF) marked) (wrote (atPort marked))) = true := by
  decide +kernel

/-- ReadsClear, UnitReadsClear: each register read whole and by its high half. -/
theorem test_reads_clear :
    look (exec (.srvFaultInfoRead .high) marked) (fun t => (t.port.resp, t.srv.fCount, t.srv.fLoop)) =
      some ([{ ok := true, value := 0x0000000900000000 }], 0, 3) ∧
    look (exec (.plbFaultInfoRead .full) marked) (fun t => (t.port.resp, t.plb.fCh)) =
      some ([{ ok := true, value := 0x987ff7f4000 }], 0) ∧
    look (exec (.lathEventRead .high) marked) (fun t => (t.port.resp, t.lath.eValid, t.lath.eNode)) =
      some ([{ ok := true, value := 0x0102820000000000 }], false, 0xABCD) ∧
    look (exec (.intErrlogRead .low) marked) (fun t => (t.port.resp, t.intg.valid, t.intg.fLoc)) =
      some ([{ ok := true, value := 0xFFFFFFFF }], true, 0) ∧
    look (exec (.intBankRetireRead .full) marked) (fun t => (t.port.resp, t.intg.hits)) =
      some ([{ ok := true, value := 0x500000000 }], 0) := by decide +kernel

theorem test_reads_clear_units :
    look (exec (.gctlSoftStateRead .high) marked) (fun t => t.soft.maxWait) = some 0 ∧
    look (exec (.pwrTokenStateRead .full) marked) (fun t => (t.port.resp, t.tok.maxWait)) =
      some ([{ ok := true, value := 99 * 2 ^ 32 }], 0) ∧
    quadUp marked 63 = true ∧ quadUp up 63 = false ∧
    look (exec (.chLdpcStatRead 63 .low) marked) (fun t => (t.port.resp, (chan t 63).reg.softFail, (chan t 63).reg.softOk)) =
      some ([{ ok := true, value := 0x30004 }], 0, 2) ∧
    look (exec (.strStatusRead 3 .high) marked) (fun t => (t.port.resp, (strm t 3).discarded)) =
      some ([{ ok := true, value := 0xFFFF000000000000 }], 0) ∧
    look (exec (.lathPortStateRead 2 .low) marked) (fun t => (t.port.resp, (lport t 2).crcErr, (lport t 2).peer)) =
      some ([{ ok := true, value := 0x90A0102 }], 0, 7) := by decide +kernel
/-! ## Queues, pools, streams, DMA -/

/-- SQ or CQ `k` of the context table, of 2^4 entries. -/
def withQueue (k : Nat) (en ca : Bool) : State := { modQctx k (fun x => { x with
    enabled := en, cached := ca, created := en, w0 := 0x2000000000000000, head := 3 }) up with gctl := { up.gctl with queues := true } }

/-- Doorbells: the last queue, not enabled, without its context, with a pointer past the end and a good one. -/
theorem test_doorbell : (([false, true] : List Bool).all fun cq =>
      let k := if cq then 262143 else 131071
      let door := if cq then Instr.cqHeadDoorbell else Instr.sqTailDoorbell
      let s0 := withQueue k false false
      let s1 := withQueue k true false
      let s2 := withQueue k true true
      agrees (exec (door 131071 .low 5) s0) (wrote (doorIgnored cq 131071 (atPort s0))) &&
      agrees (exec (door 131071 .full 15) s1)
        (wrote (askCtx k (modQctx k (fun c => { c with door := c.door ++ [15] }) (atPort s1)))) &&
      agrees (exec (door 131071 .low 16) s2) (wrote (doorIgnored cq 131071 (touch k (atPort s2)))) &&
      agrees (exec (door 131071 .low 15) s2) (wrote (if cq then
        drain 131071 (modQctx k (fun c => { c with head := 15 }) (touch k (atPort s2)))
        else modQctx k (fun c => { c with tail := 15 }) (touch k (atPort s2))))) = true ∧
    agrees (exec (.cqHeadDoorbell 131071 .low 3) (withQueue 262143 true true)) (wrote (touch 262143 (atPort (withQueue 262143 true true)))) = true := by
  decide +kernel

/-- QueueControl: in quarantine mode, on an enabled queue and on one that is not, for both kinds. -/
theorem test_qctl : (([false, true] : List Bool).all fun cq =>
      let k := if cq then 262143 else 131071
      let s0 := withQueue k false false
      let s1 := withQueue k true true
      let m := { s0 with gctl := { s0.gctl with qmode := true } }
      agrees (exec (.qeQctlEnable cq 131071 .full) m) (wrote (qctlRefused 1 (atPort m))) &&
      agrees (exec (.qeQctlReserved cq 131071 .full) s0) (wrote (qctlRefused 7 (atPort s0))) &&
      agrees (exec (.qeQctlEnable cq 131071 .full) s1) (wrote (qctlRefused 3 (atPort s1))) &&
      agrees (exec (.qeQctlEnable cq 131071 .full) s0) (wrote (askCtx k (qctlBusy cq 131071 (atPort s0)))) &&
      agrees (exec (.qeQctlDisable cq 131071 .full) s0) (wrote (qctlRefused 3 (atPort s0))) &&
      decide (s0.qe.busy = none) && decide (s1.qe.busy = none)) = true := by decide +kernel

theorem test_qctl_disable : agrees (exec (.qeQctlDisable false 131071 .full) (withQueue 131071 true true)) (wrote (tryStop 131071
      (endRound 131071 (modQctx 131071 (fun c => { c with enabled := false, stops := [{ head := 3, upTo := 0, addr := 0 }] }) (qctlBusy false 131071
        (atPort (withQueue 131071 true true))))))) = true ∧
    cqInUse (atPort (withQueue 262143 true true)) 131071 = false ∧
    cqInUse (atPort (withQe (fun q => { q with ctx := (131071, { enabled := true, w1 := 0x1FFFE }) :: q.ctx })
      (withQueue 262143 true true))) 131071 = false ∧
    cqInUse (atPort (modQctx 131071 (fun c => { c with enabled := true, cached := true, w1 := 0x1FFFF }) (withQueue 262143 true true))) 131071 = true := by decide +kernel

/-- PoolCommands: pool 5 with one buffer free of two, empty, off; the frees and the configurations. -/
def withPool5 (en : Bool) (fr : List Nat) : State := { modPool 5 (fun p => { p with enable := en, count := 2, low := 1, free := fr }) up with
  hawk := { (modPool 5 (fun p => { p with enable := en, count := 2, low := 1, free := fr }) up).hawk with waiting := [] } }

theorem test_pool : powered (withPool5 true [1]) 1 = true ∧ stgOn (withPool5 true [1]) = true ∧
    look (exec (.hawkAllocRead 5 .low) (withPool5 true [1])) (fun t => (t.port.resp, (pool t 5).free, t.hawk.low,
      pendOf t 131077)) = some ([{ ok := true, value := nat64 (mkHandle 5 1).toNat }], [], 0x20, true) ∧
    agrees (exec (.hawkAllocRead 5 .full) (withPool5 true [])) (returns 0 (atPort (withPool5 true []))) = true ∧
    handlePool (BitVec.ofNat 32 (bits (nat64 (mkHandle 5 0).toNat) 0 32)) = some (5, 0) ∧ withheld (withPool5 true [1]) 5 0 = false ∧
    look (exec (.hawkFreeWrite 5 .low (nat64 (mkHandle 5 0).toNat)) (withPool5 true [1])) (fun t => (pool t 5).free) =
      some [1, 0] ∧
    withheld { withPool5 true [1] with intg := { up.intg with inForce := 1 } } 5 1 = true ∧
    agrees (exec (.hawkFreeWrite 5 .low (nat64 (mkHandle 5 1).toNat)) { withPool5 true [1] with intg := { up.intg with inForce := 1 } })
      (wrote (atPort { withPool5 true [1] with intg := { up.intg with inForce := 1 } })) = true ∧
    agrees (exec (.hawkFreeWrite 5 .low (nat64 (mkHandle 5 2).toNat)) (withPool5 true [1]))
      (wrote (freeIgnored (nat64 (mkHandle 5 2).toNat) (atPort (withPool5 true [1])))) = true := by decide +kernel

/-- A word of HAWK_POOL_CFG: ENABLE, COUNT, LOW, BASE. -/
def cfg (en count low base : Nat) : W64 := nat64 (en * 2 ^ 63 + count * 2 ^ 44 + low * 2 ^ 26 + base * 64)

theorem test_pool_cfg : (([cfg 0 3 2 1] : List W64).all fun v => agrees (exec (.hawkPoolCfgWrite 5 .full v) (withPool5 false []))
      (wrote (modPool 5 (poolFields v) (atPort (withPool5 false []))))) = true ∧
    (([cfg 1 0 2 1, cfg 1 1 1 0xFFFFF] : List W64).all fun v => agrees (exec (.hawkPoolCfgWrite 5 .full v) (withPool5 false []))
      (wrote (cfgRefused (modPool 5 (poolFields v) (atPort (withPool5 false [])))))) = true ∧
    look (exec (.hawkPoolCfgWrite 0 .full (cfg 1 1 1 0xFFFFC)) (withPool5 false [])) (fun t => ((pool t 0).enable, (pool t 0).free,
      t.hawk.cfgReject)) = some (true, [0], false) ∧ 64 * 0xFFFFC + 1 * poolSize 0 = 67108864 ∧
    (([cfg 1 3 1 0, cfg 1 2 1 1] : List W64).all fun v => agrees (exec (.hawkPoolCfgWrite 5 .full v) (withPool5 true [1]))
      (wrote (cfgRefused (atPort (withPool5 true [1]))))) = true ∧
    look (exec (.hawkPoolCfgWrite 5 .full (cfg 1 2 9 0)) (withPool5 true [1])) (fun t => ((pool t 5).low, (pool t 5).free)) =
      some (9, [1]) ∧
    look (exec (.hawkPoolCfgWrite 5 .full (cfg 0 2 9 0)) (withPool5 true [1])) (fun t => ((pool t 5).enable, (pool t 5).free)) =
      some (false, []) := by decide +kernel

/-- Stream 3 or another with these words and one credit. -/
def withStream (i : Nat) (f : Strm → Strm) : State := modStrm i (fun x => f { x with enable := true, credits := 1 }) up

/-- StreamCommands: ENABLE, FLUSH with a packet in progress and a reserved word, and the data window's three ends. -/
theorem test_stream :
    look (exec (.streamEnableWrite 3 .low 1) up) (fun t => ((strm t 3).enable, (strm t 3).credits)) = some (true, 256) := by decide +kernel

set_option maxRecDepth 8000 in
theorem test_flush :
    look (exec (.flush 3 .full 1) (withStream 3 (fun x => { x with
        words := [⟨1, false, false⟩, ⟨2, false, false⟩], reserved := 1, partLen := 2, discarded := 5 }))) (fun t =>
      ((strm t 3).words.map (·.w), (strm t 3).discarded, (strm t 3).trim, (strm t 3).flushTrim, (strm t 3).credits)) =
      some ([1], 6, true, true, 255) := by decide +kernel

theorem test_window :
    served (modEng 3 (fun g => { g with senable := true, stream := 3 }) up) 3 = true ∧
    agrees (exec (.streamDataWindowRead 3 0 .full) (modEng 3 (fun g => { g with senable := true, stream := 3 }) up))
      (fails [] (atPort (modEng 3 (fun g => { g with senable := true, stream := 3 }) up))) = true ∧
    look (exec (.streamDataWindowRead 0 0 .full) up) (fun t => t.port.wait) = some (some (.window 0 0)) ∧
    look (exec (.streamDataWindowRead 0 0 .full) (withStream 0 (fun x => { x with words := [⟨7, true, false⟩] }))) (fun t =>
      (t.port.resp, (strm t 0).lastEm, (strm t 0).words)) = some ([{ ok := true, value := 7 }], true, []) := by decide +kernel

/-- StreamInput: no credit, the last place and the level, trim, and the wait's two ends. -/
theorem test_input : gives (exec (.streamWordIn 2 7 true) (withStream 2 id)) (withStream 2 id) = true ∧
    gives (exec (.streamWordIn 1 7 true) (withStream 1 (fun x => { x with credits := 0 })))
      (withStream 1 (fun x => { x with credits := 0, offer := some ⟨7, true, false⟩ })) = true ∧
    (popWord 1 (withStream 1 (fun x => { x with
        words := List.replicate 256 ⟨0, false, false⟩, credits := 0, offer := some ⟨7, true, false⟩ }))).map (fun r =>
      ((strm r.2 1).words.getLast?, (strm r.2 1).offer)) = some (some ⟨7, true, false⟩, none) ∧
    grants (withStream 1 id) 1 = true ∧ grants up 1 = false ∧
    look (exec (.streamWordIn 1 7 true) (withStream 1 (fun x => { x with words := List.replicate 255 ⟨0, false, false⟩, thresh := 256 })))
      (fun t => ((strm t 1).words.length, (strm t 1).credits, (strm t 1).crossed, pendOf t 131081)) = some (256, 0, true, true) ∧
    look (exec (.streamWordIn 1 7 true) (withStream 1 (fun x => { x with trim := true, discarded := 0xFFFF }))) (fun t =>
      ((strm t 1).words, (strm t 1).discarded, (strm t 1).trim)) = some ([], 0xFFFF, false) ∧
    look (exec .rdWaitExpiry { up with time := 1000000, port := { up.port with wait := some (.window 3 0) } }) (fun t =>
      (t.port.resp, t.port.wait, (strm t 3).rdExpired)) = some ([{ ok := false }], none, true) ∧
    look (exec .rdWaitExpiry { up with time := 999999, port := { up.port with wait := some (.window 3 0) } }) (fun t =>
      t.port.wait) = some (some (.window 3 0)) := by decide +kernel

/-- DmaCommands: the stream numbers and owners that are refused and served, both ways. -/
def withEng (f : Eng → Eng) : State := modEng 3 f up

theorem test_dma : 
    look (exec (.dmaSdoorWrite 3 .low 0) (withEng (fun g => { g with st := .waitOwn }))) (fun t => (eng t 3).st) = some .running ∧
    agrees (exec (.dmaSdoorWrite 3 .low 0) up) (wrote (atPort up)) = true ∧
    look (exec (.senableWrite 3 .low 3) up) (fun t => ((eng t 3).srefused, (eng t 3).stream, (eng t 3).senable)) =
      some (true, 1, false) ∧
    look (exec (.senableWrite 3 .low 7) (modEng 0 (fun g => { g with senable := true, stream := 3 }) up)) (fun t =>
      ((eng t 3).srefused, (eng t 3).senable)) = some (true, false) ∧
    look (exec (.senableWrite 3 .full 7) (withEng (fun g => { g with slist := 0xFFFFFFFFFFE0 }))) (fun t => ((eng t 3).senable,
      (eng t 3).rdAt, (eng t 3).st)) = some (true, 0xFFFFFFFFFFE0, .running) ∧
    look (exec (.senableWrite 3 .full 0) (withEng (fun g => { g with senable := true, stream := 3, st := .running }))) (fun t =>
      ((eng t 3).senable, (eng t 3).st)) = some (false, .idle) ∧
    look (exec (.senableWrite 3 .full 4) up) (fun t => (eng t 3).stream) = some 2 := by decide +kernel

/-- A stream list's descriptor read is out: engine 3, list at 0x1000, `n` links so far. -/
def listRead (n : Nat) : State := { withEng (fun g => { g with senable := true, stream := 3, st := .running, rdAt := 0x1000, links := n }) with
  fm := [{ port := 3, who := .desc (.stream 3), write := false, addr := 0x1000, len := 32 }] }

/-- StreamListReads: the error, OWN clear, a data descriptor, a LINK, one misaligned, the 4,096th, and a fault. -/
theorem test_list : (takeFm (.desc (.stream 3)) (listRead 0)).isSome = true ∧
    look (exec (.dmaDescriptorReadDone (.stream 3) .error) (listRead 0)) (fun t => (eng t 3).sreason) = some 7 ∧
    look (exec (.dmaDescriptorReadDone (.stream 3) (.words [0x2000, 8, 0, 0])) (listRead 0)) (fun t => (eng t 3).st) = some .waitOwn ∧
    look (exec (.dmaDescriptorReadDone (.stream 3) (.words [0x2000, 0x3000000000000003, 0, 0x8800000000001000])) (listRead 0)) (fun t =>
      ((eng t 3).ahead.length, (eng t 3).rdAt, (eng t 3).sreason)) = some (1, 0x1020, 0) ∧
    look (exec (.dmaDescriptorReadDone (.stream 3) (.words [0x2000, 0, 0, 0x9000000000000000])) (listRead 4094)) (fun t =>
      ((eng t 3).links, (eng t 3).rdAt)) = some (4095, 0x2000) ∧
    look (exec (.dmaDescriptorReadDone (.stream 3) (.words [0x2010, 0, 0, 0x9000000000000000])) (listRead 0)) (fun t =>
      (eng t 3).sreason) = some 4 ∧
    look (exec (.dmaDescriptorReadDone (.stream 3) (.words [0x2000, 0, 0, 0x9000000000000000])) (listRead 4095)) (fun t =>
      (eng t 3).sreason) = some 12 ∧
    (streamDscFault 3 (readDsc 0x1000 0x2000 0 0x8000000000000000)).isSome = true := by decide +kernel
/-! ## Transfers, resets, the boot, power -/

/-- Entry 7 with its transfer on engine 1: descriptor 0 of two pages, one transaction of it out, or its write-back. -/
def dsc0 (wb : Wb) : Dsc :=
  { addr := some 0x3FE0, w0 := 0x1FF8, w1 := 0, w3 := 0xA000000000000010, host := 0x1FF8, off := 0, len := 16,
    link := false, barrier := false, txns := if wb = .word2 then [.ok, .ok] else [.issued, .unissued], wb := wb }

def moving (who : FmWho) (wr : Bool) (wb : Wb) : State := { up with
  fm := [{ port := 1, who := who, write := wr, addr := 0x1FF8, len := 8 }]
  qe := { up.qe with
    store := [{ id := 7, stage := .dataIn, words := [0, 0, 0, 0, 0, 16, 0, 0] }] }
  xfer := [{
    ref := .entry 7, eng := 1, toBlock := true, handle := 0x20000000
    nextAt := if wb = .open_ then some 0x3000 else none
    descs := [dsc0 wb], due := if wb = .word2 then [0] else [] }] }

/-- DmaResponses, data: a read, a write, an error. -/
theorem test_data : (takeFm (.data (.entry 7) 0 0) (moving (.data (.entry 7) 0 0) true .open_)).isSome = true ∧
    look (exec (.dmaDataResponse (.entry 7) 0 0 .wrote) (moving (.data (.entry 7) 0 0) true .open_)) (fun t =>
      ((eng t 1).bytesOut, (xferOf t (.entry 7)).map fun x => x.descs.map (·.txns.headD .err))) = some (8, some [.ok]) ∧
    look (exec (.dmaDataResponse (.entry 7) 0 0 (.read [1, 2, 3, 4, 5, 6, 7, 8] [true])) (moving (.data (.entry 7) 0 0) false .open_))
      (fun t => ((eng t 1).bytesIn, rawByte t .stg 7, markOf t .stg 7,
        (xferOf t (.entry 7)).map fun x => x.descs.map (·.poison))) = some (8, 8, true, some [true]) ∧
    look (exec (.dmaDataResponse (.entry 7) 0 0 .error) (moving (.data (.entry 7) 0 0) false .open_)) (fun t =>
      (xferOf t (.entry 7)).map fun x => x.descs.map (·.txns.headD .ok)) = some (some [.err]) := by decide +kernel

/-- DmaResponses, write-backs and descriptor reads. -/
theorem test_writeback : (takeFm (.wback (.entry 7) 0) (moving (.wback (.entry 7) 0) true .word2)).isSome = true ∧
    (moving (.wback (.entry 7) 0) true .word2).gctl.halted = false ∧
    look (exec (.dmaWritebackResponse (.entry 7) 0 false) (moving (.wback (.entry 7) 0) true .word2)) (fun t =>
      t.fm.map fun m => (m.addr, m.len, m.data)) = some [(0x3FF8, 8, [16, 0, 0, 0, 0, 0, 0, 0x20])] := by decide +kernel

theorem test_writeback_ends :
    look (exec (.dmaWritebackResponse (.entry 7) 0 false) (moving (.wback (.entry 7) 0) true .word3)) (fun t =>
      (entryOf t 7).map (·.stage)) = some (some .ready) ∧
    look (exec (.dmaWritebackResponse (.entry 7) 0 true) (moving (.wback (.entry 7) 0) true .word3)) (fun t =>
      (entryOf t 7).map fun e => (e.stage, e.status, e.result)) = some (some (.finish, 0x10, 0xD00)) ∧
    (takeFm (.desc (.entry 7)) (moving (.desc (.entry 7)) false .open_)).isSome = true ∧
    look (exec (.dmaDescriptorReadDone (.entry 7) .error) (moving (.desc (.entry 7)) false .open_)) (fun t =>
      (entryOf t 7).map fun e => (e.status, e.result)) = some (some (0x10, 0x701)) ∧
    dscFault 0x20000000 true (readDsc 0x3000 0x2000 0x2000000000000000 0x8400000000000008) = none ∧
    look (exec (.dmaDescriptorReadDone (.entry 7) (.words [0x2000, 0x2000000000000000, 0, 0x8400000000000008]))
      (moving (.desc (.entry 7)) false .open_)) (fun t => (xferOf t (.entry 7)).map fun x => (x.nextAt, x.descs.length)) =
      some (some (some 0x3020, 2)) := by decide +kernel

/-- StreamBurst: two packets held, two descriptors read ahead, at most 16 in a burst. -/
def bursting : State := modStrm 3 (fun x => { x with enable := true, burstMax := 31, words := [⟨1, true, false⟩, ⟨2, true, false⟩] })
  (modEng 3 (fun g => { g with senable := true, stream := 3, st := .running, rdAt := 0x40, ahead :=
    [readDsc 0 0x2000 0x3000000000000003 0x8800000000001000, readDsc 0x20 0x3000 0x3000000000000003 0x8800000000001000] }) up)

theorem test_burst : (eng bursting 3).ahead.length = 2 ∧ packets (strm bursting 3) = 2 ∧ burstMax (strm bursting 3) = 16 ∧
    bursting.gctl.halted = false ∧ powered bursting 1 = true ∧ (xferOf bursting (.stream 3)).isNone = true ∧
    look (exec (.dmaStreamBurst 3) bursting) (fun t => ((strm t 3).reserved, (eng t 3).ahead.length,
      t.fm.map fun m => (m.addr, m.len, m.write))) = some (2, 0, [(0x40, 32, false), (0x2000, 8, true), (0x3000, 8, true)]) := by
  decide +kernel

/-- ColdResets: each cause, with BROWNOUT high and low. -/
theorem test_cold : portFree up = true ∧ up.brownout = false ∧
    look (exec (.registerColdReset false .full) up) (fun t => (t.gctl.cause, t.gctl.boot, t.pwr.gnt, t.pwr.req)) =
      some (3, .init, 0x1F, 1) ∧
    look (exec (.registerColdReset true .high) up) (fun t => t.port.resp) = some [{ ok := true }] ∧
    look (exec .powerOnReset up) (fun t => (t.gctl.cause, t.gctl.boot, t.pwr.gnt)) = some (1, .init, 1) ∧
    look (exec .powerOnReset { up with brownout := true }) (fun t => t.gctl.boot) = some .inReset ∧
    look (exec .brownoutRise up) (fun t => (t.gctl.cause, t.gctl.boot, t.brownout, t.pwr.gnt)) = some (2, .inReset, true, 0x1F) ∧
    look (exec .brownoutFall { up with brownout := true }) (fun t => (t.gctl.boot, t.brownout, t.pwr.gnt)) = some (.init, false, 1) := by
  decide +kernel

/-- WarmReset: what stays and what goes, on channel 0 of a powered quad. -/
def busy : State := {
  modStrm 3 (fun x => { x with enable := true, credits := 9, thresh := 5, words := [⟨1, true, false⟩] })
    (withScratch (prog 0 [(1, 5)])) with
  time := 1000
  intg := { up.intg with retired := 8, inForce := 8 }
  ic := { up.ic with pend := [(0, 1)], mask := [(0, 0)] } }

theorem test_warm : portFree busy = true ∧ quadUp busy 0 = true ∧
    look (exec (.registerWarmReset .high) busy) (fun t => (t.gctl.boot, t.gctl.cause, t.gctl.warms, t.time)) =
      some (.init, 4, 1, 1000) ∧
    look (exec (.registerWarmReset .high) busy) (fun t => ((strm t 3).thresh, (strm t 3).words, (strm t 3).enable)) =
      some (5, [], false) ∧
    look (exec (.registerWarmReset .full) busy) (fun t => ((thr t 0 0).run, rawByte t (.scr 0) 0xFFF8, t.intg.inForce,
      t.lath.epoch)) = some (false, 0x80, 8, 1) := by decide +kernel

/-- Warnings: both levels of each pin, before and after INIT, and the evidence while halted and not. -/
theorem test_warnings : look (exec .pfailRise up) (fun t => (t.pfail, pendOf t 131073)) = some (true, true) ∧
    look (exec .pfailRise State.reset) (fun t => (t.pfail, pendOf t 131073)) = some (true, false) ∧
    gives (exec .pfailRise { up with pfail := true }) { up with pfail := true } = true ∧
    look (exec .pfailFall { up with pfail := true }) (·.pfail) = some false ∧
    gives (exec .brownoutFall up) up = true ∧
    look (exec (.haltEvidenceClear .high) { up with gctl := { up.gctl with evidence := true, hCause := 5 } }) (fun t =>
      (t.gctl.evidence, t.gctl.hCause)) = some (false, 0) ∧
    look (exec (.haltEvidenceClear .full) { up with gctl := { up.gctl with evidence := true, hCause := 5, halted := true } })
      (fun t => (t.gctl.evidence, t.gctl.hCause)) = some (true, 5) := by decide +kernel

/-- BootSteps: the 64th word, the CRC's, a bad one, the timeout, and each step of the boot. -/
def fuses (n : Nat) (b : Boot) : State := { State.reset with
  gctl := { State.reset.gctl with boot := b }, intg := { State.reset.intg with fuse := List.replicate n 0 } }

set_option maxRecDepth 20000 in
theorem test_fuse : (fuses 63 .fuseWait).gctl.warmBoot = false ∧ (fuses 63 .fuseWait).intg.fuseDone = false ∧
    look (exec (.fuseWord 0) (fuses 63 .fuseWait)) (fun t => (t.intg.fuse.length, t.intg.fuseDone)) = some (64, false) ∧
    look (exec (.fuseWord ((crc32 (List.replicate 512 0)).setWidth 64)) (fuses 64 .fuseWait)) (fun t =>
      (t.intg.fuseDone, t.intg.fuseBad, t.gctl.boot)) = some (true, false, .journal) ∧
    look (exec (.fuseWord 0) (fuses 64 .init)) (fun t => (t.intg.fuseDone, t.intg.fuseBad, t.gctl.boot)) = some (true, true, .init) ∧
    gives (exec .fuseTimeout (fuses 0 .fuseWait)) (fuses 0 .fuseWait) = true ∧
    look (exec .fuseTimeout { fuses 0 .fuseWait with time := 100000 }) (fun t => (t.intg.fuseBad, t.gctl.boot, pendOf t 131074)) =
      some (true, .journal, true) := by decide +kernel

theorem test_boot :
    look (exec .bootInitEnd { fuses 0 .init with pfail := true }) (fun t => (t.gctl.boot, pendOf t 131073)) = some (.fuseWait, false) ∧
    look (exec .bootInitEnd { fuses 0 .init with pfail := true, gctl := { (fuses 0 .init).gctl with cause := 4 } }) (fun t =>
      (t.gctl.boot, pendOf t 131073)) = some (.fuseWait, true) ∧
    look (exec .bootInitEnd { fuses 0 .init with intg := { up.intg with fuseDone := true } }) (·.gctl.boot) = some .journal ∧
    gives (exec .bootInitEnd (fuses 0 .journal)) (fuses 0 .journal) = true ∧
    gives (exec .bootJournal (fuses 0 .init)) (fuses 0 .init) = true ∧
    gives (exec .bootDirectory (fuses 0 .init)) (fuses 0 .init) = true := by decide +kernel
/-- A word that changes bit `d` of ON of the state's own word. -/
def flipOn (d : Nat) (s : State) : W64 := (s.pwr.on.setWidth 64 ||| flag 32 s.pwr.ret) ^^^ (1 <<< d)

/-- PowerRequests: `ChangesOn`, `ChangesRet` and `NoStaleGrant` as Bools. -/
def changesOn (d : Nat) (v : W64) (s : State) : Bool := decide (1 ≤ d) && domThere s d && (bit v d == !bit s.pwr.on d) &&
  (bit v 32 == s.pwr.ret) && (List.range 20).all fun k => k = 0 || !domThere s k || k = d || bit v k == bit s.pwr.on k

def changesRet (v : W64) (s : State) : Bool := (bit v 32 == !s.pwr.ret) &&
  (List.range 20).all fun k => k = 0 || !domThere s k || bit v k == bit s.pwr.on k

theorem test_power_up : changesOn 19 (flipOn 19 up) up = true ∧ bit (flipOn 19 up) 19 = true ∧ domSt up 19 = .off ∧
    domSt up 1 = .on ∧ grantsLeft up = false ∧
    look (exec (.pwrDomainOn .full (flipOn 19 up)) up) (fun t => (domSt t 19, bit t.pwr.req 19, bit t.pwr.on 19)) =
      some (.requested, true, true) ∧
    look (exec (.pwrDomainOn .full (flipOn 3 (setOn 3 false (setDom 3 .draining up)))) (setOn 3 false (setDom 3 .draining up)))
      (fun t => (dueOf t 3, bit t.pwr.on 3)) = some ([.wake], true) ∧
    changesOn 1 (flipOn 1 (setOn 1 false (setDom 1 .draining up))) (setOn 1 false (setDom 1 .draining up)) = true := by
  decide +kernel

/-- STG alone ON. -/
def stgOnly : State := setDom 2 .off (setDom 3 .off (setDom 4 .off up))

theorem test_power_down : changesOn 2 (flipOn 2 up) up = true ∧ bit (flipOn 2 up) 2 = false ∧ domSt up 2 = .on ∧
    look (exec (.pwrDomainSleep .full (flipOn 2 up)) up) (fun t => (domSt t 2, bit t.pwr.on 2)) = some (.draining, false) ∧
    look (exec (.pwrDomainSleep .full (flipOn 1 up)) up) (fun t => (domSt t 1, bit t.pwr.on 1, t.pwr.outcome)) =
      some (.on, true, [(1, 4)]) ∧
    changesRet 0x10000001F up = true ∧ up.pwr.ret = false ∧
    look (exec (.pwrRetentionRequest .full 0x10000001F) up) (fun t => (t.pwr.ret, domSt t 1, t.pwr.outcome)) =
      some (false, .on, [(1, 4)]) ∧
    changesRet 0x10000001F stgOnly = true ∧
    look (exec (.pwrRetentionRequest .full 0x10000001F) stgOnly) (fun t => (t.pwr.ret, t.pwr.retDrain, domSt t 1)) =
      some (true, true, .draining) := by decide +kernel

/-- PowerRequests: a wake of the same TIME came before the sleep request of DEC-A, and before the retention request. -/
theorem test_wake_wins :
    changesOn 2 (flipOn 2 (noteWake 2 up)) (noteWake 2 up) = true ∧ wokeNow 2 (noteWake 2 up) = true ∧
    bit (flipOn 2 (noteWake 2 up)) 2 = false ∧ (wakeWins 2 (noteWake 2 up)).2.free = up.free + 1 ∧
    changesRet 0x10000001F (noteWake 1 stgOnly) = true ∧ wokeNow 1 (noteWake 1 stgOnly) = true ∧
    domSt (noteWake 1 stgOnly) 1 = .on ∧ stgOnly.pwr.ret = false ∧
    wokeNow 2 { noteWake 2 up with time := up.time + 1 } = false := by decide +kernel

/-- PowerHandshakes, the grants: each kind of domain, risen and fallen, awaited and not. -/
def asked (d : Nat) : State := setReq d true (setDom d .requested up)
def draining (d : Nat) : State := setReq d false (setIso d true (setDom d .draining up))
def granted (d : Nat) (s : State) : State := { s with pwr := { s.pwr with gnt := setBit s.pwr.gnt d true } }
def ungranted (d : Nat) (s : State) : State := { s with pwr := { s.pwr with gnt := setBit s.pwr.gnt d false } }

theorem test_grants : (([1, 2, 3, 19] : List Nat).all fun d => Spec.req (ungranted d (asked d)) d && !Spec.gnt (ungranted d (asked d)) d) = true ∧
    look (exec (.pwrGrantRise 1) (ungranted 1 (asked 1))) (fun t => (bit t.pwr.gnt 1, bit t.pwr.iso 1, domSt t 1)) =
      some (true, false, .requested) ∧
    look (exec (.pwrGrantRise 3) (ungranted 3 (asked 3))) (fun t => domSt t 3) = some .on ∧
    look (exec (.pwrGrantRise 19) (asked 19)) (fun t => (t.pwr.loadQ, (chan t 63).pins.hiz, quadUp t 63)) =
      some ([15], false, true) ∧
    gives (exec (.pwrGrantRise 4) up) up = true ∧
    look (exec (.pwrGrantFall 19) (granted 19 (draining 19))) (fun t => (domSt t 19, bit t.pwr.gnt 19, t.pwr.outcome)) =
      some (.off, false, [(19, 1)]) ∧
    look (exec (.pwrGrantFall 19) (granted 19 up)) (fun t => (domSt t 19, bit t.pwr.gnt 19)) = some (.off, false) ∧
    gives (exec (.pwrGrantFall 4) up) up = true := by decide +kernel

set_option maxRecDepth 20000 in
/-- PowerHandshakes, quiescence: each kind of domain, quiet and not. -/
theorem test_quiescence :
    (([1, 2, 3, 4] : List Nat).all fun d => Machine.quiet (setDom d .draining up) d && !bit (setDom d .draining up).pwr.iso d) = true ∧
    look (exec (.quiescence 1) (setDom 1 .draining up)) (fun t => (bit t.pwr.req 1, bit t.pwr.iso 1)) = some (false, true) ∧
    look (exec (.quiescence 1) { setDom 1 .draining up with pwr := { (setDom 1 .draining up).pwr with retDrain := true } })
      (fun t => (bit t.pwr.req 1, t.pwr.retReq)) = some (true, true) ∧
    look (exec (.quiescence 3) (setDom 3 .draining up)) (fun t => (bit t.pwr.req 3, bit t.pwr.iso 3)) = some (false, true) ∧
    look (exec (.quiescence 4) (setDom 4 .draining up)) (fun t => (bit t.pwr.req 4, bit t.pwr.iso 4, (chan t 3).pins.hiz)) =
      some (false, true, true) ∧
    Machine.quiet (modReg 3 (fun r => { r with filling := true }) up) 4 = false := by decide +kernel

/-- PowerUpWork: the loader's quad with no valid directory, without its turn, STG's initialisation, retention. -/
theorem test_power_work : (withPwr (fun p => { p with loadQ := [15] }) up).pwr.loadQ.head? = some (15 : BitVec 4).toNat ∧
    up.prm.op = none ∧
    look (exec (.quadLoad 15) (withPwr (fun p => { p with loadQ := [15] }) up)) (fun t =>
      (t.pwr.loadQ, t.prm.lReason, t.prm.refusals, bit t.pwr.loadFail 15, domSt t 19)) = some ([], 8, 1, true, .draining) ∧
    gives (exec (.quadLoad 0) up) up = true ∧
    look (exec .stgInitEnd (setDom 1 .requested up)) (fun t => domSt t 1) = some .on ∧ gives (exec .stgInitEnd up) up = true ∧
    look (exec (.retGrant true) (withPwr (fun p => { p with retReq := true }) up)) (fun t => (t.pwr.retained, domSt t 1)) =
      some (true, .off) ∧
    look (exec (.retGrant false) (withPwr (fun p => { p with retGnt := true, retained := true, st := [(1, .requested)] }) up))
      (fun t => (t.pwr.retained, domSt t 1)) = some (false, .on) ∧
    gives (exec (.retGrant true) up) up = true ∧ gives (exec (.retGrant false) up) up = true := by decide +kernel

/-- ChannelRegisters: the patch ranges, a patch in the way, the fill, the fence's window, CH_DIE, CH_PINCTL. -/
def patch (disp count target src : Nat) : W64 := nat64 (2 ^ 59 + disp * 2 ^ 58 + count * 2 ^ 45 + target * 2 ^ 33 + src * 2 ^ 13)

theorem test_patch : ¬ PatchBad (patch 0 1 4095 1048574) ∧ PatchBad (patch 0 1 4095 1048575) ∧ ¬ PatchBad (patch 1 1 255 1048575) ∧
    PatchBad (patch 1 2 255 0) ∧ PatchBad (patch 0 0 0 0) ∧ PatchBad (patch 0 2 4095 0) ∧
    quadUp up 3 = true ∧ (chan up 3).reg.pState = 0 ∧
    look (exec (.chPatchGo 3 .full (patch 0 1 4095 1048574)) up) (fun t => ((chan t 3).reg.pState, (chan t 3).reg.pResult)) =
      some (2, 0) ∧
    look (exec (.chPatchGo 3 .full (patch 0 0 0 0)) up) (fun t => ((chan t 3).reg.pState, (chan t 3).reg.pResult)) =
      some (0, 3) ∧
    agrees (exec (.chPatchGo 3 .full (patch 0 1 0 0)) (modReg 3 (fun r => { r with pState := 1 }) up))
      (wrote (atPort (modReg 3 (fun r => { r with pState := 1 }) up))) = true := by decide +kernel

theorem test_channel_registers :
    look (exec (.fenceFill 3 .full 0x3FFFFFFFFFFFFFFF) up) (fun t => ((chan t 3).reg.filling, (chan t 3).ctl.fill,
      (chan t 3).ctl.ebLog2, (chan t 3).ctl.fBase)) = some (true, 0xFFFF, 15, 0x3FFF) ∧
    fenceAt (modReg 3 (fun r => { r with fIdx := 0x3FFF }) up) 3 = none ∧ fenceAt up 3 = some (0, 0) ∧
    look (exec (.chFenceDataRead 3 .low) (modReg 3 (fun r => { r with fIdx := 0x3FFF }) up)) (fun t => t.port.resp) =
      some [{ ok := true, value := 0xFFFF }] ∧
    look (exec (.chFenceDataWrite 3 .full 0x1234) up) (fun t => (rawByte t .stg 0, rawByte t .stg 1)) = some (0x34, 0x12) ∧
    look (exec (.chDieWrite 3 63 .full 0xF31001) (withDie 3 63 { dstate := 2 } up)) (fun t => dieCtl t 3 63) =
      some { dstate := 1, fenceEn := true, plane := 3, page := 15 } ∧
    look (exec (.chDieWrite 3 63 .full 0) (withDie 3 63 { dstate := 2 } up)) (fun t => (dieCtl t 3 63).fenceEn) = some false ∧
    look (exec (.chPinctlWrite 3 .full 1) (modChan 3 (fun ch => { ch with engine := 1 }) up)) (fun t => ((chan t 3).ctl.wpLevel, (chan t 3).pins.wp)) = some (true, true) := by
  decide +kernel

/-- PatchAndFillEnd: with and without work, with STG on and off. -/
theorem test_patch_end : 
    look (exec (.patchCopy 3) (modReg 3 (fun r => { r with pState := 2, pCount := 1, pDisp := true, pTarget := 255 }) up)) (fun t =>
      ((chan t 3).reg.pState, (chan t 3).reg.pResult, (chan t 3).reg.patches, (chan t 3).disp.map (·.1))) =
      some (0, 1, 1, [255]) ∧
    gives (exec (.patchCopy 3) up) up = true ∧
    stgOn (modReg 3 (fun r => { r with filling := true }) up) = true ∧
    look (exec (.fenceFillEnd 3) (modReg 3 (fun r => { r with filling := true })
      { up with pwr := { up.pwr with iso := 0xFFFE2 } })) (fun t => (chan t 3).reg.filling) = some false ∧
    stgOn { up with pwr := { up.pwr with iso := 0xFFFE2 } } = false ∧ gives (exec (.fenceFillEnd 3) up) up = true := by
  decide +kernel

/-- CalRecordWrites: the first and last words of both sets, refused and taken. -/
theorem test_cal_record : chanThere up 63 = true ∧ (32 + 64 * (63 : Chan).toNat + 63 = 4127) ∧
    (4128 + 4 * 4095 + 3 = 20511) ∧ chanThere up (BitVec.ofNat 6 (4095 / 64)) = true ∧
    look (exec (.calRecordWrite 32 .full 1) (modChRec 0 (fun r => { r with st := 1 }) up)) (fun t => (t.cal.wreject, pendOf t 131078)) =
      some (true, true) ∧
    look (exec (.calRecordWrite 4103 .full 0x100000001) up) (fun t => tget 0 31 (chRec t 63).dly) = some 1 ∧
    look (exec (.calRecordWrite 20508 .full 0x123400000050) up) (fun t => ((dieRec t 4095).mts, (dieRec t 4095).iface)) =
      some (0x1234, 5) ∧
    look (exec (.calRecordWrite 4128 .full 1) (modDieRec 0 (fun r => { r with st := 1 }) up)) (fun t => t.cal.wreject) = some true := by
  decide +kernel

/-- BankRetirement: with STG off, without and with a new bank, and the removal's end. -/
theorem test_retire :
    look (exec (.intBankRetireWrite .low 0x8000) quiet) (fun t => (t.intg.retired, t.intg.inForce)) = some (0x8000, 0) ∧
    look (exec (.intBankRetireWrite .low 0) up) (fun t => t.intg.retired) = some 0 ∧
    look (exec (.intBankRetireWrite .full 0x8001) (withPool5 true [1])) (fun t => (t.intg.inForce, (pool t 5).busy, (pool t 0).busy)) =
      some (0x8001, true, false) ∧
    look (exec (.poolWithholdEnd 5) (modPool 5 (fun p => { p with busy := true })
      { withPool5 true [1] with intg := { up.intg with inForce := 1 } })) (fun t => ((pool t 5).busy, (pool t 5).free)) =
      some (false, []) ∧
    gives (exec (.poolWithholdEnd 5) up) up = true := by decide +kernel

/-- SplitWindow: STG off, each view, a retired bank, at the window's last word. -/
def views (v : BitVec 2) (bank : BitVec 16) : State := { up with
  intg := { up.intg with view := v, sel := 31, inForce := bank }
  stg := { bytes := [(0x3FFFFFF, 0x80)], bad := [(0x3FFFFF8, true)], mark := [(0xFFFFF, true)] } }

theorem test_split :
    look (exec (.splitWindowRead 0x1FFFF8 .full) (views 0 0)) (fun t => t.port.resp) = some [{ ok := true, value := 0 }] ∧
    look (exec (.splitWindowRead 0x1FFFF8 .full) (views 1 0x8000)) (fun t => (t.port.resp, t.intg.hits)) =
      some ([{ ok := true, value := 0 }], 1) ∧
    look (exec (.splitWindowRead 0x1FFFF8 .full) (views 1 0)) (fun t => t.port.resp) =
      some [{ ok := true, value := 0x8000000000000000 }] ∧
    look (exec (.splitWindowWrite 0x1FFFF8 .full 5) (views 2 0)) (fun t => (rawByte t .stg 0x3FFFFF8, rawByte t .stg 0x3FFFFFF)) =
      some (5, 0) ∧
    look (exec (.splitWindowRead 0x1FFFF8 .full) (views 2 0)) (fun t => t.port.resp) =
      some [{ ok := true, value := 0x8000000000000000 }] ∧
    look (exec (.splitWindowRead 0x1FFFF8 .full) (views 3 0)) (fun t => t.port.resp) = some [{ ok := true, value := 0x17E }] ∧
    look (exec (.splitWindowWrite 0x1FFFF8 .full 0) (views 3 0)) (fun t => (markOf t .stg 0x3FFFFF8, parityBit t 0x3FFFFF8)) =
      some (false, false) := by decide +kernel
/-! ## Primer -/

/-- The Primer at rest in states of NEST: nothing, an erase running, an erase or a program suspended, both. -/
def eraseOp : POp := { kind := .erase 5, jobs := [.erase 5, .record 2 0 5 false] }
def programOp : POp := { kind := .program, jobs := [.word 9 0], cur := some (9, 0) }
def prm (f : Prm → Prm) : State := withPrm (fun p => f { p with tripped := false }) up

theorem test_nest : ([prm id, prm (fun p => { p with op := some programOp }), prm (fun p => { p with op := some eraseOp }),
      prm (fun p => { p with susp := [eraseOp] }), prm (fun p => { p with op := some programOp, susp := [eraseOp] }),
      prm (fun p => { p with susp := [programOp] }), prm (fun p => { p with susp := [programOp, eraseOp] })].map prmNest) =
      [0, 1, 2, 3, 4, 5, 6] := by decide +kernel

/-- PrimerRefusals: every command while one runs, in a state of NEST that refuses it, and out of range. -/
theorem test_prm_refusals : portFree (prm id) = true ∧
    ((prmTable 15 .low).all fun e => agrees (exec e.1 (prm (fun p => { p with op := some eraseOp })))
      (wrote (withPrm (fun p => { p with refused := true }) (atPort (prm (fun p => { p with op := some eraseOp })))))) = true ∧
    (([.prmProgram .low, .prmErase .full, .prmRotate .low] : List Instr).all fun i => agrees (exec i (prm (fun p => { p with susp := [programOp] })))
      (wrote (withPrm (fun p => { p with result := 11 }) (atPort (prm (fun p => { p with susp := [programOp] })))))) = true ∧
    agrees (exec (.prmResume .low) (prm id)) (wrote (withPrm (fun p => { p with result := 11 }) (atPort (prm id)))) = true ∧
    agrees (exec (.prmReservedCmd 9 .low) (prm id)) (wrote (withPrm (fun p => { p with result := 13 }) (atPort (prm id)))) = true ∧
    agrees (exec (.prmSuspend .low) (prm id)) (wrote (withPrm (fun p => { p with result := 11 }) (atPort (prm id)))) = true ∧
    look (exec (.prmSuspend .low) (prm (fun p => { p with op := some eraseOp }))) (fun t => t.prm.suspend) = some true ∧
    agrees (exec (.prmErase .high) (prm id)) (wrote (atPort (prm id))) = true ∧
    prmTarget (prm (fun p => { p with win := true, word := 0xFC000, winEn := true })) = none ∧
    agrees (exec (.prmErase .low) (prm (fun p => { p with win := true }))) (wrote (withPrm (fun p => { p with result := 12 })
      (atPort (prm (fun p => { p with win := true }))))) = true := by decide +kernel

/-- PrimerCommands: the last word and the first, parity good and bad, each refusal of PROGRAM and ERASE and a start. -/
def at' (w : BitVec 20) (f : Prm → Prm) : State := prm fun p => f { p with word := w }

theorem test_prm_program : prmTarget (at' 0xFFFFF id) = some 1048575 ∧ prmHeld (at' 0xFFFFF id) 1048575 = false ∧
    look (exec (.prmRead .low) (at' 0x10000 (fun p => { p with arr := [(0x10000, withParity 0x1234)] }))) (fun t =>
      (t.prm.data, t.prm.result)) = some (0x1234, 1) ∧
    look (exec (.prmRead .low) (at' 0x10000 (fun p => { p with arr := [(0x10000, 5)] }))) (fun t => t.prm.result) = some 5 ∧
    look (exec (.prmEraseVerify .low) (at' 0x10000 (fun p => { p with arr := [(0x100FF, 0)] }))) (fun t => (t.prm.data, t.prm.result)) =
      some (72, 1) ∧
    (([(at' 0xFFFFF id, 3), (at' 0x10000 (fun p => { p with sect := [(0x100, 2)] }), 4),
       (at' 0x10000 (fun p => { p with arr := [(0x10000, 0)] }), 2),
       (at' 0x10000 (fun p => { p with data := 0xFFFFFFFFFFFFFFFF }), 1)] : List (State × BitVec 4)).all fun e =>
        decide (look (exec (.prmProgram .low) e.1) (fun t => (t.prm.result, t.prm.op)) = some (e.2, none))) = true ∧
    look (exec (.prmProgram .low) (at' 0x10000 (fun p => { p with data := 7 }))) (fun t => (t.prm.op.bind (·.cur)).map (·.1)) =
      some (some 0x10000) := by decide +kernel

theorem test_prm_erase :
    (([(at' 0xFFFFF id, 3), ({ at' 0x10000 id with pfail := true }, 9),
       (at' 0x10000 (fun p => { p with jOpen := List.replicate 16 (1, 0) }), 10)] : List (State × BitVec 4)).all fun e =>
        decide (look (exec (.prmErase .low) e.1) (fun t => (t.prm.result, t.prm.op)) = some (e.2, none))) = true ∧
    look (exec (.prmErase .low) (at' 0x10000 (fun p => { p with jPos := 238, jOpen := List.replicate 15 (1, 0) }))) (fun t =>
      (t.prm.jPos, t.prm.jSeq, (t.prm.op.bind (·.cur)).map (·.1))) = some (239, 1, some (256 * 4092 + 238)) := by decide +kernel

theorem test_prm_others :
    look (exec (.prmResume .low) (prm (fun p => { p with susp := [programOp, eraseOp] }))) (fun t => (t.prm.op, t.prm.susp)) =
      some (some programOp, [eraseOp]) ∧
    look (exec (.prmReadFactory .low) (at' 0xFFFFF id)) (fun t => (t.prm.data, t.prm.result)) =
      some (0xFFFFFFFFFFFFFFFF, 1) ∧
    (([(prm id, 12), (prm (fun p => { p with winEn := true, winBase := 4020, wp := [(127, 0x8000000)], winHead := 7 }), 3),
       (prm (fun p => { p with winEn := true, sect := [(64, 1)] }), 4),
       (prm (fun p => { p with winEn := true, arr := [(256 * 64, 0)] }), 2)] : List (State × BitVec 4)).all fun e =>
        decide (look (exec (.prmRotate .low) e.1) (fun t => (t.prm.result, t.prm.op)) = some (e.2, none))) = true ∧
    look (exec (.prmRotate .low) (prm (fun p => { p with winEn := true, winHead := 71 }))) (fun t => t.prm.op.map (·.kind)) =
      some (some (.rotate 0)) := by decide +kernel

/-- PrimerPulses: a program's and an erase's pulses, good, bad and the last; the detector. -/
def pulsing (o : POp) (n : Nat) : State := prm fun p => { p with op := some { o with pulses := n }, sect := [(5, 1)] }

theorem test_pulses :
    look (exec (.prmPulseEnd true) (pulsing programOp 0)) (fun t => (prmRaw t 9, t.prm.result, t.prm.op)) = some (0, 1, none) ∧
    look (exec (.prmPulseEnd false) (pulsing programOp 6)) (fun t => t.prm.op.map (·.pulses)) = some (some 7) ∧
    look (exec (.prmPulseEnd true) (pulsing eraseOp 39)) (fun t => t.prm.op.map (·.jobs)) =
      some (some [.record 2 0 5 false]) ∧
    look (exec (.prmPulseEnd false) (pulsing eraseOp 38)) (fun t => t.prm.op.map (·.pulses)) = some (some 39) ∧
    sectState (pulsing eraseOp 39) 5 = 1 ∧
    gives (exec (.prmPulseEnd true) (prm id)) (prm id) = true ∧
    look (exec .brownOutDetectorTrip (prm id)) (fun t => (t.prm.tripped, t.prm.result)) = some (true, 0) ∧
    look (exec .brownOutDetectorRelease up) (fun t => t.prm.tripped) = some false ∧
    look (exec .brownOutDetectorRelease { up with brownout := true }) (fun t => t.prm.tripped) = some true := by decide +kernel

/-- PrimerWindows: ENABLE at the last base, past it, and again; the read window busy, bad, good, and a burst. -/
theorem test_prm_window :
    look (exec (.prmWindowEnable .low (4020 * 256)) (prm id)) (fun t => (t.prm.winEn, t.prm.winBase, t.prm.jPos)) =
      some (true, 4020, 1) ∧
    look (exec (.prmWindowEnable .low (4021 * 256)) (prm id)) (fun t => (t.prm.winEn, t.prm.winBase)) = some (false, 4021) ∧
    agrees (exec (.prmWindowEnable .full 256) (prm (fun p => { p with winEn := true }))) (wrote (atPort (prm (fun p =>
      { p with winEn := true })))) = true ∧
    agrees (exec (.primerWindowRead 9 .low) (prm (fun p => { p with op := some eraseOp }))) (fails [] (withPrm (fun p =>
      { p with rdBusy := true }) (atPort (prm (fun p => { p with op := some eraseOp }))))) = true ∧
    look (exec (.primerWindowRead 9 .low) (prm (fun p => { p with arr := [(9, 5)] }))) (fun t => (t.port.resp, t.prm.parity)) =
      some ([{ ok := false }], true) ∧
    look (exec (.primerWindowRead 0xFFFFF .high) (prm id)) (fun t => t.port.resp) =
      some [{ ok := true, value := 0xFFFFFFFF00000000 }] ∧
    look (exec (.primerWindowRead 0xFFFF8 .burst) (prm id)) (fun t => t.port.resp) =
      some [{ ok := true, words := List.replicate 8 0xFFFFFFFFFFFFFFFF }] := by decide +kernel
/-! ## Lath -/

/-- A ring node 5 with ports 0 and 1 UP; node 9 admitted two hops away on port 1. -/
def ring : State := withLath (fun l => { l with
  node := 5, topo := 1, epoch := 3, port := [(0, { enable := true, link := .up }), (1, { enable := true, link := .up })]
  nodes := [(0, { node := 9, st := 1, port := 1, route := 2 })] }) up

/-- LathRegisters: LATH_SELF free and in use, LATH_NODE refused for each reason and taken, the ports, the probe. -/
def heldRemote : State := { ring with qe := { ring.qe with
  nextId := 8, store := [{ id := 7, kind := .remoteIn 9 0xABC 0 false, stage := .dataIn, handle := 0x20000000, words := [0, 0, 0, 0, 0, 128, 0, 0] }] } }

def sentRemote (st : EStage) (w : List W64) (r : Remote) : State := { ring with
  qe := { ring.qe with nextId := 8, store := [{ id := 7, sq := 1, stage := st, words := w, handle := 0x20000000 }] }
  lath := { ring.lath with table := [(0xABC, r)] } }

theorem test_lath_self : remoteIn ring = 0 ∧ ring.lath.table.countP (fun e => !e.2.done) = 0 ∧
    look (exec (.lathSelfWrite .full 0xFFFF000000000001) ring) (fun t => (t.lath.node, t.lath.path, t.lath.cfgReject)) =
      some (0xFFFF, 1, false) ∧
    remoteIn heldRemote ≠ 0 ∧
    look (exec (.lathSelfWrite .full 0xFFFF000000000001) heldRemote) (fun t => (t.lath.node, t.lath.path, t.lath.cfgReject)) =
      some (5, 1, true) ∧
    look (exec (.lathSelfWrite .low 0xFFFF000000000001) heldRemote) (fun t => (t.lath.node, t.lath.path, t.lath.cfgReject)) =
      some (5, 1, false) := by decide +kernel

/-- A word of LATH_NODE. -/
def nodeWord (node st mode port route : Nat) : W64 := nat64 (node * 2 ^ 48 + st * 2 ^ 46 + mode * 2 ^ 45 + port * 2 ^ 32 + route)

theorem test_lath_node :
    (([nodeWord 7 3 0 0 1, nodeWord 0 1 0 0 1, nodeWord 5 1 0 0 1, nodeWord 9 1 0 0 1, nodeWord 7 1 1 0 0, nodeWord 7 1 0 0 0,
       nodeWord 7 1 0 0 0x10000, nodeWord 7 1 0 2 1] : List W64).all fun v =>
      agrees (exec (.lathNodeWrite 0xFFF .full v) ring) (wrote (withLath (fun l => { l with cfgReject := true }) (atPort ring)))) = true ∧
    (([nodeWord 7 1 0 1 0xFFFF, nodeWord 7 2 1 3 0, nodeWord 0 0 0 0 0] : List W64).all fun v =>
      decide (look (exec (.lathNodeWrite 0xFFF .full v) ring) (·.lath.cfgReject) = some false)) = true ∧
    look (exec (.lathNodeWrite 0xFFF .full (nodeWord 7 1 0 1 0xFFFF)) ring) (fun t => tget {} 4095 t.lath.nodes) =
      some { node := 7, st := 1, port := 1, route := 0xFFFF } := by decide +kernel

theorem witness_lath_node : NodeRefused ring 4095 { node := 7, st := 3, route := 1 } ∧
    ¬ NodeRefused ring 4095 { node := 7, st := 1, port := 1, route := 0xFFFF } := by
  unfold NodeRefused; decide +kernel

theorem test_lath_port :
    look (exec (.lathPortEnable 0 .low 5) up) (fun t => (lport t 0).link) = some (.training 0) ∧
    look (exec (.lathPortEnable 2 .low 1) up) (fun t => ((lport t 2).link, (lport t 2).enable)) = some (.down, true) ∧
    look (exec (.lathPortEnable 2 .low 1) (withLath (fun l => { l with topo := 2 }) up)) (fun t => (lport t 2).link) =
      some (.training 0) ∧
    look (exec (.lathPortEnable 1 .full 1) (withPort 1 (fun p => { p with retry := true }) up)) (fun t => (lport t 1).link) =
      some .down ∧
    look (exec (.lathPortEnable 1 .full 0) ring) (fun t => ((lport t 1).link, (lport t 1).downs, t.lath.eValid)) =
      some (.down, 1, true) ∧
    agrees (exec (.lathProbeGo .full 0) (withLath (fun l => { l with pBusy := true }) ring))
      (wrote (atPort (withLath (fun l => { l with pBusy := true, cfgReject := true }) ring))) = true ∧
    look (exec (.lathProbeGo .full 0x100000002) ring) (fun t => (t.lath.pBusy, (lport t 1).replay.map fun f =>
      (f.typ, f.seq, f.route))) = some (true, [(9, 1, 2)]) := by decide +kernel

/-- LathLinks: training at the lowest and the highest rate, passed and failed; the link's loss. -/
def training (r : BitVec 2) : State := { withPort 0 (fun p => { p with link := .training r, since := 5 }) ring with time := 20005 }

set_option maxRecDepth 20000 in
theorem test_training :
    gives (exec (.linkTrainStep 0 true) { training 1 with time := 20004 }) { training 1 with time := 20004 } = true ∧
    look (exec (.linkTrainStep 0 true) (training 1)) (fun t => ((lport t 0).link, (lport t 0).rate)) = some (.training 2, 1) ∧
    look (exec (.linkTrainStep 0 true) (training 2)) (fun t => ((lport t 0).link, (lport t 0).rate,
      (lport t 0).sent.map fun f => (f.typ, payloadWord f 0))) = some (.hello, 2, [(11, 0x0005000300000000)]) ∧
    look (exec (.linkTrainStep 0 false) (training 0)) (fun t => ((lport t 0).link, (lport t 0).retry)) = some (.down, true) ∧
    look (exec (.linkTrainStep 0 false) (training 2)) (fun t => ((lport t 0).link, (lport t 0).rate)) = some (.hello, 1) ∧
    look (exec (.linkTrainRetry 0) { withPort 0 (fun p => { p with link := .down, retry := true }) ring with time := 1000000 })
      (fun t => (lport t 0).link) = some (.training 0) ∧
    look (exec (.linkTrainRetry 0) { withPort 0 (fun p => { p with link := .down, retry := true }) ring with time := 999999 })
      (fun t => (lport t 0).link) = some .down ∧
    gives (exec (.linkTrainRetry 0) ring) ring = true ∧
    look (exec (.lathNoLink 0) ring) (fun t => ((lport t 0).link, (lport t 0).downs)) = some (.training 0, 1) ∧
    gives (exec (.lathNoLink 2) ring) ring = true := by decide +kernel

/-- A frame of a type from node 9 to node 5 that ends here, with its TAG 0xABC, CODE and payload. -/
def frame (typ : BitVec 4) (cls : Bool) (code : Byte) (pl : List Byte) : Frame :=
  sealFrame {
    typ := typ, cls := cls, laneB := false, pathMode := false, chunks := BitVec.ofNat 7 (pl.length / 64), src := 9, route := 1
    word1 := frameWord1 5 0 0xABC code, mask := 0, payload := pl, seq := 1, crc := 0 }

/-- The frame with a bit of its CRC turned. -/
def spoilt (f : Frame) : Frame := { f with crc := f.crc ^^^ 1 }

/-- R476: the CRC of the nine digits, as CRC-32 is commonly checked. -/
theorem test_crc : crc32 ([0x31, 0x32, 0x33, 0x34, 0x35, 0x36, 0x37, 0x38, 0x39] : List Byte) = 0xCBF43926 := by decide +kernel

/-- A HELLO of node 9, and a LINK that acknowledges frame 1, with NAK or not. -/
def helloF : Frame := sealFrame { frame 11 true 0 (wordsBytes (0x0009000400000000 :: List.replicate 7 0)) with seq := 0 }
def linkW (w : W64) : Frame := sealFrame { frame 12 true 0 [] with seq := 0, word1 := w }
def linkF (nak : Bool) : Frame := linkW (0x0001000000000000 ||| flag 47 nak ||| 0x02000003)

set_option maxRecDepth 20000 in
theorem test_hello :
    look (exec (.lathHello 0 helloF) (withPort 0 (fun p => { p with link := .hello }) ring)) (fun t =>
      ((lport t 0).link, (lport t 0).peer, (lport t 0).peerEp, t.lath.eKind, t.lath.eCount)) = some (.up, 9, 4, 1, 1) ∧
    look (exec (.lathHello 0 helloF) (withLath (fun l => { l with nodes := [] }) ring)) (fun t => (t.lath.eKind, t.lath.eNode)) =
      some (3, 9) ∧
    look (exec (.lathHello 0 (spoilt helloF)) ring) (fun t => (lport t 0).crcErr) = some 1 := by decide +kernel

/-- Port 0 with frames 1 and 2 to be acknowledged after some replays. -/
def replaying (n : Nat) : State := withPort 0 (fun p => { p with
  replay := [{ frame 8 true 0 [] with seq := 1 }, { frame 8 true 0 [] with seq := 2 }], replays := n, cred := [0, 0, 0, 0] }) ring

theorem test_link :
    look (exec (.lathLink 0 (linkF false)) (replaying 7)) (fun t => ((lport t 0).replay.map (·.seq), (lport t 0).cred,
      (lport t 0).replays)) = some ([2], [3, 0, 0, 2], 0) ∧
    look (exec (.lathLink 0 (linkF true)) (replaying 7)) (fun t => ((lport t 0).link, (lport t 0).replays,
      (lport t 0).sent.map (·.seq))) = some (.up, 1, [2]) ∧
    look (exec (.lathLink 0 (linkW 0x0000800000000000)) (replaying 7)) (fun t => ((lport t 0).link, (lport t 0).replays,
      (lport t 0).sent.map (·.seq))) = some (.up, 8, [1, 2]) ∧
    look (exec (.lathLink 0 (linkW 0x0000800000000000)) (replaying 8)) (fun t => (lport t 0).link) = some (.training 0) ∧
    look (exec (.lathLink 0 (spoilt (linkF false))) ring) (fun t => ((lport t 0).crcErr,
      (lport t 0).sent.map fun f => (f.typ, f.word1))) = some (1, [(12, 0x0000800000000000)]) := by decide +kernel

/-- LinkFrames: ACK of SEQ 7, NAK and the credits of the four buffers; a port that owes nothing. -/
theorem test_link_frame :
    (lport (linkOut 0 (withPort 0 (fun p => { p with rxSeq := 7, nak := true, give := [1, 2, 3, 260] }) ring)) 0).sent.map (fun f =>
      (f.typ, f.word1, Machine.frameOk f)) = [(12, 0x0007800004030201, true)] ∧
    linkOut 1 ring = ring ∧ lathStep ring = none := by decide +kernel

/-- LathTimers: heartbeats due, while halted and without an entry; a remote's timer before and at its end; the probe. -/
theorem test_lath_timers :
    holdsFrom heldRemote 9 = true ∧ holdsFrom ring 9 = false ∧
    look (exec (.heartbeatTimer 9) (withLath (fun l => { l with beat := [(9, (0, 0))] }) heldRemote)) (fun t =>
      ((lport t 1).replay.map (·.typ), t.lath.beat)) = some ([8], [(9, (0, 25000))]) ∧
    gives (exec (.heartbeatTimer 9) ring) ring = true ∧
    look (exec (.remoteTimeout 0xABC) { sentRemote (.remote 0xABC) [0, 0, 0, 0, 0, 0, 0x9000000000000, 0] {
      entry := 7, node := 9, start := some 0, limit := 100 } with time := 100 }) (fun t => (t.lath.table.length,
        (entryOf t 7).map (·.status), (lathNode t 0).st)) = some (0, some 0x0A, 2) ∧
    look (exec (.remoteTimeout 0xABC) { sentRemote (.remote 0xABC) [] { entry := 7, node := 9, start := some 0, limit := 100 } with time := 99 })
      (fun t => t.lath.table.length) = some 1 ∧
    look (exec .probeTimeout { withLath (fun l => { l with pBusy := true, pLimit := 5 }) ring with time := 5 }) (fun t =>
      (t.lath.pBusy, t.lath.pResult)) = some (false, 2) ∧
    look (exec .probeTimeout { withLath (fun l => { l with pBusy := true, pLimit := 5 }) ring with time := 4 }) (fun t =>
      t.lath.pBusy) = some true := by decide +kernel

/-- The state in which a delivered frame's meaning begins. -/
def begun (x : BitVec 2) (f : Frame) (s : State) : State :=
  withPort x (fun p => { p with rx := [] }) (heard f.src (fEpoch f) (inBuffer x f s))

def mine (s : State) (f : Frame) : Bool :=
  decide (fDst f = s.lath.node) || decide (f.typ = 9) || (decide (f.typ = 1) && decide (s.lath.node = 0))

/-- Alone as a Bool. -/
def alone (x : BitVec 2) (f : Frame) (s : State) : Bool :=
  decide (x.toNat < 3) && (([0, 1, 2] : List (BitVec 2)).all fun k => decide ((lport s k).rx = if k = x then [f] else [])) &&
  decide ((s.lath.port.map fun p => p.2.rx.length).sum = 1) && decide (s.lath.loop = [])

theorem alone_of {x : BitVec 2} {f : Frame} {s : State} (h : alone x f s = true) : Alone x f s := by
  unfold alone at h
  simp only [Bool.and_eq_true, decide_eq_true_eq, List.all_eq_true] at h
  obtain ⟨⟨⟨h1, h2⟩, h3⟩, h4⟩ := h
  have hk : ∀ k : BitVec 2, k.toNat < 3 → k ∈ ([0, 1, 2] : List (BitVec 2)) := by decide
  exact ⟨h1, fun k h => h2 k (hk k h), h3, h4⟩

/-- Accepted and Delivered as Bools. -/
def accepts (x : BitVec 2) (f : Frame) (s : State) : Bool :=
  isUp s x && Machine.frameOk f && decide (f.seq = (lport s x).rxSeq + 1)

def delivers (x : BitVec 2) (f : Frame) (s : State) : Bool :=
  accepts x f s && (decide (routeOf s x f = .deliver) && decide (routeOf (begun x f s) x f = .deliver)) &&
  (mine s f && mine (begun x f s) f) && alone x f (heard f.src (fEpoch f) (inBuffer x f s))

theorem delivered_of {x : BitVec 2} {f : Frame} {s : State} (h : delivers x f s = true) : Delivered x f s (begun x f s) := by
  unfold delivers accepts mine at h
  simp only [Bool.and_eq_true, decide_eq_true_eq, Bool.or_eq_true] at h
  obtain ⟨⟨⟨⟨⟨h1, h2⟩, h3⟩, h4⟩, h5, h6⟩, h7⟩ := h
  exact ⟨⟨h1, h2, h3⟩, h4, ⟨by rcases h5 with (h | h) | h <;> simp [Mine, h], by rcases h6 with (h | h) | h <;> simp [Mine, h]⟩,
    alone_of h7, rfl⟩

/-- LathArrival: a port that is DOWN, a bad CRC, a frame out of sequence, one for another node, and forwarding. -/
theorem test_arrival :
    ((frameCmd 0 (frame 0 false 0 [])).all fun e => decide ((frameCmd 0 (frame e.1 false 0 [])).lookup e.1 ≠ none) &&
      decide (routeOf ring 0 (frame e.1 false 0 []) = .deliver)) = true ∧
    gives (exec (.lathHeartbeat 2 (frame 8 true 0 [])) ring) ring = true ∧
    look (exec (.lathHeartbeat 0 (spoilt (frame 8 true 0 []))) ring) (fun t => ((lport t 0).crcErr,
      (lport t 0).sent.map fun f => (f.typ, f.word1))) = some (1, [(12, 0x0000800000000000)]) ∧
    gives (exec (.lathHeartbeat 0 (sealFrame { frame 8 true 0 [] with seq := 2 })) ring) ring = true ∧
    alone 0 (frame 8 true 0 []) (inBuffer 0 (frame 8 true 0 []) ring) = true ∧
    look (exec (.lathHeartbeat 0 (frame 8 true 0 [])) (withLath (fun l => { l with node := 6 }) ring)) (fun t =>
      (t.lath.misdel, (lport t 0).rxSeq, (lport t 0).sent.map fun f => (f.typ, f.word1))) =
      some (true, 1, [(12, 0x0001000000010000)]) ∧
    look (exec (.lathFrameForward 0 (frame 0 true 0 [])) ring) (fun t => t.lath.discarded) = some true ∧
    look (exec (.lathFrameForward 0 (sealFrame { frame 8 true 0 [] with route := 0x10000 })) ring) (fun t => t.lath.discarded) = some true ∧
    look (exec (.lathFrameForward 0 (sealFrame { frame 8 true 0 [] with route := 2 })) ring) (fun t => ((lport t 1).replay.map fun f =>
      (f.route, f.laneB))) = some [(1, false)] := by decide +kernel

/-- LathAtTarget: a REQUEST refused each way, without room, and taken; DATA, ABORT, HEARTBEAT, PROBE. -/
def request (ws : List W64) : Frame := frame 1 false 0 (wordsBytes ws)
def good : List W64 := [0x0004000000000000, 0, 0, 0, 0, 8, 0, 0]
def serving (s : State) : State := { s with quad := [(0, { slots := [(0, 0x8000)], known := true, valid := [(0, true)] })] }

set_option maxRecDepth 20000 in
theorem test_request : (([serving ring, ring] : List State).all fun s => delivers 0 (request good) s) = true ∧
    look (exec (.lathRequest 0 (request good)) { ring with gctl := { ring.gctl with halted := true } }) (fun t => t.qe.store.length) =
      some 0 ∧
    look (exec (.lathRequest 0 (request good)) (withLath (fun l => { l with nodes := [] }) ring)) (fun t => t.lath.refusedIn) = some true ∧
    look (exec (.lathRequest 0 (request [0, 0xFC0000000000, 0, 0, 0, 0, 0, 0])) { ring with variant := .j4 }) (fun t =>
      (lport t 1).replay.map fun f => (f.typ, fCode f)) = some [(5, 3)] ∧
    look (exec (.lathRequest 0 (request good)) { ring with quad := [(0, { known := true })] }) (fun t =>
      (lport t 1).replay.map fun f => (f.typ, fCode f)) = some [(5, 2)] ∧
    look (exec (.lathRequest 0 (request good)) (serving ring)) (fun t => (t.qe.store.map (·.stage), t.lath.beat.map (·.1),
      (lport t 1).replay.map (·.typ))) = some ([.needBuf], [9], [3]) ∧
    look (exec (.lathRequest 0 (request good)) (withQe (fun q => { q with fetches := [⟨0, 0, 0, 4096, 0⟩] }) (serving ring)))
      (fun t => (t.qe.store.length, (lport t 0).rx.map (·.typ), (lport t 0).rxSeq)) = some (0, [1], 1) := by decide +kernel

set_option maxRecDepth 20000 in
theorem test_at_target : delivers 0 (frame 2 false 0 (List.replicate 64 5)) heldRemote = true ∧
    (heldFor heldRemote 9 0xABC).map (·.id) = some 7 ∧ (heldFor ring 9 0xABC).isNone = true ∧
    look (exec (.lathData 0 (frame 2 false 0 (List.replicate 64 5))) heldRemote) (fun t => (tget 0 7 t.lath.inData,
      rawByte t .stg 63, (entryOf t 7).map (·.stage))) = some (64, 5, some .dataIn) ∧
    look (exec (.lathData 0 (frame 2 false 0 (List.replicate 128 5))) heldRemote) (fun t => (t.lath.inData,
      (entryOf t 7).map (·.stage))) = some ([], some .ready) ∧
    look (exec (.lathData 0 (frame 2 false 0 (List.replicate 64 5))) (modEntry 7 (fun e => { e with stage := .needBuf }) heldRemote))
      (fun t => (t.lath.inData, (lport t 0).rx.map (·.typ), (lport t 0).give)) = some ([], [2], [0, 0, 0, 0]) ∧
    look (exec (.lathAbort 0 (frame 6 false 0 [])) ring) (fun t => (lport t 1).replay.map fun f => (f.typ, fCode f)) = some [(7, 1)] ∧
    look (exec (.lathAbort 0 (frame 6 false 0 [])) heldRemote) (fun t => (lport t 1).replay.map fun f => (f.typ, fCode f)) =
      some [(4, 8), (7, 0)] ∧
    look (exec (.lathProbe 0 (frame 9 false 0 (wordsBytes (3 :: List.replicate 7 0)))) ring) (fun t =>
      (lport t 0).replay.map fun f => (f.typ, f.route)) = some [(10, 3)] := by decide +kernel

/-- LathAtSender: late responses, ACCEPT, DATA, COMPLETE of both directions, the three REJECTs, ABORT_RESULT, a
probe's reply. -/
def sent (dir : Nat) (got : Nat) : State := sentRemote (.remote 0xABC) [nat64 (dir * 2 ^ 50 + 2 ^ 48), 0, 0, 0, 0, 64, 0, 0]
  { entry := 7, node := 9, got := got }

set_option maxRecDepth 20000 in
theorem test_at_sender : delivers 0 (frame 3 true 0 []) (sent 2 0) = true ∧ (inFlight (sent 2 0) (frame 3 true 0 [])).isSome = true ∧
    (inFlight ring (frame 3 true 0 [])).isNone = true ∧
    look (exec (.lathAccept 0 (frame 3 true 0 [])) ring) (fun t => t.lath.lateRsp) = some true ∧
    look (exec (.lathAccept 0 (frame 3 true 0 [])) (sent 2 0)) (fun t => t.lath.table.map (·.2.epoch)) = some [some 0] ∧
    look (exec (.lathData 0 (frame 2 true 0 (List.replicate 64 5))) (sent 2 0)) (fun t => (t.lath.table.map (·.2.got), rawByte t .stg 63)) =
      some ([64], 5) ∧
    look (exec (.lathData 0 (frame 2 true 0 (List.replicate 64 5))) (sent 1 0)) (fun t => t.lath.table.map (·.2.got)) = some [0] := by
  decide +kernel

set_option maxRecDepth 20000 in
theorem test_complete :
    look (exec (.lathComplete 0 (frame 4 true 0x10 (wordsBytes (77 :: List.replicate 7 0)))) (sent 2 0)) (fun t => (t.lath.table.length,
      (entryOf t 7).map fun e => (e.stage, e.status, e.result))) = some (0, some (.finish, 0x10, 77)) ∧
    look (exec (.lathComplete 0 (frame 4 true 0 (wordsBytes (77 :: List.replicate 7 0)))) (sent 2 64)) (fun t =>
      ((entryOf t 7).map (·.stage), t.xfer.length)) = some (some .dataOut, 1) ∧
    look (exec (.lathComplete 0 (frame 4 true 0 (wordsBytes (77 :: List.replicate 7 0)))) (modEntry 7 (fun e => { e with kind := .fetch })
      (sent 2 64))) (fun t => t.lath.table.length) = some 0 ∧
    look (exec (.lathReject 0 (frame 5 true 1 [])) (sent 2 0)) (fun t => ((entryOf t 7).map (·.status), (lathNode t 0).st)) =
      some (some 0x0A, 2) ∧
    look (exec (.lathReject 0 (frame 5 true 3 [])) (sent 2 0)) (fun t => (t.gctl.halted, t.gctl.hCause, t.gctl.hRemote)) =
      some (true, 3, true) ∧
    look (exec (.lathReject 0 (frame 5 true 2 [])) (modEntry 7 (fun e => { e with kind := .fetch }) (sent 2 0))) (fun t =>
      (t.gctl.halted, t.lath.table.length)) = some (false, 0) := by decide +kernel

set_option maxRecDepth 20000 in
theorem test_abort_result :
    look (exec (.lathAbortResult 0 (frame 7 true 0 [])) (sentRemote .finish [] { entry := 7, node := 9, abort := some 7, done := true }))
      (fun t => t.lath.table.length) = some 0 ∧
    look (exec (.lathAbortResult 0 (frame 7 true 1 [])) (sentRemote (.remote 0xABC) [] { entry := 7, node := 9, abort := some 6 }))
      (fun t => t.lath.table.map (·.2.abort)) = some [none] ∧
    look (exec (.lathAbortResult 0 (frame 7 true 1 [])) (sentRemote (.remote 0xABC) [] { entry := 7, node := 9, fetchAbort := true }))
      (fun t => (t.lath.table.map (·.2.fetchAbort), t.lath.lateRsp)) = some ([false], false) ∧
    look (exec (.lathAbortResult 0 (frame 7 true 1 [])) (sentRemote (.remote 0xABC) [] { entry := 7, node := 9 }))
      (fun t => t.lath.lateRsp) = some true ∧
    gives (exec (.lathProbeReply 0 (sealFrame { frame 10 true 0 [] with seq := 2 })) ring) ring = true ∧
    look (exec (.lathProbeReply 0 (frame 10 true 0 (wordsBytes (0x0009000400000000 :: 6 :: List.replicate 6 0))))
      (withLath (fun l => { l with pBusy := true }) ring)) (fun t => (t.lath.pBusy, t.lath.pResult, t.lath.pRes, t.lath.eKind)) =
      some (false, 1, 0x0009000400000006, 6) := by decide +kernel
/-! ## Micro-routines -/

/-- A microword: SEQ, BUS, BSRC, BYTE, LEN, DPATH, YIELD with PARK, and the low fields ABT and RES. -/
def uw (seq bus bsrc byte len dpath yield park abt res : Nat) : BitVec 128 :=
  BitVec.ofNat 128 (7 * 2 ^ 116 + seq * 2 ^ 113 + bus * 2 ^ 104 + bsrc * 2 ^ 100 + byte * 2 ^ 92 + len * 2 ^ 84 + dpath * 2 ^ 82 +
    yield * 2 ^ 63 + park * 2 ^ 62 + abt * 2 ^ 50 + res * 2 ^ 38)

def rtn0 : Routine := { num := 1, die := 63, prio := 1, ent := 0x81000123, upc := 4095, a := 0x1122334455667788, m := 0, st := .running,
                        started := true, passed := true }

/-- Thread 2 of channel 63 has this routine, on the bus when `cur`; the store holds `w` at 4095. -/
def routine (cur : Bool) (r : Routine) (w : BitVec 128) : State := modChan 63 (fun ch => { ch with
    engine := 1, cur := if cur then some 2 else none, thr := [(2, { dop := .out, rtn := some r })], cstore := [(4095, ⟨w, .good⟩)] })
  { up with pwr := { up.pwr with iso := 0 } }

/-- StepAt as a Bool. -/
def onBus (r : Routine) (s : State) : Bool := chanThere s 63 && quadUp s 63 && decide ((chan s 63).cur = some 2) &&
  decide (rtnOf s 63 2 = some r) && decide (r.wait = .none)

def stepAt (r : Routine) (w : BitVec 128) (s : State) : Bool :=
  onBus r s && decide ((fetchStore 63 false r.upc.toNat s).1 = some w) && uLegal w

theorem onBus_of {r : Routine} {s : State} (h : onBus r s = true) : OnBus 63 2 r s := by
  unfold onBus at h
  simp only [Bool.and_eq_true, decide_eq_true_eq] at h
  exact ⟨h.1.1.1.1, h.1.1.1.2, h.1.1.2, h.1.2, h.2⟩

theorem stepAt_of {r : Routine} {w : BitVec 128} {s : State} (h : stepAt r w s = true) :
    StepAt 63 2 r w s (fetchStore 63 false r.upc.toNat s).2 := by
  unfold stepAt at h
  simp only [Bool.and_eq_true, decide_eq_true_eq] at h
  exact ⟨onBus_of h.1.1, Prod.ext h.1.2 rfl, h.2⟩

/-- The microwords of the rows, with what each drives. -/
def rowWords : List (URow × BitVec 128) :=
  [(.idle, uw 0 0 0 0 0 0 0 0 0 0), (.cmd, uw 0 1 0 0x60 0 0 0 0 0 0), (.addr, uw 0 2 1 7 0 0 0 0 0 0), (.din, uw 0 3 0 0 2 0 0 0 0 0),
   (.dout, uw 0 4 0 0 2 0 0 0 0 0), (.stat, uw 0 5 0 0 0 0 0 0 0 0), (.trainOut, uw 0 6 0 0 2 0 0 0 0 0),
   (.trainIn, uw 0 7 0 0 2 0 0 0 0 0), (.soft, uw 0 0 0 0 0 2 0 0 0 0), (.end_, uw 3 0 0 0 0 0 0 0 0 0)]

/-- MicroSteps: each row's step, with nothing to hold it back. -/
theorem test_rows : (rowWords.all fun e => stepAt rtn0 e.2 (routine true rtn0 e.2) && decide (uRow e.2 = e.1) && !uYield e.2 &&
      (decide (uBus e.2 ≠ 1) || !pumpByte (routine true rtn0 e.2) 63 (srcByte rtn0 e.2)) && decide (rtn0.handoffs < 4)) = true ∧
    look (exec (.cmd 63) (routine true rtn0 (uw 0 1 0 0x60 0 0 0 0 0 0))) (fun t => ((chan t 63).pins.last, (rtnOf t 63 2).map
      (·.upc.toNat))) = some (.cmd 63 0x60, some 7) ∧
    look (exec (.addr 63) (routine true rtn0 (uw 0 2 1 7 0 0 0 0 0 0))) (fun t => (chan t 63).pins.last) = some (.addr 63 0x11) ∧
    look (exec (.stat 63 0xE0) (routine true rtn0 (uw 0 5 0 0 0 0 0 0 0 0))) (fun t => (rtnOf t 63 2).map (·.status)) = some (some 0xE0) ∧
    look (exec (.dout 63 [0xAB]) (routine true rtn0 (uw 0 4 0 0 2 0 0 0 0 0))) (fun t => (rawByte t (.cwb 63) 0, (chan t 63).pins.last)) =
      some (0xAB, .dout 63 1) ∧
    look (exec (.trainIn 63) (routine true rtn0 (uw 0 7 0 0 2 0 0 0 0 0))) (fun t => (chan t 63).pins.last) = some (.din 63 [0]) ∧
    look (exec (.softHandoff 63) (routine true rtn0 (uw 0 0 0 0 0 2 0 0 0 0))) (fun t => (rtnOf t 63 2).map (·.handoffs)) =
      some (some 1) := by decide +kernel

theorem test_routine_end :
    look (exec (.routineEnd 63 []) (routine true rtn0 (uw 3 0 0 0 0 0 0 0 0 0))) (fun t => ((chan t 63).cur, (rtnOf t 63 2).map
      (·.st), tget 0 63 (chan t 63).lastC)) = some (none, some .ended, 0) ∧
    onBus rtn0 (routine true rtn0 (uw 4 0 0 0 0 0 0 0 0 0)) = true ∧ uLegal (uw 4 0 0 0 0 0 0 0 0 0) = false ∧
    look (exec (.idle 63) (routine true rtn0 (uw 4 0 0 0 0 0 0 0 0 0))) (fun t => ((rtnOf t 63 2).map (·.endTmo), (chan t 63).reg.uncorr)) =
      some (some true, true) ∧
    (fetchStore 63 false 4094 (routine true { rtn0 with upc := 4094 } 0)).1 = none ∧
    look (exec (.routineEnd 63 []) (routine true { rtn0 with upc := 4094 } 0)) (fun t => (rtnOf t 63 2).map (·.st)) =
      some (some .ended) ∧
    gives (exec (.cmd 63) (routine true rtn0 (uw 0 0 0 0 0 0 0 0 0 0))) (routine true rtn0 (uw 0 0 0 0 0 0 0 0 0 0)) = true := by
  decide +kernel

/-- YieldPoints: discarded at the first, aborted and timed out later, yielding, parking, and going on. -/
def yw (park : Nat) : BitVec 128 := uw 0 0 0 0 0 0 1 park 5 6

theorem test_yield : (([{ rtn0 with passed := false, abortP := true }, { rtn0 with expired := true }, rtn0] : List Routine).all fun r =>
      stepAt r (yw 0) (routine true r (yw 0))) = true ∧
    look (exec (.idle 63) (routine true { rtn0 with passed := false, abortP := true } (yw 0))) (fun t => (rtnOf t 63 2).map fun r =>
      (r.st, r.code)) = some (some (.ended, 2)) ∧
    look (exec (.idle 63) (routine true { rtn0 with expired := true } (yw 0))) (fun t => (rtnOf t 63 2).map fun r =>
      (r.early, r.upc, r.abt)) = some (some (.timeout, 5, 5)) ∧
    look (exec (.idle 63) (routine true rtn0 (yw 1))) (fun t => ((chan t 63).cur, (rtnOf t 63 2).map fun r => (r.st, r.upc, r.ycount))) =
      some (none, some (.parked, 6, 1)) ∧
    mustYield (routine true rtn0 (yw 0)) 63 2 rtn0 = false ∧
    look (exec (.idle 63) (routine true rtn0 (yw 0))) (fun t => ((chan t 63).cur, (rtnOf t 63 2).map fun r => (r.st, r.upc, r.abt))) =
      some (some 2, some (.running, 7, 5)) ∧
    mustYield (modThr 63 0 (fun th => { th with dop := .out, rtn := some { rtn0 with die := 1, prio := 3, st := .ready, started := false } })
      (routine true rtn0 (yw 0))) 63 2 rtn0 = true := by decide +kernel

/-- RoutineEvents: a start and a resumption, nothing ready, parking, the two timeouts, the outcome. -/
def wait (r : Routine) : State := { routine false r 0 with time := 16000 }

theorem test_routine_events :
    (pickNext (wait { rtn0 with st := .ready, started := false }) 63).map (·.1) = some 2 ∧
    samplesDue (wait { rtn0 with st := .ready, started := false }) 63 63 = false ∧
    look (exec (.routineStart 63) (wait { rtn0 with st := .ready, started := false })) (fun t => ((chan t 63).cur, (rtnOf t 63 2).map fun r =>
      (r.st, r.started, r.startAt))) = some (some 2, some (.running, true, 16000)) ∧
    look (exec (.routineStart 63) (wait { rtn0 with st := .yielded })) (fun t => ((chan t 63).cur, (rtnOf t 63 2).map (·.st))) =
      some (some 2, some .running) ∧
    gives (exec (.routineStart 63) (wait { rtn0 with st := .parked })) (wait { rtn0 with st := .parked }) = true ∧
    look (exec (.parkExpiry 63 2) (wait { rtn0 with st := .parked, parkAt := 16000 })) (fun t => (rtnOf t 63 2).map (·.parkDue)) =
      some (some true) ∧
    gives (exec (.parkExpiry 63 2) (wait { rtn0 with st := .parked, parkAt := 16001 })) (wait { rtn0 with st := .parked, parkAt := 16001 }) =
      true := by decide +kernel

theorem test_timeouts : entTmo rtn0.ent = 16000 ∧
    look (exec (.readyTimeout 63 2) (wait rtn0)) (fun t => (rtnOf t 63 2).map (·.expired)) = some (some true) ∧
    gives (exec (.readyTimeout 63 2) (wait { rtn0 with startAt := 1 })) (wait { rtn0 with startAt := 1 }) = true ∧
    look (exec (.routineKill 63 2) { wait rtn0 with time := 32000 }) (fun t => (rtnOf t 63 2).map fun r => (r.st, r.endTmo)) =
      some (some (.ended, true)) ∧
    look (exec (.routineKill 63 2) { wait { rtn0 with wait := .pump } with time := 32000 }) (fun t => (rtnOf t 63 2).map (·.kill)) =
      some (some true) ∧
    gives (exec (.routineKill 63 2) { wait rtn0 with time := 31999 }) { wait rtn0 with time := 31999 } = true ∧
    look (exec (.outcomeWrite 63 2) (wait { rtn0 with st := .ended, code := 1, status := 0xE0, user := 3 })) (fun t =>
      ((thr t 63 2).dop, (rtnOf t 63 2).isSome)) = some (.done 0x301E0, false) ∧
    look (exec (.outcomeWrite 63 2) (wait { rtn0 with st := .ended, endTmo := true })) (fun t => (thr t 63 2).dop) =
      some (.timeout 63) ∧
    gives (exec (.outcomeWrite 63 2) (wait { rtn0 with st := .ended, decodes := 1 })) (wait { rtn0 with st := .ended, decodes := 1 }) = true := by
  decide +kernel

/-- PumpsAndTokens: a pump start admitted, held and poisoned; the next one; the guard; a token's return. -/
def pumpW : BitVec 128 := uw 0 1 0 0x10 0 0 0 0 0 0
def noTokens (r : Routine) : State := { routine true r pumpW with tok := { up.tok with total := 1, out := [⟨3, 50⟩] } }

theorem test_pumps : stepAt rtn0 pumpW (routine true rtn0 pumpW) = true ∧ uYield pumpW = false ∧
    pumpByte (routine true rtn0 pumpW) 63 (srcByte rtn0 pumpW) = true ∧
    look (exec (.cmd 63) (routine true rtn0 pumpW)) (fun t => (t.tok.out.map (·.quad), t.tok.waiting.length, (chan t 63).pins.last)) =
      some ([15], 0, .cmd 63 0x10) ∧
    look (exec (.cmd 63) (noTokens rtn0)) (fun t => (t.tok.waiting.map (·.c), (rtnOf t 63 2).map (·.wait))) =
      some ([63], some .pump) ∧
    look (exec (.cmd 63) (routine true { rtn0 with poisoned := true, abt := 9 } pumpW)) (fun t => (rtnOf t 63 2).map fun r =>
      (r.early, r.upc)) = some (some (.poison, 9)) ∧
    look (exec .pumpStartAdmit { routine true { rtn0 with wait := .pump } pumpW with
        tok := { up.tok with waiting := [⟨63, 2, 0⟩] }, time := 7 }) (fun t => (t.tok.maxWait, t.tok.out.map (·.due))) =
      some (7, [4007]) ∧
    gives (exec .pumpStartAdmit up) up = true := by decide +kernel

def guardW : BitVec 128 := uw 0 7 0 0 2 0 0 0 0 0
def guardedS (n : W64) : State := { routine true { rtn0 with wait := .guard } guardW with
  srv := { up.srv with dqEn := true, next := n }, time := 1000 }

theorem test_guard : guarded (guardedS 1200) = true ∧ guarded (guardedS 1201) = false ∧ guarded (guardedS 600) = false ∧
    gives (exec (.dqGuardRelease 63 []) (guardedS 1200)) (guardedS 1200) = true ∧
    look (exec (.dqGuardRelease 63 []) (guardedS 1201)) (fun t => (rtnOf t 63 2).map (·.wait)) = some (some .none) ∧
    look (exec .tokenReturn { noTokens rtn0 with time := 50 }) (fun t => t.tok.out.length) = some 0 ∧
    look (exec .tokenReturn { noTokens rtn0 with time := 49 }) (fun t => t.tok.out.length) = some 1 := by decide +kernel

/-- DecoderEnds: no job, and an erased one; the others' hypotheses at a job that is not erased; the queue for a
soft decoder and a decoder that is idle. -/
def job (er : Bool) : DecJob :=
  { t := 2, buf := 7, rate := 3, seed := 0, bypass := true, erased := er, iter := 1, slot := 0, die := 63, zone := 0, ptype := 0,
    sample := true }
def soft0 : Handoff := { c := 63, t := 2, buf := 7, r := 0, rate := 3, seed := 0, bypass := true, iter := 1, llr := 0, since := 3 }
def decoding (er : Bool) : State := modChan 63 (fun ch => { ch with decq := [job er] }) (routine true { rtn0 with decodes := 1 } 0)

theorem test_decoders : gives (exec (.hardDecodeEnd 63) up) up = true ∧
    (chan (decoding true) 63).decq = [job true] ∧ (job true).erased = true ∧
    (chan (decoding false) 63).decq = [job false] ∧ (job false).erased = false ∧
    freeDecoder { up with soft := { queue := [soft0] }, time := 10 } = some 0 ∧
    look (exec .softAssign { up with soft := { queue := [soft0] }, time := 10 }) (fun t => (t.soft.queue.length, t.soft.dec.map (·.1),
      t.soft.maxWait)) = some (0, [0], 7) ∧
    gives (exec .softAssign up) up = true ∧ gives (exec (.softDecodeEnd 15) up) up = true ∧
    ({ up with soft := { up.soft with dec := [(15, soft0)] } } : State).soft.dec.find? (·.1 = (15 : BitVec 4).toNat) = some (15, soft0) := by
  decide +kernel

/-- Calibration: a window's opening and a measurement at the limits; a calibration start. -/
def tbS (o b : Bool) (n : W64) : State := { modChan 3 (fun ch => { ch with engine := 1, tb := { ch.tb with open_ := o, begun := b } }) up with
  time := n }

theorem test_calibration : (tbS false true 100000).cal.period = 100 ∧
    look (exec (.calWindowOpen 3) (tbS false false 5)) (fun t => ((chan t 3).tb.open_, (chan t 3).tb.start)) = some (true, 5) ∧
    look (exec (.calWindowOpen 3) (tbS false true 100000)) (fun t => (chan t 3).tb.open_) = some true ∧
    gives (exec (.calWindowOpen 3) (tbS false true 99999)) (tbS false true 99999) = true ∧
    look (exec (.calMeasureEnd 3 2499) (tbS true true 5)) (fun t => t.cal.mfault) = some true ∧
    look (exec (.calMeasureEnd 3 5501) (tbS true true 5)) (fun t => t.cal.mfault) = some true ∧
    quadUp (tbS true true 5) 3 = true ∧ (chan (tbS true true 5) 3).tb.open_ = true ∧
    gives (exec (.calMeasureEnd 3 2500) (tbS false true 5)) (tbS false true 5) = true := by decide +kernel

def calDueS (mode : BitVec 2) (slot : BitVec 32) (full : Bool) : State :=
  let s := modQuad 0 (fun q => { q with slots := [(0, slot)] }) (modChan 3 (fun ch => { ch with
    engine := 1, calDue := true, thr := if full then (List.range 8).map fun t => (t, { run := true }) else [] }) up)
  { s with cal := { s.cal with mode := mode } }

theorem test_cal_start : engineRuns (calDueS 2 0xFFFF false) 3 = true ∧ progSlot (calDueS 2 0xFFFF false) 3 0 = 0xFFFF ∧
    look (exec (.calibrationStart 3) (calDueS 1 0x7FFF false)) (fun t => ((chan t 3).calDue, (chan t 3).thr.length)) =
      some (false, 0) ∧
    freeThread (calDueS 2 0xFFFF true) 3 = none ∧
    gives (exec (.calibrationStart 3) (calDueS 2 0xFFFF true)) (calDueS 2 0xFFFF true) = true ∧
    look (exec (.calibrationStart 3) (calDueS 2 0xFFFF false)) (fun t => ((chan t 3).calDue, (thr t 3 0).calib, (thr t 3 0).pc)) =
      some (false, true, 0x7FFF) ∧
    gives (exec (.calibrationStart 3) (calDueS 3 0xFFFF false)) (calDueS 3 0xFFFF false) = true := by decide +kernel

/-- ThreadTakesEntry: the entry in the slot of channel 0, taken by its first idle thread. -/
def entry5 : Entry :=
  { id := 5, sq := 9, stage := .inSlot, handle := 0x20000001, words := [0x0000000000000000, 0x000000000000003F, 2, 3, 4, 0xFFFFFFFF00000005, 6, 7] }
def slotted (mode : BitVec 2) : State :=
  let s := modChan 0 (fun ch => { ch with engine := 1, slot := some 5, calDue := decide (mode = 1) }) up
  { s with qe := { s.qe with store := [entry5] }, quad := [(0, { slots := [(0, 0x8123)] })], cal := { s.cal with mode := mode } }

theorem test_takes : freeThread (slotted 0) 0 = some 0 ∧ (nextEntry (slotted 0) 0).map (·.id) = some 5 ∧ engineRuns (slotted 0) 0 = true ∧
    takesNone (slotted 0) 0 = false ∧
    look (exec (.entryTakenByThread 0) (slotted 0)) (fun t => ((entryOf t 5).map (·.stage), (chan t 0).slot, (thr t 0 0).pc,
      (thr t 0 0).run)) = some (some (.running 0 0), none, 0x123, true) ∧
    look (exec (.entryTakenByThread 0) (slotted 0)) (fun t => [1, 2, 6, 8, 9, 10, 11].map fun k => (tget 0 k (thr t 0 0).regs).toNat) =
      some [0, 63, 0x2000000100000005, 7, 9, (dieIndex 0 (eCtx entry5)), (frameOf 0)] ∧
    takesNone (slotted 1) 0 = true := by decide +kernel

/-- ServoMessages: a window already entered, a fault before and after READY. -/
theorem test_servo : look (exec (.srvPublish 1200) { up with time := 1001 }) (fun t => (t.srv.next, t.srv.late)) = some (1200, true) ∧
    look (exec (.srvPublish 1200) { up with time := 1000 }) (fun t => t.srv.late) = some false ∧
    gives (exec (.servoFaultMsg 7 15) State.reset) State.reset = true ∧
    look (exec (.servoFaultMsg 7 15) up) (fun t => (t.srv.fCount, t.srv.fValid, t.srv.fLoop, t.srv.fMech, pendOf t 131075)) =
      some (1, true, 15, 7, true) := by decide +kernel
/-! ## Queue engine and admin commands -/

/-- SQ9 of 16 entries at 0x10000, on CQ3, with entries 14, 15 and 0 to fetch; BURST 2^6 entries. -/
def sq9 : QCtx := { w0 := 0x2000000000010001, w1 := 0x00C0000000000003, head := 14, tail := 1, enabled := true, created := true, cached := true }
def queues (f : QCtx → QCtx) : State := { up with
  gctl := { up.gctl with queues := true }
  qe := { up.qe with ctx := [(9, f sq9), (131075, { enabled := true, cached := true, w0 := 0x2000000000020001, w1 := 1 })], nextId := 100 } }

/-- FetchTurns: whose turn it is; a turn not cached, cut at the ring's end, and held. -/
theorem test_fetch_turn : (turnQueue (queues id)).map (fun p => (p.1, p.2.2)) = some (9, false) ∧
    (turnQueue (queues fun x => { x with w1 := 0x00D0000000000003 })).map (fun p => (p.1, p.2.2)) = some (9, true) ∧
    mayFetch (queues id) = true ∧ mayFetch { queues id with pfail := true } = false ∧ turnQueue up = none ∧
    look (exec .fetchTurn (queues id)) (fun t => (t.fm.map fun m => (m.addr, m.len), (qctx t 9).head, t.qe.lastNorm, t.qe.nextId)) =
      some ([(0x10380, 128)], 0, 9, 102) ∧
    look (exec .fetchTurn (queues fun x => { x with cached := false })) (fun t => t.fm.map fun m => (m.addr, m.len)) =
      some [(576, 32)] ∧
    gives (exec .fetchTurn { queues id with pfail := true }) { queues id with pfail := true } = true := by decide +kernel

/-- EntryChecks: entries 14 and 15 arrive, good, malformed, or with an error. -/
def arriving (w0 : W64) : State := let s := queues id; { s with
  qe := { s.qe with fetches := [⟨100, 9, 14, 2, 3⟩] }
  fm := [{ port := 0, who := .fetch 100, write := false, addr := 0, len := 128 }]
  quad := [(0, { slots := [(0, 0x8000)], known := w0 = 1, valid := [(0, true)] })] }

theorem test_entry_check : (takeFm (.fetch 100) (arriving 0)).isSome = true ∧ (arriving 0).qe.fetches[0]? = some ⟨100, 9, 14, 2, 3⟩ ∧
    look (exec (.entryCheck 0 (.words (List.replicate 16 0))) (arriving 0)) (fun t => (t.qe.store.map fun e => (e.id, e.index.toNat),
      t.qe.fetches.length, t.gctl.halted)) = some ([(100, 14), (101, 15)], 0, false) ∧
    look (exec (.entryCheck 0 (.words (List.replicate 8 0 ++ [0x400] ++ List.replicate 7 0))) (arriving 0)) (fun t =>
      (t.qe.store.map (·.id), t.gctl.hCause, t.gctl.hIndex, t.gctl.hEntry.headD 0)) = some ([100], 1, 15, 0x400) ∧
    look (exec (.entryCheck 0 .poisoned) (arriving 0)) (fun t => (t.gctl.hCause, t.gctl.hSq, t.gctl.hIndex)) = some (7, 9, 14) ∧
    look (exec (.entryCheck 0 .error) { arriving 0 with gctl := { up.gctl with halted := true } }) (fun t => t.qe.fetches.length) =
      some 0 := by decide +kernel

/-- EntryCauses: a word for each cause and for none, at the limits. -/
def ent (w0 w1 w4 w5 : W64) : Entry := { id := 0, sq := 9, words := [w0, w1, 0, 0, w4, w5, 0, 0] }

theorem test_causes : ([ent 0 0 0 0, ent (1 <<< 52) 0 0 0, ent (1 <<< 40) 0 0 0, ent (1 <<< 32) 0 0 0, ent (1 <<< 10) 0 0 0,
      ent 0 (1 <<< 24) 0 0, ent 0 0 0 (1 <<< 32), ent 0 0 (1 <<< 48) 0, ent 0 0 1 0, ent 0x000C000000000000 0 0 0,
      ent 0x0004000000000000 0 0 0, ent 0x0001000000000000 0 0 8, ent 0 0 0 1, ent 0x0005000000000000 0 0 0,
      ent 0x0005000000000000 0 0 266240, ent 0x0009000000000000 0 0 266241, ent 0x0006000000000000 0 0 8,
      ent 0x0006000000000000 0 (256 <<< 48) 8, ent 0x0006000000000000 0 (257 <<< 48) 8].map (entryCause up)) =
      [none, some 1, some 1, some 1, some 1, some 1, some 1, some 1, some 1, some 4, some 4, some 4, some 5, some 5,
       none, some 5, some 5, none, some 5] ∧
    entryCause { up with variant := .j4 } (ent 0 (32 <<< 42) 0 0) = some 3 ∧
    entryCause { up with quad := [(0, { known := true })] } (ent 0 0 0 0) = some 2 := by decide +kernel

/-- ContextTransfers: a read for a doorbell, for QE_QCTL, for ENABLE_SQ, for nobody, and one that fails; the writes. -/
def ctxDue (w : FmWho) (f : QCtx → QCtx) : State := let s := queues fun x => f { x with cached := false }; { s with
  fm := [{ port := 0, who := w, write := false, addr := 600, len := 8 }] }
def ctxWords : List W64 := [0x2000000000010000, 3, 0, 0x000E000100000000]

theorem test_context_read : (takeFm (.ctxRead 9) (ctxDue (.ctxRead 9) id)).isSome = true ∧
    look (exec (.contextReadDone false 9 (.words ctxWords)) (ctxDue (.ctxRead 9) (fun x => { x with door := [7] }))) (fun t =>
      ((qctx t 9).cached, (qctx t 9).head, (qctx t 9).tail, t.qe.lru)) = some (true, 14, 7, [9]) ∧
    look (exec (.contextReadDone false 9 (.words ctxWords)) (withQe (fun q => { q with busy := some ⟨false, 9⟩ })
      (ctxDue (.ctxRead 9) fun _ => {}))) (fun t => (t.qe.result, (qctx t 9).enabled)) = some (1, true) ∧
    look (exec (.contextReadDone false 9 (.words [0, 0, 0, 0])) (withQe (fun q => { q with busy := some ⟨false, 9⟩ })
      (ctxDue (.ctxRead 9) fun _ => {}))) (fun t => (t.qe.result, t.qe.reason)) = some (2, 6) ∧
    look (exec (.contextReadDone false 9 (.words ctxWords)) (withQe (fun q => { q with store := [{ id := 1, stage := .adminRead, words := [6, 0, 9, 0] }] })
      (ctxDue (.ctxRead 9) fun _ => { created := true }))) (fun t => ((qctx t 9).enabled, (entryOf t 1).map (·.stage))) =
      some (true, some .finish) ∧
    look (exec (.contextReadDone false 9 (.words ctxWords)) (ctxDue (.ctxRead 9) fun _ => {})) (fun t => (qctx t 9).enabled) = some false ∧
    look (exec (.contextReadDone false 9 .error) (ctxDue (.ctxRead 9) id)) (fun t => (t.gctl.hCause, t.gctl.hSq, t.gctl.hIndex)) =
      some (7, 9, 14) := by decide +kernel

theorem test_context_write : (takeFm (.ctxWrite 9) (ctxDue (.ctxWrite 9) id)).isSome = true ∧ ctxAddr (ctxDue (.ctxWrite 9) id) 9 + 24 = 600 ∧
    look (exec (.contextWriteResponse false 9 ⟨0, false⟩) (ctxDue (.ctxWrite 9) id)) (fun t => (t.fm.length, t.qe.ctxError)) =
      some (0, false) ∧
    look (exec (.contextWriteResponse false 9 ⟨0, false⟩) (ctxDue (.ctxWrite 9) fun x => { x with reading := true })) (fun t =>
      t.fm.map fun m => (m.addr, m.write)) = some [(576, false)] ∧
    look (exec (.contextWriteResponse false 9 ⟨0, true⟩) (ctxDue (.ctxWrite 9) fun x => { x with cached := true })) (fun t =>
      (t.qe.ctxError, t.qe.ctxQueue)) = some (true, 9) ∧
    look (exec (.contextWriteResponse false 9 ⟨0, true⟩) (ctxDue (.ctxWrite 9) id)) (fun t => ((qctx t 9).cached, t.qe.lru)) =
      some (true, [9]) := by decide +kernel

/-- EntryPreparation: a fragment table with an error, a zero length, a wrong sum, and good; the buffer. -/
def prepared (st : EStage) (f : Entry → Entry) : State := let s := withPool (queues id); { s with
  qe := { s.qe with store := [f { id := 7, sq := 9, stage := st, words := [0x0006000000000000, 0, 0, 0, 1 <<< 48, 64, 0, 0] }] }
  fm := [{ port := 0, who := .frag 7, write := false, addr := 0, len := 16 }] }

theorem test_fragments : (takeFm (.frag 7) (prepared .fragRead id)).isSome = true ∧
    (([(.error, 4), (.poisoned, 4), (.words [0x1000, 0], 2), (.words [0x1000, 8], 1)] : List (MemResp × BitVec 32)).all fun r =>
      decide (look (exec (.fragmentTableReadDone 7 r.1) (prepared .fragRead id)) (fun t => (entryOf t 7).map (·.result)) =
        some (some r.2))) = true ∧
    look (exec (.fragmentTableReadDone 7 (.words [0x1000, 64])) (prepared .fragRead id)) (fun t => (entryOf t 7).map fun e =>
      (e.stage, e.frags)) = some (some (.needBuf, [(0x1000, 64)])) := by decide +kernel

theorem test_entry_buffer :
    look (exec (.entryBufferAlloc 7) (prepared .needBuf id)) (fun t => (entryOf t 7).map fun e => (e.handle, e.stage)) =
      some (some (0x20000003, .dataIn)) ∧
    (alloc (poolFor 64) true (withPool5 false [])).isNone = true ∧
    look (exec (.entryBufferAlloc 7) (modPool 0 (fun p => { p with free := [] }) (prepared .needBuf id))) (fun t =>
      ((entryOf t 7).map (·.stage), t.hawk.waiting.length)) = some (some .waitBuf, 1) ∧
    look (exec (.entryBufferAlloc 7) (withPwr (fun p => { p with ret := true, wakeEn := 2 }) (prepared .needBuf id))) (fun t =>
      (entryOf t 7).map (·.stage)) = some (some .waitStg) ∧
    look (exec (.entryBufferAlloc 7) (withPwr (fun p => { p with ret := true }) (prepared .needBuf id))) (fun t =>
      (entryOf t 7).map fun e => (e.stage, e.status)) = some (some (.finish, 9)) ∧
    gives (exec (.entryBufferAlloc 7) (prepared .ready id)) (prepared .ready id) = true := by decide +kernel

/-- EntryDispatch: elsewhere and not admitted, the quad asleep, the channel stopped, the slot's three answers. -/
def dispatching (rem : Bool) (v : Bool) : State := { prepared .ready (fun e => { e with isRem := rem, words := [0, 0, 0, 0, 0, 0, 0, 0] }) with
  ch := [(0, { engine := 1 })], quad := [(0, { known := true, valid := [(0, v)] })] }

theorem test_dispatch :
    look (exec (.entryDispatch 7) (dispatching true true)) (fun t => (entryOf t 7).map fun e => (e.stage, e.status)) =
      some (some (.finish, 0x0A)) ∧
    admitted { dispatching true true with lath := { up.lath with nodes := [(0, { st := 1 })] } } 0 ≠ none ∧
    look (exec (.entryDispatch 7) (withPwr (fun p => { p with iso := 0xFFFFF0, wakeEn := 16 }) (dispatching false true))) (fun t =>
      (entryOf t 7).map (·.stage)) = some (some .waitWake) ∧
    look (exec (.entryDispatch 7) (withPwr (fun p => { p with iso := 0xFFFFF0 }) (dispatching false true))) (fun t =>
      (entryOf t 7).map (·.status)) = some (some 9) ∧
    gives (exec (.entryDispatch 7) { dispatching false true with ch := [] }) { dispatching false true with ch := [] } = true ∧
    look (exec (.entryDispatch 7) (dispatching false false)) (fun t => (t.gctl.halted, t.gctl.hCause)) = some (true, 2) ∧
    look (exec (.entryDispatch 7) (dispatching false true)) (fun t => ((entryOf t 7).map (·.stage), (chan t 0).slot)) =
      some (some .inSlot, some 7) ∧
    look (exec (.entryDispatch 7) (modChan 0 (fun ch => { ch with slot := some 4 }) (dispatching false true))) (fun t =>
      ((entryOf t 7).map (·.stage), (chan t 0).slot)) = some (some .ready, some 4) := by decide +kernel

/-- CompletionPosting, CompletionWrites: no room, covered by a batch, posted, and the write's answers. -/
def finished (w0 : W64) (st : Byte) : State := let s := prepared .finish (fun e => { e with words := [w0, 0, 0, 0, 0, 0, 0, 0], status := st, index := 14, cq := 3 }); { s with fm := [] }

theorem test_completion : xferOf (finished 0 0) (.entry 7) = none ∧
    gives (exec (.completionPost 7) (withQe (fun q => { q with held := 1024 }) (finished 0 0))) (withQe (fun q => { q with held := 1024 })
      (finished 0 0)) = true ∧
    look (exec (.completionPost 7) (finished 0x4000000000 0)) (fun t => (t.qe.cov.map fun c => (c.index, c.passed.isSome), t.fm.length)) =
      some ([(14, true)], 0) ∧
    look (exec (.completionPost 7) (finished 0x40FFFF0000 1)) (fun t => (t.qe.flying.map fun p => (p.cq, p.cid, p.status),
      t.fm.map fun m => (m.addr, m.len))) = some ([(3, 0xFFFF, 1)], [(0x20000, 16)]) ∧
    look (exec (.completionPost 7) (withQe (fun q => { q with held := 1024 }) (modEntry 7 (fun e => { e with held := true })
      (finished 0 0)))) (fun t => (t.qe.held, t.qe.flying.length)) = some (1023, 1) := by decide +kernel

def writing : State := withQe (fun q => { q with
  flying := [{ cq := 3, sq := 9, cid := 1, result := 0, status := 0, index := 14 }] })
  { modQctx 131075 (fun x => { x with tail := 1 }) (queues id) with
    fm := [{ port := 0, who := .completion 3, write := true, addr := 0x20000, len := 16, data := List.replicate 16 1 }] }

theorem test_completion_write : (takeFmAt (.completion 3) 0 writing).isSome = true ∧
    (takeNth (fun (p : Cpl) => decide (p.cq = 3)) 0 writing.qe.flying).isSome = true ∧
    look (exec (.completionWriteResponse 3 ⟨0, true⟩) writing) (fun t => (t.gctl.hCause, t.gctl.hSq, t.gctl.hIndex)) = some (8, 9, 14) ∧
    look (exec (.completionWriteResponse 3 ⟨0, false⟩) writing) (fun t => ((qctx t 131075).visible, pendOf t 3)) = some (1, true) := by
  decide +kernel

/-- BatchesAndIndexes: a batch full, one late, one not, none; and each step of an index block. -/
def batching (n time_ : Nat) (now : W64) : State := modQctx 131075 (fun x => { x with
    w1 := nat64 (n * 2 ^ 48 + time_ * 2 ^ 32) }) (withQe (fun q => { q with
      cov := [{ sq := 9, index := 14, cid := 5, order := 3, passed := some 0, cq := 3 }] }) { finished 0 0 with time := now })

theorem test_batch : passedCov (batching 1 5 0) 9 ≠ [] ∧ batchMax (batching 1 5 0) 9 = 1 ∧ (oldestOf (batching 2 5 0) 9).isSome = true ∧
    look (exec (.batchPost 9) (batching 1 5 0)) (fun t => t.qe.flying.map fun p => (p.cq, p.cid, p.batch, p.front)) =
      some [(3, 5, true, 14)] ∧
    gives (exec (.batchTimeExpiry 9) (batching 2 5 4999)) (batching 2 5 4999) = true ∧
    look (exec (.batchTimeExpiry 9) (batching 2 5 5000)) (fun t => t.qe.flying.length) = some 1 ∧
    look (exec (.batchPost 9) (batching 2 0 0)) (fun t => t.qe.flying.length) = some 1 ∧
    gives (exec (.batchPost 9) (queues id)) (queues id) = true ∧ gives (exec (.batchTimeExpiry 9) (queues id)) (queues id) = true := by
  decide +kernel

def withIdx (f : Idx → Idx) (w : Option FmWho) : State := { queues (fun x => { x with w2 := 0x8000, idx := f x.idx }) with
  fm := w.toList.map fun w => { port := 0, who := w, write := true, addr := 0x8000, len := 8 } }

theorem test_index :
    look (exec (.indexPublish false 9 .issue) (withIdx (fun i => { i with moved := true }) none)) (fun t => (t.fm.map (·.addr),
      (qctx t 9).idx)) = some ([0x8000], { flying := true }) ∧
    gives (exec (.indexPublish false 9 .issue) (withIdx id none)) (withIdx id none) = true ∧
    (takeFm (.index 9) (withIdx id (some (.index 9)))).isSome = true ∧
    look (exec (.indexPublish false 9 (.response true)) (withIdx (fun i => { i with flying := true, moved := true }) (some (.index 9))))
      (fun t => (t.qe.idxError, t.fm.length, (qctx t 9).idx)) = some (true, 1, { flying := true }) ∧
    look (exec (.indexPublish false 9 (.response false)) (withIdx (fun i => { i with flying := true }) (some (.index 9))))
      (fun t => (t.fm.length, (qctx t 9).idx)) = some (0, {}) ∧
    look (exec (.indexPublish false 9 (.response false)) (modQctx 9 (fun x => { x with stops := [{ head := 5, upTo := 0, addr := 0x8000 }], enabled := false })
      (withIdx (fun i => { i with flying := true, final := true, last := true }) (some (.index 9))))) (fun t => ((qctx t 9).stops, t.fm.length)) =
      some ([], 2) := by decide +kernel

/-- AdminRefusals, AdminCommands: admin command `op` on queue `q` at the front of SQ0, in quarantine mode or not. -/
def adminS (op : Nat) (q : W64) (m : Bool) (f : QCtx → QCtx) : State := let s := queues f; { s with
  gctl := { s.gctl with qmode := m }
  qe := { s.qe with store := [{ id := 3, stage := .admin, words := [nat64 op, 0, q, 0xABC0000000000000, 0x2000000000010000, 3, 0, 0] },
    { id := 7, sq := 9, stage := .ready, words := [0x00000000, 0, 0, 0, 0, 0, 0, 0] }] } }

/-- What the admin command left: its status and result, or nothing while it waits. -/
def adminGives (i : Instr) (s : State) : Option (Option (EStage × Byte × BitVec 32)) :=
  look (exec i s) fun t => (entryOf t 3).map fun e => (e.stage, e.status, e.result)

theorem test_admin_refusals : (adminNext (adminS 1 9 false id)).map (·.id) = some 3 ∧
    adminGives .adminNop (adminS 0 0 false id) = some (some (.finish, 0, 0)) ∧
    (adminTable.all fun a => gives (exec a.2 (adminS 0 9 true id)) (adminS 0 9 true id) &&
      gives (exec a.2 (queues id)) (queues id) &&
      decide (adminGives a.2 (adminS a.1 0 true id) = some (some (.finish, 0x12, 2))) &&
      (a.1 = 7 || decide (adminGives a.2 (adminS a.1 9 false id) = some (some (.finish, 0x12, 1))))) = true ∧
    (([(3, .deleteSq), (4, .deleteCq), (5, .disableSq), (6, .enableSq), (8, .setArb)] : List (Nat × Instr)).all fun a =>
      decide (adminGives a.2 (adminS a.1 9 true fun x => { x with created := false }) = some (some (.finish, 0x12, 3)))) = true ∧
    adminGives .createSq (adminS 2 9 true id) = some (some (.finish, 0x12, 3)) ∧
    adminGives .createCq (adminS 1 3 true id) = some (some (.finish, 0x12, 3)) := by decide +kernel

theorem test_admin :
    adminGives .createSq (adminS 2 9 true fun _ => {}) = some (some (.finish, 0, 0)) ∧
    adminGives .createSq (adminS 2 9 true fun x => { x with stops := [{ head := 5, upTo := 0, addr := 0 }], enabled := false }) = some (some (.finish, 0, 0)) ∧
    (enableFault 10 [0x2000000000010000, 4, 0, 0] (adminS 2 10 true id)) = some 4 ∧
    look (exec .createSq (adminS 2 10 true id)) (fun t => ((qctx t 10).enabled, (qctx t 10).created, t.fm.map (·.len))) =
      some (true, true, [32]) := by decide +kernel

theorem test_admin_delete :
   adminGives .deleteSq (adminS 3 9 true id) = some (some (.deleting, 0, 0)) ∧
    adminGives .deleteSq (adminS 3 9 true fun x => { x with enabled := false }) = some (some (.deleting, 0, 0)) ∧
    adminGives .deleteCq (modQctx 131075 (fun x => { x with created := true }) (adminS 4 3 true id)) = some (some (.finish, 0x12, 5)) ∧
    adminGives .deleteCq (modQctx 131076 (fun x => { x with created := true }) (adminS 4 4 true id)) = some (some (.finish, 0, 0)) := by decide +kernel

theorem test_admin_disable :
    adminGives .disableSq (adminS 5 9 true fun x => { x with enabled := false }) = some (some (.finish, 0, 14)) ∧
    look (exec .disableSq (adminS 5 9 true id)) (fun t => ((qctx t 9).enabled, (entryOf t 3).map fun e => (e.stage, e.result))) =
      some (false, some (.finish, 14)) := by decide +kernel

theorem test_admin_others :
    adminGives .enableSq (adminS 6 9 true id) = some (some (.finish, 0x12, 3)) ∧
    adminGives .enableSq (adminS 6 9 true fun x => { x with enabled := false, stops := [{ head := 5, upTo := 0, addr := 0 }] }) = some (some (.finish, 0, 0)) ∧
    adminGives .enableSq (adminS 6 9 true fun x => { x with enabled := false, cached := false }) = some (some (.adminRead, 0, 0)) := by decide +kernel

theorem test_admin_arb :
   look (exec .setArb (adminS 8 9 true id)) (fun t => (qctx t 9).w1) = some 0xABC0000000000003 ∧
    adminGives .setArb (adminS 8 9 true fun x => { x with cached := false }) = some (some (.adminRead, 0, 0)) ∧
    look (exec .abort (adminS 7 9 false id)) (fun t => ((entryOf t 3).map (·.status), (entryOf t 7).map fun e => (e.stage, e.status))) =
      some (some 0, some (.finish, 8)) ∧
    adminGives .abort (adminS 7 8 false id) = some (some (.finish, 0x20, 0)) := by decide +kernel

/-! ## Well-formedness: an ill-formed term for each check -/

theorem test_wf : ([.registerWrite 0x1000000 .full 0, .registerWrite 0 .burst 0, .calRecordWrite 20512 .full 0, .hawkAllocRead 6 .full,
      .hawkFreeWrite 6 .full 0, .hawkPoolCfgWrite 6 .full 0, .poolWithholdEnd 6, .prmReservedCmd 8 .full,
      .registerColdReset true .other, .registerWarmReset .burst, .haltEvidenceClear .other, .holdoffExpiry 2064, .pwrGrantRise 0,
      .pwrGrantFall 20, .quiescence 0, .entryCheck 0 (.words []), .contextReadDone true 0 (.words []),
      .fragmentTableReadDone 0 (.words (List.replicate 513 0)), .dmaDescriptorReadDone (.entry 0) (.words [])] : List Instr).any wf =
      false := by decide +kernel

theorem test_wf_bursts : ([.dout 0 (List.replicate 4929 0), .trainOut 0 (List.replicate 4929 0), .routineEnd 0 (List.replicate 4929 0),
      .dqGuardRelease 0 (List.replicate 4929 0), .dmaDataResponse (.entry 0) 0 0 (.read (List.replicate 4097 0) []),
      .dmaDataResponse (.entry 0) 0 0 (.read [] (List.replicate 66 false))] : List Instr).any wf = false := by decide +kernel

theorem test_wf_lath : (([.lathPortEnable 3 .full 0, .lathPortStateRead 3 .full, .linkTrainStep 3 true, .linkTrainRetry 3, .lathNoLink 3] : List Instr) ++
      ([.lathRequest, .lathData, .lathAccept, .lathComplete, .lathReject, .lathAbort, .lathAbortResult, .lathHeartbeat, .lathProbe,
       .lathProbeReply, .lathHello, .lathLink, .lathFrameForward] : List (BitVec 2 → Frame → Instr)).flatMap (fun i => [i 3 (frame 1 false 0 []),
         i 0 { frame 1 false 0 [] with chunks := 1 }, i 0 (frame 1 false 0 (List.replicate 4160 0))])).any wf = false := by decide +kernel
/-! ## Windows, delays and the library -/

/-- FetchTurns: the conditions of its first part. -/
theorem witness_fetch_turn : (queues id).gctl.queues = true ∧ (queues id).gctl.halted = false ∧ (queues id).pfail = false ∧
    storeUsed (queues id) + storeDue (queues id) < 4096 ∧
    ((queues id).qe.ctx.any fun e => decide (e.1 < 131072) && e.2.enabled && decide (pendingOf e.2 ≠ 0)) = true ∧
    ((queues id).qe.ctx.all fun e => e.2.cached) = true ∧ pendingOf sq9 = 3 := by decide +kernel

/-- MoveGoesOn: the second word of a MOVE out of a stream, into one, and from one to the other. -/
theorem test_move_goes_on :
    look (again (.move 0 0) (moveS 0x3000000000000001 0 16 [⟨7, false, false⟩, ⟨8, true, false⟩])) (fun t =>
      ((thr t 0 0).pc.toNat, rawByte t (.scr 0) 0, rawByte t (.scr 0) 8, (strm t 1).popLock)) = some (1, 7, 8, none) := by decide +kernel

theorem test_move_into_stream :
    look (again (.move 0 0) (modStrm 2 (fun x => { x with credits := 2, words := [] }) (moveS 0 0x3000000000000002 16 []))) (fun t =>
      ((thr t 0 0).pc.toNat, (strm t 2).words.map (·.w), (strm t 2).pushLock)) = some (1, [1, 0x0200000000000000], some (0, 0)) := by decide +kernel

theorem test_move_across :
    look (again (.move 0 0) (modStrm 2 (fun x => { x with credits := 2, words := [] })
      (moveS 0x3000000000000001 0x3000000000000002 16 [⟨7, false, false⟩, ⟨8, true, false⟩]))) (fun t =>
      ((thr t 0 0).pc.toNat, (strm t 2).words.map (·.w))) = some (1, [7, 8]) := by decide +kernel

/-- EmptyQueueTick: a state in which no Lath frame waits. -/
theorem witness_lath_quiet : LathQuiet up := by
  constructor <;> decide +kernel

/-- ThreadWaits, RoutineEvents: a record that is no longer VALID when its DOP would start. -/
theorem test_cal_bad :
    look (exec (.dopw 0 0) (withThread (wR 0x61 5 0 0 0) { dop := .calBad 63 })) eventOf = some (3, 0, 63) ∧
    calOk (wait { rtn0 with ent := 0xC1000123, st := .ready, started := false }) 63 63 = false ∧
    look (exec (.routineStart 63) (wait { rtn0 with ent := 0xC1000123, st := .ready, started := false })) (fun t =>
      ((chan t 63).cur, (thr t 63 2).dop, (rtnOf t 63 2).isSome)) = some (none, .calBad 63, false) := by decide +kernel

/-- BootSteps, PatchAndFillEnd, Calibration: a boot that must wait for the supply, a patch at a boundary, a swap that
holds the next window back. -/
theorem test_waiting :
    (let s := { fuses 0 .journal with prm := { State.reset.prm with tripped := true } }
     bootPulses s && gives (exec .bootJournal s) s) = true ∧
    (chan (leaveBus 3 (modReg 3 (fun r => { r with pState := 1 }) up)) 3).reg.pState = 2 ∧
    (let s := modChan 3 (fun ch => { ch with tb := { ch.tb with pend := some 5 } }) (tbS false false 5)
     gives (exec (.calWindowOpen 3) s) s) = true := by decide +kernel

/-- PrimerWindows: a byte that fails is not read by an access that does not cover it. -/
theorem test_primer_cover :
    look (exec (.primerWindowRead 9 .high) (prm (fun p => { p with arr := [(9, 0xFE <<< 64)] }))) (fun t => (t.port.resp, t.prm.parity)) =
      some ([{ ok := true }], false) ∧
    look (exec (.primerWindowRead 9 .low) (prm (fun p => { p with arr := [(9, 0xFE <<< 64)] }))) (fun t => (t.port.resp, t.prm.parity)) =
      some ([{ ok := false }], true) := by decide +kernel

/-- CalibrationSet: an 80 ns delay on a line of 2,790 laps in 10 µs (R38), and the end code of the ladder of taps. -/
theorem test_convert : convert 2790 80000 1 = ⟨22, 174⟩ ∧ convert 2790 0 1 = ⟨0, 0⟩ ∧
    (phyOf up 3 {} false).vref = 550 ∧ driveOhm 4 = 60 ∧ odtOhm 7 = none ∧ vrefMilli 100 = 800 ∧ dccUnits (-40) = -40 := by
  decide +kernel

/-- R193, R191: 3,800 to 4,600 passed and 4,800 not; nothing passed; the eye at IFACE 3 and 4,000 MT/s. -/
theorem test_qualify : qualify true (· ≤ 4600) = some (3, 4600) ∧ qualify true (fun _ => false) = some (2, 3600) ∧
    qualify false (fun _ => true) = none ∧ windowOk 3 4000 (0, 88) = true ∧ windowOk 3 4000 (0, 87) = false ∧
    windowOk 2 4000 (0, 75) = true := by decide +kernel

/-- R278: the header of the sweep example and its first word. -/
theorem test_sweep_packet :
    sweepPacket 780 5 2 1 0x16405 9 [(-8, 70110), (-4, 72480), (0, 73900), (4, 74420), (8, 78960)] =
      [0x100530C521016405, 9, 0xF8000000000111DE, 0xFC00000000011B20, 0x00000000000120AC, 0x04000000000122B4, 0x0800000000013470] := by
  decide +kernel
/-! ## Programs, commits and the register port, at the edges -/

/-- PickFollowsRule: of sources 5, 9 and 70 of one priority, listed in no order, the first after LASTSRC. -/
def three (last : Nat) : State := { up with ic := { up.ic with
  proc := [(0, { enable := true })], prio := [(0, 0x3000300000), (4, 0x3000000)], mask := [(0, 0), (1, 0)],
  target := [(1, 0x10000), (2, 0x10000), (17, 0x100000000)], pend := [(1, 0x40), (0, 0x220)], lastSrc := [(3, last)] } }

theorem test_pick : ([132095, 0, 5, 9, 69, 70].map fun n => pickSource (three n)) =
    [some 5, some 5, some 9, some 70, some 70, some 5] := by decide +kernel

/-- AluWords: the last field value that is defined and the first that is reserved, and the reserved opcodes. -/
theorem test_alu_words :
    ([wR 0x00 5 1 2 1, wR 0x3A 5 1 2 256, wR 0x14 5 1 1 0, wR 0x28 5 1 0 1, wI 0x01 5 1 1 0, wI 0x22 5 1 8192 0,
      wI 0x0B 5 1 0 64, wI 0x11 5 1 0 0x80000000, wI 0x17 5 1 4033 0, wI 0x18 5 1 4096 0, wI 0x17 5 1 0 1, wL 5 2 0, wL 5 4 0].any legal) =
      false ∧
    ([wI 0x0B 5 1 0 63, wI 0x17 5 1 4032 0, wI 0x17 5 1 63 0, wL 31 1 0xFFFFFFFFFFFF].all legal) = true ∧
    (([0x19, 0x1F, 0x23, 0x27, 0x29, 0x2E, 0x3C, 0x3F] : List Nat).any fun n => legal (wR n 0 0 0 0)) = false := by decide +kernel

/-- ScratchAccess, MoveWordEffect: an upset of the path marks the chunk written, once, and a MOVE does not clear it. -/
def upset (s : State) : State := { s with intg := { s.intg with upset := 4 } }

theorem test_upset :
    (let t := writesScratch 0 0 72 (lowBytes 8 5) (upset up)
     (markOf t (.scr 0) 127, markOf t (.scr 0) 128, rawByte t (.scr 0) 72, t.intg.upset, t.intg.count)) = (true, false, 5, 0, 1) ∧
    (putWord 0 0 (.scr 0) 64 56 false (lowBytes 8 5) (upset up)).1 = true ∧
    markOf (putWord 0 0 (.scr 0) 64 56 false (lowBytes 8 5) (upset up)).2 (.scr 0) 64 = true := by decide +kernel

/-- ChannelCommit: a CHANGE that counts, the same again, and a REVALIDATE. -/
def chWords : List W64 := [0, 0, 0, 0x010203] ++ List.replicate 5 0 ++ [7] ++ List.replicate 29 0 ++ [9] ++ List.replicate 24 0
def drifted : State := modChRec 0 (fun r => { r with st := 2, drift := true, nowA := 3, nowB := 4 }) up

theorem test_channel_commit : (chan drifted 0).tb.pend = none ∧ chWords.length = 64 ∧
    (let k := commitCh 0 true chWords drifted
     (k.1, (chRec k.2 0).st, (chRec k.2 0).drift, (chRec k.2 0).commits) = (true, 1, false, 1) ∧
     ((chRec k.2 0).trainA, (chRec k.2 0).trainB, (chRec k.2 0).phy, tget 0 1 (chRec k.2 0).dly) = (3, 4, 0x010203, 7) ∧
     (tget 0 31 (chRec k.2 0).dly, k.2.cal.count, pendOf k.2 131078) = (9, 1, true) ∧
     (commitCh 0 true chWords k.2).1 = false ∧ ((commitCh 0 true chWords k.2).2.cal.count) = 1) ∧
    (commitCh 0 false chWords drifted).1 = false ∧ (chRec (commitCh 0 false chWords drifted).2 0).phy = 0 := by decide +kernel

/-- DopStart: the PRIO of R210, that of a calibration, and an image that has another: not the library. -/
def libThread (op : BitVec 10) (cal : Bool) : State :=
  modQuad 0 (fun q => { q with library := true }) (modThr 0 0 (fun th => { th with slot := op, calib := cal }) (dopAt 1))

theorem test_dop_prio : libRun (libThread 0x010 false) 0 (thr (libThread 0x010 false) 0 0) = some .read ∧
    dopPrio .read 2 = true ∧ dopPrio .read 3 = true ∧ dopPrio .read 1 = false ∧ (quad (dopAt 1) 0).library = false ∧
    (let s := acceptDop 0 0 (wD 1 2 2 5) 3 0 0 0 (libThread 0x010 false)
     ((quad s 0).library, (thr s 0 0).rtn.map (·.prio)) = (true, some 2)) ∧
    (let s := acceptDop 0 0 (wD 1 2 1 5) 3 0 0 0 (libThread 0x010 false)
     ((quad s 0).library, (thr s 0 0).rtn.map (·.prio)) = (false, some 1)) ∧
    (let s := acceptDop 0 0 (wD 1 2 1 5) 3 0 0 0 (libThread 0x010 true)
     ((quad s 0).library, (thr s 0 0).rtn.map (·.prio)) = (true, some 0)) := by decide +kernel

/-- EndEffect: a program that has ended, with DIR of its entry, a handle in its frame, and `n` places taken. -/
def endWords (dir : Nat) : List W64 :=
  [nat64 (dir * 2 ^ 50 + (if dir = 0 then 0 else 2 ^ 48)), 0, 0, 0, 0x1000, (if dir = 0 then 0 else 64), 0, 0]
def ended (dir n : Nat) (h : Byte) (th : Thread) : State := { modChan 0 (fun ch => { ch with
    thr := [(0, { th with run := true, entry := some 7, ending := some (0x10, some 77) })],
    scratch := { bytes := (if h = 0 then [] else [(0x802C, h), (0x802F, 0x20)]) } }) (withPool (prog 0 [])) with
  qe := { up.qe with held := n, store := [{ id := 7, sq := 9, stage := .running 0 0, words := endWords dir }] } }

set_option maxRecDepth 20000 in
theorem test_end_effect :
    (thr (ended 0 0 0 {}) 0 0).ending = some (0x10, some 77) ∧ (ended 0 0 0 {}).gctl.halted = false ∧
    look (exec (.endProg 0 0) (ended 0 0 1 {})) (fun t => (decide (thr t 0 0 = {}), (entryOf t 7).map fun e => (e.stage, e.status, e.result),
      (pool t 0).free)) = some (true, some (.finish, 0x10, 77), [3, 1]) := by decide +kernel

set_option maxRecDepth 20000 in
theorem test_end_effect_2 :
    look (exec (.endProg 0 0) (ended 2 1023 1 {})) (fun t => ((entryOf t 7).map fun e => (e.stage, e.handle, e.held), t.qe.held, t.xfer.length)) =
      some (some (.dataOut, 0x20000001, true), 1024, 1) := by decide +kernel

set_option maxRecDepth 20000 in
theorem test_end_effect_3 :
    look (exec (.endProg 0 0) (ended 2 0 0 {})) (fun t => (entryOf t 7).map (·.stage)) = some (some .finish) ∧
    gives (exec (.endProg 0 0) (ended 0 1024 0 {})) (ended 0 1024 0 {}) = true ∧
    gives (exec (.endProg 0 0) (ended 0 0 0 { dop := .out })) (ended 0 0 0 { dop := .out }) = true := by decide +kernel

theorem test_end_waits :
    look (exec (.endProg 0 0) (ended 0 0 0 { calib := true })) (fun t => decide (thr t 0 0 = {})) = some true ∧
    (let s := modStrm 2 (fun x => { x with pushLock := some (0, 0) }) (ended 0 0 0 {})
     gives (exec (.endProg 0 0) s) s = true ∧
     look (exec (.endProg 0 0) (modStrm 2 (fun x => { x with credits := 1, enable := true }) s)) (fun t =>
       ((strm t 2).words, (strm t 2).pushLock, (strm t 2).forcedEnd, (thr t 0 0).run)) =
       some ([⟨0, true, false⟩], none, true, false)) := by decide +kernel

/-- QueueControl: QE_QCTL while a command of it is in progress. -/
theorem test_qctl_busy : (let s := withQe (fun q => { q with busy := some ⟨false, 4⟩ }) (withQueue 9 true true)
    ([.qeQctlEnable false 9 .full, .qeQctlDisable false 9 .full, .qeQctlReserved true 0 .full] : List Instr).all fun i =>
      agrees (exec i s) (wrote (atPort s))) = true := by decide +kernel

/-- StreamFreeze: a servo fault with POST 0 and 8 and with a packet in progress, the end marks that follow, and FROZEN. -/
def s0 (f : Strm → Strm) : State := withStream 0 f

theorem test_freeze :
    ([fun x : Strm => { x with post := 0 }, id, fun x : Strm => { x with post := 0, partLen := 1 }, fun x : Strm => { x with freezeEn := false },
      fun x : Strm => { x with frozen := true }].map fun f => look (exec (.servoFaultMsg 1 2) (s0 f)) fun t =>
        ((strm t 0).frozen, (strm t 0).freezing, (strm t 0).left.toNat)) =
      [some (true, false, 0), some (false, true, 8), some (false, true, 0), some (false, false, 0), some (true, false, 0)] ∧
    ([(2, false), (2, true), (1, true), (0, true)].map fun (p : Nat × Bool) => look (exec (.streamWordIn 0 7 p.2) (s0 fun x =>
        { x with freezing := true, left := BitVec.ofNat 8 p.1 })) fun t =>
        ((strm t 0).frozen, (strm t 0).freezing, (strm t 0).left.toNat, (strm t 0).words.length)) =
      [some (false, true, 2, 1), some (false, true, 1, 1), some (true, false, 0, 1), some (true, false, 0, 1)] := by decide +kernel

theorem test_frozen : grants (s0 fun x => { x with frozen := true }) 0 = false ∧
    look (exec (.streamWordIn 0 7 true) (s0 fun x => { x with frozen := true })) (fun t => ((strm t 0).words, (strm t 0).discarded)) =
      some ([], 1) ∧
    look (exec (.registerWrite 0x480018 .full 0x20) (s0 fun x => { x with frozen := true, credits := 0 })) (fun t =>
      ((strm t 0).frozen, (strm t 0).words, (strm t 0).credits)) = some (false, [], 256) := by decide +kernel

/-- StreamInput, ColdResets, WarmReset: credits that a reset withdraws, and the words that come against them. -/
theorem test_late :
    look (exec (.registerColdReset true .full) (withStream 1 id)) (fun t => ((strm t 1).late, (strm t 1).credits, t.gctl.coldAt)) =
      some (1, 0, some 0) ∧
    look (exec (.registerWarmReset .full) (withStream 1 (fun x => { x with late := 2 }))) (fun t => ((strm t 1).late, (strm t 1).credits)) =
      some (3, 0) ∧
    grants (modStrm 1 (fun x => { x with late := 2 }) up) 1 = false ∧
    look (exec (.streamWordIn 1 7 true) (modStrm 1 (fun x => { x with late := 2 }) up)) (fun t => ((strm t 1).late, (strm t 1).discarded,
      (strm t 1).words, (strm t 1).offer)) = some (1, 1, [], none) ∧
    portFree { up with gctl := { up.gctl with coldAt := some up.time } } = true := by decide +kernel
/-! ## Power, Primer, Lath, micro-routines and queues, at the edges -/

/-- PowerRequests, PowerUpWork: a power-up while a grant is still to fall, that fall, and RET_GNT that only falls. -/
theorem test_stale_grant :
    (let s := granted 19 up
     Spec.gnt s 19 = true ∧ Spec.req s 19 = false ∧ domSt s 19 ≠ .draining ∧ changesOn 18 (flipOn 18 s) s = true ∧
     look (exec (.pwrDomainOn .full (flipOn 18 s)) s) (fun t => (domSt t 18, bit t.pwr.want 18, bit t.pwr.req 18)) =
       some (.requested, true, false) ∧
     look (again (.pwrGrantFall 19) { autoWake 18 s with pwr := (autoWake 18 s).pwr }) (fun t => (bit t.pwr.want 18, bit t.pwr.req 18)) =
       some (false, true)) ∧
    look (exec (.retGrant false) (withPwr (fun p => { p with retGnt := true }) up)) (fun t => (t.pwr.retGnt, domSt t 1)) =
      some (false, .on) := by decide +kernel

/-- PrimerCommands, JournalJobs: a record at the last free word, at the first kept one with an intent to carry, and beyond. -/
def journal (n : Nat) (op : List (Nat × Nat)) : State := at' 0x10000 fun p => { p with jPos := n, jSeq := 9, jOpen := op }

theorem test_journal_move :
    look (exec (.prmErase .low) (journal 238 [])) (fun t => t.prm.op.map fun o => (o.jobs.length, o.cur.map (·.1))) =
      some (some (3, some (256 * 4092 + 238))) ∧
    look (exec (.prmErase .low) (journal 239 [(7, 256 * 4093 + 5)])) (fun t => t.prm.op.map fun o => (o.jobs.take 4, o.held, o.again)) =
      some (some ([.record 6 0 7 true, .record 5 0 4093 true, .erase 4093, .jhead 4093], 0, some 9)) ∧
    look (exec (.prmErase .low) (journal 255 [])) (fun t => t.prm.op.map fun o => o.jobs.take 3) =
      some (some [.record 5 0 4093 true, .erase 4093, .jhead 4093]) ∧
    look (exec (.prmErase .low) (journal 256 [])) (fun t => (t.prm.op, t.prm.result)) = some (none, 7) ∧
    nextJournal (withPrm (fun p => { p with jSector := 4095 }) up) = 4092 := by decide +kernel

def jobRuns (o : POp) : State := prm fun p => { p with op := some o, jPos := 239, jSeq := 9, arr := [(256 * 4093 + 4, 5)] }

set_option maxRecDepth 20000 in
theorem test_journal_jobs :
    look (exec (.prmPulseEnd true) (jobRuns { kind := .erase 5, jobs := [.erase 4093, .jhead 4093] })) (fun t => (t.prm.arr,
      t.prm.op.map fun o => (o.jobs, o.cur.map (·.1)))) = some ([], some ([.jhead 4093], some (256 * 4093))) := by decide +kernel

set_option maxRecDepth 20000 in
theorem test_journal_jobs_2 :
    look (exec (.prmPulseEnd true) (jobRuns { kind := .erase 5, jobs := [.jhead 4093, .record 1 0 5 false], cur := some (256 * 4093, 3), held := 1 }))
      (fun t => (t.prm.jSector, t.prm.jPos, t.prm.op.map fun o => (o.tries, o.cur.map (·.1)))) =
      some (4093, 2, some (1, some (256 * 4093 + 1))) := by decide +kernel

set_option maxRecDepth 20000 in
theorem test_journal_jobs_3 :
    look (exec (.prmPulseEnd true) (jobRuns { kind := .erase 5, jobs := [.record 5 0 4093 true, .erase 4093], cur := some (256 * 4092 + 239, 3) }))
      (fun t => (prmRaw t (256 * 4092 + 239), t.prm.op.map fun o => (o.jobs, o.cur))) = some (3, some ([.erase 4093], none)) := by decide +kernel

/-- JournalJobs: a record whose word failed is written again at the next word with its SEQ. -/
theorem witness_again : (let s := withPrm (fun p => { p with jPos := 238, jSeq := 10, op := some {
      kind := .erase 5, jobs := [.record 2 0 5 false], cur := some (256 * 4092 + 237, 3), pulses := 7, tries := 1, again := some 9 } }) (prm id)
    (s.prm.tripped, s.prm.suspend, s.pfail, s.prm.jPos, s.prm.op.bind (·.again)) = (false, false, false, 238, some 9)) := by decide +kernel

/-- PrimerCommands, PrimerWindows: RESUME with a job due, and ENABLE of the window while an erase is suspended and while one runs. -/
theorem test_primer_due :
    look (exec (.prmResume .low) (prm (fun p => { p with jPos := 5, susp := [{ kind := .erase 5, jobs := [.record 2 0 5 false] }] }))) (fun t =>
      (t.prm.jPos, t.prm.op.map fun o => o.cur.map (·.1))) = some (6, some (some (256 * 4092 + 5))) ∧
    look (exec (.prmWindowEnable .low 0) (prm (fun p => { p with op := some eraseOp }))) (fun t => (t.prm.winEn, t.prm.winDue, t.prm.op)) =
      some (true, true, some eraseOp) ∧
    look (exec (.prmWindowEnable .low 0) (prm (fun p => { p with susp := [eraseOp] }))) (fun t => (t.prm.winDue, t.prm.op.map (·.kind))) =
      some (false, some .window) ∧
    look (exec (.prmWindowEnable .low 0) (prm (fun p => { p with jPos := 256 }))) (fun t => (t.prm.winEn, t.prm.op)) = some (true, none) := by
  decide +kernel

/-- LathRegisters: LATH_SELF by its high half, LATH_CFG with a port UP, with all DOWN, and with one that then trains. -/
theorem test_lath_cfg :
    look (exec (.lathSelfWrite .high 0xFFFF000000000001) ring) (fun t => (t.lath.node, t.lath.path)) = some (0xFFFF, 0) ∧
    look (exec (.lathSelfWrite .high 0xFFFF000000000001) heldRemote) (fun t => (t.lath.node, t.lath.cfgReject)) = some (5, true) ∧
    look (exec (.registerWrite 0x70008 .full 0x3FF0006) ring) (fun t => (t.lath.timeout, t.lath.topo, t.lath.dateline, t.lath.cfgReject)) =
      some (0x3FF, 1, false, true) ∧
    look (exec (.registerWrite 0x70008 .low 0x10006) up) (fun t => (t.lath.timeout, t.lath.topo, t.lath.dateline, t.lath.cfgReject)) =
      some (1, 2, true, false) ∧
    look (exec (.registerWrite 0x70008 .low 2) (withPort 2 (fun p => { p with enable := true }) up)) (fun t => ((lport t 2).link, t.lath.topo)) =
      some (.training 0, 2) ∧
    agrees (exec (.registerWrite 0x70008 .high 6) up) (wrote (atPort up)) = true := by decide +kernel

/-- MicroSteps: a decoder that is busy, four handoffs, the guard, and a burst of no bytes: each leaves the bus quiet. -/
def latched (r : Routine) (w : BitVec 128) : State := modChan 63 (fun ch => { ch with pins := { ch.pins with
  cle := true, ale := true, we := false, ce1 := false, dq := .byte 0x60 } }) (routine true r w)
def coded : BitVec 128 := uw 0 4 0 0 0 1 0 0 0 0
def bus (t : State) : Bool × Bool × Bool × Bool × Option StepWait :=
  let p := (chan t 63).pins
  (p.cle, p.ale, p.we, p.ce1, (rtnOf t 63 2).map (·.wait))

set_option maxRecDepth 20000 in
theorem test_step_waits :
    stepAt rtn0 coded (latched rtn0 coded) = true ∧ isCoded coded = true ∧ stepBuf rtn0 coded = 0 ∧
    look (exec (.dout 63 []) (modChan 63 (fun ch => { ch with decq := [{ job false with buf := 0 }] }) (latched rtn0 coded))) bus =
      some (false, false, true, false, some .place) := by decide +kernel

set_option maxRecDepth 20000 in
theorem test_step_waits_2 :
    look (exec (.softHandoff 63) (latched { rtn0 with handoffs := 4 } (uw 0 0 0 0 0 2 0 0 0 0))) bus =
      some (false, false, true, false, some .place) := by decide +kernel

set_option maxRecDepth 20000 in
theorem test_step_waits_3 :
    look (exec (.trainIn 63) { latched rtn0 guardW with srv := { up.srv with dqEn := true, next := 1200 }, time := 1000 }) bus =
      some (false, false, true, false, some .guard) := by decide +kernel

set_option maxRecDepth 20000 in
theorem test_step_waits_4 :
    burstLen rtn0 (uw 0 3 0 0 1 0 0 0 0 0) = 0 ∧ stepAt rtn0 (uw 0 3 0 0 1 0 0 0 0 0) (latched rtn0 (uw 0 3 0 0 1 0 0 0 0 0)) = true := by decide +kernel

set_option maxRecDepth 20000 in
theorem test_step_waits_5 :
    look (exec (.din 63) (latched rtn0 (uw 0 3 0 0 1 0 0 0 0 0))) bus = some (false, false, true, true, some .none) := by decide +kernel

/-- PumpsAndTokens, RoutineEvents: a pump start that waits leaves the bus quiet; how a DOP has ended is kept. -/
theorem test_pump_quiet :
    look (exec (.cmd 63) { latched rtn0 pumpW with tok := { up.tok with total := 1, out := [⟨3, 50⟩] } }) bus =
      some (false, false, true, false, some .pump) ∧
    look (exec (.outcomeWrite 63 2) (wait { rtn0 with st := .ended, code := 1, status := 0xE0, user := 3, poisoned := true })) (fun t =>
      (thr t 63 2).outs) = some [{ out := .word 0x301E0, poison := true, cls := 0 }] := by decide +kernel

/-- FetchTurns: the turns of a round of WEIGHT 2, an urgent turn, and a round that is over. -/
theorem test_turns :
    (let w : QCtx → QCtx := fun x => { x with w1 := 0x0200000000000003, head := 0, tail := 9 }
     ([({ queues w with qe := { (queues w).qe with turns := 0, lastNorm := 9 } }, 1),
       ({ queues w with qe := { (queues w).qe with turns := 1, lastNorm := 9 } }, 0),
       ({ queues w with qe := { (queues w).qe with turns := 1, lastNorm := 8 } }, 1)] : List (State × Nat)).all fun e =>
        decide (look (exec .fetchTurn e.1) (fun t => (t.qe.turns, t.qe.lastNorm)) = some (e.2, 9))) = true ∧
    look (exec .fetchTurn (withQe (fun q => { q with turns := 1, lastNorm := 4 }) (queues fun x => { x with w1 := 0x00D0000000000003 }))) (fun t =>
      (t.qe.turns, t.qe.lastUrg, t.qe.lastNorm)) = some (0, 9, 4) ∧
    (endRound 9 (withQe (fun q => { q with turns := 1, lastNorm := 9 }) (queues id))).qe.turns = 1 ∧
    (endRound 9 (withQe (fun q => { q with turns := 1, lastNorm := 9 }) (queues fun x => { x with tail := 14 }))).qe.turns = 0 ∧
    (endRound 9 (withQe (fun q => { q with turns := 1, lastNorm := 9 }) (queues fun x => { x with enabled := false }))).qe.turns = 0 := by decide +kernel

/-- EntryCauses: SQ0's own words, at the limits. -/
theorem test_admin_causes : ([ent 8 0 0 0, ent 9 0 0 0, ent 0x3FF 0 0 0, ent 0x400 0 0 0, ent 0x10000000000000 0 0 0, ent 0x100000000 0 0 0,
      ent 0x10000000000 0 0 0, ent 0x8000000000 0 0 0, ent 0x4000000000 0 0 0, ent 0x1000000000000 0 0 0, ent 0x8000000000000 0 0 0,
      ent 0 1 0 0, ent 0xFFFF0000 0 5 5].map fun e => entryCause up { e with sq := 0 }) =
    [none, some 6, some 6, some 1, some 1, some 1, some 1, some 6, some 6, some 6, some 6, some 6, none] := by decide +kernel

set_option maxRecDepth 20000 in
/-- ContextTransfers: a read asked for before the queue's last enable, wanted again and not; an error for QE_QCTL's ENABLE. -/
theorem test_stale_read :
    look (exec (.contextReadDone false 9 (.words ctxWords)) (ctxDue (.ctxRead 9) fun x => { x with stale := true, reading := true })) (fun t =>
      ((qctx t 9).stale, (qctx t 9).reading, (qctx t 9).cached, t.fm.map fun m => (m.addr, m.write))) =
      some (false, true, false, [(576, false)]) := by decide +kernel

set_option maxRecDepth 20000 in
theorem test_stale_read_2 :
    look (exec (.contextReadDone false 9 (.words ctxWords)) (ctxDue (.ctxRead 9) fun x => { x with stale := true })) (fun t =>
      ((qctx t 9).stale, (qctx t 9).tail, t.fm.length)) = some (false, 1, 0) := by decide +kernel

set_option maxRecDepth 20000 in
theorem test_stale_read_3 :
    look (exec (.contextReadDone false 9 .error) (withQe (fun q => { q with busy := some ⟨false, 9⟩ }) (ctxDue (.ctxRead 9) fun _ => { head := 5 })))
      (fun t => (t.qe.busy, t.qe.result, t.gctl.hCause, t.gctl.hIndex)) = some (none, 0, 7, 5) ∧
    look (exec (.contextReadDone true 9 .poisoned) (ctxDue (.ctxRead 131081) id)) (fun t => (t.gctl.hCause, t.gctl.hSq, t.gctl.hIndex)) =
      some (7, 0, 0) := by decide +kernel

/-- EntryPreparation, EntryDispatch: no slot of the remote table left, and STG asleep for an entry that holds a buffer. -/
def allSlots (s : State) : State := withLath (fun l => { l with table := (List.range 4096).map fun k => (k, { entry := k, node := 9 }) }) s
def dataEntry (st : EStage) : State := modEntry 7 (fun e => { e with
  stage := st, handle := 0x20000003, words := [0x0005000000000000, 0, 0, 0, 0x1000, 64, 0, 0] }) (dispatching false true)

theorem test_all_slots : (allSlots up).lath.table.map (·.1) = List.range 4096 := by
  simp [allSlots, withLath, List.map_map, Function.comp_def]

theorem test_slots :
    (prepared .needBuf id).lath.table = [] ∧
    ((prepared .needBuf id).qe.store.all fun e => e.slot = none) = true ∧
    look (exec (.entryBufferAlloc 7) (prepared .needBuf fun e => { e with isRem := true, slot := some 4095 })) (fun t =>
      (entryOf t 7).map fun e => (e.handle, e.slot)) = some (some (0x20000003, some 4095)) := by decide +kernel

theorem test_data_dispatch :
    look (exec (.entryDispatch 7) (dataEntry .ready)) (fun t => (entryOf t 7).map (·.stage)) = some (some .inSlot) ∧
    look (exec (.entryDispatch 7) (withPwr (fun p => { p with ret := true, wakeEn := 2 }) (dataEntry .ready))) (fun t =>
      (entryOf t 7).map (·.stage)) = some (some .waitWake) ∧
    look (exec (.entryDispatch 7) (withPwr (fun p => { p with ret := true }) (dataEntry .ready))) (fun t => (entryOf t 7).map fun e =>
      (e.stage, e.status)) = some (some (.finish, 9)) ∧
    look (exec (.entryDispatch 7) (withPwr (fun p => { p with ret := true }) (dispatching false true))) (fun t => (entryOf t 7).map (·.stage)) =
      some (some .inSlot) := by decide +kernel

/-- BatchesAndIndexes: a batch that is neither full nor late, and the last index of the oldest disable. -/
theorem test_batch_waits : batchCov (batching 2 5 4999) 9 ≠ [] ∧ deleteWaits (batching 2 5 4999) 9 = false ∧
    gives (exec (.batchPost 9) (batching 2 5 4999)) (batching 2 5 4999) = true ∧
    look (exec (.indexPublish false 9 .issue) (modQctx 9 (fun x => { x with enabled := false, stops := [{ head := 5, upTo := 0, addr := 0x4000 }] })
      (withIdx (fun i => { i with final := true }) none))) (fun t => (t.fm.map fun m => (m.addr, m.data), (qctx t 9).idx)) =
      some ([(0x4000, [5, 0, 1, 0, 0, 0, 0, 0])], { final := true, flying := true, last := true }) := by decide +kernel

/-- AdminCommands: DELETE_SQ and DISABLE_SQ of an SQ whose disable is in progress wait for it. -/
theorem test_admin_waits :
    look (exec .disableSq (adminS 5 9 true fun x => { x with enabled := false, stops := [{ head := 5, upTo := 1000, addr := 0 }] })) (fun t =>
      ((entryOf t 3).map (·.stage), (qctx t 9).stops.map (·.wait))) = some (some .disabling, [[3]]) ∧
    look (exec .deleteSq (adminS 3 9 true fun x => { x with enabled := false, stops := [{ head := 5, upTo := 1000, addr := 0 }] })) (fun t =>
      ((entryOf t 3).map (·.stage), (qctx t 9).created, (qctx t 9).stops.map (·.wait))) = some (some .deleting, false, [[3]]) := by decide +kernel


/-! ## Registers of one kind and those of the interrupt controller -/

/-- KindStores: every domain ON, so that each kind is live, and a state in which none is that can be dead. -/
def allUp : State := { marked with pwr := { marked.pwr with
  on := 0xFFFFF, gnt := 0xFFFFF, req := 0xFFFFF, st := (List.range 20).map fun d => (d, .on) } }
def dead : State := modEng 3 (fun g => { g with senable := true }) (modQctx 9 (fun x => { x with enabled := true }) quiet)

theorem test_kinds : portFree allUp = true ∧ quadUp allUp 63 = true ∧ powered allUp 1 = true ∧
    (allUp.qe.ctx.all fun e => !e.2.enabled) = true ∧ (rwKinds.all fun r => (List.range 2).all fun i =>
      let g := r.reg (i * (r.n - 1))
      agrees (exec (.registerWrite g.off .high 0x123456789ABCDEF0) allUp)
          (wrote (g.put (stored .high (regRead g.off allUp) 0x123456789ABCDEF0) (atPort allUp))) &&
        decide (regRead g.off (g.put 0xFFFFFFFFFFFFFFFF allUp) = g.has)) = true := by decide +kernel

theorem test_kinds_clear : (clearKinds.all fun r => (List.range 2).all fun i => let k := i * (r.n - 1)
      agrees (exec (.registerWrite (r.off k) .low 0xFFFFFFFFFFFFFFFF) allUp) (wrote (r.put k 0xFFFFFFFF (atPort allUp)))) =
    true := by decide +kernel

theorem test_kinds_dead : portFree dead = true ∧ quadUp dead 63 = false ∧ powered dead 1 = false ∧ (eng dead 3).senable = true ∧
    ((rwKinds.drop 2).all fun r => agrees (exec (.registerWrite (r.reg (r.n - 1)).off .full 5) dead) (wrote (atPort dead))) = true ∧
    ([0, 1, 3, 4].all fun i => (clearKinds[i]?).all fun r =>
      agrees (exec (.registerWrite (r.off (r.n - 1)) .full 0xFFFFFFFFFFFFFFFF) dead) (wrote (atPort dead))) = true := by decide +kernel

/-- GuardedStores: the reserved MODE, bits of quads that J4 lacks, and protection that is only set. -/
theorem test_guarded :
    look (exec (.registerWrite 0x2000 .low 7) up) (fun t => (t.cal.mode, t.cal.badMode, pendOf t 131078)) = some (3, true, true) ∧
    look (exec (.registerWrite 0x2000 .high (7 * 2 ^ 32)) up) (fun t => (t.cal.mode, t.cal.drift, t.cal.badMode)) = some (up.cal.mode, 7, false) ∧
    look (exec (.registerWrite 0x1010 .full 0xFFFFFFFF) { up with variant := .j4 }) (fun t => t.pwr.wakeEn) = some 0x00FFE ∧
    look (exec (.registerWrite 0x1010 .full 0xFFFFFFFF) up) (fun t => t.pwr.wakeEn) = some 0xFFFFE ∧
    look (exec (.registerWrite 0x5013F8 .full 9) (withPrm (fun p => { p with wp := [(127, 6)] }) up)) (fun t => t.prm.wp) =
      some [(127, 15)] := by decide +kernel

/-- InterruptStores: three presented vectors, one of them due, and what a write of each register withdraws. -/
def presents : State := let s := three 0; { s with ic := { s.ic with
  proc := [(0, { enable := true, pres := some ⟨5, 3, 0x1000, false⟩, active := 0x4 }),
    (3, { enable := true, pres := some ⟨70, 9, 0, true⟩ }), (15, { pres := some ⟨131090, 4, 0, false⟩ })] } }

def dues (i : Instr) : Option (List (Option Bool)) := look (exec i presents) fun t => [0, 3, 15].map fun p => (proc t p).pres.map (·.due)

theorem test_withdrawals : portFree presents = true ∧
    dues (.registerWrite 0x404000 .low 0x20) = some [some true, some true, some true] ∧
    dues (.registerWrite 0x404000 .high 0x20) = some [some false, some true, some true] ∧
    dues (.registerWrite (0x40C000 + 8 * 2048) .full 0xFFFFFFFFFFFFFFFF) = some [some false, some true, some true] ∧
    dues (.registerWrite 0x414000 .full 7) = some [some false, some true, some false] := by decide +kernel

theorem test_withdrawals_2 :
    dues (.registerWrite 0x420000 .low 0) = some [some true, some true, some false] ∧
    dues (.registerWrite 0x420000 .high 0) = some [some false, some true, some false] ∧
    dues (.registerWrite 0x438008 .low 0x10000) = some [some false, some true, some true] ∧
    dues (.registerWrite 0x401000 .high 0) = some [some true, some true, some false] ∧
    dues (.registerWrite 0x4010C8 .low 0x800) = some [some false, some true, some false] ∧
    dues (.registerWrite 0x401008 .low 0x300) = some [some true, some true, some false] := by decide +kernel

/-- PresentEffect: a withdrawal that is due leaves the source pending and the other vectors presented. -/
theorem test_withdraw_due : withdrawing presents = true ∧
    look (exec .icPresent presents) (fun t => ([0, 3, 15].map fun p => (proc t p).pres.map (·.src), pendOf t 70)) =
      some ([some 5, none, some 131090], true) := by decide +kernel

/-- HighHalves, QueueHalves, ReadsClear: forms that reach no field, and the halves of PLB_FAULT_INFO. -/
theorem test_high_halves :
    agrees (exec (.icMsgWrite .high 5) up) (wrote (atPort up)) = true ∧
    agrees (exec (.icEoiWrite 15 .high 5) up) (wrote (atPort up)) = true ∧
    agrees (exec (.icMaskSyncRead .high) up) (returns 0 (atPort up)) = true ∧
    agrees (exec (.sqTailDoorbell 9 .high 5) up) (wrote (atPort up)) = true ∧
    agrees (exec (.cqHeadDoorbell 9 .high 5) up) (wrote (atPort up)) = true ∧
    agrees (exec (.qeQctlEnable true 9 .low) up) (wrote (atPort up)) = true ∧
    agrees (exec (.qeQctlEnable true 9 .high) up) (exec (.qeQctlEnable false 0 .full) up) = true ∧
    agrees (exec (.qeQctlReserved true 9 .high) up) (exec (.qeQctlReserved false 0 .full) up) = true ∧
    look (exec (.plbFaultInfoRead .low) marked) (fun t => (t.plb.fCount, t.plb.fValid, t.plb.fCh, t.plb.fDie, t.plb.fClamp)) =
      some (9, true, 63, 0, false) ∧
    look (exec (.plbFaultInfoRead .high) marked) (fun t => (t.plb.fCount, t.plb.fValid, t.plb.fCh, t.plb.fDie, t.plb.fClamp)) =
      some (0, false, 63, 62, true) := by decide +kernel

/-! ## Aborts, registers of a thread, and the delay slot -/

/-- AbortOfEntry: entry 7 runs in thread 0 of channel 0, which waits so; the abort wins and leaves `g` of the marked state. -/
def runsEntry (w : TWait) : State := modThr 0 0 (fun th => { th with run := true, wait := w, rtn := some rtn0, entry := some 7 })
  (prepared (.running 0 0) id)
def abX (s : State) : State := modEntry 7 (fun e => { e with aborted := true }) s
def abY (s : State) : State := modThr 0 0 (fun th => { th with
  abortP := true, aborted := true, rtn := th.rtn.map fun r => { r with abortP := true } }) (abX s)
def aborts (w : TWait) (f g : State → State) : Bool := decide (abortEntry 7 (f (runsEntry w)) = (true, g (abY (f (runsEntry w)))))
def waiter (b : Bool) (s : State) : State := { s with hawk := { s.hawk with waiting := [⟨.entry 9, 0, false, true⟩, ⟨.thread 0 0, 0, false, b⟩] } }

theorem test_abort_waits : aborts .none id (recognise 0 0) = true ∧
    aborts (.time 5 9) id (fun y => waitsOut 0 0 5 y.time y) = true ∧
    aborts (.event 5 3) (modChan 0 fun ch => { ch with evq := [1, 0, 2] })
      (fun y => waitsOut 0 0 5 0 (modChan 0 (fun ch => { ch with evq := [1, 2] }) y)) = true ∧
    aborts (.hawk 5) (waiter true)
      (fun y => waitsOut 0 0 5 0 { y with hawk := { y.hawk with waiting := [⟨.entry 9, 0, false, true⟩] } }) = true ∧
    aborts (.hawk 5) (waiter false) id = true ∧ aborts (.qpost 0 0) id (fun y => waitsOut 0 0 (rD (waitWord y 0 0)) 2 y) = true ∧
    ([.unit_ 0 0 0, .dop 0 0, .dopw 5, .rebuild 5 0 0, .move 0 0x2000000000000002 99 24 [(1, false)] false].all fun w =>
      aborts w id id) = true := by decide +kernel

theorem test_abort_moves :
    aborts (.move 0x3000000000000002 0 99 24 [(1, false)] false) (modStrm 2 fun q => { q with popLock := some (0, 0) })
      (fun y => waitsOut 0 0 (rD (waitWord y 0 0)) 24 (modStrm 2 (fun q => { q with popLock := none }) y)) = true ∧
    aborts (.move 0 0x3000000000000002 99 24 [(1, false)] false) id
      (fun y => waitsOut 0 0 (rD (waitWord y 0 0)) 24 (modStrm 0 (fun q => q) y)) = true := by decide +kernel

theorem test_abort_stages :
    ([EStage.finish, .dataOut].all fun x => !(abortEntry 7 (prepared x id)).1) = true ∧
    (abortEntry 7 (prepared .ready fun e => { e with aborted := true })).1 = false ∧ (abortEntry 8 (prepared .ready id)).1 = false ∧
    (abortEntry 7 (modThr 0 0 (fun th => { th with ending := some (0, none) }) (runsEntry .none))).1 = false ∧
    ([EStage.fragRead, .needBuf, .ready, .waitWake, .waitStg].all fun x =>
      decide (abortEntry 7 (prepared x id) = (true, failEntry 7 8 0 (abX (prepared x id))))) = true ∧
    decide (abortEntry 7 (prepared .dataIn id) = (true, abX (prepared .dataIn id))) = true ∧
    ((abortEntry 7 (modChan 0 (fun ch => { ch with slot := some 7 }) (prepared .inSlot id))).2.ch.map fun e => e.2.slot) = [none] ∧
    (abortEntry 7 (let s := prepared .waitBuf id; { s with hawk := { s.hawk with waiting := [⟨.entry 7, 0, false, true⟩] } })).2.hawk.waiting = [] := by
  decide +kernel

/-- AbortOfEntry: an ABORT is raised at once, not in a handler and not in a delay slot. -/
theorem test_abort_now :
    (thr (recognise 0 0 (abY (runsEntry .none))) 0 0).abortP = false ∧
    ([fun th => { th with handler := true }, fun th => { th with after := some 9 }, fun th => { th with wait := .qpost 0 0 }] : List (Thread → Thread)).all
      (fun f => decide (recognise 0 0 (modThr 0 0 f (abY (runsEntry .none))) = modThr 0 0 f (abY (runsEntry .none)))) = true := by decide +kernel

/-- EntryFails: with its buffer and without. -/
theorem test_entry_fails : ([0, 1] : List (BitVec 32)).all (fun h =>
    let s := withPool (prepared .ready fun e => { e with slot := some 5, handle := h })
    decide (failEntry 7 8 3 s = modEntry 7 (fun e => { e with stage := .finish, status := 8, result := 3, slot := none })
      (if h = 0 then s else freeBuffer h none s))) = true := by decide +kernel

/-- RegisterFile: reads of g5 while two writes to it are pending, in the order in which they land. -/
def two : Thread := { regs := [(5, 9)], flight := [⟨5, 7, 1⟩, ⟨3, 8, 1⟩, ⟨5, 8, 3⟩] }

theorem test_register_file : (pendingTo 5 two).map (·.val) = [7, 8] ∧ readChoices two 5 = [9, 7, 8] ∧
    regOf (ageFlights two) 5 = 7 ∧ pendingTo 5 (ageFlights two) = [⟨5, 8, 2⟩] ∧ regOf (landAll two) 5 = 8 ∧
    readChoices (Nat.repeat ageFlights 2 (launch 6 4 3 two)) 6 = [0, 4] ∧
    readChoices (Nat.repeat ageFlights 3 (launch 6 4 3 two)) 6 = [4] ∧ pendingTo 6 two = [] ∧
    regOf (ageFlights { flight := [⟨5, 7, 1⟩, ⟨5, 8, 1⟩] }) 5 = 8 ∧ readChoices (launch 0 4 3 two) 0 = [0] := by decide +kernel

/-- SlotGoesOn: an instruction in a delay slot, and one that is not. -/
theorem test_slot : ([some 0x1234, none] : List (Option (BitVec 15))).map (fun n =>
    let s := prog (wR 0x00 5 1 2 0) []
    look (exec (.add 0 0) (modThr 0 0 (fun th => { th with pc := 0, after := n }) s)) fun t => ((thr t 0 0).pc, (thr t 0 0).after)) =
      [some (0x1234, none), some (1, none)] := by decide +kernel

/-- SwapAtRest, ChannelCommit: a swap that waits takes place at rest, with the drift check of the line that comes into use. -/
def swapping (n : BitVec 16) (d : BitVec 16) : State := modChan 0 (fun ch => { ch with tb := { ch.tb with pend := some n, line := true } })
  (modChRec 0 (fun r => { r with st := 1, trainA := 7, trainB := 1000, nowA := 3, nowB := 4 }) { up with cal := { up.cal with drift := d } })

theorem test_swap : chanThere (swapping 1001 1000) 0 = true ∧ quadUp (swapping 1001 1000) 0 = true ∧
    ([(1001, 1000), (1001, 999), (999, 999), (500, 0)] : List (BitVec 16 × BitVec 16)).map (fun e => let t := atRest 0 (swapping e.1 e.2)
      ((chan t 0).tb.pend, (chRec t 0).active && (t.cal.sdrift == pendOf t 131078), (chRec t 0).nowB, (chRec t 0).st, t.cal.sdrift)) =
      [(none, true, 1001, 1, false), (none, true, 1001, 2, true), (none, true, 999, 2, true), (none, true, 500, 1, false)] ∧
    decide (atRest 0 (modChan 0 (fun ch => { ch with cur := some 1 }) (swapping 5 1)) = modChan 0 (fun ch => { ch with cur := some 1 }) (swapping 5 1)) =
      true ∧
    (let k := commitCh 0 true chWords (swapping 1001 1000)
     (k.1, (chan k.2 0).tb.pend, (chRec k.2 0).trainB, (chRec k.2 0).nowB, (chRec k.2 0).commits)) = (true, none, 4, 1001, 1) := by decide +kernel

/-- DmaResponses: the read of descriptor 1 of entry 7's list answers these words; what it leaves, before the engine goes on. -/
def listS (ds : List Dsc) : State := let s := moving (.desc (.entry 7)) false .open_; { s with
  xfer := s.xfer.map fun x => { x with descs := ds } }

def afterRead (w0 w1 w3 : W64) (ds : List Dsc) (f : State → State) : Bool := let s := listS ds; let d := readDsc 0x3000 w0 w1 w3
  match takeFm (.desc (.entry 7)) s with
  | some (_, y) => agrees (exec (.dmaDescriptorReadDone (.entry 7) (.words [w0, w1, 0, w3])) s) (.next (stepXfer (.entry 7) (pumpEng 1
      (f (modXfer (.entry 7) (fun x => { x with descs := x.descs ++ [d], nextAt := none }) y)))))
  | none => false

theorem test_list_read :
    afterRead 0x2000 0x2000000000000000 0x0400000000000008 [dsc0 .open_] (listFault 7 10 1) = true ∧
    afterRead 0x4000 0 0x9000000000000000 [dsc0 .open_] (readNext 7 2 0x4000) = true ∧
    afterRead 0x4010 0 0x9000000000000000 [dsc0 .open_] (listFault 7 4 2) = true ∧
    afterRead 0x2000 0x2000000000000000 0x8400000000000008 [dsc0 .open_] (readNext 7 2 0x3020) = true ∧
    afterRead 0x2000 0x2000000000000000 0xA400000000000008 [] (listFault 7 6 0) = true ∧
    afterRead 0x2000 0x2000000000000000 0xA400000000000008 [dsc0 .open_] (listFault 7 6 1) = true ∧
    afterRead 0x2000 0x2000000000000000 0xA400000000000010 [] id = true := by decide +kernel

theorem test_list_read_end : running 4096 (List.replicate 4095 (dsc0 .open_)) = 65520 ∧
    decide (readNext 7 4096 0x4000 up = listFault 7 12 4096 up) = true ∧ decide (readNext 7 4095 0x4010 up = listFault 7 4 4095 up) = true := by decide +kernel

/-! ## Pulses that stop, a tripped detector, entries of other nodes, the ends of programs -/

/-- PulsesThatStop: SUSPEND taken at a pulse end of a program and of an erase, and PFAIL that stops an erase. -/
def stopping (o : POp) (n : Nat) (su pf : Bool) : State := { prm (fun p => { p with
  op := some { o with pulses := n }, suspend := su, sect := [(5, 1)], arr := [(9, 0xF0), (1280, 0xF), (3000, 7)] }) with pfail := pf }
def zeros : POp := { kind := .program, jobs := [.word 9 0x3C], cur := some (9, 0x3C) }
def prmNow (t : State) : Bool × List Nat × BitVec 4 := (t.prm.op.isNone && !t.prm.suspend, t.prm.susp.map (·.pulses), t.prm.result)

theorem test_suspend_pulse :
    ([stopping zeros 6 true false, stopping eraseOp 38 true false].map fun s => (look (exec (.prmPulseEnd false) s) prmNow)) =
      [some (true, [7], 1), some (true, [39], 1)] ∧
    look (exec (.prmPulseEnd true) (stopping zeros 3 true false)) (fun t => (prmNow t, prmRaw t 9)) = some ((true, [], 1), 0x30) ∧
    look (exec (.prmPulseEnd true) (stopping eraseOp 3 true false)) (fun t => (t.prm.susp.map (·.jobs), t.prm.arr)) =
      some ([[.record 2 0 5 false]], [(9, 0xF0), (3000, 7)]) := by decide +kernel

set_option maxRecDepth 20000 in
theorem test_pfail_pulse : ([false, true].all fun su => decide (look (exec (.prmPulseEnd false) (stopping eraseOp 38 su true)) (fun t =>
      (prmNow t, t.prm.sect)) = some ((true, [], 8), [(5, 2)]))) = true ∧
    look (exec (.prmPulseEnd true) (stopping eraseOp 39 false true)) (fun t => (prmNow t, t.prm.sect, t.prm.arr)) =
      some ((true, [], 8), [(5, 2)], [(9, 0xF0), (3000, 7)]) := by decide +kernel

/-- PrimerCommands, JournalJobs, PrimerWindows, PulseEnds: while the detector is tripped an operation waits, and its release
begins it. -/
def trips (s : State) : State := withPrm (fun p => { p with tripped := true }) s
def waitsFor (i : Instr) (s : State) : Option (Nat × Bool × Option Nat × Bool) := look (exec i s) fun t =>
  (t.prm.jPos, t.prm.tripped, t.prm.op.map (·.jobs.length), t.prm.op.all fun o => o.cur.isNone && decide (o.pulses = 0))

set_option maxRecDepth 20000 in
theorem test_tripped :
    waitsFor (.prmProgram .low) (trips (at' 9 fun p => { p with data := 5 })) = some (0, true, some 1, true) ∧
    waitsFor (.prmErase .low) (trips (journal 5 [])) = some (5, true, some 3, true) ∧
    waitsFor (.prmRotate .low) (trips (withPrm (fun p => { p with winEn := true }) (journal 5 []))) = some (5, true, some 1, true) := by decide +kernel

set_option maxRecDepth 20000 in
theorem test_tripped_2 :
    waitsFor (.prmWindowEnable .low 0) (trips (journal 5 [])) = some (5, true, some 1, true) ∧
    look (exec .brownOutDetectorRelease (awaits { kind := .rotate 0, jobs := [.record 3 0 0 false] } (trips (journal 5 [])))) (fun t =>
      (t.prm.jPos, t.prm.tripped, t.prm.op.bind fun o => o.cur.map (·.1))) = some (6, false, some (256 * 4092 + 5)) := by decide +kernel

set_option maxRecDepth 20000 in
theorem test_tripped_3 :
    decide (beginJob eraseOp (trips (journal 5 [])) = awaits eraseOp (trips (journal 5 []))) = true ∧
    look (exec (.prmPulseEnd true) (trips (stopping zeros 3 false false))) (fun t => t.prm.op.map (·.pulses)) = some (some 3) := by decide +kernel

/-- SplitWindow, ChannelRegisters, CalRecordWrites, BankRetirement, PoolCommands: 32-bit forms. -/
theorem test_window_halves :
    look (exec (.splitWindowRead 0x1FFFF8 .high) (views 1 0)) (fun t => t.port.resp) = some [{ ok := true, value := 0x8000000000000000 }] ∧
    look (exec (.splitWindowWrite 0x1FFFF8 .high 0x700000005) (views 2 0)) (fun t => (rawByte t .stg 0x3FFFFF8, rawByte t .stg 0x3FFFFFC)) =
      some (0, 7) ∧
    look (exec (.splitWindowWrite 0x1FFFF8 .low 0x700000005) (views 1 0)) (fun t => (rawByte t .stg 0x3FFFFF8, rawByte t .stg 0x3FFFFFC)) =
      some (5, 0) ∧
    look (exec (.splitWindowRead 0x1FFFF8 .high) (views 3 0)) (fun t => t.port.resp) = some [{ ok := true, value := 0 }] ∧
    agrees (exec (.splitWindowWrite 0x1FFFF8 .high 0) (views 3 0)) (wrote (atPort (views 3 0))) = true ∧
    look (exec (.splitWindowWrite 0x1FFFF8 .low 0x100) (views 3 0)) (fun t => (markOf t .stg 0x3FFFFF8, parityBit t 0x3FFFFF8)) =
      some (true, false) ∧
    look (exec (.intBankRetireWrite .high 0x800000000001) up) (fun t => t.intg.retired) = some 0 := by decide +kernel

theorem test_channel_halves :
    look (exec (.chPatchGo 3 .high (patch 0 1 5 0)) (modReg 3 (fun r => { r with pSrc := 7 }) up)) (fun t =>
      ((chan t 3).reg.pState, (chan t 3).reg.pTarget, (chan t 3).reg.pSrc)) = some (2, 5, 7) ∧
    agrees (exec (.chPatchGo 3 .low (patch 0 1 5 0)) up) (wrote (atPort up)) = true ∧
    look (exec (.fenceFill 3 .low 0x3FFFFFFFFFFFFFFF) up) (fun t => ((chan t 3).reg.filling, (chan t 3).ctl.fill, (chan t 3).ctl.fBase)) =
      some (false, 0xFFFF, 0x3FFF) ∧
    agrees (exec (.chDieWrite 3 63 .high 1) up) (wrote (atPort up)) = true ∧
    agrees (exec (.chFenceDataRead 3 .high) up) (returns 0 (atPort up)) = true ∧
    look (exec (.calRecordWrite 20508 .low 0x123400000050) up) (fun t => ((dieRec t 4095).mts, (dieRec t 4095).iface)) = some (0, 5) ∧
    look (exec (.calRecordWrite 20510 .high 0x123400000050) up) (fun t => (dieRec t 4095).deskew) = some 0x123400000000 := by decide +kernel

/-- PoolCommands, BufferResult, RenderResult: a pool whose withheld buffers are being removed serves after that. -/
def removing (s : State) : State := modPool 0 (fun p => { p with enable := true, count := 4, low := 1, free := [3], busy := true }) s

theorem test_pool_busy :
    look (exec (.hawkAllocRead 0 .full) (removing up)) (fun t => (t.port.wait, t.port.resp, t.hawk.waiting.map (·.who))) =
      some (some .alloc, [], [.port]) ∧
    look (again (.poolWithholdEnd 0) (match exec (.hawkAllocRead 0 .full) (removing up) with | .next t => t | _ => up)) (fun t =>
      (t.port.wait, t.port.resp, t.hawk.waiting)) = some (none, [{ ok := true, value := nat64 (mkHandle 0 3).toNat }], []) ∧
    agrees (exec (.hawkFreeWrite 0 .high 5) (removing up)) (wrote (atPort (removing up))) = true ∧
    look (exec (.hawkPoolCfgWrite 5 .low (cfg 0 2 9 0)) (withPool5 true [1])) (fun t => ((pool t 5).enable, (pool t 5).low)) =
      some (true, 9) ∧
    issuesOk (wI 0x80 5 0 0 0) (removing (prog (wI 0x80 5 0 0 0) [])) = true ∧
    look (exec (.halloc 0 0) (removing (prog (wI 0x80 5 0 0 0) []))) (fun t => ((thr t 0 0).wait, t.hawk.waiting.map (·.wait))) =
      some (.hawk 5, [false]) := by decide +kernel

/-- EndEffect: a halt, the entry of another node, and a member fetch, which waits and which does not. -/
def endKind (k : EKind) (h : Byte) (fs : List RFetch) : State := let s := ended 2 0 h {}; { s with
  qe := { s.qe with store := s.qe.store.map fun e => { e with kind := k } }, rnd := { s.rnd with fetch := fs } }

set_option maxRecDepth 20000 in
theorem test_end_halted : (let s := ended 0 0 1 {}
    look (exec (.endProg 0 0) { s with gctl := { s.gctl with halted := true } }) (fun t => (decide (thr t 0 0 = {}), (entryOf t 7).map (·.stage)))) =
      some (true, some (.running 0 0)) := by decide +kernel

set_option maxRecDepth 20000 in
theorem test_end_fetch :
    look (exec (.endProg 0 0) (endKind .fetch 1 [{ ctx := 9, pos := 1, page := 0, entry := 7, due := 5 }])) (fun t =>
      (t.rnd.fetch.map (·.done), t.qe.store.length, (pool t 0).free)) = some ([some (0x10, 0x20000001)], 0, [3]) ∧
    look (exec (.endProg 0 0) (endKind .fetch 1 [])) (fun t => (t.qe.store.length, (pool t 0).free, decide (thr t 0 0 = {}))) =
      some (0, [3, 1], true) := by decide +kernel

set_option maxRecDepth 20000 in
theorem test_end_remote :
    look (exec (.endProg 0 0) (endKind (.remoteIn 9 0xABC 0 false) 1 [])) (fun t => (t.qe.store.length, (pool t 0).free, decide (thr t 0 0 = {}))) =
      some (0, [3, 1], true) := by decide +kernel

/-- ThreadTakesEntry: the copy of the entry in the frame, a member fetch beside an entry in the slot, and the entry of another
node. -/
theorem test_takes_frame : look (exec (.entryTakenByThread 0) (slotted 0)) (fun t =>
      [0x8000, 0x8008, 0x8028, 0x802C, 0x803F].map fun p => (rawByte t (.scr 0) p).toNat) = some [0, 63, 5, 1, 0] := by decide +kernel

def takeKind (k : EKind) (x : EStage) : State := let s := slotted 0; { s with
  qe := { s.qe with store := entry5 :: [{ entry5 with id := 6, kind := k, stage := x }] }
  ch := s.ch.map fun e => (e.1, { e.2 with slot := some (if k = .fetch then 5 else 6) }) }

theorem test_takes_kinds :
    look (exec (.entryTakenByThread 0) (takeKind .fetch .ready)) (fun t => ((entryOf t 6).map (·.stage), (chan t 0).slot,
      tget 0 9 (thr t 0 0).regs)) = some (some (.running 0 0), some 5, 0) ∧
    look (exec (.entryTakenByThread 0) (takeKind (.remoteIn 9 1 0 false) .inSlot)) (fun t => ((entryOf t 6).map (·.stage), (chan t 0).slot)) =
      some (some (.running 0 0), none) := by decide +kernel

/-- ContextTransfers: a context write waits for an earlier one of the same word, and leaves with its response. -/
def writingW (n : Nat) : State := let s := queues id; issueCtxWrite 9 1 [7] (issueCtxWrite 9 n [5] { s with fm := [] })

theorem test_context_due : ([1, 2].map fun n => ((writingW n).fm.length + (writingW n).qe.wait.length, (qctx (writingW n) 9).due)) =
      [(1, [(1, [7])]), (2, [])] ∧
    look (exec (.contextWriteResponse false 9 ⟨0, false⟩) (writingW 1)) (fun t => (t.fm.map (·.data.headD 0), (qctx t 9).due)) =
      some ([7], []) := by decide +kernel

/-- CompletionWrites: of two unanswered writes the newer is answered first, then the older; and an error. -/
def writing2 : State := let s := writing; withQe (fun q => { q with
  flying := q.flying.map (fun p => { p with slot := 4 }) ++ q.flying.map (fun p => { p with slot := 5 }) }) { s with fm := s.fm ++ s.fm }

theorem test_completion_order :
    (takeNth (fun p => decide (p.cq = 3)) 1 writing2.qe.flying).map (fun e => (e.1.slot, e.2.map (·.slot))) = some (5, [4]) ∧
    look (exec (.completionWriteResponse 3 ⟨1, false⟩) writing2) (fun t => (t.qe.flying.map (·.slot), (qctx t (ctxKey true 3)).visible)) =
      some ([4], 4) ∧
    look (exec (.completionWriteResponse 3 ⟨0, false⟩) writing2) (fun t => (t.qe.flying.map (·.slot), (qctx t (ctxKey true 3)).visible)) =
      some ([5], 5) ∧
    look (exec (.completionWriteResponse 3 ⟨1, true⟩) writing2) (fun t => ((qctx t (ctxKey true 3)).lost, t.gctl.hCause)) = some (true, 8) := by decide +kernel

/-- PowerUpWork: quad 0's two images in sectors 0 and 1, one microword and one instruction; the second as given. -/
def microImage : List W64 := [0x5A55000000000000, 1] ++ List.replicate 14 0 ++ [5, 6]
def progImage (w : W64) : List W64 := [w, 1] ++ List.replicate 14 0 ++ [7]
def dirEnt (kind first : Nat) (ws : List W64) : DirEnt :=
  { w0 := nat64 (kind * 2 ^ 60 + 2 ^ 40 + first * 2 ^ 28), w1 := nat64 ((crc32 (wordsBytes ws)).toNat * 2 ^ 32 + ws.length) }
def loading (w : W64) : State := withPwr (fun p => { p with loadQ := [0] }) (withPrm (fun p => { p with
  dirValid := true, dir := [dirEnt 1 0 microImage, dirEnt 2 1 (progImage w)]
  arr := (microImage.zipIdx.map fun e => (e.2, withParity e.1)) ++ ((progImage w).zipIdx.map fun e => (256 + e.2, withParity e.1)) }) up)

set_option maxRecDepth 20000 in
theorem test_quad_load : (match (checkImage false 0 (loading 0x5A50000000000000)).1, (checkImage true 0 (loading 0x5A50000000000000)).1 with
      | .inr m, .inr p => decide (m = microImage ∧ p = progImage 0x5A50000000000000)
      | _, _ => false) = true ∧
    look (exec (.quadLoad 0) (loading 0x5A50000000000000)) (fun t => ((quad t 0).pstore.map (·.1), (chan t 3).cstore.map (·.1),
      t.pwr.loadQ)) = some ([0], [0], []) := by decide +kernel

set_option maxRecDepth 20000 in
theorem test_quad_load_refused : (match (checkImage false 0 (loading 0)).1, (checkImage true 0 (loading 0)).1 with
      | .inr m, .inl r => decide (m = microImage ∧ r = 2)
      | _, _ => false) = true ∧
    look (exec (.quadLoad 0) (loading 0)) (fun t => ((chan t 3).cstore, t.prm.lReason, t.prm.lProgram)) = some ([], 2, true) := by decide +kernel

/-- CommitResult: the first marked chunk of the image, of two. -/
def spoiltImage : State := modChan 0 (fun ch => { ch with scratch := { ch.scratch with mark := [(2, true), (4, true)] } }) (commitS 0 64 0)

theorem test_commit_poison : issuesOk (commitW 0) spoiltImage = true ∧ (readsScratch 0 0 64 512 spoiltImage).1[64]? = some (0, true) ∧
    ((readsScratch 0 0 64 512 spoiltImage).1.take 64).all (fun e => !e.2) = true ∧
    look (exec (.calcommitChange 0 0) spoiltImage) eventOf = some (4, 0, 128) := by decide +kernel
end Sys2Proof.Tests
end

section
/-! SUPPORT. The register port: an access in the words of the statements (R8, R59, R61, R510). -/

namespace Sys2Proof.Machine

open Sys2Proof Sys2Proof.Spec

/-! ## The forms of an access -/

theorem formMask_eq_covered {a : Acc} (ha : Word a) : formMask a = covered a := by
  rcases ha with rfl | rfl | rfl <;> rfl

theorem bit_covered {a : Acc} (ha : Word a) {i : Nat} (hi : i < 64) :
    bit (covered a) i = if i < 32 then low a else high a := by
  rcases ha with rfl | rfl | rfl <;> revert i <;> decide

theorem bit_covered_low {a : Acc} (ha : Word a) {i : Nat} (hi : i < 32) : bit (covered a) i = low a :=
  (bit_covered ha (by omega)).trans (if_pos hi)

theorem bit_covered_high {a : Acc} (ha : Word a) {i : Nat} (h32 : 32 ≤ i) (hi : i < 64) : bit (covered a) i = high a :=
  (bit_covered ha hi).trans (if_neg (by omega))

/-! ## What the port's own state leaves alone -/

@[simp] theorem atPort_lath (s : State) : (atPort s).lath = s.lath := rfl
@[simp] theorem atPort_ic (s : State) : (atPort s).ic = s.ic := rfl
@[simp] theorem lport_atPort (s : State) (x : BitVec 2) : lport (atPort s) x = lport s x := rfl

theorem lathRead_atPort (o : Nat) (s : State) : lathRead o (atPort s) = lathRead o s := by
  have hin : remoteIn (atPort s) = remoteIn s := rfl
  have hout : remoteOut (atPort s) = remoteOut s := rfl
  have hnode (i : Nat) : lathNode (atPort s) i = lathNode s i := rfl
  simp only [lathRead, hin, hout, hnode, lport_atPort, atPort_lath]

theorem readSet_atPort (w : Nat) (s : State) : readSet w (atPort s) = readSet w s := by
  have hn : nChan (atPort s) = nChan s := rfl
  have hch (c : Chan) : chRec (atPort s) c = chRec s c := rfl
  have hthere (c : Chan) : chanThere (atPort s) c = chanThere s c := rfl
  have hdie (i : Nat) : dieRec (atPort s) i = dieRec s i := rfl
  simp only [readSet, hn, hch, hthere, hdie]

theorem icRead_atPort (o : Nat) (s : State) : icRead o (atPort s) = icRead o s := by
  have hproc (p : Nat) : proc (atPort s) p = proc s p := rfl
  have hhold (g : Nat) : holdOf (atPort s) g = holdOf s g := rfl
  simp only [icRead, hproc, hhold, atPort_ic]

/-- No register's value depends on the responses that the port holds. -/
theorem regRead_atPort (o : Nat) (s : State) : regRead o (atPort s) = regRead o s := by
  have hgctl (o : Nat) : gctlRead o (atPort s) = gctlRead o s := rfl
  have hpwr (o : Nat) : pwrRead o (atPort s) = pwrRead o s := rfl
  have hcal (o : Nat) : calRead o (atPort s) = calRead o s := rfl
  have hsrv (o : Nat) : srvRead o (atPort s) = srvRead o s := rfl
  have hqe (o : Nat) : qeRead o (atPort s) = qeRead o s := rfl
  have hdma (e : BitVec 2) (o : Nat) : dmaRead e o (atPort s) = dmaRead e o s := rfl
  have hstg : stgThere (atPort s) = stgThere s := rfl
  have hhawk (o : Nat) : hawkRead o (atPort s) = hawkRead o s := rfl
  have hrnd (o : Nat) : rndRead o (atPort s) = rndRead o s := rfl
  have hplb (o : Nat) : plbRead o (atPort s) = plbRead o s := rfl
  have hint (o : Nat) : intRead o (atPort s) = intRead o s := rfl
  have hquad (c : Chan) : quadUp (atPort s) c = quadUp s c := rfl
  have hch (c : Chan) (o : Nat) : chRead c o (atPort s) = chRead c o s := rfl
  have hstr (i : BitVec 2) (k : Nat) : strRegRead i k (atPort s) = strRegRead i k s := rfl
  have hprm (o : Nat) : prmRegRead o (atPort s) = prmRegRead o s := rfl
  simp only [regRead, hgctl, hpwr, hcal, hsrv, hqe, hdma, hstg, hhawk, hrnd, hplb, hint, lathRead_atPort, readSet_atPort,
    hquad, hch, icRead_atPort, hstr, hprm]

/-! ## One transaction -/

/-- A write that finds the port free is its own answer. -/
theorem registerWrite_free {a : Acc} {v : W64} {s : State} {o : Nat} (hw : s.port.wait = none) (hh : s.port.held = []) :
    exec (.registerWrite o a v) s = .next (portAct ⟨true, o, a, v⟩ (atPort s)) := putReg_free hw hh o a v

/-- A word written at an aligned offset reaches its register, and an OK response leaves the port. -/
theorem registerWrite_word {a : Acc} {v : W64} {s : State} {o : Nat} (hs : PortFree s) (ha : Word a) (ho : o < 0x1000000)
    (h8 : o % 8 = 0) : exec (.registerWrite o a v) s = wrote (regWrite o (covered a) v (atPort s)) := by
  rw [← formMask_eq_covered ha]
  exact putReg_word hs.wait hs.held hs.boot ha ho h8 _ rfl

/-- Offsets whose read is the value of a register: not IC_MASK_SYNC, HAWK_ALLOC, a stream data window, or the Primer
window. -/
def ValueOffset (o : Nat) : Prop :=
  o ≠ 0x400008 ∧ ¬ (0x30100 ≤ o ∧ o < 0x30130) ∧
  ¬ (0x480000 ≤ o ∧ o < 0x500000 ∧ 0x10000 ≤ (o - 0x480000) % 0x20000) ∧ o < 0x800000

/-- A word read there gives the register's value and clears what a read clears, where no action stands for the value. -/
theorem getReg_value {a : Acc} {s : State} {o : Nat} (hs : PortFree s) (ha : Word a) (ho : ValueOffset o) (h8 : o % 8 = 0)
    (hact : actRead o (covered a) (atPort s) = none) :
    getReg o a s = returns (regRead o s &&& covered a) (regReadAct o (covered a) (atPort s)) := by
  obtain ⟨hsync, halloc, hwindow, hprimer⟩ := ho
  have hburst : a ≠ .burst := by rcases ha with rfl | rfl | rfl <;> decide
  rw [getReg_word hs.wait hs.held hs.boot ha (by omega) h8]
  change Host.Outcome.next (portRead o a (atPort s)) = _
  simp only [portRead, formMask_eq_covered ha, if_neg hburst, if_neg hsync, if_neg hwindow,
    if_neg (Nat.not_le.mpr hprimer), hact, regRead_atPort]
  rw [if_neg (fun h => halloc ⟨h.1, h.2.1⟩)]
  rfl

end Sys2Proof.Machine
end

section
/-! SUPPORT. The register port's forms (R8, R59-R61, R510). -/

namespace Sys2Proof.Machine

open Sys2Proof Sys2Proof.Spec

/-! ## Accesses that reach no register -/

/-- An access of a form that its offset does not take has no effect and gets an error response. -/
theorem portAct_formBad {r : PReq} {s : State} (ho : r.off < 0x1000000) (hb : formBad r = true) :
    (.next (portAct r (atPort s)) : Out) = fails (if r.form = .burst then List.replicate 8 0 else []) (atPort s) := by
  simp only [portAct, if_neg (Nat.not_le.mpr ho), hb, if_true]
  rfl

/-- Before READY every write but that of GCTL_RESET is ignored. -/
theorem portAct_write_notReady {o : Nat} {a : Acc} {v : W64} {s : State} (ho : o < 0x1000000)
    (hb : formBad ⟨true, o, a, v⟩ = false) (hr : s.gctl.boot ≠ .ready) (hreset : o ≠ 0x48) :
    (.next (portAct ⟨true, o, a, v⟩ (atPort s)) : Out) = wrote (atPort s) := by
  have hready : ready (atPort s) = false := decide_eq_false hr
  simp only [portAct, if_neg (Nat.not_le.mpr ho), hb, hready, hreset]
  rfl

/-- Before READY a word read gives 0, but of the registers that R510 names. -/
theorem portAct_read_notReady {o : Nat} {a : Acc} {v : W64} {s : State} (ho : o < 0x1000000) (ha : Word a)
    (hb : formBad ⟨false, o, a, v⟩ = false) (hr : s.gctl.boot ≠ .ready) (hboot : bootReadable o = false) :
    (.next (portAct ⟨false, o, a, v⟩ (atPort s)) : Out) = returns 0 (atPort s) := by
  have hready : ready (atPort s) = false := decide_eq_false hr
  have hburst : a ≠ .burst := by rcases ha with rfl | rfl | rfl <;> decide
  simp only [portAct, if_neg (Nat.not_le.mpr ho), hb, hready, hburst, hboot]
  rfl

/-- The reads that carry an action are reads of the offset that `readOff` names. -/
theorem readOff_exec {o : Nat} {f : Acc → Instr} (h : readOff o = some f) (a : Acc) (s : State) :
    exec (f a) s = getReg o a s ∧ o < 0x600000 ∧ bootReadable o = false := by
  unfold readOff at h
  repeat
    split at h
    · next ho =>
      subst ho
      cases h
      exact ⟨rfl, by decide, by decide⟩
  cases h

/-! ## The statements -/

theorem accessForms : AccessForms := by
  intro o v s hs ho
  refine ⟨fun a ha h8 => ?_, ?_, ?_, fun a f hf ha => ?_⟩
  · have hb : formBad ⟨true, o, a, v⟩ = true := by rcases ha with rfl | rfl | rfl <;> simpa [formBad] using h8
    have hburst : a ≠ .burst := by rcases ha with rfl | rfl | rfl <;> decide
    simpa [hburst] using (registerWrite_free hs.wait hs.held).trans (portAct_formBad (s := s) ho hb)
  · exact (registerWrite_free hs.wait hs.held).trans (portAct_formBad ho rfl)
  · exact (registerWrite_free hs.wait hs.held).trans (portAct_formBad ho rfl)
  · obtain ⟨hread, hlt, -⟩ := readOff_exec hf a s
    have hb : formBad ⟨false, o, a, 0⟩ = true := by
      rcases ha with rfl | rfl
      · simp [formBad, burstRange, hlt]
      · rfl
    rw [hread, getReg_free hs.wait hs.held]
    exact portAct_formBad ho hb

theorem beforeReady : BeforeReady := by
  intro o a v s hw hh hr ho h8 ha hreset
  have hb (w : Bool) (v : W64) : formBad ⟨w, o, a, v⟩ = false := by
    rcases ha with rfl | rfl | rfl <;> simpa [formBad] using h8
  refine ⟨(registerWrite_free hw hh).trans (portAct_write_notReady ho (hb true v) hr hreset), fun f hf => ?_⟩
  obtain ⟨hread, -, hboot⟩ := readOff_exec hf a s
  rw [hread, getReg_free hw hh]
  exact portAct_read_notReady ho ha (hb false 0) hr hboot

theorem portGo_waiting {s : State} (h : s.port.wait.isSome = true) : portGo s = s := by
  unfold portGo
  cases s.port.held.length with
  | zero => rfl
  | succ n => simp [portGoFuel, h]

theorem portHolds : PortHolds := by
  intro o a v s hw
  have hsome : s.port.wait.isSome = true := Option.isSome_iff_ne_none.mpr hw
  refine ⟨fun hlt => ?_, fun hge => ?_⟩
  · change Host.Outcome.next (portSubmit _ s) = _
    simp only [portSubmit, hsome, Nat.not_le.mpr hlt, decide_false, Bool.and_false]
    exact congrArg _ (portGo_waiting hsome)
  · change Host.Outcome.next (portSubmit _ s) = _
    simp only [portSubmit, hsome, hge, decide_true, Bool.and_true, if_true]
    rfl

/-- Settles O7: the port's forms, the lockout before READY, and the places behind a read that waits. -/
theorem portForms : Obligations.PortForms := ⟨accessForms, beforeReady, portHolds⟩

end Sys2Proof.Machine
end

section
/-! SUPPORT. Registers as bit fields, and which unit the aperture gives an offset to (R8, R85-R87). -/

namespace Sys2Proof.Machine

open Sys2Proof Sys2Proof.Spec

/-! ## Fields of a word -/

/-- The bits of the field of `len` bits from bit `lo`. -/
def fieldMask (lo len : Nat) : W64 := at_ lo (BitVec.allOnes len)

/-- A field put back in its place is the word's bits there. -/
theorem at_fld (v : W64) (lo len : Nat) : at_ lo (fld v lo len) = v &&& fieldMask lo len := by
  ext i hi
  simp only [at_, fld, fieldMask, BitVec.getElem_and, BitVec.getElem_shiftLeft, BitVec.getElem_setWidth,
    BitVec.getLsbD_extractLsb', BitVec.getLsbD_allOnes]
  by_cases h : i < lo
  · simp [h]
  · have hlo : lo + (i - lo) = i := by omega
    simp [h, hlo, hi, Bool.and_comm]

/-- A bit put back in its place is the word's bit there. -/
theorem flag_bit (v : W64) (i : Nat) : flag i (bit v i) = v &&& fieldMask i 1 := by
  rw [← at_fld]
  have h : at_ i (fld v i 1) = flag i ((fld v i 1).getLsbD 0) := by
    generalize fld v i 1 = b
    obtain rfl | rfl := b.eq_zero_or_eq_one <;> simp [at_, flag]
  rw [h]
  simp [fld, bit]

theorem fld_eq_ofNat_bits (v : W64) (lo len : Nat) : fld v lo len = BitVec.ofNat len (bits v lo len) := by
  apply BitVec.eq_of_toNat_eq
  rw [fld_toNat, BitVec.toNat_ofNat, bits, Nat.mod_mod]

theorem bit_eq_bits (v : W64) (i : Nat) : bit v i = decide (bits v i 1 = 1) := bit_eq v i

/-- A number of `len` bits times 32 is its bits with five zeros below. -/
theorem ofNat_bits_mul (v : W64) : BitVec.ofNat 48 (bits v 5 43 * 32) = fld v 5 43 ++ 0#5 := by
  apply BitVec.eq_of_toNat_eq
  have hlt : bits v 5 43 < 2 ^ 43 := Nat.mod_lt _ (by decide)
  rw [BitVec.toNat_append, fld_toNat, BitVec.toNat_ofNat]
  change bits v 5 43 * 32 % 2 ^ 48 = bits v 5 43 <<< 5 ||| 0
  rw [Nat.or_zero, Nat.shiftLeft_eq]
  omega

/-- A field of the low half that an access covers is the field of the data. -/
theorem fld_given {a : Acc} (ha : Word a) (h : low a = true) (v : W64) {lo len : Nat} (hl : lo + len ≤ 32) :
    fld (given a v) lo len = fld v lo len := by
  ext i hi
  have hc : bit (covered a) (lo + i) = true := (bit_covered_low ha (by omega)).trans h
  simp only [fld, given, BitVec.getElem_extractLsb', BitVec.getLsbD_and]
  rw [show (covered a).getLsbD (lo + i) = true from hc, Bool.and_true]

/-! ## The units of the aperture -/

theorem regWrite_plb {x o : Nat} (hx : x = 0x50000 + o) (ho : o < 0x10000) (m d : W64) (s : State) :
    regWrite x m d s = plbWrite o (merge (regRead x s) d m) s := by
  have e : x - 0x50000 = o := by omega
  simp (disch := omega) only [regWrite, if_neg, if_pos, e]

theorem regRead_plb {x o : Nat} (hx : x = 0x50000 + o) (ho : o < 0x10000) (s : State) :
    regRead x s = plbRead o s := by
  have e : x - 0x50000 = o := by omega
  simp (disch := omega) only [regRead, if_neg, if_pos, e]

theorem regWrite_dma {x k o : Nat} (hx : x = 0x20000 + 0x4000 * k + o) (hk : k < 4) (ho : o < 0x4000) (m d : W64)
    (s : State) : regWrite x m d s = dmaWrite (BitVec.ofNat 2 k) o m (merge (regRead x s) d m) (d &&& m) s := by
  have e1 : (x - 0x20000) / 0x4000 = k := by omega
  have e2 : (x - 0x20000) % 0x4000 = o := by omega
  simp (disch := omega) only [regWrite, if_neg, if_pos, e1, e2]

theorem regRead_dma {x k o : Nat} (hx : x = 0x20000 + 0x4000 * k + o) (hk : k < 4) (ho : o < 0x4000) (s : State) :
    regRead x s = dmaRead (BitVec.ofNat 2 k) o s := by
  have e1 : (x - 0x20000) / 0x4000 = k := by omega
  have e2 : (x - 0x20000) % 0x4000 = o := by omega
  simp (disch := omega) only [regRead, if_neg, if_pos, e1, e2]

theorem regWrite_stream {x k o : Nat} (hx : x = 0x480000 + 0x20000 * k + o) (hk : k < 4) (ho : o < 0x1000) (m d : W64)
    (s : State) : regWrite x m d s = strRegWrite (BitVec.ofNat 2 k) (o / 8) m (merge (regRead x s) d m) (d &&& m) s := by
  have e1 : (x - 0x480000) / 0x20000 = k := by omega
  have e2 : (x - 0x480000) % 0x20000 = o := by omega
  simp (disch := omega) only [regWrite, if_neg, if_pos, e1, e2]

theorem regRead_stream {x k o : Nat} (hx : x = 0x480000 + 0x20000 * k + o) (hk : k < 4) (ho : o < 0x1000) (s : State) :
    regRead x s = strRegRead (BitVec.ofNat 2 k) (o / 8) s := by
  have e1 : (x - 0x480000) / 0x20000 = k := by omega
  have e2 : (x - 0x480000) % 0x20000 = o := by omega
  simp (disch := omega) only [regRead, if_neg, if_pos, e1, e2]

theorem regWrite_ic {x o : Nat} (hx : x = 0x400000 + o) (ho : o < 0x80000) (m d : W64) (s : State) :
    regWrite x m d s = icWrite o m (merge (regRead x s) d m) (d &&& m) s := by
  have e : x - 0x400000 = o := by omega
  simp (disch := omega) only [regWrite, if_neg, if_pos, e]

theorem regWrite_prm {x o : Nat} (hx : x = 0x500000 + o) (ho : o < 0x100000) (m d : W64) (s : State) :
    regWrite x m d s = prmRegWrite o m (merge (regRead x s) d m) (d &&& m) s := by
  have e : x - 0x500000 = o := by omega
  simp (disch := omega) only [regWrite, if_neg, if_pos, e]

theorem windowOf_window {x c o : Nat} (hx : x = 0x300000 + 0x4000 * c + o) (ho : o < 0x4000) :
    windowOf x = (BitVec.ofNat 6 c, o) := by
  have e1 : (x - 0x300000) / 0x4000 = c := by omega
  have e2 : (x - 0x300000) % 0x4000 = o := by omega
  rw [windowOf, e1, e2]

/-- Offsets of a channel's window that hold a register of `chWrite`: not CH_FENCE_DATA, nor a view of scratch. -/
def PlainWindow (o : Nat) : Prop := o < 0x4000 ∧ o ≠ 0x40 ∧ viewAddr o = none

theorem regWrite_window {x c o : Nat} (hx : x = 0x300000 + 0x4000 * c + o) (hc : c < 64) (ho : PlainWindow o) (m d : W64)
    (s : State) : regWrite x m d s = if quadUp s (BitVec.ofNat 6 c) = true
      then chWrite (BitVec.ofNat 6 c) o m (merge (regRead x s) d m) (d &&& m) s else s := by
  obtain ⟨hlt, hfence, hview⟩ := ho
  simp (disch := omega) only [regWrite, if_neg, if_pos, windowOf_window hx hlt, hview]
  cases quadUp s (BitVec.ofNat 6 c) <;> rfl

theorem regRead_window {x c o : Nat} (hx : x = 0x300000 + 0x4000 * c + o) (hc : c < 64) (ho : o < 0x4000) (s : State) :
    regRead x s = if quadUp s (BitVec.ofNat 6 c) = true then chRead (BitVec.ofNat 6 c) o s else 0 := by
  simp (disch := omega) only [regRead, if_neg, if_pos, windowOf_window hx ho]

end Sys2Proof.Machine
end

section
/-! SUPPORT. Registers that store their fields, clear their flags, or ignore writes (R8, R55, R62, R463, R518). -/

namespace Sys2Proof.Machine

open Sys2Proof Sys2Proof.Spec

/-! ## What it is to store, and to clear -/

/-- A register stores the fields written and reads as those that exist while it is live, and else ignores writes; whether
it is live is not a matter of the port. -/
structure Stores (g : RwReg) (live : State → Prop) : Prop where
  lt : g.off < 0x1000000
  aligned : g.off % 8 = 0
  write : ∀ m d s, live s → regWrite g.off m d s = g.put (merge (regRead g.off s) d m) s
  read : ∀ v s, live s → regRead g.off (g.put v s) = v &&& g.has
  dead : ∀ m d s, ¬ live s → regWrite g.off m d s = s
  port : ∀ s, live (atPort s) ↔ live s

theorem Stores.exec_live {g : RwReg} {live : State → Prop} (hg : Stores g live) {a : Acc} {s : State} (hs : PortFree s)
    (ha : Word a) (h : live s) (v : W64) :
    exec (.registerWrite g.off a v) s = wrote (g.put (stored a (regRead g.off s) v) (atPort s)) := by
  rw [registerWrite_word hs ha hg.lt hg.aligned, hg.write _ _ _ ((hg.port s).mpr h), regRead_atPort]
  rfl

theorem Stores.exec_dead {g : RwReg} {live : State → Prop} (hg : Stores g live) {a : Acc} {s : State} (hs : PortFree s)
    (ha : Word a) (h : ¬ live s) (v : W64) : exec (.registerWrite g.off a v) s = wrote (atPort s) := by
  rw [registerWrite_word hs ha hg.lt hg.aligned, hg.dead _ _ _ (mt (hg.port s).mp h)]

/-- A write of 1 clears the flags of a register while it is live, and else it ignores writes. -/
structure Clears (off : Nat) (put : W64 → State → State) (live : State → Prop) : Prop where
  lt : off < 0x1000000
  aligned : off % 8 = 0
  write : ∀ m d s, live s → regWrite off m d s = put (d &&& m) s
  dead : ∀ m d s, ¬ live s → regWrite off m d s = s
  port : ∀ s, live (atPort s) ↔ live s

theorem Clears.exec_live {off : Nat} {put : W64 → State → State} {live : State → Prop} (hg : Clears off put live) {a : Acc}
    {s : State} (hs : PortFree s) (ha : Word a) (h : live s) (v : W64) :
    exec (.registerWrite off a v) s = wrote (put (given a v) (atPort s)) := by
  rw [registerWrite_word hs ha hg.lt hg.aligned, hg.write _ _ _ ((hg.port s).mpr h)]
  rfl

theorem Clears.exec_dead {off : Nat} {put : W64 → State → State} {live : State → Prop} (hg : Clears off put live) {a : Acc}
    {s : State} (hs : PortFree s) (ha : Word a) (h : ¬ live s) (v : W64) :
    exec (.registerWrite off a v) s = wrote (atPort s) := by
  rw [registerWrite_word hs ha hg.lt hg.aligned, hg.dead _ _ _ (mt (hg.port s).mp h)]

/-- A register whose writes test whether it is live. -/
theorem Stores.of_ite {g : RwReg} {live : State → Prop} [DecidablePred live] (lt : g.off < 0x1000000)
    (aligned : g.off % 8 = 0)
    (write : ∀ m d s, regWrite g.off m d s = if live s then g.put (merge (regRead g.off s) d m) s else s)
    (read : ∀ v s, live s → regRead g.off (g.put v s) = v &&& g.has) (port : ∀ s, live (atPort s) ↔ live s) :
    Stores g live :=
  ⟨lt, aligned, fun m d s h => (write m d s).trans (if_pos h), read, fun m d s h => (write m d s).trans (if_neg h), port⟩

/-- A register that is always live. -/
theorem Stores.always {g : RwReg} (lt : g.off < 0x1000000) (aligned : g.off % 8 = 0)
    (write : ∀ m d s, regWrite g.off m d s = g.put (merge (regRead g.off s) d m) s)
    (read : ∀ v s, regRead g.off (g.put v s) = v &&& g.has) : Stores g fun _ => True :=
  .of_ite lt aligned (fun m d s => (write m d s).trans (if_pos trivial).symm) (fun v s _ => read v s) fun _ => Iff.rfl

theorem Clears.of_ite {off : Nat} {put : W64 → State → State} {live : State → Prop} [DecidablePred live]
    (lt : off < 0x1000000) (aligned : off % 8 = 0)
    (write : ∀ m d s, regWrite off m d s = if live s then put (d &&& m) s else s) (port : ∀ s, live (atPort s) ↔ live s) :
    Clears off put live :=
  ⟨lt, aligned, fun m d s h => (write m d s).trans (if_pos h), fun m d s h => (write m d s).trans (if_neg h), port⟩

theorem Clears.always {off : Nat} {put : W64 → State → State} (lt : off < 0x1000000) (aligned : off % 8 = 0)
    (write : ∀ m d s, regWrite off m d s = put (d &&& m) s) : Clears off put fun _ => True :=
  .of_ite lt aligned (fun m d s => (write m d s).trans (if_pos trivial).symm) fun _ => Iff.rfl

/-! ## Single registers -/

theorem rwRegs_write : ∀ r ∈ rwRegs, ∀ m d s, regWrite r.off m d s = r.put (merge (regRead r.off s) d m) s := by
  simp only [rwRegs, List.forall_mem_cons]
  exact ⟨fun _ _ _ => rfl, fun _ _ _ => rfl, fun _ _ _ => rfl, fun _ _ _ => rfl, fun _ _ _ => rfl, fun _ _ _ => rfl,
    fun _ _ _ => rfl, fun _ _ _ => rfl, fun _ _ _ => rfl, fun _ _ _ => rfl, fun _ _ _ => rfl, nofun⟩

theorem rwRegs_read : ∀ r ∈ rwRegs, ∀ v s, regRead r.off (r.put v s) = v &&& r.has := by
  simp only [rwRegs, List.forall_mem_cons]
  refine ⟨?_, ?_, ?_, ?_, ?_, ?_, ?_, ?_, ?_, ?_, fun v _ => (BitVec.and_allOnes (x := v)).symm, nofun⟩
  all_goals
    intro v s
    simp [regRead, gctlRead, pwrRead, srvRead, plbRead, intRead, prmRegRead, at_fld, flag_bit, ← BitVec.and_or_distrib_left]
    rfl

theorem rwRegs_store : ∀ r ∈ rwRegs, Stores r fun _ => True := by
  have hoff : ∀ r ∈ rwRegs, r.off < 0x1000000 ∧ r.off % 8 = 0 := by simp only [rwRegs, List.forall_mem_cons]; decide
  exact fun r hr => .always (hoff r hr).1 (hoff r hr).2 (rwRegs_write r hr) (rwRegs_read r hr)

theorem clearRegs_write : ∀ r ∈ clearRegs, ∀ m d s, regWrite r.1 m d s = r.2 (d &&& m) s := by
  simp only [clearRegs, List.forall_mem_cons]
  exact ⟨fun _ _ _ => rfl, fun _ _ _ => rfl, fun _ _ _ => rfl, fun _ _ _ => rfl, fun _ _ _ => rfl, nofun⟩

theorem clearRegs_clear : ∀ r ∈ clearRegs, Clears r.1 r.2 fun _ => True := by
  have hoff : ∀ r ∈ clearRegs, r.1 < 0x1000000 ∧ r.1 % 8 = 0 := by simp only [clearRegs, List.forall_mem_cons]; decide
  exact fun r hr => .always (hoff r hr).1 (hoff r hr).2 (clearRegs_write r hr)

theorem readOnly_write : ∀ o ∈ readOnly, ∀ m d s, regWrite o m d s = s := by
  intro o ho m d s
  simp only [readOnly, List.mem_cons, List.not_mem_nil, or_false] at ho
  rcases ho with rfl | rfl | rfl | rfl | rfl | rfl | rfl | rfl | rfl | rfl | rfl | rfl | rfl | rfl | rfl | rfl | rfl | rfl |
    rfl | rfl | rfl | rfl | rfl | rfl | rfl <;> rfl

theorem plainStores : PlainStores := by
  intro a v s hs ha
  refine ⟨fun r hr => ?_, fun r hr => ?_, fun o ho => ?_⟩
  · exact ⟨(rwRegs_store r hr).exec_live hs ha trivial v, rwRegs_read r hr v s⟩
  · exact (clearRegs_clear r hr).exec_live hs ha trivial v
  · have hoff : ∀ o ∈ readOnly, o < 0x1000000 ∧ o % 8 = 0 := by decide
    rw [registerWrite_word hs ha (hoff o ho).1 (hoff o ho).2, readOnly_write o ho]

/-! ## Registers of one kind -/

/-- A register of a channel's window: what it stores and reads within the channel, while the quad has power. -/
theorem stores_ofChannel {n : Nat} {o : Nat → Nat} {has : W64} {put : Nat → W64 → Channel → Channel}
    (ho : ∀ j < n, o j % 8 = 0 ∧ PlainWindow (o j))
    (hw : ∀ j < n, ∀ c m v act s, chWrite c (o j) m v act s = modChan c (put j v) s)
    (hr : ∀ j < n, ∀ c v s, chRead c (o j) (modChan c (put j v) s) = v &&& has) {k : Nat} (hk : k < 64 * n) :
    Stores ((ofChannel n o has put).reg k) ((ofChannel n o has put).live k) := by
  have hj : k % n < n := Nat.mod_lt _ (by omega)
  have hc : k / n < 64 := Nat.div_lt_of_lt_mul (by omega)
  obtain ⟨h8, hplain⟩ := ho _ hj
  have hlt := hplain.1
  simp only [ofChannel]
  exact {
    lt := by dsimp only; omega
    aligned := by dsimp only; omega
    write := fun m d s h => by rw [regWrite_window rfl hc hplain, if_pos h, hw _ hj]
    read := fun v s h => by
      rw [regRead_window rfl hc hlt]
      exact (if_pos h).trans (hr _ hj _ v s)
    dead := fun m d s h => by rw [regWrite_window rfl hc hplain, if_neg h]
    port := fun _ => Iff.rfl }

theorem anyQueue_eq_false {s : State} : anyQueue s = false ↔ ∀ e ∈ s.qe.ctx, e.2.enabled = false := by simp [anyQueue]

theorem stores_levelMap {k : Nat} (hk : k < 16) : Stores (rwKinds[0].reg k) fun _ => True :=
  have e : (0x40 + 8 * k - 0x40) / 8 = k := by omega
  .always (by change 0x50040 + 8 * k < _; omega) (by change (0x50040 + 8 * k) % 8 = 0; omega)
    (fun m d s => by
      change regWrite (0x50040 + 8 * k) m d s = _
      rw [regWrite_plb (o := 0x40 + 8 * k) (by omega) (by omega)]
      simp (disch := omega) only [plbWrite, if_neg, if_pos, e]
      rfl)
    (fun v s => by
      change regRead (0x50040 + 8 * k) _ = _
      rw [regRead_plb (o := 0x40 + 8 * k) (by omega) (by omega)]
      simp (disch := omega) only [plbRead, if_neg, if_pos, e]
      change at_ 0 (tget 0 k (tset 0 k (fld v 0 32) s.plb.map)) = _
      rw [tget_tset, if_pos rfl, at_fld]
      rfl)

theorem stores_strCfg {k : Nat} (hk : k < 4) : Stores (rwKinds[1].reg k) fun _ => True :=
  have e : (BitVec.ofNat 2 k).toNat = k := by rw [BitVec.toNat_ofNat]; omega
  have hx : 0x480008 + 0x20000 * k = 0x480000 + 0x20000 * k + 8 := by omega
  .always (by change 0x480008 + 0x20000 * k < _; omega) (by change (0x480008 + 0x20000 * k) % 8 = 0; omega)
    (fun m d s => by
      refine (regWrite_stream hx hk (by decide) m d s).trans ?_
      simp only [strRegWrite, e]
      rfl)
    (fun v s => by
      refine (regRead_stream hx hk (by decide) _).trans ?_
      simp only [strRegRead, e]
      change _ = v &&& 0xFFFFFF9F000101FF
      simp [rwKinds, at_fld, flag_bit, ← BitVec.and_or_distrib_left]
      rfl)

/-- Five zeros below a value are five places. -/
theorem at_append_zeros {n : Nat} (x : BitVec n) : at_ 0 (x ++ 0#5) = at_ 5 x := by
  ext i hi
  simp [at_, BitVec.getLsbD_append]

theorem stores_dmaSlist {k : Nat} (hk : k < 4) : Stores (rwKinds[2].reg k) (rwKinds[2].live k) :=
  have hx : 0x20008 + 0x4000 * k = 0x20000 + 0x4000 * k + 8 := by omega
  .of_ite (live := fun s => (eng s (BitVec.ofNat 2 k)).senable = false)
    (by change 0x20008 + 0x4000 * k < _; omega) (by change (0x20008 + 0x4000 * k) % 8 = 0; omega)
    (fun m d s => by
      refine (regWrite_dma hx hk (by decide) m d s).trans ?_
      simp only [dmaWrite, ← ofNat_bits_mul]
      cases (eng s (BitVec.ofNat 2 k)).senable <;> rfl)
    (fun v s _ => by
      refine (regRead_dma hx hk (by decide) _).trans ?_
      change at_ 0 (eng (modEng _ _ s) _).slist = v &&& fieldMask 5 43
      rw [eng_modEng, ofNat_bits_mul, at_append_zeros, at_fld])
    fun _ => Iff.rfl

/-- A register that ignores writes while a queue is enabled. -/
theorem Stores.noQueue {g : RwReg} (lt : g.off < 0x1000000) (aligned : g.off % 8 = 0)
    (write : ∀ m d s, regWrite g.off m d s = if anyQueue s then s else g.put (merge (regRead g.off s) d m) s)
    (read : ∀ v s, regRead g.off (g.put v s) = v &&& g.has) : Stores g fun s => ∀ e ∈ s.qe.ctx, e.2.enabled = false := by
  simp only [← anyQueue_eq_false]
  refine .of_ite lt aligned (fun m d s => (write m d s).trans ?_) (fun v s _ => read v s) fun _ => Iff.rfl
  cases anyQueue s <;> rfl

/-- A register of a channel's window of which there is one. -/
theorem stores_ofChannel_single {o : Nat} {has : W64} {put : W64 → Channel → Channel} (h8 : o % 8 = 0) (ho : PlainWindow o)
    (hw : ∀ c m v act s, chWrite c o m v act s = modChan c (put v) s)
    (hr : ∀ c v s, chRead c o (modChan c (put v) s) = v &&& has) {k : Nat} (hk : k < 64 * 1) :
    Stores ((ofChannel 1 (fun _ => o) has fun _ => put).reg k) ((ofChannel 1 (fun _ => o) has fun _ => put).live k) :=
  stores_ofChannel (fun _ _ => ⟨h8, ho⟩) (fun _ _ => hw) (fun _ _ => hr) hk

/-- CH_FENCE_CLASS. -/
theorem chWrite_fenceClass {j : Nat} (hj : j < 8) (c : Chan) (m v act : W64) (s : State) :
    chWrite c (0x80 + 8 * j) m v act s =
      modChan c (fun x => { x with ctl := { x.ctl with fclass := tset 0 j v x.ctl.fclass } }) s := by
  have e : (0x80 + 8 * j - 0x80) / 8 = j := by omega
  simp (disch := omega) only [chWrite, if_neg, if_pos, e]

theorem chRead_fenceClass {j : Nat} (hj : j < 8) (c : Chan) (s : State) :
    chRead c (0x80 + 8 * j) s = tget 0 j (chan s c).ctl.fclass := by
  have e : (0x80 + 8 * j - 0x80) / 8 = j := by omega
  simp (disch := omega) only [chRead, if_neg, if_pos, e]

theorem rwKinds_store : ∀ r ∈ rwKinds, ∀ k < r.n, Stores (r.reg k) (r.live k) := by
  simp only [rwKinds, List.forall_mem_cons]
  refine ⟨fun k hk => stores_levelMap hk, fun k hk => stores_strCfg hk, fun k hk => stores_dmaSlist hk,
    fun k hk => ?qmode, fun k hk => ?ctxBase, fun k hk => ?rndCfg, fun k hk => ?ctxSel,
    fun k hk => stores_ofChannel_single rfl ⟨by decide, by decide, rfl⟩ (fun _ _ _ _ _ => rfl) ?calEntry hk,
    fun k hk => stores_ofChannel_single rfl ⟨by decide, by decide, rfl⟩ (fun _ _ _ _ _ => rfl) ?pump hk,
    fun k hk => stores_ofChannel_single rfl ⟨by decide, by decide, rfl⟩ (fun _ _ _ _ _ => rfl) ?fenceAddr hk,
    fun k hk => stores_ofChannel_single rfl ⟨by decide, by decide, rfl⟩ (fun _ _ _ _ _ => rfl) ?scramble hk,
    fun k hk => stores_ofChannel_single rfl ⟨by decide, by decide, rfl⟩ (fun _ _ _ _ _ => rfl) ?ldpc hk,
    fun k hk => stores_ofChannel_single rfl ⟨by decide, by decide, rfl⟩ (fun _ _ _ _ _ => rfl) ?softLlr hk,
    fun k hk => stores_ofChannel ?fenceOff (fun _ => chWrite_fenceClass) ?fenceClass hk, nofun⟩
  case qmode => exact .noQueue (by decide) rfl (fun _ _ _ => rfl) fun v _ => flag_bit v 0
  case ctxBase => exact .noQueue (by decide) rfl (fun _ _ _ => rfl) fun v _ => at_fld v 12 36
  case rndCfg | ctxSel =>
    exact .of_ite (by decide) rfl (fun _ _ _ => rfl) (fun v _ h => (if_pos h).trans (at_fld v 0 _))
      fun _ => Iff.rfl
  case calEntry | pump | fenceAddr | scramble | ldpc =>
    intro c v s
    simp [chRead, at_fld, flag_bit, ← BitVec.and_or_distrib_left]
    rfl
  case softLlr => intro c v s; simp [chRead]
  case fenceOff =>
    intro j hj
    exact ⟨by omega, by omega, by omega, by simp (disch := omega) only [viewAddr, if_neg]⟩
  case fenceClass =>
    intro j hj c v s
    rw [chRead_fenceClass hj, chan_modChan]
    dsimp only
    rw [tget_tset, if_pos rfl]
    exact BitVec.and_allOnes.symm

/-! ## Flags of registers of one kind -/

/-- A flag register of a channel's window. -/
theorem clears_ofChannel {o k : Nat} {put : W64 → State → State} (hk : k < 64) (h8 : o % 8 = 0) (ho : PlainWindow o)
    (hw : ∀ m v act s, chWrite (BitVec.ofNat 6 k) o m v act s = put act s) :
    Clears (0x300000 + o + 0x4000 * k) put fun s => quadUp s (BitVec.ofNat 6 k) = true :=
  have hlt := ho.1
  .of_ite (by omega) (by omega) (fun m d s => (regWrite_window (by omega) hk ho m d s).trans (by rw [hw])) fun _ => Iff.rfl

theorem clearKinds_clear : ∀ r ∈ clearKinds, ∀ k < r.n, Clears (r.off k) (r.put k) (r.live k) := by
  simp only [clearKinds, List.forall_mem_cons]
  refine ⟨fun k hk => ?rndStatus, fun k hk => ?hawkStatus, fun k hk => ?dmaStatus, fun k hk => ?ucodeVer,
    fun k hk => ?tracePtr, fun k hk => ?strStatus, nofun⟩
  case rndStatus | hawkStatus => exact .of_ite (by decide) rfl (fun _ _ _ => rfl) fun _ => Iff.rfl
  case dmaStatus =>
    exact .always (by omega) (by omega) fun m d s => regWrite_dma (o := 0x18) (by omega) hk (by decide) m d s
  case ucodeVer => exact clears_ofChannel (o := 0x08) hk rfl ⟨by decide, by decide, rfl⟩ fun _ _ _ _ => rfl
  case tracePtr =>
    refine clears_ofChannel (o := 0x68) hk rfl ⟨by decide, by decide, rfl⟩ fun m v act s => ?_
    change (if bit act 9 = true then _ else s) = _
    simp only [bit_eq_bits, decide_eq_true_eq]
    rfl
  case strStatus =>
    have e : (BitVec.ofNat 2 k).toNat = k := by rw [BitVec.toNat_ofNat]; omega
    refine .always (by omega) (by omega) fun m d s => ?_
    rw [regWrite_stream (o := 0x18) (by omega) hk (by decide)]
    simp only [strRegWrite, e]

theorem kindStores : KindStores := by
  intro a v k s hs ha
  refine ⟨fun r hr hk g hg => ?_, fun r hr hk => ?_⟩
  · subst hg
    have h := rwKinds_store r hr k hk
    exact ⟨fun hl => ⟨h.exec_live hs ha hl v, h.read v s hl⟩, fun hl => h.exec_dead hs ha hl v⟩
  · have h := clearKinds_clear r hr k hk
    exact ⟨fun hl => h.exec_live hs ha hl v, fun hl => h.exec_dead hs ha hl v⟩

end Sys2Proof.Machine
end

section
/-! SUPPORT. Registers with a guard of their own: CAL_MODE, PWR_WAKE_EN and PRM_WP (R55, R463, R518). -/

namespace Sys2Proof.Machine

open Sys2Proof Sys2Proof.Spec

theorem wakeBits_eq_wakeMask (s : State) : wakeBits s = wakeMask s := by
  unfold wakeBits domThere nQuad wakeMask
  cases s.variant <;> rfl

/-- CAL_MODE stores its fields, and reports the reserved MODE where its low half is written. -/
theorem regWrite_calMode (m d z : W64) (y s : State) (hz : z = merge (regRead 0x2000 s) d m)
    (hy : y = { s with cal := { s.cal with drift := fld z 32 16, period := fld z 16 16, mode := fld z 0 2 } }) :
    regWrite 0x2000 m d s = if bit m 0 && fld (d &&& m) 0 2 = 3
      then post srcCal { y with cal := { y.cal with badMode := true } } else y := by
  subst hz hy; rfl

theorem regWrite_wakeEn (m d : W64) (s : State) : regWrite 0x1010 m d s =
    { s with pwr := { s.pwr with wakeEn := fld (merge (regRead 0x1010 s) d m) 0 20 &&& wakeBits s } } := rfl

/-- The bits of PRM_WP are only set. -/
theorem regWrite_prmWp {j : Nat} (hj : j < 128) (m d : W64) (s : State) : regWrite (0x501000 + 8 * j) m d s =
    { s with prm := { s.prm with wp := tset 0 j (tget 0 j s.prm.wp ||| fld (d &&& m) 0 32) s.prm.wp } } := by
  have e : (0x1000 + 8 * j - 0x1000) / 8 = j := by omega
  rw [regWrite_prm (o := 0x1000 + 8 * j) (by omega) (by omega)]
  simp (disch := omega) only [prmRegWrite, if_neg, if_pos, e]
  rfl

theorem low_of_ne_high {a : Acc} (h : a ≠ .high) : low a = true := by simpa [low] using h

/-- What a write of CAL_MODE tests: the low half is written, with the reserved MODE. -/
theorem reservedMode_iff {a : Acc} (ha : Word a) (v : W64) :
    (bit (covered a) 0 && decide (fld (given a v) 0 2 = 3)) = (low a && decide (bits v 0 2 = 3)) := by
  rw [bit_covered_low ha (by decide)]
  cases hl : low a with
  | false => rfl
  | true =>
    have hf : fld v 0 2 = 3 ↔ bits v 0 2 = 3 := by
      rw [← BitVec.toNat_inj, fld_toNat]
      rfl
    rw [fld_given ha hl v (by decide)]
    simp only [hf]

theorem guardedStores : GuardedStores := by
  rintro a v s x hs ha rfl
  refine ⟨?mode, ?wake, fun j hj => ?protect⟩
  case mode =>
    rintro z y rfl rfl
    have hw := regWrite_calMode (covered a) v (stored a (regRead 0x2000 s) v) _ (atPort s)
      (by rw [regRead_atPort]; rfl) rfl
    have hg : v &&& covered a = given a v := rfl
    rw [hg, reservedMode_iff ha] at hw
    rw [registerWrite_word hs ha (by decide) rfl, hw]
    refine ⟨fun h => ?_, fun ha h3 => ?_⟩
    · have : (low a && decide (bits v 0 2 = 3)) = false := by
        rcases h with rfl | h
        · rfl
        · simp [h]
      rw [this]; rfl
    · rw [low_of_ne_high ha, h3]; rfl
  case wake =>
    rintro z rfl
    rw [registerWrite_word hs ha (by decide) rfl, regWrite_wakeEn, regRead_atPort, fld_eq_ofNat_bits, wakeBits_eq_wakeMask]
    rfl
  case protect =>
    rw [registerWrite_word hs ha (by omega) (by omega), regWrite_prmWp hj, fld_eq_ofNat_bits]
    rfl

end Sys2Proof.Machine
end

section
/-! SUPPORT. Writes of the interrupt controller's registers, and the vectors they withdraw (R414, R421-R427). -/

namespace Sys2Proof.Machine

open Sys2Proof Sys2Proof.Spec

/-! ## Marking for withdrawal -/

theorem tget_map_values {α : Type} {d : α} {g : Nat → α → α} (k : Nat) (h : g k d = d) (m : List (Nat × α)) :
    tget d k (m.map fun e => (e.1, g e.1 e.2)) = g k (tget d k m) := by
  induction m with
  | nil => simp [tget, h]
  | cons e m ih =>
    unfold tget at ih ⊢
    by_cases hk : e.1 = k
    · simp [hk]
    · simpa [hk] using ih

/-- The mark falls on the presented vectors that `f` holds of, and on no other. -/
theorem withdraws_markDue (f : Nat → Pres → Bool) (s : State) : Withdraws (proc s) f (markDue f s) := by
  intro p
  exact tget_map_values (d := ({} : Proc))
    (g := fun k x => { x with pres := x.pres.map fun v => { v with due := v.due || f k v } }) p rfl s.ic.proc

theorem withdraws_congr {y y' : Nat → Proc} {f g : Nat → Pres → Bool} {t : State} (h : Withdraws y f t)
    (hy : ∀ p, y p = y' p) (hf : ∀ p w, f p w = g p w) : Withdraws y' g t := by
  obtain rfl : y = y' := funext hy
  obtain rfl : f = g := funext fun p => funext (hf p)
  exact h

theorem proc_modProc_eq (k p : Nat) (f : Proc → Proc) (s : State) :
    proc (modProc k f s) p = if p = k then f (proc s p) else proc s p := by
  unfold proc modProc
  rw [tget_tmod]
  split
  · next h => rw [h]
  · rfl

theorem runPrio_markDue (f : Nat → Pres → Bool) (s : State) (p : Nat) :
    runPrio (proc (markDue f s) p) = runPrio (proc s p) := by rw [withdraws_markDue f s p]; rfl

/-! ## Writes by register -/

theorem icWrite_mask {k : Nat} (hk : k < 2064) (m v act : W64) (s : State) : ∀ y,
    y = { s with ic := { s.ic with mask := tset (BitVec.allOnes 64) k v s.ic.mask } } →
    icWrite (0x4000 + 8 * k) m v act s = markDue (fun _ w => maskOf y w.src) y := by
  rintro y rfl
  have e : (0x4000 + 8 * k - 0x4000) / 8 = k := by omega
  simp (disch := omega) only [icWrite, if_neg, if_pos, e]

theorem icWrite_pend {k : Nat} (hk : k < 2064) (m v act : W64) (s : State) : ∀ y,
    y = { s with ic := { s.ic with pend := tset 0 k (v &&& ~~~pendFixed k) s.ic.pend } } →
    icWrite (0xC000 + 8 * k) m v act s = markDue (fun _ w => !pendOf y w.src) y := by
  rintro y rfl
  have e : (0xC000 + 8 * k - 0xC000) / 8 = k := by omega
  simp (disch := omega) only [icWrite, if_neg, if_pos, e]

theorem icWrite_holdoff {k : Nat} (hk : k < 2064) (m v act : W64) (s : State) :
    icWrite (0x14000 + 8 * k) m v act s = { s with ic := { s.ic with
      hold := tset {} k { tget {} k s.ic.hold with value := fld v 0 16 } s.ic.hold } } := by
  have e : (0x14000 + 8 * k - 0x14000) / 8 = k := by omega
  simp (disch := omega) only [icWrite, if_neg, if_pos, e, holdOf]

theorem icWrite_prio {k : Nat} (hk : k < 8256) (m v act : W64) (s : State) :
    icWrite (0x20000 + 8 * k) m v act s = markDue (fun _ w => w.src / 16 = k && fld m (4 * (w.src % 16)) 4 ≠ 0)
      { s with ic := { s.ic with prio := tset 0 k v s.ic.prio } } := by
  have e : (0x20000 + 8 * k - 0x20000) / 8 = k := by omega
  simp (disch := omega) only [icWrite, if_neg, if_pos, e]

theorem icWrite_target {k : Nat} (hk : k < 33024) (m v act : W64) (s : State) : ∀ y,
    y = { s with ic := { s.ic with target := tset 0 k v s.ic.target } } →
    icWrite (0x38000 + 8 * k) m v act s = markDue (fun p w => !bit (targetOf y w.src) p) y := by
  rintro y rfl
  have e : (0x38000 + 8 * k - 0x38000) / 8 = k := by omega
  simp (disch := omega) only [icWrite, if_neg, if_pos, e]

theorem bit_procMask {k : Nat} (hk : k < 16) : bit procMask k = true := by revert k; decide

theorem icWrite_vbase {k : Nat} (hk : k < 16) (m v act : W64) (s : State) :
    icWrite (0x1000 + 0x40 * k) m v act s = markDue (fun p _ => p = k)
      (modProc k (fun x => { x with vbase := fld v 4 60, enable := bit v 0 }) s) := by
  have e1 : (0x1000 + 0x40 * k - 0x1000) / 64 = k := by omega
  have e2 : (0x1000 + 0x40 * k - 0x1000) % 64 = 0 := by omega
  simp (disch := omega) only [icWrite, if_neg, if_pos, e1, e2, bit_procMask hk]
  rfl

theorem icWrite_runPrio {k : Nat} (hk : k < 16) (m v act : W64) (s : State) : ∀ y,
    y = modProc k (fun x => { x with base := fld v 8 4 }) s →
    icWrite (0x1008 + 0x40 * k) m v act s = markDue (fun p w => p = k && w.prio.toNat ≤ runPrio (proc y k)) y := by
  rintro y rfl
  have e1 : (0x1008 + 0x40 * k - 0x1000) / 64 = k := by omega
  have e2 : (0x1008 + 0x40 * k - 0x1000) % 64 = 8 := by omega
  simp (disch := omega) only [icWrite, if_neg, if_pos, e1, e2, bit_procMask hk]
  rfl

/-! ## The statements -/

/-- A word written in the controller's range. -/
theorem registerWrite_ic {a : Acc} {s : State} {x o : Nat} (hs : PortFree s) (ha : Word a) (hx : x = 0x400000 + o)
    (ho : o < 0x80000) (h8 : o % 8 = 0) (v : W64) : exec (.registerWrite x a v) s =
      wrote (icWrite o (covered a) (stored a (regRead x s) v) (given a v) (atPort s)) := by
  rw [registerWrite_word hs ha (by omega) (by omega), regWrite_ic hx ho, regRead_atPort]
  rfl

/-- The bits of IC_PEND that stay 0 are those of the reserved function sources. -/
theorem bit_pendFixed (n : Nat) : bit (pendFixed (n / 64)) (n % 64) = decide (131085 ≤ n ∧ n ≤ 131327) := by
  have hfirst : ∀ i < 64, bit (0xFFFFFFFFFFFFE000 : W64) i = decide (13 ≤ i) := by decide
  have hall : ∀ i < 64, bit (BitVec.allOnes 64) i = true := by decide
  have hi : n % 64 < 64 := Nat.mod_lt _ (by decide)
  unfold pendFixed
  split
  · rw [hfirst _ hi, decide_eq_decide]
    omega
  · split
    · rw [hall _ hi, eq_comm, decide_eq_true_eq]
      omega
    · refine Eq.trans BitVec.getLsbD_zero (Eq.symm (decide_eq_false ?_))
      omega

theorem interruptStores : InterruptStores := by
  rintro o k a v z s x hs ha rfl rfl
  refine ⟨?mask, ?pend, ?holdoff, ?prio, ?target, ?vbase, ?runPrio⟩
  case mask =>
    rintro rfl hk
    refine ⟨_, (registerWrite_ic hs ha (o := 0x4000 + 8 * k) (by omega) (by omega) (by omega) v).trans
      (congrArg wrote (icWrite_mask hk _ _ _ _ _ rfl)), fun n => ?_, withdraws_markDue _ _, rfl⟩
    change (tget _ _ (tset _ _ _ s.ic.mask)).getLsbD _ = _
    rw [tget_tset]
    split <;> rfl
  case pend =>
    rintro rfl hk
    refine ⟨_, (registerWrite_ic hs ha (o := 0xC000 + 8 * k) (by omega) (by omega) (by omega) v).trans
      (congrArg wrote (icWrite_pend hk _ _ _ _ _ rfl)), fun n => ?_, withdraws_markDue _ _, rfl⟩
    change (tget _ _ (tset _ _ _ s.ic.pend)).getLsbD _ = _
    rw [tget_tset]
    split
    · next hn =>
      subst hn
      rw [← bit_pendFixed, BitVec.getLsbD_and, BitVec.getLsbD_not, decide_eq_true (Nat.mod_lt n (by decide)),
        Bool.true_and]
      rfl
    · rfl
  case holdoff =>
    rintro rfl hk
    rw [registerWrite_ic hs ha (o := 0x14000 + 8 * k) (by omega) (by omega) (by omega) v, icWrite_holdoff hk]
    rfl
  case prio =>
    rintro rfl hk
    refine ⟨_, (registerWrite_ic hs ha (o := 0x20000 + 8 * k) (by omega) (by omega) (by omega) v).trans
      (congrArg wrote (icWrite_prio hk _ _ _ _)), fun n => ?_, ?_, rfl⟩
    · change (fld (tget _ _ (tset _ _ _ s.ic.prio)) _ _).toNat = _
      rw [tget_tset, fld_toNat]
      split
      · rfl
      · exact (fld_toNat _ _ _).symm
    · refine withdraws_congr (withdraws_markDue _ _) (fun _ => rfl) fun p w => ?_
      have hzero : fld (covered a) (4 * (w.src % 16)) 4 ≠ 0 ↔ bits (covered a) (4 * (w.src % 16)) 4 ≠ 0 := by
        rw [ne_eq, ← BitVec.toNat_inj, fld_toNat]
        rfl
      simp only [hzero]
  case target =>
    rintro rfl hk
    refine ⟨_, (registerWrite_ic hs ha (o := 0x38000 + 8 * k) (by omega) (by omega) (by omega) v).trans
      (congrArg wrote (icWrite_target hk _ _ _ _ _ rfl)), fun n => ?_, withdraws_markDue _ _, rfl⟩
    change (fld (tget _ _ (tset _ _ _ s.ic.target)) _ _).toNat = _
    rw [tget_tset, fld_toNat]
    split
    · rfl
    · exact (fld_toNat _ _ _).symm
  case vbase =>
    rintro rfl hk
    refine ⟨_, (registerWrite_ic hs ha (o := 0x1000 + 0x40 * k) (by omega) (by omega) (by omega) v).trans
      (congrArg wrote (icWrite_vbase hk _ _ _ _)), ?_, rfl⟩
    exact withdraws_congr (withdraws_markDue _ _) (fun p => proc_modProc_eq k p _ _) fun _ _ => rfl
  case runPrio =>
    rintro rfl hk
    refine ⟨_, (registerWrite_ic hs ha (o := 0x1008 + 0x40 * k) (by omega) (by omega) (by omega) v).trans
      (congrArg wrote (icWrite_runPrio hk _ _ _ _ _ rfl)), ?_, rfl⟩
    refine withdraws_congr (withdraws_markDue _ _) (fun p => proc_modProc_eq k p _ _) fun p w => ?_
    rw [runPrio_markDue]
    by_cases hp : p = k
    · rw [hp]
    · simp only [hp, decide_false, Bool.false_and]

/-- Settles O8: each register, or each of a kind, stores, clears or ignores what is written, and the interrupt controller's
mark the vectors that R414 withdraws. -/
theorem registerStores : Obligations.RegisterStores := ⟨plainStores, kindStores, guardedStores, interruptStores⟩

end Sys2Proof.Machine
end

section
/-! SUPPORT. Registers whose read clears (R75, R223, R256, R257, R269, R405, R441, R445, R498, R501). -/

namespace Sys2Proof.Machine

open Sys2Proof Sys2Proof.Spec

/-! ## Registers of which there is one -/

/-- Below the windows of the channels, an offset outside the range of HAWK is that of a register's value. -/
theorem valueOffset_of_lt {o : Nat} (ho : o < 0x30000 ∨ 0x40000 ≤ o ∧ o < 0x300000) : ValueOffset o :=
  ⟨by omega, by omega, by omega, by omega⟩

theorem actRead_of_lt {o : Nat} (ho : o < 0x300000) (m : W64) (s : State) : actRead o m s = none := by
  simp (disch := omega) only [actRead, if_neg]

theorem readsClear : ReadsClear := by
  rintro a s x hs ha rfl
  have value {o : Nat} (ho : o < 0x30000 ∨ 0x40000 ≤ o ∧ o < 0x300000) (h8 : o % 8 = 0) :=
    getReg_value hs ha (valueOffset_of_lt ho) h8 (actRead_of_lt (by omega) _ _)
  refine ⟨(value (o := 0x3020) (by decide) rfl).trans ?servo, (value (o := 0x50020) (by decide) rfl).trans ?plumb,
    (value (o := 0x70018) (by decide) rfl).trans ?event, (value (o := 0x60000) (by decide) rfl).trans ?errlog,
    (value (o := 0x60010) (by decide) rfl).trans ?retire, fun v hv => (value (o := 0x100) (by decide) rfl).trans ?soft,
    (value (o := 0x1048) (by decide) rfl).trans ?tokens⟩
  case soft => subst hv; rcases ha with rfl | rfl | rfl <;> rfl
  all_goals rcases ha with rfl | rfl | rfl <;> rfl

/-! ## Registers of a channel, a stream and a Lath port -/

theorem chan_modReg (c d : Chan) (f : ChReg → ChReg) (s : State) :
    chan (modReg c f s) d = if d = c then { chan s c with reg := f (chan s c).reg } else chan s d := by
  unfold modReg modChan setChan chan
  rw [tget_tput]
  simp only [BitVec.toNat_inj]

theorem strm_modStrm_eq (i k : Nat) (f : Strm → Strm) (s : State) :
    strm (modStrm i f s) k = if k = i then f (strm s i) else strm s k := tget_tmod _ _ _ _ _

theorem lport_modLport (i k : BitVec 2) (f : LPort → LPort) (s : State) :
    lport (modLport i f s) k = if k = i then f (lport s i) else lport s k := by
  unfold modLport lport
  rw [tget_tmod]
  simp only [BitVec.toNat_inj]

theorem actRead_window {x c o : Nat} (hx : x = 0x300000 + 0x4000 * c + o) (hc : c < 64) (ho : PlainWindow o) (m : W64)
    (s : State) : actRead x m s = none := by
  obtain ⟨hlt, hfence, hview⟩ := ho
  simp (disch := omega) only [actRead, if_pos, windowOf_window hx hlt, hview, if_neg]
  cases quadUp s (BitVec.ofNat 6 c) <;> rfl

theorem regReadAct_window {x c o : Nat} (hx : x = 0x300000 + 0x4000 * c + o) (hc : c < 64) (ho : o < 0x4000) (m : W64)
    (s : State) : regReadAct x m s = if quadUp s (BitVec.ofNat 6 c) = true then chReadAct (BitVec.ofNat 6 c) o m s else s := by
  simp (disch := omega) only [regReadAct, if_neg, if_pos, windowOf_window hx ho]

/-- CH_LDPC_STAT. -/
theorem exec_chLdpcStatRead {a : Acc} {s : State} (hs : PortFree s) (ha : Word a) (c : Chan) :
    exec (.chLdpcStatRead c a) s = if quadUp s c = true
      then returns (ldpcStat (chan s c).reg &&& covered a) (chReadAct c 0x60 (covered a) (atPort s))
      else returns 0 (atPort s) := by
  have hx : chBase c + 0x60 = 0x300000 + 0x4000 * c.toNat + 0x60 := rfl
  have hc : c.toNat < 64 := c.isLt
  have hplain : PlainWindow 0x60 := ⟨by decide, by decide, rfl⟩
  refine (getReg_value hs ha (o := chBase c + 0x60) ⟨by omega, by omega, by omega, by omega⟩ (by omega)
    (actRead_window hx hc hplain _ _)).trans ?_
  rw [regRead_window hx hc hplain.1, regReadAct_window hx hc hplain.1, BitVec.ofNat_toNat, BitVec.setWidth_eq]
  change returns ((if quadUp s c = true then _ else _) &&& _) (if quadUp s c = true then _ else _) = _
  cases quadUp s c
  · simp
  · rfl

theorem chLdpcStat_clears {a : Acc} (ha : Word a) (c : Chan) (s : State) : ∀ t r, t = chReadAct c 0x60 (covered a) s →
    r = (chan s c).reg →
    chan t c = { chan s c with reg := { r with
      hardFail := if high a then 0 else r.hardFail, softOk := if high a then 0 else r.softOk,
      softFail := if low a then 0 else r.softFail, noBank := if low a then 0 else r.noBank } } ∧
    (∀ d : Chan, d ≠ c → chan t d = chan s d) ∧ { t with ch := s.ch } = s := by
  rintro t r rfl rfl
  have hlow : bit (covered a) 0 = low a := bit_covered_low ha (by decide)
  have hhigh : bit (covered a) 32 = high a := bit_covered_high ha (by decide) (by decide)
  simp only [chReadAct, hlow, hhigh]
  cases high a <;> cases low a <;>
    exact ⟨by simp [chan_modReg], fun d hd => by simp [chan_modReg, hd], rfl⟩

/-- STR_STATUS. -/
theorem exec_strStatusRead {a : Acc} {s : State} (hs : PortFree s) (ha : Word a) (i : BitVec 2) :
    exec (.strStatusRead i a) s = returns (strRegRead i 3 s &&& covered a) (if high a
      then modStrm i.toNat (fun x => { x with discarded := 0 }) (atPort s) else atPort s) := by
  have hi : i.toNat < 4 := i.isLt
  have hx : strBase i + 0x18 = 0x480000 + 0x20000 * i.toNat + 0x18 := rfl
  have hmod : (strBase i + 0x18 - 0x480000) % 0x20000 = 0x18 := by omega
  have hdiv : (strBase i + 0x18 - 0x480000) / 0x20000 = i.toNat := by omega
  have hact (m : W64) (t : State) : actRead (strBase i + 0x18) m t = none := by
    simp (disch := omega) only [actRead, if_neg]
  refine (getReg_value hs ha (o := strBase i + 0x18) ⟨by omega, by omega, by omega, by omega⟩ (by omega)
    (hact _ _)).trans ?_
  rw [regRead_stream hx hi (by decide), BitVec.ofNat_toNat, BitVec.setWidth_eq]
  simp (disch := omega) only [regReadAct, if_neg, if_pos, hdiv]
  have hhigh : bit (covered a) 48 = high a := bit_covered_high ha (by decide) (by decide)
  rw [hhigh]

/-- LATH_PORT_STATE. -/
theorem exec_lathPortStateRead {a : Acc} {s : State} (hs : PortFree s) (ha : Word a) {i : BitVec 2} (hi : i ≠ 3) :
    ∀ p, p = lport s i → exec (.lathPortStateRead i a) s = returns
      ((at_ 48 p.peer ||| at_ 32 p.peerEp ||| at_ 24 p.crcErr ||| at_ 16 p.downs ||| at_ 8 p.rate |||
        at_ 0 (linkCode p.link)) &&& covered a)
      (if low a then modLport i (fun p => { p with crcErr := 0, downs := 0 }) (atPort s) else atPort s) := by
  rintro p rfl
  have hi : i.toNat < 3 := by revert i; decide
  have hx : 0x70108 + 0x20 * i.toNat - 0x70000 = 0x108 + 0x20 * i.toNat := by omega
  have hdiv : (0x108 + 0x20 * i.toNat - 0x100) / 0x20 = i.toNat := by omega
  have hmod : (0x108 + 0x20 * i.toNat - 0x100) % 0x20 = 8 := by omega
  have hread : regRead (0x70108 + 0x20 * i.toNat) s = at_ 48 (lport s i).peer ||| at_ 32 (lport s i).peerEp |||
      at_ 24 (lport s i).crcErr ||| at_ 16 (lport s i).downs ||| at_ 8 (lport s i).rate |||
      at_ 0 (linkCode (lport s i).link) := by
    simp (disch := omega) only [regRead, lathRead, if_neg, if_pos, hx, hdiv, hmod, BitVec.ofNat_toNat, BitVec.setWidth_eq]
  have hclear : regReadAct (0x70108 + 0x20 * i.toNat) (covered a) (atPort s) =
      if low a then modLport i (fun p => { p with crcErr := 0, downs := 0 }) (atPort s) else atPort s := by
    have hlow : bit (covered a) 0 = low a := bit_covered_low ha (by decide)
    simp (disch := omega) only [regReadAct, lathReadAct, if_neg, if_pos, hx, hdiv, hmod, BitVec.ofNat_toNat,
      BitVec.setWidth_eq, decide_eq_true, decide_true, Bool.true_and, hlow]
  rw [← hread, ← hclear]
  exact getReg_value hs ha (valueOffset_of_lt (by omega)) (by omega) (actRead_of_lt (by omega) _ _)

theorem unitReadsClear : UnitReadsClear := by
  rintro a s x hs ha rfl
  refine ⟨fun c hc r hr => ?_, fun c hc => ?_, fun i q hq => ?_, fun i p hi hp => ?_⟩
  · refine ⟨_, (exec_chLdpcStatRead hs ha c).trans ?_, chLdpcStat_clears ha c (atPort s) _ r rfl hr⟩
    rw [if_pos hc, ← hr]
    rfl
  · rw [exec_chLdpcStatRead hs ha, hc]
    rfl
  · subst hq
    refine ⟨_, exec_strStatusRead hs ha i, ?_⟩
    cases high a
    · exact ⟨rfl, fun _ _ => rfl, rfl⟩
    · exact ⟨(strm_modStrm_eq _ _ _ _).trans (if_pos rfl), fun k hk => (strm_modStrm_eq _ _ _ _).trans (if_neg hk), rfl⟩
  · subst hp
    refine ⟨_, exec_lathPortStateRead hs ha hi _ rfl, ?_⟩
    cases low a
    · exact ⟨rfl, fun _ _ => rfl, rfl⟩
    · exact ⟨(lport_modLport _ _ _ _).trans (if_pos rfl), fun k hk => (lport_modLport _ _ _ _).trans (if_neg hk), rfl⟩

/-- Settles O9: each read gives its register's value, and clears the fields of the halves that it covers. -/
theorem readsThatClear : Obligations.ReadsThatClear := ⟨readsClear, unitReadsClear⟩

end Sys2Proof.Machine
end

section
/-! SUPPORT. The variant and the queue of a state, which no command changes, of whatever state (R23, R59, R346). One
lemma for each function of the model says that what the function answers holds what it was given. The lemmas are
rewriting rules, so that the proof of one function's lemma is its case split and the lemmas of what it calls. -/

namespace Sys2Proof.Machine

open Sys2Proof

/-- What no command changes: the variant and the commands that wait. -/
def held (s : State) : Variant × List Instr := (s.variant, s.pending)

/-- What the state of an instruction's effect holds. -/
def heldEff : Eff → Variant × List Instr
  | .write _ _ _ s | .plain s | .waited _ _ s | .waited0 s | .branch _ s | .event _ _ s | .wait _ s | .gone s => held s

/-- What the state of a yield check holds. -/
def heldYck : Yck → Variant × List Instr
  | .go s | .stop s => held s

/-- The command answers a next state, with the variant and the queue of `s`. -/
def Answers (s : State) (o : Out) : Prop := ∃ u, o = .next u ∧ held u = held s

theorem answers_next {s u : State} (h : held u = held s) : Answers s (.next u) := ⟨u, rfl, h⟩

/-! ## States that are built -/

@[simp] theorem held_mk {time free pfail brownout gctl pwr tok cal srv ic str hawk eng xfer rnd qe plb soft intg stg prm
    lath quad ch port fm} (s : State) :
    held (State.mk s.variant time free pfail brownout gctl pwr tok cal srv ic str hawk eng xfer rnd qe plb soft intg
      stg prm lath quad ch port fm s.pending) = held s := rfl

@[simp] theorem heldEff_write (rd d v s) : heldEff (.write rd d v s) = held s := rfl
@[simp] theorem heldEff_plain (s) : heldEff (.plain s) = held s := rfl
@[simp] theorem heldEff_waited (rd v s) : heldEff (.waited rd v s) = held s := rfl
@[simp] theorem heldEff_waited0 (s) : heldEff (.waited0 s) = held s := rfl
@[simp] theorem heldEff_branch (n s) : heldEff (.branch n s) = held s := rfl
@[simp] theorem heldEff_event (c d s) : heldEff (.event c d s) = held s := rfl
@[simp] theorem heldEff_wait (w s) : heldEff (.wait w s) = held s := rfl
@[simp] theorem heldEff_gone (s) : heldEff (.gone s) = held s := rfl
@[simp] theorem heldYck_go (s) : heldYck (.go s) = held s := rfl
@[simp] theorem heldYck_stop (s) : heldYck (.stop s) = held s := rfl

/-! ## Choices, pairs and folds -/

section
variable {α : Type} {c : Prop} [Decidable c] {y : Variant × List Instr}

@[simp] theorem held_ite (a b : State) : held (if c then a else b) = if c then held a else held b := apply_ite ..

@[simp] theorem heldEff_ite (a b : Eff) : heldEff (if c then a else b) = if c then heldEff a else heldEff b :=
  apply_ite ..

@[simp] theorem held_ite_snd (a b : α × State) :
    held (if c then a else b).2 = if c then held a.2 else held b.2 := by split <;> rfl

/-- The form of `held_ite` that leaves the condition alone. -/
theorem held_if {a b : State} (ha : held a = y) (hb : held b = y) : held (if c then a else b) = y := by
  split <;> assumption

theorem held_if_snd {a b : α × State} (ha : held a.2 = y) (hb : held b.2 = y) : held (if c then a else b).2 = y := by
  split <;> assumption

theorem held_of_ite {a b : Option (α × State)} {p} (ha : a = some p → held p.2 = y) (hb : b = some p → held p.2 = y) :
    (if c then a else b) = some p → held p.2 = y := by split <;> assumption

theorem held_of_some {x p : α × State} (h : held x.2 = y) : some x = some p → held p.2 = y := by
  rintro ⟨⟩
  exact h

theorem held_of_none {p : α × State} : none = some p → held p.2 = y := nofun

theorem held_mk_snd {a : α} {s : State} (h : held s = y) : held (a, s).2 = y := h

theorem held_of_snd {x : α × State} {a : α} {s : State} (e : x = (a, s)) (h : held x.2 = y) : held s = y := by
  subst e
  exact h

theorem held_getD {o : Option State} {d : State} (h : ∀ {u}, o = some u → held u = y) (hd : held d = y) :
    held (o.getD d) = y := by
  cases o with
  | none => exact hd
  | some u => exact h rfl

end

/-- A fold over a list, each of whose steps holds what it was given. -/
@[simp] theorem held_foldl {α : Type} {f : State → α → State} (l : List α) (s) (h : ∀ s a, held (f s a) = held s) :
    held (l.foldl f s) = held s := by
  induction l generalizing s with
  | nil => rfl
  | cons a l ih => exact (ih _).trans (h s a)

/-- A fold that carries a value beside the state. -/
@[simp] theorem held_foldl_snd {α β : Type} {f : β × State → α → β × State} (l : List α) (p)
    (h : ∀ p a, held (f p a).2 = held p.2) : held (l.foldl f p).2 = held p.2 := by
  induction l generalizing p with
  | nil => rfl
  | cons a l ih => exact (ih _).trans (h p a)

/-! ## Parts of the state -/

@[simp] theorem held_modChan (c f s) : held (modChan c f s) = held s := rfl
@[simp] theorem held_modThr (c t f s) : held (modThr c t f s) = held s := rfl
@[simp] theorem held_modReg (c f s) : held (modReg c f s) = held s := rfl
@[simp] theorem held_modStrm (i f s) : held (modStrm i f s) = held s := rfl
@[simp] theorem held_setRam (sp r s) : held (setRam sp r s) = held s := by cases sp <;> rfl
@[simp] theorem held_modRam (sp f s) : held (modRam sp f s) = held s := held_setRam ..

end Sys2Proof.Machine
end

section
/-! SUPPORT. The variant and the queue, which the shared operations, buffers, transfers and the Lath's sending side
hold. -/

namespace Sys2Proof.Machine

open Sys2Proof

/-! ## Ops -/

@[simp] theorem held_modQuad (q f s) : held (modQuad q f s) = held s := rfl
@[simp] theorem held_modEng (e f s) : held (modEng e f s) = held s := rfl
@[simp] theorem held_modPool (k f s) : held (modPool k f s) = held s := rfl
@[simp] theorem held_modProc (p f s) : held (modProc p f s) = held s := rfl
@[simp] theorem held_draw (s) : held (draw s).2 = held s := rfl
@[simp] theorem held_setDom (d x s) : held (setDom d x s) = held s := rfl
@[simp] theorem held_setPend (n b s) : held (setPend n b s) = held s := rfl
@[simp] theorem held_post (n s) : held (post n s) = held s := by simp [post]
@[simp] theorem held_resample (s) : held (resample s) = held s := by simp [resample]
@[simp] theorem held_grantPlaces (i s) : held (grantPlaces i s) = held s := by simp [grantPlaces]
@[simp] theorem held_crossing (i before s) : held (crossing i before s) = held s := by simp [crossing]
@[simp] theorem held_sendWord (i sw s) : held (sendWord i sw s) = held s := by simp [sendWord]

@[simp] theorem held_grant (i s) : held (grant i s) = held s := by
  unfold grant; dsimp only
  split <;> simp

theorem held_popWord {i s p} (h : popWord i s = some p) : held p.2 = held s := by
  unfold popWord at h
  split at h
  · cases h
  · cases h; simp

theorem held_windowPop {i s p} (h : windowPop i s = some p) : held p.2 = held s := by
  unfold windowPop at h
  split at h
  · cases h
  · cases h; simpa using held_popWord ‹_›

@[simp] theorem held_respond (rs s) : held (respond rs s) = held s := rfl

@[simp] theorem held_windowServe (i s) : held (windowServe i s) = held s := by
  unfold windowServe
  split
  · split
    · split
      · rfl
      · simpa using held_windowPop ‹_›
    · rfl
  · rfl

@[simp] theorem held_grantServe (i s) : held (grantServe i s) = held s := by simp [grantServe]
@[simp] theorem held_acceptWord (i sw s) : held (acceptWord i sw s) = held s := by simp [acceptWord]
@[simp] theorem held_logRec (kind intr loc detail s) : held (logRec kind intr loc detail s) = held s := by simp [logRec]
@[simp] theorem held_hit (k s) : held (hit k s) = held s := rfl
@[simp] theorem held_setMark (sp a b s) : held (setMark sp a b s) = held s := by simp [setMark]
@[simp] theorem held_checkGroup (sp a rq s) : held (checkGroup sp a rq s) = held s := by simp [checkGroup]

@[simp] theorem held_logParity (sp a m rq s) : held (logParity sp a m rq s) = held s := by
  unfold logParity; split <;> simp

@[simp] theorem held_readWord (sp w lo n rq s) : held (readWord sp w lo n rq s).2 = held s := by simp [readWord]

@[simp] theorem held_readFuel (sp rq) : ∀ fuel a n s, held (readFuel sp rq fuel a n s).2 = held s
  | 0, _, _, _ => rfl
  | fuel + 1, a, n, s => by simp [readFuel, held_readFuel sp rq fuel]

@[simp] theorem held_readMem (sp a n rq s) : held (readMem sp a n rq s).2 = held s := held_readFuel ..
@[simp] theorem held_pathCheck (sp a rq s) : held (pathCheck sp a rq s) = held s := by simp [pathCheck]
@[simp] theorem held_pathOut (rq r) : held (pathOut rq r).2 = held r.2 := by simp [pathOut]
@[simp] theorem held_writeChunk (sp a bs rq s) : held (writeChunk sp a bs rq s) = held s := by simp [writeChunk]

@[simp] theorem held_writeFuel (sp rq) : ∀ fuel a bs s, held (writeFuel sp rq fuel a bs s) = held s
  | 0, _, _, _ => rfl
  | fuel + 1, a, bs, s => by simp [writeFuel, held_writeFuel sp rq fuel]

@[simp] theorem held_writeMem (sp a bs rq s) : held (writeMem sp a bs rq s) = held s := held_writeFuel ..
@[simp] theorem held_putWords (sp a ws rq s) : held (putWords sp a ws rq s) = held s := by simp [putWords]
@[simp] theorem held_markRange (sp a n b s) : held (markRange sp a n b s) = held s := by simp [markRange]

/-! ## EntryOps -/

@[simp] theorem held_modEntry (id f s) : held (modEntry id f s) = held s := rfl
@[simp] theorem held_dropEntry (id s) : held (dropEntry id s) = held s := rfl
@[simp] theorem held_modQctx (k f s) : held (modQctx k f s) = held s := rfl

/-! ## Xfer -/

@[simp] theorem held_stgRead (a n rq s) : held (stgRead a n rq s).2 = held s := by
  unfold stgRead; dsimp only
  split
  · exact held_readMem ..
  · exact held_mk_snd ((held_readMem ..).trans (held_readMem ..))

@[simp] theorem held_stgWrite (a bs rq s) : held (stgWrite a bs rq s) = held s := by simp [stgWrite]
@[simp] theorem held_bufRead (h off n rq s) : held (bufRead h off n rq s).2 = held s := by simp [bufRead]
@[simp] theorem held_bufWrite (h off bs rq s) : held (bufWrite h off bs rq s) = held s := by simp [bufWrite]
@[simp] theorem held_modXfer (x f s) : held (modXfer x f s) = held s := rfl
@[simp] theorem held_modDsc (x i f s) : held (modDsc x i f s) = held s := by simp [modDsc]
@[simp] theorem held_dropXfer (x s) : held (dropXfer x s) = held s := rfl
@[simp] theorem held_issueFm (r s) : held (issueFm r s) = held s := rfl

@[simp] theorem held_xferBytes (x off n s) : held (xferBytes x off n s).2 = held s := by
  unfold xferBytes; split <;> simp

@[simp] theorem held_issueTxn (r i j s) : held (issueTxn r i j s) = held s := by
  unfold issueTxn
  (repeat' split) <;> simp

@[simp] theorem held_doWork (r w s) : held (doWork r w s) = held s := by
  unfold doWork
  split
  · rfl
  · cases w with
    | desc | data => simp
    | word2 | word3 =>
      dsimp only [modXfer]
      split
      · simp
      · split <;> simp

theorem held_dmaNext {e s u} (h : dmaNext e s = some u) : held u = held s := by
  unfold dmaNext at h
  split at h
  · cases h
  · split at h
    · cases h; simp
    · obtain ⟨w, -, rfl⟩ := Option.map_eq_some_iff.1 h
      simp

theorem held_fmStep {e s u} (h : fmStep e s = some u) : held u = held s := by
  unfold fmStep at h
  split at h
  · cases h
  · dsimp only at h
    split at h
    · split at h
      · cases h; simp
      · obtain ⟨w, hw, rfl⟩ := Option.map_eq_some_iff.1 h
        simp [held_dmaNext hw]
    · obtain ⟨w, hw, rfl⟩ := Option.map_eq_some_iff.1 h
      simp [held_dmaNext hw]

@[simp] theorem held_fmGo (e) : ∀ fuel s, held (fmGo e fuel s) = held s
  | 0, _ => rfl
  | fuel + 1, s => by
    unfold fmGo
    split
    · rw [held_fmGo e fuel, held_fmStep ‹_›]
    · rfl

@[simp] theorem held_pumpEng (e s) : held (pumpEng e s) = held s := by simp [pumpEng]
@[simp] theorem held_issueQe (r s) : held (issueQe r s) = held s := by simp [issueQe]
@[simp] theorem held_joinEng (e s) : held (joinEng e s) = held s := by simp [joinEng]

@[simp] theorem held_startXfer (id sq toBlock dmode daddr dlen frags h s) :
    held (startXfer id sq toBlock dmode daddr dlen frags h s) = held s := by simp [startXfer]

/-! ## Threads -/

@[simp] theorem held_operand (c t r s) : held (operand c t r s).2 = held s := by simp [operand]
@[simp] theorem held_finishWait (c t rd v s) : held (finishWait c t rd v s) = held s := by simp [finishWait]
@[simp] theorem held_hold (c t w s) : held (hold c t w s) = held s := by simp [hold]

/-! ## Hawk -/

@[simp] theorem held_rebuildPool (k s) : held (rebuildPool k s) = held s := by simp [rebuildPool]
@[simp] theorem held_rebuildPools (s) : held (rebuildPools s) = held s := by simp [rebuildPools]
@[simp] theorem held_lowCheck (k before s) : held (lowCheck k before s) = held s := by simp [lowCheck]

@[simp] theorem held_popBuffer (k s) : held (popBuffer k s).2 = held s := by
  unfold popBuffer; split <;> simp

theorem held_alloc {k fall s p} (h : alloc k fall s = some p) : held p.2 = held s := by
  unfold alloc at h
  split at h
  · cases h; simp
  · cases h

@[simp] theorem held_joinWaiting (r s) : held (joinWaiting r s) = held s := rfl

@[simp] theorem held_deliver (w h s) : held (deliver w h s) = held s := by
  unfold deliver
  (repeat' split) <;> simp

@[simp] theorem held_serve : ∀ rs kept s, held (serve rs kept s) = held s
  | [], _, _ => rfl
  | r :: rs, kept, s => by
    unfold serve
    split <;> simp [held_serve rs]

@[simp] theorem held_serveWaiting (s) : held (serveWaiting s) = held s := by simp [serveWaiting]
@[simp] theorem held_badHandle (h s) : held (badHandle h s) = held s := by simp [badHandle]

@[simp] theorem held_freeBuffer (h only s) : held (freeBuffer h only s) = held s := by
  unfold freeBuffer; split <;> simp

@[simp] theorem held_dropWaiter (w s) : held (dropWaiter w s) = held s := rfl
@[simp] theorem held_withholdStart (s) : held (withholdStart s) = held s := by simp [withholdStart]
@[simp] theorem held_withholdEnd (k s) : held (withholdEnd k s) = held s := by simp [withholdEnd]

/-! ## Dma -/

@[simp] theorem held_finishEntry (id status result s) : held (finishEntry id status result s) = held s := by
  simp [finishEntry]

@[simp] theorem held_freeEntryBuffer (h s) : held (freeEntryBuffer h s) = held s := by simp [freeEntryBuffer]

@[simp] theorem held_endEntryXfer (id x s) : held (endEntryXfer id x s) = held s := by
  unfold endEntryXfer; dsimp only
  (repeat' split) <;> simp

@[simp] theorem held_stopStream (e reason s) : held (stopStream e reason s) = held s := by simp [stopStream]

@[simp] theorem held_streamSettled (e i err s) : held (streamSettled e i err s) = held s := by
  unfold streamSettled
  (repeat' split) <;> simp

@[simp] theorem held_closeXfer (r s) : held (closeXfer r s) = held s := by
  unfold closeXfer
  (repeat' split) <;> simp

@[simp] theorem held_stepXfer (r s) : held (stepXfer r s) = held s := by
  unfold stepXfer; split <;> simp

theorem held_takeFm {who s p} (h : takeFm who s = some p) : held p.2 = held s := by
  unfold takeFm at h
  split at h
  · cases h; rfl
  · cases h

theorem held_takeFmAt {who n s p} (h : takeFmAt who n s = some p) : held p.2 = held s := by
  obtain ⟨r, -, rfl⟩ := Option.map_eq_some_iff.1 h
  rfl

@[simp] theorem held_earlyFault (r reason index s) : held (earlyFault r reason index s) = held s := by simp [earlyFault]
@[simp] theorem held_listNext (r n a s) : held (listNext r n a s) = held s := by simp [listNext]

@[simp] theorem held_entryDescRead (id resp s) : held (entryDescRead id resp s) = held s := by
  unfold entryDescRead; dsimp only
  (repeat' split) <;> simp

@[simp] theorem held_addStream (e ds bytes due s) : held (addStream e ds bytes due s) = held s := by
  unfold addStream; split <;> simp

@[simp] theorem held_refuseStream (e reason d s) : held (refuseStream e reason d s) = held s := by simp [refuseStream]

@[simp] theorem held_streamDescRead (e resp s) : held (streamDescRead e resp s) = held s := by
  unfold streamDescRead; dsimp only
  (repeat' split) <;> simp

@[simp] theorem held_descReadDone (x resp s) : held (descReadDone x resp s) = held s := by
  unfold descReadDone
  split
  · rfl
  · rename_i h
    cases x <;> simp [held_takeFm h]

@[simp] theorem held_setTxn (x i j t p s) : held (setTxn x i j t p s) = held s := by simp [setTxn]

@[simp] theorem held_popWords (i) : ∀ n s, held (popWords i n s) = held s
  | 0, _ => rfl
  | n + 1, s => by
    unfold popWords
    split
    · exact (held_popWords i n _).trans (held_popWord ‹_›)
    · rfl

@[simp] theorem held_dataResponse (x i j resp s) : held (dataResponse x i j resp s) = held s := by
  unfold dataResponse
  split
  · split
    · rfl
    · rename_i h _ _ _ _
      cases x <;> dsimp only <;> split <;> simp [held_takeFm h]
  · rfl

@[simp] theorem held_endWback (x i wb err s) : held (endWback x i wb err s) = held s := by
  unfold endWback; dsimp only
  split <;> simp

@[simp] theorem held_wbackResponse (x i err s) : held (wbackResponse x i err s) = held s := by
  unfold wbackResponse
  split
  · split
    · exact held_takeFm ‹_›
    · simp [held_takeFm ‹_›]
  · rfl

@[simp] theorem held_streamBurst (e s) : held (streamBurst e s) = held s := by simp [streamBurst]
@[simp] theorem held_senableSet (e s) : held (senableSet e s) = held s := by simp [senableSet]
@[simp] theorem held_senableClear (e s) : held (senableClear e s) = held s := by simp [senableClear]
@[simp] theorem held_sdoor (e s) : held (sdoor e s) = held s := by simp [sdoor]

/-! ## LathBase -/

@[simp] theorem held_modLport (x f s) : held (modLport x f s) = held s := rfl
@[simp] theorem held_lathEvent (kind port node s) : held (lathEvent kind port node s) = held s := by simp [lathEvent]
@[simp] theorem held_discardFrame (s) : held (discardFrame s) = held s := rfl
@[simp] theorem held_startTimers (tags s) : held (startTimers tags s) = held s := by simp [startTimers]
@[simp] theorem held_giveBack (x b n s) : held (giveBack x b n s) = held s := by simp [giveBack]
@[simp] theorem held_giveQueued (q s) : held (giveQueued q s) = held s := by simp [giveQueued]
@[simp] theorem held_trainStart (x s) : held (trainStart x s) = held s := by simp [trainStart]
@[simp] theorem held_trainAll (s) : held (trainAll s) = held s := by simp [trainAll]
@[simp] theorem held_pumpLath (x s) : held (pumpLath x s) = held s := by simp [pumpLath]
@[simp] theorem held_enqueue (x q s) : held (enqueue x q s) = held s := by simp [enqueue]

@[simp] theorem held_sendRoute (mode port route f s) : held (sendRoute mode port route f s) = held s := by
  unfold sendRoute
  (repeat' split) <;> simp

@[simp] theorem held_sendNode (n f s) : held (sendNode n f s) = held s := by
  unfold sendNode; split <;> simp

@[simp] theorem held_sendData (n cls tag) : ∀ fuel bs s, held (sendData n cls tag fuel bs s) = held s
  | 0, _, _ => rfl
  | fuel + 1, bs, s => by simp [sendData, held_sendData n cls tag fuel]

@[simp] theorem held_sendComplete (src tag status result data s) :
    held (sendComplete src tag status result data s) = held s := by simp [sendComplete]

end Sys2Proof.Machine
end

section
/-! SUPPORT. The variant and the queue, which threads and their instructions, calibration, queue contexts and the fence
hold. -/

namespace Sys2Proof.Machine

open Sys2Proof

/-! ## Operands -/

@[simp] theorem held_fetchInstr (q i s) : held (fetchInstr q i s).2 = held s := by
  unfold fetchInstr
  (repeat' split) <;> simp

@[simp] theorem held_wantCalib (c s) : held (wantCalib c s) = held s := by simp [wantCalib]
@[simp] theorem held_toIdle (c t s) : held (toIdle c t s) = held s := by simp [toIdle]
@[simp] theorem held_closePacket (c t s) : held (closePacket c t s).2 = held s := by simp [closePacket]
@[simp] theorem held_endHost (e h st res s) : held (endHost e h st res s) = held s := by simp [endHost]

@[simp] theorem held_endRemote (e src tag port h st res s) : held (endRemote e src tag port h st res s) = held s := by
  simp [endRemote]

@[simp] theorem held_endFetch (e h st s) : held (endFetch e h st s) = held s := by simp [endFetch]

@[simp] theorem held_endEntry (c t id st res s) : held (endEntry c t id st res s) = held s := by
  unfold endEntry
  (repeat' split) <;> simp

@[simp] theorem held_noteOut (c t o b k s) : held (noteOut c t o b k s) = held s := by simp [noteOut]
@[simp] theorem held_judgePrio (c th p s) : held (judgePrio c th p s) = held s := by simp [judgePrio]
@[simp] theorem held_mapLevels (d s) : held (mapLevels d s) = held s := by simp [mapLevels]
@[simp] theorem held_fillTable (c j s) : held (fillTable c j s) = held s := by simp [fillTable]
@[simp] theorem held_initLeaves (c s) : held (initLeaves c s) = held s := by simp [initLeaves]

@[simp] theorem held_libLeaves (op c e st s) : held (libLeaves op c e st s) = held s := by
  unfold libLeaves; split <;> simp

@[simp] theorem held_endLeaves (c th st s) : held (endLeaves c th st s) = held s := by
  unfold endLeaves
  (repeat' split) <;> simp

@[simp] theorem held_tryEnd (c t s) : held (tryEnd c t s) = held s := by
  unfold tryEnd; dsimp only
  (repeat' split) <;> simp

@[simp] theorem held_setEnding (c t st res s) : held (setEnding c t st res s) = held s := by simp [setEnding]
@[simp] theorem held_recordFault (c t code pc s) : held (recordFault c t code pc s) = held s := by simp [recordFault]

@[simp] theorem held_eventWords (c t code pc detail s) : held (eventWords c t code pc detail s) = held s := by
  simp [eventWords]

@[simp] theorem held_endByEvent (c t code pc s) : held (endByEvent c t code pc s) = held s := by simp [endByEvent]

@[simp] theorem held_raiseEvent (c t code detail pc s) : held (raiseEvent c t code detail pc s) = held s := by
  unfold raiseEvent; dsimp only
  split <;> simp

@[simp] theorem held_recognise (c t s) : held (recognise c t s) = held s := by simp [recognise]

@[simp] theorem held_applyEff (c t e) : held (applyEff c t e) = heldEff e := by
  cases e <;> simp [applyEff]

@[simp] theorem held_issue (c t key sem s) (h : ∀ w s, heldEff (sem w s) = held s) :
    held (issue c t key sem s) = held s := by
  unfold issue; dsimp only
  split
  · rfl
  · split
    · simp
    · split <;> simp [h]

@[simp] theorem held_retry (c t key s sem) (h : ∀ w, heldEff (sem w) = held s) :
    held (retry c t key s sem) = held s := by
  simp [retry, h]

@[simp] theorem heldEff_formR (c t d f w s) : heldEff (formR c t d f w s) = held s := by simp [formR]
@[simp] theorem heldEff_formI (c t d f w s) : heldEff (formI c t d f w s) = held s := by simp [formI]
@[simp] theorem heldEff_formU (c t d f w s) : heldEff (formU c t d f w s) = held s := by simp [formU]

/-! ## Move -/

@[simp] theorem held_locRead (sp a n rq s) : held (locRead sp a n rq s).2 = held s := by simp [locRead]
@[simp] theorem held_locWrite (sp a bs rq s) : held (locWrite sp a bs rq s) = held s := by simp [locWrite]

@[simp] theorem held_putWord (c t dp b moved dirty w s) : held (putWord c t dp b moved dirty w s).2 = held s := by
  simp [putWord]

@[simp] theorem held_copyWord (c t sp a moved ahead s) : held (copyWord c t sp a moved ahead s).2 = held s := by
  simp [copyWord]

@[simp] theorem held_pushWord (c t w em poison s) : held (pushWord c t w em poison s) = held s := by simp [pushWord]
@[simp] theorem held_unlockPop (c t i s) : held (unlockPop c t i s) = held s := by simp [unlockPop]

@[simp] theorem held_copyStep (c t sp a dp b moved ahead dirty s) :
    held (copyStep c t sp a dp b moved ahead dirty s).s = held s := by simp [copyStep]

@[simp] theorem held_pushStep (c t sp a moved last s) : held (pushStep c t sp a moved last s).s = held s := by
  unfold pushStep; dsimp only
  (repeat' split) <;> simp

@[simp] theorem held_popStep (c t i dp b moved dirty s) : held (popStep c t i dp b moved dirty s).s = held s := by
  unfold popStep; dsimp only
  split
  · rfl
  · split
    · simp
    · simp [held_popWord ‹_›]

@[simp] theorem held_passStep (c t i moved em last s) : held (passStep c t i moved em last s).s = held s := by
  unfold passStep; dsimp only
  split
  · rfl
  · split
    · simp
    · split
      · simp
      · split
        · simp
        · simp [held_popWord ‹_›]

@[simp] theorem held_moveWord (c t src dst n moved em ahead dirty s) :
    held (moveWord c t src dst n moved em ahead dirty s).s = held s := by
  unfold moveWord; split <;> simp

@[simp] theorem held_moveUnlock (c t l s) : held (moveUnlock c t l s) = held s := by
  unfold moveUnlock; split <;> simp

@[simp] theorem heldEff_moveGo (c t w ra rb len moved ahead dirty s) :
    heldEff (moveGo c t w ra rb len moved ahead dirty s) = held s := by
  unfold moveGo
  generalize locOf s c ra len false = x
  generalize locOf s c rb len true = y
  cases x <;> cases y <;> simp

@[simp] theorem held_readAhead (c t src dst n s) : held (readAhead c t src dst n s).2 = held s := by
  unfold readAhead; split <;> simp

@[simp] theorem heldEff_semMove (c t w s) : heldEff (semMove c t w s) = held s := by simp [semMove]

@[simp] theorem held_moveOn (c t s) : held (moveOn c t s) = held s := by
  unfold moveOn; split <;> simp

@[simp] theorem held_copyRest (c t src dst ahead) : ∀ k moved dirty s,
    held (copyRest c t src dst ahead k moved dirty s) = held s
  | 0, _, _, _ => rfl
  | k + 1, moved, dirty, s => by simp [copyRest, held_copyRest c t src dst ahead k]

@[simp] theorem held_moveHalted (c t ra rb len moved ahead dirty s) :
    held (moveHalted c t ra rb len moved ahead dirty s) = held s := by simp [moveHalted]

/-! ## Calib -/

@[simp] theorem held_modChRec (c f s) : held (modChRec c f s) = held s := rfl
@[simp] theorem held_modDieRec (i f s) : held (modDieRec i f s) = held s := rfl
@[simp] theorem held_modRtn (c t f s) : held (modRtn c t f s) = held s := by simp [modRtn]
@[simp] theorem held_staleCh (c s) : held (staleCh c s) = held s := by simp [staleCh]
@[simp] theorem held_staleDie (i s) : held (staleDie i s) = held s := by simp [staleDie]
@[simp] theorem held_staleAll (c s) : held (staleAll c s) = held s := by simp [staleAll]
@[simp] theorem held_drifts (now train s) : held (drifts now train s).2 = held s := by simp [drifts]

@[simp] theorem held_swapLine (c s) : held (swapLine c s) = held s := by
  unfold swapLine; split <;> simp

@[simp] theorem held_boundary (c s) : held (boundary c s) = held s := by simp [boundary]
@[simp] theorem held_atRest (c s) : held (atRest c s) = held s := by simp [atRest]
@[simp] theorem held_windowOpen (c s) : held (windowOpen c s) = held s := by simp [windowOpen]
@[simp] theorem held_measureEnd (c laps s) : held (measureEnd c laps s) = held s := by simp [measureEnd]
@[simp] theorem held_countCommit (c s) : held (countCommit c s) = held s := by simp [countCommit]
@[simp] theorem held_commitCh (c change ws s) : held (commitCh c change ws s).2 = held s := by simp [commitCh]
@[simp] theorem held_commitDie (i change ws s) : held (commitDie i change ws s).2 = held s := by simp [commitDie]

@[simp] theorem heldEff_semCalcommit (change c t w s) : heldEff (semCalcommit change c t w s) = held s := by
  unfold semCalcommit; dsimp only
  (repeat' split) <;> simp

@[simp] theorem held_writeReject (s) : held (writeReject s) = held s := by simp [writeReject]
@[simp] theorem held_writeSet (w v s) : held (writeSet w v s) = held s := by simp [writeSet]

/-! ## PowerBase -/

@[simp] theorem held_setOn (d b s) : held (setOn d b s) = held s := rfl
@[simp] theorem held_setReq (d b s) : held (setReq d b s) = held s := rfl
@[simp] theorem held_setIso (d b s) : held (setIso d b s) = held s := rfl
@[simp] theorem held_setWant (d b s) : held (setWant d b s) = held s := rfl
@[simp] theorem held_setDue (d l s) : held (setDue d l s) = held s := rfl
@[simp] theorem held_ask (d r s) : held (ask d r s) = held s := by simp [ask]
@[simp] theorem held_setOutcome (d x s) : held (setOutcome d x s) = held s := rfl
@[simp] theorem held_startUp (d s) : held (startUp d s) = held s := by simp [startUp]

@[simp] theorem held_stgPower (s) : held (stgPower s) = held s := by
  unfold stgPower; split <;> simp

@[simp] theorem held_stgUp (s) : held (stgUp s) = held s := by simp [stgUp]

@[simp] theorem held_powerUp (d s) : held (powerUp d s) = held s := by
  unfold powerUp
  (repeat' split) <;> simp

@[simp] theorem held_requestUp (d s) : held (requestUp d s) = held s := by simp [requestUp]
@[simp] theorem held_runWants (s) : held (runWants s) = held s := by simp [runWants]

@[simp] theorem held_returnSlot (c s) : held (returnSlot c s) = held s := by
  unfold returnSlot; split <;> simp

@[simp] theorem held_startDrain (d s) : held (startDrain d s) = held s := by simp [startDrain]
@[simp] theorem held_refuseStg (s) : held (refuseStg s) = held s := by simp [refuseStg]

@[simp] theorem held_sleepReq (d r s) : held (sleepReq d r s) = held s := by
  unfold sleepReq; split <;> simp

@[simp] theorem held_serveDue (d s) : held (serveDue d s) = held s := by
  unfold serveDue; split <;> simp

@[simp] theorem held_upDone (d s) : held (upDone d s) = held s := by simp [upDone]
@[simp] theorem held_noteWake (d s) : held (noteWake d s) = held s := rfl
@[simp] theorem held_autoWake (d s) : held (autoWake d s) = held s := by simp [autoWake]
@[simp] theorem held_meetWake (d s) : held (meetWake d s) = held s := by simp [meetWake]
@[simp] theorem held_wakeWins (d s) : held (wakeWins d s).2 = held s := by simp [wakeWins]
@[simp] theorem held_sleepWrite (d s) : held (sleepWrite d s) = held s := by simp [sleepWrite]

/-! ## QueueBase -/

@[simp] theorem held_issueCtxRead (k s) : held (issueCtxRead k s) = held s := by simp [issueCtxRead]
@[simp] theorem held_issueCtxWrite (k w ws s) : held (issueCtxWrite k w ws s) = held s := by simp [issueCtxWrite]
@[simp] theorem held_issueDue (k s) : held (issueDue k s) = held s := by simp [issueDue]
@[simp] theorem held_askCtx (k s) : held (askCtx k s) = held s := by simp [askCtx]
@[simp] theorem held_touch (k s) : held (touch k s) = held s := by simp [touch]
@[simp] theorem held_uncache (k s) : held (uncache k s) = held s := by simp [uncache]

@[simp] theorem held_evictOne (k s) : held (evictOne k s) = held s := by
  unfold evictOne; split <;> simp

@[simp] theorem held_cacheIn (k s) : held (cacheIn k s) = held s := by simp [cacheIn]
@[simp] theorem held_ctxError (k s) : held (ctxError k s) = held s := by simp [ctxError]
@[simp] theorem held_idxMoved (k s) : held (idxMoved k s) = held s := by simp [idxMoved]

@[simp] theorem held_idxIssue (k s) : held (idxIssue k s) = held s := by
  unfold idxIssue
  (repeat' split) <;> simp

@[simp] theorem held_badDoor (k s) : held (badDoor k s) = held s := by simp [badDoor]
@[simp] theorem held_endRound (k s) : held (endRound k s) = held s := by simp [endRound]
@[simp] theorem held_setDoor (k v s) : held (setDoor k v s) = held s := by simp [setDoor]
@[simp] theorem held_applyDoors (k s) : held (applyDoors k s) = held s := by simp [applyDoors]
@[simp] theorem held_closeCtx (k s) : held (closeCtx k s) = held s := by simp [closeCtx]
@[simp] theorem held_writeBack (k s) : held (writeBack k s) = held s := by simp [writeBack]
@[simp] theorem held_adminSettle (s) : held (adminSettle s) = held s := by simp [adminSettle]
@[simp] theorem held_qctlDone (k s) : held (qctlDone k s) = held s := by simp [qctlDone]
@[simp] theorem held_stopEnd (k s) : held (stopEnd k s) = held s := by simp [stopEnd]

@[simp] theorem held_runStops (k) : ∀ fuel s, held (runStops k fuel s) = held s
  | 0, _ => rfl
  | fuel + 1, s => by
    unfold runStops
    split <;> simp [held_runStops k fuel]

@[simp] theorem held_tryStop (k s) : held (tryStop k s) = held s := held_runStops ..
@[simp] theorem held_disableSq (k wait s) : held (disableSq k wait s) = held s := by simp [disableSq]
@[simp] theorem held_waitStop (k id s) : held (waitStop k id s) = held s := by simp [waitStop]
@[simp] theorem held_stallCq (q s) : held (stallCq q s) = held s := by simp [stallCq]

@[simp] theorem held_drainCq (q) : ∀ fuel s, held (drainCq q fuel s) = held s
  | 0, _ => rfl
  | fuel + 1, s => by
    unfold drainCq; dsimp only
    split <;> simp [held_drainCq q fuel]

@[simp] theorem held_drain (q s) : held (drain q s) = held s := by simp [drain]
@[simp] theorem held_putCpl (p s) : held (putCpl p s) = held s := by simp [putCpl]
@[simp] theorem held_passFrontier (sq s) : held (passFrontier sq s) = held s := rfl

@[simp] theorem held_postBatch (sq s) : held (postBatch sq s) = held s := by
  unfold postBatch; dsimp only
  split <;> simp

@[simp] theorem held_haltThread (c t s) : held (haltThread c t s) = held s := by
  unfold haltThread; dsimp only
  (repeat' split) <;> simp

@[simp] theorem held_haltThreads (s) : held (haltThreads s) = held s := by simp [haltThreads]

@[simp] theorem held_halt (cause sq index words isRem s) : held (halt cause sq index words isRem s) = held s := by
  simp [halt]

@[simp] theorem held_ringDoor (k v s) : held (ringDoor k v s) = held s := by simp [ringDoor]
@[simp] theorem held_doorbell (k v s) : held (doorbell k v s) = held s := by simp [doorbell]
@[simp] theorem held_ctxReady (k s) : held (ctxReady k s) = held s := by simp [ctxReady]

/-! ## Scratch -/

@[simp] theorem heldEff_scratchAt (c t w s k) (h : ∀ a n x s, heldEff (k a n x s) = held s) :
    heldEff (scratchAt c t w s k) = held s := by
  simp [scratchAt, h]

@[simp] theorem heldEff_semLd (c t w s) : heldEff (semLd c t w s) = held s :=
  heldEff_scratchAt _ _ _ _ _ fun _ _ _ _ => rfl

@[simp] theorem heldEff_semLds (c t w s) : heldEff (semLds c t w s) = held s :=
  heldEff_scratchAt _ _ _ _ _ fun _ _ _ _ => rfl

@[simp] theorem held_putScratch (c t a n v s) : held (putScratch c t a n v s) = held s := by simp [putScratch]
@[simp] theorem heldEff_semSt (c t w s) : heldEff (semSt c t w s) = held s := by simp [semSt]
@[simp] theorem heldEff_semSwap (c t w s) : heldEff (semSwap c t w s) = held s := by simp [semSwap]
@[simp] theorem heldEff_semFadd (c t w s) : heldEff (semFadd c t w s) = held s := by simp [semFadd]

/-! ## Codec -/

@[simp] theorem held_cwRead (c buf off n rq s) : held (cwRead c buf off n rq s).2 = held s := by simp [cwRead]
@[simp] theorem held_cwWrite (c buf off bs rq s) : held (cwWrite c buf off bs rq s) = held s := by simp [cwWrite]
@[simp] theorem held_cwGood (c buf user rq s) : held (cwGood c buf user rq s) = held s := by simp [cwGood]
@[simp] theorem held_cwPoison (c buf s) : held (cwPoison c buf s) = held s := by simp [cwPoison]
@[simp] theorem held_cwReport (c buf w rq s) : held (cwReport c buf w rq s) = held s := by simp [cwReport]

@[simp] theorem held_freeBytes : ∀ n s, held (freeBytes n s).2 = held s
  | 0, _ => rfl
  | n + 1, s => by simp [freeBytes, held_freeBytes n]

/-! ## Fence -/

@[simp] theorem held_fenceRead (c t j f s) : held (fenceRead c t j f s).2 = held s := by simp [fenceRead]
@[simp] theorem held_fenceWrite (c t j f v s) : held (fenceWrite c t j f v s) = held s := by simp [fenceWrite]

@[simp] theorem held_fenceReads (c t j) : ∀ fs s, held (fenceReads c t j fs s).2 = held s
  | [], _ => rfl
  | f :: fs, s => by simp [fenceReads, held_fenceReads c t j fs]

@[simp] theorem held_fenceWrites (c t j v fs s) : held (fenceWrites c t j v fs s) = held s := by simp [fenceWrites]

@[simp] theorem held_fenceAccept (c t cls j a m s) : held (fenceAccept c t cls j a m s).2 = held s := by
  unfold fenceAccept; split <;> simp

@[simp] theorem held_fenceOpen (c t j a m s) : held (fenceOpen c t j a m s) = held s := by
  unfold fenceOpen; split <;> simp

@[simp] theorem held_fillRegion (c s) : held (fillRegion c s) = held s := by simp [fillRegion]

/-! ## Plumb -/

@[simp] theorem held_modPlb (c f s) : held (modPlb c f s) = held s := by simp [modPlb]
@[simp] theorem held_plbResetDie (c j s) : held (plbResetDie c j s) = held s := by simp [plbResetDie]
@[simp] theorem held_plbFault (c j z l clamp s) : held (plbFault c j z l clamp s) = held s := by simp [plbFault]
@[simp] theorem held_plbTrack (c j z l isOver s) : held (plbTrack c j z l isOver s).2 = held s := by simp [plbTrack]

@[simp] theorem held_plbLevel (c j z ty r01 r10 l s) : held (plbLevel c j z ty r01 r10 l s) = held s := by
  simp [plbLevel]

@[simp] theorem held_plbSample (c j z ty r01 r10 s) : held (plbSample c j z ty r01 r10 s) = held s := by
  simp [plbSample]

@[simp] theorem heldEff_semPlbrd (c t w s) : heldEff (semPlbrd c t w s) = held s := by simp [semPlbrd]
@[simp] theorem heldEff_semPlbwr (c t w s) : heldEff (semPlbwr c t w s) = held s := by simp [semPlbwr]
@[simp] theorem heldEff_semPlbrst (c t w s) : heldEff (semPlbrst c t w s) = held s := by simp [semPlbrst]
@[simp] theorem heldEff_semPlbfrz (b c t w s) : heldEff (semPlbfrz b c t w s) = held s := by simp [semPlbfrz]

/-! ## Signal -/

@[simp] theorem held_setCe (c j low s) : held (setCe c j low s) = held s := by simp [setCe]
@[simp] theorem held_setCycle (c d x s) : held (setCycle c d x s) = held s := by simp [setCycle]
@[simp] theorem held_idlePins (c s) : held (idlePins c s) = held s := by simp [idlePins]
@[simp] theorem held_quietPins (c s) : held (quietPins c s) = held s := by simp [quietPins]
@[simp] theorem held_inertPins (c s) : held (inertPins c s) = held s := by simp [inertPins]

/-! ## ThreadOps -/

@[simp] theorem heldEff_semFeat (c t w s) : heldEff (semFeat c t w s) = held s := by simp [semFeat]
@[simp] theorem heldEff_semTime (_c _t w s) : heldEff (semTime _c _t w s) = held s := by simp [semTime]
@[simp] theorem heldEff_semWaitt (c t w s) : heldEff (semWaitt c t w s) = held s := by simp [semWaitt]
@[simp] theorem heldEff_semWaite (c t w s) : heldEff (semWaite c t w s) = held s := by simp [semWaite]

@[simp] theorem held_releaseWaits (c) : ∀ ts s, held (releaseWaits c ts s) = held s
  | [], _ => rfl
  | t :: ts, s => by
    unfold releaseWaits
    split <;> simp [held_releaseWaits c ts]

@[simp] theorem heldEff_semSigset (c _t w s) : heldEff (semSigset c _t w s) = held s := by simp [semSigset]
@[simp] theorem heldEff_semNop (_c _t _w s) : heldEff (semNop _c _t _w s) = held s := by simp [semNop]

@[simp] theorem heldEff_semDopw (c t w s) : heldEff (semDopw c t w s) = held s := by
  unfold semDopw; split <;> simp

@[simp] theorem held_wakeDopw (c t s) : held (wakeDopw c t s) = held s := by
  unfold wakeDopw; split <;> simp

@[simp] theorem heldEff_semDopt (c t w s) : heldEff (semDopt c t w s) = held s := by simp [semDopt]
@[simp] theorem heldEff_semPrgr (c t w s) : heldEff (semPrgr c t w s) = held s := by simp [semPrgr]

@[simp] theorem heldEff_semHalloc (c t w s) : heldEff (semHalloc c t w s) = held s := by
  unfold semHalloc; dsimp only
  split
  · exact held_alloc ‹_›
  · simp

@[simp] theorem heldEff_semHfree (c t w s) : heldEff (semHfree c t w s) = held s := by simp [semHfree]
@[simp] theorem heldEff_semEnd (c t w s) : heldEff (semEnd c t w s) = held s := by simp [semEnd]

/-! ## MicroBase -/

@[simp] theorem held_fetchStore (c disp i s) : held (fetchStore c disp i s).2 = held s := by
  unfold fetchStore; dsimp only
  (repeat' split) <;> simp

@[simp] theorem held_refuseWord (c i s) : held (refuseWord c i s) = held s := by simp [refuseWord]
@[simp] theorem held_setLast (c j x s) : held (setLast c j x s) = held s := by simp [setLast]
@[simp] theorem held_refuseDop (c t k j code s) : held (refuseDop c t k j code s) = held s := by simp [refuseDop]

@[simp] theorem held_acceptDop (c t w ra rb ent cls s) : held (acceptDop c t w ra rb ent cls s) = held s := by
  simp [acceptDop]

@[simp] theorem heldEff_dopGo (c t w ra rb go s) (h : ∀ s, heldEff (go s) = held s) :
    heldEff (dopGo c t w ra rb go s) = held s := by
  unfold dopGo; dsimp only
  split
  · simp
  · split <;> simp [h]

@[simp] theorem heldEff_semDop (c t w s) : heldEff (semDop c t w s) = held s :=
  (heldEff_dopGo _ _ _ _ _ _ _ heldEff_plain).trans (by simp)

@[simp] theorem held_dopRetry (c t s) : held (dopRetry c t s) = held s := by
  unfold dopRetry
  split
  · exact held_retry _ _ _ _ _ fun _ => heldEff_dopGo _ _ _ _ _ _ _ heldEff_waited0
  · rfl

@[simp] theorem held_dopRetries (c s) : held (dopRetries c s) = held s := by simp [dopRetries]

@[simp] theorem held_releaseHeld (c t j by_ engine s) : held (releaseHeld c t j by_ engine s) = held s := by
  simp [releaseHeld]

@[simp] theorem held_trainState (c r s) : held (trainState c r s) = held s := by simp [trainState]
@[simp] theorem held_leaveBus (c s) : held (leaveBus c s) = held s := by simp [leaveBus]

@[simp] theorem held_endRoutine (c t by_ s) : held (endRoutine c t by_ s) = held s := by
  unfold endRoutine; dsimp only
  (repeat' split) <;> simp

@[simp] theorem held_outcomeWrite (c t s) : held (outcomeWrite c t s) = held s := by
  unfold outcomeWrite; split <;> simp

@[simp] theorem held_newOrder (c s) : held (newOrder c s).2 = held s := by simp [newOrder]

@[simp] theorem held_unpark (c t s) : held (unpark c t s) = held s := by
  unfold unpark; split <;> simp

@[simp] theorem held_parkExpiry (c t s) : held (parkExpiry c t s) = held s := by
  unfold parkExpiry; split <;> simp

@[simp] theorem held_readyTimeout (c t s) : held (readyTimeout c t s) = held s := by
  unfold readyTimeout; split <;> simp

@[simp] theorem held_routineKill (c t s) : held (routineKill c t s) = held s := by
  unfold routineKill; split <;> simp

end Sys2Proof.Machine
end

section
/-! SUPPORT. The variant and the queue, which the queue engine, the Primer, the decoders, microcode, power and
Render hold. -/

namespace Sys2Proof.Machine

open Sys2Proof

/-! ## QueueEngine -/

@[simp] theorem held_qctlRefuse (reason s) : held (qctlRefuse reason s) = held s := rfl
@[simp] theorem held_enableCtx (k n ws s) : held (enableCtx k n ws s) = held s := by simp [enableCtx]

@[simp] theorem held_qctlEnable (k ws s) : held (qctlEnable k ws s) = held s := by
  unfold qctlEnable; split <;> simp

@[simp] theorem held_disableCq (k s) : held (disableCq k s) = held s := by simp [disableCq]
@[simp] theorem held_qctl (cmd cq q s) : held (qctl cmd cq q s) = held s := by simp [qctl]
@[simp] theorem held_adminRefuse (id reason s) : held (adminRefuse id reason s) = held s := by simp [adminRefuse]

@[simp] theorem held_adminCtx (e k ws s) : held (adminCtx e k ws s) = held s := by
  unfold adminCtx; dsimp only
  (repeat' split) <;> simp

@[simp] theorem held_haltCtx (k s) : held (haltCtx k s) = held s := by simp [haltCtx]

@[simp] theorem held_ctxGoOn (k ws s) : held (ctxGoOn k ws s) = held s := by
  unfold ctxGoOn; dsimp only
  split <;> simp

@[simp] theorem held_ctxTaken (k ws s) : held (ctxTaken k ws s) = held s := by simp [ctxTaken]
@[simp] theorem held_ctxAgain (k s) : held (ctxAgain k s) = held s := by simp [ctxAgain]
@[simp] theorem held_qctlLost (k s) : held (qctlLost k s) = held s := by simp [qctlLost]

@[simp] theorem held_ctxReadDone (k resp s) : held (ctxReadDone k resp s) = held s := by
  unfold ctxReadDone
  split
  · rfl
  · have h := held_takeFm ‹_›
    dsimp only at h ⊢
    (repeat' split) <;> simp [h]

@[simp] theorem held_ctxWriteResp (k n err s) : held (ctxWriteResp k n err s) = held s := by
  unfold ctxWriteResp
  split
  · rfl
  · simp [held_takeFmAt ‹_›]

@[simp] theorem held_issueFetch (ring f s) : held (issueFetch ring f s) = held s := by simp [issueFetch]

@[simp] theorem held_fetchTurn (s) : held (fetchTurn s) = held s := by
  unfold fetchTurn; split <;> simp

@[simp] theorem held_addEntry (e s) : held (addEntry e s) = held s := rfl
@[simp] theorem held_issueFrags (e s) : held (issueFrags e s) = held s := by simp [issueFrags]
@[simp] theorem held_admitEntry (e s) : held (admitEntry e s) = held s := by simp [admitEntry]

@[simp] theorem held_checkEntries (f ring) : ∀ i es s, held (checkEntries f ring i es s) = held s
  | _, [], _ => rfl
  | i, ws :: rest, s => by
    unfold checkEntries; dsimp only
    split <;> simp [held_checkEntries f ring _ rest]

@[simp] theorem held_entryCheck (k resp s) : held (entryCheck k resp s) = held s := by
  unfold entryCheck
  split
  · rfl
  · split
    · rfl
    · have h := held_takeFm ‹_›
      dsimp only at h ⊢
      (repeat' split) <;> simp [h]

@[simp] theorem held_checkFrags (id ws e s) : held (checkFrags id ws e s) = held s := by simp [checkFrags]

@[simp] theorem held_fragDone (id resp s) : held (fragDone id resp s) = held s := by
  unfold fragDone
  split
  · rfl
  · have h := held_takeFm ‹_›
    dsimp only at h ⊢
    (repeat' split) <;> simp [h]

@[simp] theorem held_failEntry (id st res s) : held (failEntry id st res s) = held s := by
  unfold failEntry
  (repeat' split) <;> simp

@[simp] theorem held_wakeOrFail (id d stage waits s) : held (wakeOrFail id d stage waits s) = held s := by
  simp [wakeOrFail]

theorem held_takeSlot {e s p} (h : takeSlot e s = some p) : held p.2 = held s := by
  unfold takeSlot at h
  split at h
  · cases h; rfl
  · obtain ⟨t, -, rfl⟩ := Option.map_eq_some_iff.1 h
    simp

@[simp] theorem held_takeBuffer (id e s) : held (takeBuffer id e s) = held s := by
  unfold takeBuffer; dsimp only
  split
  · simp
  · split
    · rfl
    · split
      · simp [held_alloc ‹_›]
      · simp

@[simp] theorem held_bufferAlloc (id s) : held (bufferAlloc id s) = held s := by
  unfold bufferAlloc
  split
  · rfl
  · split
    · rfl
    · split
      · split
        · rfl
        · simp [held_takeSlot ‹_›]
      · simp

@[simp] theorem held_sendTag (e t s) : held (sendTag e t s) = held s := by simp [sendTag]

@[simp] theorem held_sendRemote (e s) : held (sendRemote e s) = held s := by
  unfold sendRemote
  split
  · rfl
  · simp [held_takeSlot ‹_›]

@[simp] theorem held_entryDispatch (id s) : held (entryDispatch id s) = held s := by
  unfold entryDispatch
  split
  · rfl
  · rename_i e _
    cases e.kind <;> simp

@[simp] theorem held_startProgram (c t n entry calib g s) : held (startProgram c t n entry calib g s) = held s := by
  simp [startProgram]

@[simp] theorem held_dispatchWord (e s) : held (dispatchWord e s).2 = held s := by
  unfold dispatchWord; split <;> simp

@[simp] theorem held_entryTaken (c s) : held (entryTaken c s) = held s := by
  unfold entryTaken; split <;> simp

@[simp] theorem held_calibrationStart (c s) : held (calibrationStart c s) = held s := by
  unfold calibrationStart
  (repeat' split) <;> simp

@[simp] theorem held_completionPost (id s) : held (completionPost id s) = held s := by
  unfold completionPost; dsimp only
  (repeat' split) <;> simp

@[simp] theorem held_moveVisible (q s) : held (moveVisible q s) = held s := by simp [moveVisible]

@[simp] theorem held_completionResp (q n err s) : held (completionResp q n err s) = held s := by
  unfold completionResp
  split
  · simp [held_takeFmAt ‹_›]
  · rfl

@[simp] theorem held_batchPost (sq s) : held (batchPost sq s) = held s := by simp [batchPost]
@[simp] theorem held_batchExpiry (sq s) : held (batchExpiry sq s) = held s := by simp [batchExpiry]

@[simp] theorem held_indexPublish (k e s) : held (indexPublish k e s) = held s := by
  unfold indexPublish
  split
  · simp
  · split
    · rfl
    · simp [held_takeFm ‹_›]

@[simp] theorem heldEff_qpostGo (c t w a b s) : heldEff (qpostGo c t w a b s) = held s := by simp [qpostGo]
@[simp] theorem heldEff_semQpost (c t w s) : heldEff (semQpost c t w s) = held s := by simp [semQpost]

/-! ## Primer -/

@[simp] theorem held_modPrm (f s) : held (modPrm f s) = held s := rfl
@[simp] theorem held_setRaw (w v s) : held (setRaw w v s) = held s := by simp [setRaw]
@[simp] theorem held_draw72 (s) : held (draw72 s).2 = held s := by simp [draw72]
@[simp] theorem held_cutWord (w data s) : held (cutWord w data s) = held s := by simp [cutWord]
@[simp] theorem held_someBit (v s) : held (someBit v s).2 = held s := by simp [someBit]
@[simp] theorem held_cutRecord (w data s) : held (cutRecord w data s) = held s := by simp [cutRecord]
@[simp] theorem held_noteIntent (w s) : held (noteIntent w s) = held s := by simp [noteIntent]
@[simp] theorem held_cutJob (j w data s) : held (cutJob j w data s) = held s := by simp [cutJob]
@[simp] theorem held_failWord (j w data s) : held (failWord j w data s) = held s := by simp [failWord]
@[simp] theorem held_cutSector (k s) : held (cutSector k s) = held s := by simp [cutSector]
@[simp] theorem held_eraseSector (k s) : held (eraseSector k s) = held s := by simp [eraseSector]
@[simp] theorem held_setSect (k x s) : held (setSect k x s) = held s := by simp [setSect]

@[simp] theorem held_takeRecord (typ arg sector o s) : held (takeRecord typ arg sector o s) = held s := by
  simp [takeRecord]

theorem held_runJob {o s u} (h : runJob o s = some u) : held u = held s := by
  unfold runJob at h
  split at h
  · cases h; rfl
  · split at h
    · cases h
    · cases h; simp
  · cases h; rfl
  · cases h; rfl

theorem held_tryJob {o s u} (h : tryJob o s = some u) : held u = held s := by
  unfold tryJob at h
  split at h
  · split at h <;> exact held_runJob h
  · exact held_runJob h

@[simp] theorem held_awaitRelease (o s) : held (awaitRelease o s) = held s := by simp [awaitRelease]

@[simp] theorem held_startDue (s) : held (startDue s) = held s := by
  unfold startDue; dsimp only
  split
  · split
    · simp
    · exact held_getD (fun h => by simp [held_tryJob h]) (by simp)
  · rfl

@[simp] theorem held_endOp (r s) : held (endOp r s) = held s := by simp [endOp]

@[simp] theorem held_failOp (o s) : held (failOp o s) = held s := by
  unfold failOp; split <;> simp

@[simp] theorem held_beginJob (o s) : held (beginJob o s) = held s := by
  unfold beginJob
  split
  · simp
  · exact held_getD (fun h => held_tryJob h) (by simp)

@[simp] theorem held_jobEffect (o w a2 s) : held (jobEffect o w a2 s) = held s := by
  unfold jobEffect
  (repeat' split) <;> simp

@[simp] theorem held_jobDone (o j w s) : held (jobDone o j w s) = held s := by simp [jobDone]

@[simp] theorem held_goOn (s) : held (goOn s) = held s := by
  unfold goOn; split <;> simp

@[simp] theorem held_wordFail (o j w d s) : held (wordFail o j w d s) = held s := by
  unfold wordFail; split <;> simp

@[simp] theorem held_unverified (o s) : held (unverified o s) = held s := by
  unfold unverified; split <;> simp

@[simp] theorem held_cutOp (reached o s) : held (cutOp reached o s) = held s := by
  unfold cutOp; dsimp only
  split <;> simp

@[simp] theorem held_tripDetector (s) : held (tripDetector s) = held s := by
  unfold tripDetector; dsimp only
  (repeat' split) <;> simp

@[simp] theorem held_afterPulse (j s) : held (afterPulse j s) = held s := by
  unfold afterPulse; split <;> simp

@[simp] theorem held_pulseEnd (good s) : held (pulseEnd good s) = held s := by
  unfold pulseEnd
  (repeat' split) <;> simp

@[simp] theorem held_setResult (r s) : held (setResult r s) = held s := by simp [setResult]

@[simp] theorem held_prmCmd (nests f s) (h : ∀ s, held (f s) = held s) : held (prmCmd nests f s) = held s := by
  simp [prmCmd, h]

@[simp] theorem held_prmReadCmd (s) : held (prmReadCmd s) = held s := by
  unfold prmReadCmd; split <;> simp

@[simp] theorem held_prmProgram (s) : held (prmProgram s) = held s := by
  unfold prmProgram; split <;> simp

@[simp] theorem held_prmErase (s) : held (prmErase s) = held s := by
  unfold prmErase; split <;> simp

@[simp] theorem held_prmSuspend (s) : held (prmSuspend s) = held s := by simp [prmSuspend]

@[simp] theorem held_prmResume (s) : held (prmResume s) = held s := by
  unfold prmResume; split <;> simp

@[simp] theorem held_prmRotate (s) : held (prmRotate s) = held s := by simp [prmRotate]

@[simp] theorem held_prmCommand (code s) : held (prmCommand code s) = held s := by
  unfold prmCommand
  split
  case h_7 => exact held_prmCmd _ _ _ fun _ => held_modPrm ..
  case h_9 => exact held_prmCmd _ _ _ fun _ => by split <;> simp
  all_goals simp

@[simp] theorem held_windowBase (en base s) : held (windowBase en base s) = held s := by simp [windowBase]
@[simp] theorem held_logPrimer (w m who s) : held (logPrimer w m who s) = held s := by simp [logPrimer]

@[simp] theorem held_windowRead (w n m s) : held (windowRead w n m s).2 = held s := by
  unfold windowRead; dsimp only
  (repeat' split) <;> simp

@[simp] theorem held_prmRegWrite (o m v act s) : held (prmRegWrite o m v act s) = held s := by simp [prmRegWrite]
@[simp] theorem held_bootHead (k seq s) : held (bootHead k seq s) = held s := by simp [bootHead]
@[simp] theorem held_scanJournal (s) : held (scanJournal s) = held s := by simp [scanJournal]

@[simp] theorem held_replay (s r) : held (replay s r) = held s := by
  unfold replay; split <;> simp

@[simp] theorem held_journalBoot (s) : held (journalBoot s) = held s := by
  unfold journalBoot
  extract_lets s1 d seq t s2 s3 rs s4 sect
  have h1 : held s1 = held s := held_scanJournal s
  have ht : held t = held s1 := held_if (held_draw s1) ((held_eraseSector ..).trans (held_draw s1))
  have h2 : held s2 = held s1 := by
    unfold s2
    split
    · rw [held_modPrm]
    · rw [held_modPrm, held_bootHead, ht]
  have h3 : held s3 = held s2 := by
    unfold s3
    split
    · rw [held_modPrm, held_bootHead, held_eraseSector]
    · rfl
  have h4 : held s4 = held s3 := (held_foldl _ _ fun _ _ => held_replay ..).trans (held_modPrm ..)
  rw [held_modPrm, h4, h3, h2, h1]

@[simp] theorem held_loaderWords (w n s) : held (loaderWords w n s).2 = held s := by
  unfold loaderWords; dsimp only
  split <;> simp

@[simp] theorem held_dirCopy (k s) : held (dirCopy k s).2 = held s := by
  unfold dirCopy; dsimp only
  split <;> simp

@[simp] theorem held_directoryBoot (s) : held (directoryBoot s) = held s := by
  unfold directoryBoot; dsimp only
  split <;> simp

/-! ## Decoders -/

@[simp] theorem held_stepDone (c t next s) : held (stepDone c t next s) = held s := by
  unfold stepDone
  (repeat' split) <;> simp

@[simp] theorem held_chooseNext (c t w s) : held (chooseNext c t w s) = held s := by
  unfold chooseNext
  (repeat' split) <;> simp

@[simp] theorem held_decodeGone (c t s) : held (decodeGone c t s) = held s := by
  unfold decodeGone; split <;> simp

@[simp] theorem held_tellHard (job fail c s) : held (tellHard job fail c s) = held s := by simp [tellHard]

@[simp] theorem held_hardEnd (c s) : held (hardEnd c s) = held s := by
  unfold hardEnd; dsimp only
  split <;> simp [-List.reduceReplicate]

@[simp] theorem held_tellSoft (h s) : held (tellSoft h s) = held s := by simp [tellSoft]
@[simp] theorem held_noBank (h s) : held (noBank h s) = held s := by simp [noBank]

@[simp] theorem held_softHeads : ∀ fuel s, held (softHeads fuel s) = held s
  | 0, _ => rfl
  | fuel + 1, s => by
    unfold softHeads; dsimp only
    split <;> simp [held_softHeads fuel]

@[simp] theorem held_softLook (s) : held (softLook s) = held s := by simp [softLook]

@[simp] theorem held_softAssign (s) : held (softAssign s) = held s := by
  unfold softAssign; split <;> simp

@[simp] theorem held_softEnd (k s) : held (softEnd k s) = held s := by
  unfold softEnd; split <;> simp

/-! ## Micro -/

@[simp] theorem held_firstStart (c t r s) : held (firstStart c t r s) = held s := by simp [firstStart]
@[simp] theorem held_refuseStale (c t k j s) : held (refuseStale c t k j s) = held s := by simp [refuseStale]

@[simp] theorem held_routineStart (c s) : held (routineStart c s) = held s := by
  unfold routineStart
  (repeat' split) <;> simp

@[simp] theorem held_writePrg (c t resume yaddr parked s) : held (writePrg c t resume yaddr parked s) = held s := by
  unfold writePrg; split <;> simp

@[simp] theorem held_yieldNow (c t res park dly s) : held (yieldNow c t res park dly s) = held s := by simp [yieldNow]
@[simp] theorem held_takeToken (p s) : held (takeToken p s) = held s := by simp [takeToken]
@[simp] theorem held_dinBurst (c t r w s) : held (dinBurst c t r w s) = held s := by simp [dinBurst]
@[simp] theorem held_captured (n d s) : held (captured n d s).2 = held s := by simp [captured]

@[simp] theorem held_captureTiming (c s) : held (captureTiming c s) = held s := by
  unfold captureTiming; dsimp only
  rw [held_modChan]
  exact held_foldl_snd _ _ fun _ _ => held_draw _

@[simp] theorem held_doutBurst (c t r w d s) : held (doutBurst c t r w d s) = held s := by simp [doutBurst]
@[simp] theorem held_handoff (c t r w s) : held (handoff c t r w s) = held s := by simp [handoff]

@[simp] theorem held_driveCycle (c t r w d s) : held (driveCycle c t r w d s) = held s := by
  unfold driveCycle; split <;> simp

@[simp] theorem held_finishStep (c t w s) : held (finishStep c t w s) = held s := by simp [finishStep]

@[simp] theorem held_driveStep (c t w d s) : held (driveStep c t w d s) = held s := by
  unfold driveStep; split <;> simp

@[simp] theorem held_admitPump (p s) : held (admitPump p s) = held s := by
  unfold admitPump; split <;> simp

@[simp] theorem held_pumpStep (c t r w s) : held (pumpStep c t r w s) = held s := by simp [pumpStep]

@[simp] theorem held_stepBody (c t w d s) : held (stepBody c t w d s) = held s := by
  unfold stepBody; split <;> simp

theorem heldYck_yieldCheck {c t r w s y} (h : yieldCheck c t r w s = y) : heldYck y = held s := by
  subst h
  unfold yieldCheck; dsimp only
  (repeat' split) <;> simp

@[simp] theorem held_microStep (c row d s) : held (microStep c row d s) = held s := by
  unfold microStep; dsimp only
  repeat' split
  any_goals simp
  · exact (heldYck_yieldCheck ‹_›).trans (held_fetchStore ..)
  · exact (heldYck_yieldCheck ‹_›).trans (held_fetchStore ..)

@[simp] theorem held_guardRelease (c d s) : held (guardRelease c d s) = held s := by
  unfold guardRelease
  (repeat' split) <;> simp

@[simp] theorem held_tokenReturn (s) : held (tokenReturn s) = held s := by
  unfold tokenReturn; split <;> simp

/-! ## Power -/

@[simp] theorem held_staleTrace : ∀ l s, held (staleTrace l s).2 = held s
  | [], _ => rfl
  | (_, _) :: rest, s => by simp [staleTrace, held_staleTrace rest]

@[simp] theorem held_clearChannel (c s) : held (clearChannel c s) = held s := by simp [clearChannel]
@[simp] theorem held_dropChannel (c s) : held (dropChannel c s) = held s := by simp [dropChannel]
@[simp] theorem held_dropStores (q s) : held (dropStores q s) = held s := by simp [dropStores]

@[simp] theorem held_dropStg (s) : held (dropStg s) = held s := by
  simp only [dropStg]
  exact held_foldl _ _ fun _ _ => held_modStrm ..

@[simp] theorem held_isolate (d s) : held (isolate d s) = held s := by simp [isolate]
@[simp] theorem held_grantAll (s) : held (grantAll s) = held s := by simp [grantAll]
@[simp] theorem held_grantRise (d s) : held (grantRise d s) = held s := by simp [grantRise]

@[simp] theorem held_checkImage (prog q s) : held (checkImage prog q s).2 = held s := by
  unfold checkImage; dsimp only
  (repeat' split) <;> simp

@[simp] theorem held_refuseLoad (prog q reason s) : held (refuseLoad prog q reason s) = held s := by simp [refuseLoad]
@[simp] theorem held_loadMicro (c ws s) : held (loadMicro c ws s) = held s := by simp [loadMicro]
@[simp] theorem held_loadProgram (q ws s) : held (loadProgram q ws s) = held s := by simp [loadProgram]
@[simp] theorem held_quadRuns (q s) : held (quadRuns q s) = held s := by simp [quadRuns]

@[simp] theorem held_quadLoad (q s) : held (quadLoad q s) = held s := by
  unfold quadLoad; dsimp only
  (repeat' split) <;> simp

@[simp] theorem held_applySpares (s) : held (applySpares s) = held s := by simp [applySpares]
@[simp] theorem held_retireForce (s) : held (retireForce s) = held s := by simp [retireForce]
@[simp] theorem held_stgInitEnd (s) : held (stgInitEnd s) = held s := by simp [stgInitEnd]
@[simp] theorem held_saveUid (c s) : held (saveUid c s) = held s := by simp [saveUid]

@[simp] theorem held_waitEnds (s) : held (waitEnds s) = held s := by
  unfold waitEnds; split <;> simp

@[simp] theorem held_stgWithdraw (s) : held (stgWithdraw s) = held s := by simp [stgWithdraw]
@[simp] theorem held_quiescence (d s) : held (quiescence d s) = held s := by simp [quiescence]
@[simp] theorem held_grantFall (d s) : held (grantFall d s) = held s := by simp [grantFall]
@[simp] theorem held_retGrant (level s) : held (retGrant level s) = held s := by simp [retGrant]

@[simp] theorem held_retSet (s) : held (retSet s) = held s := by
  unfold retSet; split <;> simp

@[simp] theorem held_retClear (s) : held (retClear s) = held s := by simp [retClear]
@[simp] theorem held_domainCtrl (v s) : held (domainCtrl v s) = held s := by simp [domainCtrl]
@[simp] theorem held_patchGo (c v s) : held (patchGo c v s) = held s := by simp [patchGo]

@[simp] theorem held_patchWords (c disp) : ∀ n src dst s, held (patchWords c disp n src dst s).2 = held s
  | 0, _, _, _ => rfl
  | n + 1, src, dst, s => by
    unfold patchWords; dsimp only
    split <;> simp [held_patchWords c disp n]

@[simp] theorem held_patchCopy (c s) : held (patchCopy c s) = held s := by
  unfold patchCopy; dsimp only
  split <;> simp

@[simp] theorem held_fillEnd (c s) : held (fillEnd c s) = held s := by simp [fillEnd]
@[simp] theorem held_cutFill (c s) : held (cutFill c s) = held s := by simp [cutFill]
@[simp] theorem held_portReset (s) : held (portReset s) = held s := by simp [portReset]
@[simp] theorem held_coldState (cause boot s) : held (coldState cause boot s) = held s := by simp [coldState]
@[simp] theorem held_coldReset (s) : held (coldReset s) = held s := by simp [coldReset]
@[simp] theorem held_coldWins (s) : held (coldWins s).2 = held s := by simp [coldWins]
@[simp] theorem held_warmChannel (c s) : held (warmChannel c s) = held s := by simp [warmChannel]
@[simp] theorem held_warmReset (s) : held (warmReset s) = held s := by simp [warmReset]
@[simp] theorem held_fuseOver (s) : held (fuseOver s) = held s := by simp [fuseOver]
@[simp] theorem held_fuseFault (detail s) : held (fuseFault detail s) = held s := by simp [fuseFault]
@[simp] theorem held_fuseWord (w s) : held (fuseWord w s) = held s := by simp [fuseWord]
@[simp] theorem held_fuseTimeout (s) : held (fuseTimeout s) = held s := by simp [fuseTimeout]
@[simp] theorem held_bootInitEnd (s) : held (bootInitEnd s) = held s := by simp [bootInitEnd]
@[simp] theorem held_bootJournal (s) : held (bootJournal s) = held s := by simp [bootJournal]
@[simp] theorem held_bootDirectory (s) : held (bootDirectory s) = held s := by simp [bootDirectory]

/-! ## Integrity -/

@[simp] theorem held_modIntg (f s) : held (modIntg f s) = held s := rfl
@[simp] theorem held_retireBanks (bits s) : held (retireBanks bits s) = held s := by simp [retireBanks]

@[simp] theorem held_splitWord (o lo n s) : held (splitWord o lo n s).2 = held s := by
  unfold splitWord
  (repeat' split) <;> simp

@[simp] theorem held_splitWrite (o m v s) : held (splitWrite o m v s) = held s := by
  unfold splitWrite; dsimp only
  (repeat' split) <;> simp

@[simp] theorem held_intReadAct (o m s) : held (intReadAct o m s) = held s := by simp [intReadAct]
@[simp] theorem held_intWrite (o v act s) : held (intWrite o v act s) = held s := by simp [intWrite]

/-! ## Render -/

@[simp] theorem held_modRctx (i f s) : held (modRctx i f s) = held s := rfl
@[simp] theorem held_cwCode (h off s) : held (cwCode h off s).2 = held s := by simp [cwCode]

@[simp] theorem held_writeCw (h off code g ws marks s) : held (writeCw h off code g ws marks s) = held s := by
  simp [writeCw]

@[simp] theorem held_accWrite (x t off bs s) : held (accWrite x t off bs s) = held s := by simp [accWrite]
@[simp] theorem held_accRead (id t off sym bs s) : held (accRead id t off sym bs s) = held s := by simp [accRead]

@[simp] theorem held_accPages (id t h src dst pages s) : held (accPages id t h src dst pages s) = held s := by
  simp [accPages]

@[simp] theorem held_noteAcc (id t node s) : held (noteAcc id t node s) = held s := by simp [noteAcc]

theorem held_takeFree {s p} (h : takeFree s = some p) : held p.2 = held s := by
  unfold takeFree at h; dsimp only at h
  split at h
  · cases h
  · rw [← Option.some.inj h]
    exact held_mk_snd (held_draw s)

@[simp] theorem held_popBuffers (p) : ∀ m s, held (popBuffers p m s).2 = held s
  | 0, _ => rfl
  | m + 1, s => by simp [popBuffers, held_popBuffers p m]

@[simp] theorem held_zeroBuffer (h s) : held (zeroBuffer h s) = held s := by simp [zeroBuffer]

@[simp] theorem held_openWrite (g s) : held (openWrite g s).2 = held s := by
  unfold openWrite; dsimp only
  split
  · rfl
  · split
    · rfl
    · have hu := held_takeFree ‹_›
      split
      · rfl
      · rfl
      · rw [held_modRctx, held_foldl _ _ fun _ _ => held_zeroBuffer .., held_popBuffers]
        exact hu

@[simp] theorem held_openRead (g b s) : held (openRead g b s).2 = held s := by
  unfold openRead; dsimp only
  split
  · rfl
  · split
    · rfl
    · simp [held_takeFree ‹_›]

@[simp] theorem held_rOpen (a b s) : held (rOpen a b s).2 = held s := by simp [rOpen]
@[simp] theorem held_rAccumulate (a b s) : held (rAccumulate a b s).2 = held s := by simp [rAccumulate]

@[simp] theorem held_accReads (off) : ∀ hs s, held (accReads off hs s).2 = held s
  | [], _ => rfl
  | _ :: hs, s => by simp [accReads, held_accReads off hs]

@[simp] theorem held_solveWrite (i s) : held (solveWrite i s) = held s := by simp [solveWrite]

@[simp] theorem held_rParityOut (a s) : held (rParityOut a s).2 = held s := by
  unfold rParityOut; dsimp only
  split <;> simp

@[simp] theorem held_rRelease (a s) : held (rRelease a s).2 = held s := by simp [rRelease]

@[simp] theorem held_rClose (a b s) : held (rClose a b s).2 = held s := by
  unfold rClose; dsimp only
  split <;> simp

@[simp] theorem held_takeParity (i s) : held (takeParity i s) = held s := by
  unfold takeParity; dsimp only
  split <;> simp

@[simp] theorem held_listEntry (h u t p s) : held (listEntry h u t p s).2 = held s := by simp [listEntry]
@[simp] theorem held_requestFetch (i t p e s) : held (requestFetch i t p e s) = held s := rfl

@[simp] theorem held_posEntries (h u t) : ∀ ps s, held (posEntries h u t ps s).2 = held s
  | [], _ => rfl
  | _ :: ps, s => by simp [posEntries, held_posEntries h u t ps]

@[simp] theorem held_fetchPos (i x h t s) : held (fetchPos i x h t s) = held s := by
  unfold fetchPos; dsimp only
  split
  · simp
  · exact (held_foldl _ _ fun _ _ => held_requestFetch ..).trans (held_posEntries ..)

@[simp] theorem held_startFetches (i target s) : held (startFetches i target s) = held s := by
  unfold startFetches; dsimp only
  split <;> simp

@[simp] theorem held_solveRead (x ts target h) : ∀ ks s, held (solveRead x ts target h ks s).2.2 = held s
  | [], _ => rfl
  | _ :: ks, s => by simp [solveRead, held_solveRead x ts target h ks]

@[simp] theorem held_rSolve (i target h s) : held (rSolve i target h s).2 = held s := by simp [rSolve]
@[simp] theorem held_rRebuild (a b s) : held (rRebuild a b s).2 = held s := by simp [rRebuild]

@[simp] theorem held_rServe (k a b s) : held (rServe k a b s).2 = held s := by
  unfold rServe
  (repeat' split) <;> simp

@[simp] theorem heldEff_rGo (k c t w a b s) : heldEff (rGo k c t w a b s) = held s := by
  unfold rGo
  split <;> simpa using held_of_snd ‹_› (held_rServe k a b s)

@[simp] theorem heldEff_semRcmd (k c t w s) : heldEff (semRcmd k c t w s) = held s := by simp [semRcmd]

@[simp] theorem held_rNext (m s) : held (rNext m s) = held s := by
  unfold rNext
  split
  · simp
  · split <;> simpa using held_of_snd ‹_› (held_rServe m.k m.a m.b s)

@[simp] theorem held_renderNext : ∀ ms s, held (renderNext ms s) = held s
  | [], _ => rfl
  | m :: rest, s => by simp [renderNext, held_renderNext rest]

@[simp] theorem held_renderDone (m v s) : held (renderDone m v s) = held s := by
  unfold renderDone; dsimp only
  split <;> simp

@[simp] theorem held_renderOn (s) : held (renderOn s) = held s := by
  unfold renderOn; dsimp only
  split
  · rfl
  · rename_i m _
    split
    · split <;> simpa using held_of_snd ‹_› (held_rServe 0 m.a m.b s)
    · simp

@[simp] theorem held_settlePos (i t s) : held (settlePos i t s) = held s := by
  unfold settlePos; dsimp only
  split
  · rfl
  · rw [held_foldl, held_ite, held_noteAcc, held_foldl, ite_self]
    · intro s f; split <;> simp
    · intro s f; split <;> simp

@[simp] theorem held_fetchOver (i t p good s) : held (fetchOver i t p good s) = held s := by simp [fetchOver]

@[simp] theorem held_fetchEnd (i t p s) : held (fetchEnd i t p s) = held s := by
  unfold fetchEnd
  (repeat' split) <;> simp

@[simp] theorem held_renderDepart (n s) : held (renderDepart n s) = held s := by simp [renderDepart]

@[simp] theorem held_rndWrite (o v act s) : held (rndWrite o v act s) = held s := by
  unfold rndWrite; split <;> simp

end Sys2Proof.Machine
end

section
/-! SUPPORT. The variant and the queue, which admin commands, the Lath, interrupts, streams and the register port hold. -/

namespace Sys2Proof.Machine

open Sys2Proof

/-! ## Admin -/

@[simp] theorem held_endUnbounded (c t s) : held (endUnbounded c t s) = held s := by
  unfold endUnbounded; dsimp only
  split <;> simp

@[simp] theorem held_abortThread (c t s) : held (abortThread c t s) = held s := by simp [abortThread]

@[simp] theorem held_abortEntry (id s) : held (abortEntry id s).2 = held s := by
  unfold abortEntry
  (repeat' split) <;> simp

@[simp] theorem held_abortOutcome (id won s) : held (abortOutcome id won s) = held s := by simp [abortOutcome]

@[simp] theorem held_abortRemote (id tag s) : held (abortRemote id tag s) = held s := by
  unfold abortRemote; split <;> simp

@[simp] theorem held_fetchTimeout (i t p s) : held (fetchTimeout i t p s) = held s := by
  unfold fetchTimeout; dsimp only
  (repeat' split) <;> simp

@[simp] theorem held_admin (op f s) (h : ∀ e s, held (f e s) = held s) : held (admin op f s) = held s := by
  unfold admin
  split <;> simp [h]

@[simp] theorem held_adminCreate (cq e s) : held (adminCreate cq e s) = held s := by
  unfold adminCreate; dsimp only
  (repeat' split) <;> simp

@[simp] theorem held_adminDeleteSq (e s) : held (adminDeleteSq e s) = held s := by simp [adminDeleteSq]
@[simp] theorem held_adminDeleteCq (e s) : held (adminDeleteCq e s) = held s := by simp [adminDeleteCq]
@[simp] theorem held_adminDisable (e s) : held (adminDisable e s) = held s := by simp [adminDisable]
@[simp] theorem held_adminEnable (e s) : held (adminEnable e s) = held s := by simp [adminEnable]
@[simp] theorem held_adminSetArb (e s) : held (adminSetArb e s) = held s := by simp [adminSetArb]

@[simp] theorem held_adminAbort (e s) : held (adminAbort e s) = held s := by
  unfold adminAbort; dsimp only
  (repeat' split) <;> simp

/-! ## Lath -/

@[simp] theorem held_modLath (f s) : held (modLath f s) = held s := rfl
@[simp] theorem held_lateRsp (s) : held (lateRsp s) = held s := by simp [lateRsp]
@[simp] theorem held_cfgReject (s) : held (cfgReject s) = held s := by simp [cfgReject]
@[simp] theorem held_linkDown (x s) : held (linkDown x s) = held s := by simp [linkDown]
@[simp] theorem held_linkFail (x s) : held (linkFail x s) = held s := by simp [linkFail]

@[simp] theorem held_loseEntry (t s) : held (loseEntry t s) = held s := by
  unfold loseEntry
  (repeat' split) <;> simp

@[simp] theorem held_depart (n s) : held (depart n s) = held s := by simp [depart]
@[simp] theorem held_restart (n s) : held (restart n s) = held s := by simp [restart]
@[simp] theorem held_heard (n epoch s) : held (heard n epoch s) = held s := by simp [heard]
@[simp] theorem held_drained (x f s) : held (drained x f s) = held s := by simp [drained]

@[simp] theorem held_refuseIn (f s) : held (refuseIn f s) = held s := by
  unfold refuseIn; dsimp only
  split <;> simp

theorem held_requestIn {x f s u} (h : requestIn x f s = some u) : held u = held s := by
  unfold requestIn at h; dsimp only at h
  split at h
  · cases h; rfl
  · split at h
    · cases h; simp
    · split at h
      · cases h; simp
      · split at h
        · cases h; simp
        · split at h
          · cases h
          · rw [← Option.some.inj h]; simp

theorem held_dataIn {x f s u} (h : dataIn x f s = some u) : held u = held s := by
  unfold dataIn at h; dsimp only at h
  split at h
  · cases h; rfl
  · split at h
    · cases h
    · split at h
      · cases h; rfl
      · split at h <;> (cases h; simp)

@[simp] theorem held_abortIn (f s) : held (abortIn f s) = held s := by
  unfold abortIn
  (repeat' split) <;> simp

@[simp] theorem held_modRemote (tag g s) : held (modRemote tag g s) = held s := by simp [modRemote]

@[simp] theorem held_dataBack (x f s) : held (dataBack x f s) = held s := by
  unfold dataBack; split <;> simp

@[simp] theorem held_acceptBack (f s) : held (acceptBack f s) = held s := by
  unfold acceptBack; split <;> simp

@[simp] theorem held_freeSlot (tag r s) : held (freeSlot tag r s) = held s := by simp [freeSlot]

@[simp] theorem held_completeBack (f s) : held (completeBack f s) = held s := by
  unfold completeBack; split <;> simp

@[simp] theorem held_rejectBack (f s) : held (rejectBack f s) = held s := by
  unfold rejectBack; split <;> simp

@[simp] theorem held_abortBack (f s) : held (abortBack f s) = held s := by
  unfold abortBack
  (repeat' split) <;> simp

@[simp] theorem held_heartbeat (n s) : held (heartbeat n s) = held s := by
  unfold heartbeat; split <;> simp

@[simp] theorem held_remoteTimeout (tag s) : held (remoteTimeout tag s) = held s := by
  unfold remoteTimeout
  (repeat' split) <;> simp

@[simp] theorem held_probeIn (x f s) : held (probeIn x f s) = held s := by simp [probeIn]
@[simp] theorem held_probeEnd (r res s) : held (probeEnd r res s) = held s := by simp [probeEnd]
@[simp] theorem held_probeReply (f s) : held (probeReply f s) = held s := by simp [probeReply]
@[simp] theorem held_probeTimeout (s) : held (probeTimeout s) = held s := by simp [probeTimeout]
@[simp] theorem held_linkOut (x s) : held (linkOut x s) = held s := by simp [linkOut]

theorem held_frameEffect {x f s u} (h : frameEffect x f s = some u) : held u = held s := by
  unfold frameEffect at h
  split at h
  · exact held_requestIn h
  · split at h
    · cases h; simp
    · split at h
      · cases h; rfl
      · exact held_dataIn h
  all_goals cases h; simp

theorem held_frameHere {x f s u} (h : frameHere x f s = some u) : held u = held s := by
  unfold frameHere at h
  split at h
  · exact held_frameEffect h
  · cases h; simp

theorem held_rxEffect {x f s u} (h : rxEffect x f s = some u) : held u = held s := by
  unfold rxEffect at h
  split at h
  · cases h; simp
  · split at h
    · obtain ⟨v, hv, rfl⟩ := Option.map_eq_some_iff.1 h
      simp [held_frameHere hv]
    · cases h; simp
    · cases h; simp

theorem held_takeHead {s x b u} (h : takeHead s x b = some u) : held u = held s := by
  unfold takeHead at h
  split at h
  · cases h
  · exact (held_rxEffect h).trans (held_modLport ..)

theorem held_takeLoop {s u} (h : takeLoop s = some u) : held u = held s := by
  unfold takeLoop at h
  split at h
  · cases h
  · exact (held_frameHere h).trans (held_modLath ..)

theorem held_lathStep {s u} (h : lathStep s = some u) : held u = held s := by
  unfold lathStep at h
  split at h
  · cases h
    obtain ⟨i, -, hi⟩ := List.exists_of_findSome?_eq_some ‹_›
    exact held_takeHead hi
  · exact held_takeLoop h

@[simp] theorem held_lathRun : ∀ fuel s, held (lathRun fuel s) = held s
  | 0, _ => rfl
  | fuel + 1, s => by
    unfold lathRun
    split
    · rfl
    · rw [held_lathRun fuel, held_lathStep ‹_›]

@[simp] theorem held_lathGo (s) : held (lathGo s) = held s := by simp [lathGo]
@[simp] theorem held_arrive (x f s) : held (arrive x f s) = held s := by simp [arrive]
@[simp] theorem held_deliverAs (t x f s) : held (deliverAs t x f s) = held s := by simp [deliverAs]
@[simp] theorem held_forward (x f s) : held (forward x f s) = held s := by simp [forward]
@[simp] theorem held_sayHello (x r s) : held (sayHello x r s) = held s := by simp [sayHello]

@[simp] theorem held_trainStep (x pass s) : held (trainStep x pass s) = held s := by
  unfold trainStep; dsimp only
  split <;> simp

@[simp] theorem held_trainRetry (x s) : held (trainRetry x s) = held s := by simp [trainRetry]
@[simp] theorem held_portCtl (x v s) : held (portCtl x v s) = held s := by simp [portCtl]
@[simp] theorem held_helloIn (x f s) : held (helloIn x f s) = held s := by simp [helloIn]
@[simp] theorem held_replayAll (x s) : held (replayAll x s) = held s := by simp [replayAll]
@[simp] theorem held_linkIn (x f s) : held (linkIn x f s) = held s := by simp [linkIn]
@[simp] theorem held_probeGo (v s) : held (probeGo v s) = held s := by simp [probeGo]
@[simp] theorem held_lathReadAct (o m s) : held (lathReadAct o m s) = held s := by simp [lathReadAct]
@[simp] theorem held_selfWrite (m v s) : held (selfWrite m v s) = held s := by simp [selfWrite]
@[simp] theorem held_cfgWrite (m v s) : held (cfgWrite m v s) = held s := by simp [cfgWrite]
@[simp] theorem held_nodeWrite (i v s) : held (nodeWrite i v s) = held s := by simp [nodeWrite]
@[simp] theorem held_lathWrite (o m v act s) : held (lathWrite o m v act s) = held s := by simp [lathWrite]

/-! ## Interrupt -/

@[simp] theorem held_place (s) : held (place s) = held s := by
  unfold place
  (repeat' split) <;> simp

@[simp] theorem held_placeAll : ∀ fuel s, held (placeAll fuel s) = held s
  | 0, _ => rfl
  | fuel + 1, s => by simp [placeAll, held_placeAll fuel]

@[simp] theorem held_withdrawDue (s) : held (withdrawDue s) = held s := rfl
@[simp] theorem held_markDue (f s) : held (markDue f s) = held s := rfl

@[simp] theorem held_syncServe (s) : held (syncServe s) = held s := by
  unfold syncServe; split <;> simp

@[simp] theorem held_startHold (g s) : held (startHold g s) = held s := by simp [startHold]

@[simp] theorem held_icTaken (p s) : held (icTaken p s) = held s := by
  unfold icTaken; split <;> simp

@[simp] theorem held_holdEnd (g s) : held (holdEnd g s) = held s := by simp [holdEnd]
@[simp] theorem held_icMsg (src s) : held (icMsg src s) = held s := by simp [icMsg]
@[simp] theorem held_icEoi (p level s) : held (icEoi p level s) = held s := by simp [icEoi]

@[simp] theorem held_icWrite (o m v act s) : held (icWrite o m v act s) = held s := by
  unfold icWrite
  (repeat' split) <;> simp

/-! ## Streams -/

@[simp] theorem held_windowExpire (i s) : held (windowExpire i s) = held s := by simp [windowExpire]
@[simp] theorem held_strEnable (i b s) : held (strEnable i b s) = held s := by simp [strEnable]

@[simp] theorem held_endPops (i s) : held (endPops i s) = held s := by
  unfold endPops
  refine held_foldl _ _ fun s c => held_foldl _ _ fun s t => ?_
  dsimp only
  split <;> simp

set_option maxRecDepth 1000 in
@[simp] theorem held_strFlush (i s) : held (strFlush i s) = held s := by
  unfold strFlush; dsimp only
  split <;> simp

@[simp] theorem held_streamWordIn (i w em s) : held (streamWordIn i w em s) = held s := by
  unfold streamWordIn
  split <;> simp

@[simp] theorem held_traceFreeze (s) : held (traceFreeze s) = held s := by simp [traceFreeze]

@[simp] theorem held_strRegWrite (i k m v act s) : held (strRegWrite i k m v act s) = held s := by
  unfold strRegWrite; split <;> simp

/-! ## Registers -/

@[simp] theorem held_clearEvidence (s) : held (clearEvidence s) = held s := by simp [clearEvidence]
@[simp] theorem held_resetWrite (act s) : held (resetWrite act s) = held s := by simp [resetWrite]
@[simp] theorem held_gctlWrite (o v act s) : held (gctlWrite o v act s) = held s := by simp [gctlWrite]

@[simp] theorem held_pwrWrite (o v s) : held (pwrWrite o v s) = held s := by
  unfold pwrWrite; split <;> simp

@[simp] theorem held_calWrite (o m v act s) : held (calWrite o m v act s) = held s := by
  unfold calWrite; split <;> simp

@[simp] theorem held_srvReadAct (o m s) : held (srvReadAct o m s) = held s := by simp [srvReadAct]

@[simp] theorem held_srvWrite (o v act s) : held (srvWrite o v act s) = held s := by
  unfold srvWrite; split <;> simp

@[simp] theorem held_qeWrite (o m v act s) : held (qeWrite o m v act s) = held s := by
  unfold qeWrite; split <;> simp

@[simp] theorem held_dmaCtrl (e v s) : held (dmaCtrl e v s) = held s := by simp [dmaCtrl]

@[simp] theorem held_dmaWrite (e o m v act s) : held (dmaWrite e o m v act s) = held s := by
  unfold dmaWrite; split <;> simp

@[simp] theorem held_poolReject (s) : held (poolReject s) = held s := rfl
@[simp] theorem held_poolCfg (k v s) : held (poolCfg k v s) = held s := by simp [poolCfg]
@[simp] theorem held_hawkWrite (o m v act s) : held (hawkWrite o m v act s) = held s := by simp [hawkWrite]
@[simp] theorem held_plbReadAct (o m s) : held (plbReadAct o m s) = held s := by simp [plbReadAct]
@[simp] theorem held_plbWrite (o v s) : held (plbWrite o v s) = held s := by simp [plbWrite]
@[simp] theorem held_dieWrite (c j v s) : held (dieWrite c j v s) = held s := by simp [dieWrite]
@[simp] theorem held_pinctl (c b s) : held (pinctl c b s) = held s := by simp [pinctl]
@[simp] theorem held_fenceCfgWrite (c v act s) : held (fenceCfgWrite c v act s) = held s := by simp [fenceCfgWrite]

@[simp] theorem held_fenceDataRead (c s) : held (fenceDataRead c s).2 = held s := by
  unfold fenceDataRead; split <;> simp

@[simp] theorem held_fenceDataWrite (c v s) : held (fenceDataWrite c v s) = held s := by
  unfold fenceDataWrite; split <;> simp

@[simp] theorem held_chReadAct (c o m s) : held (chReadAct c o m s) = held s := by simp [chReadAct]
@[simp] theorem held_chWrite (c o m v act s) : held (chWrite c o m v act s) = held s := by simp [chWrite]

/-! ## Port -/

@[simp] theorem held_regReadAct (o m s) : held (regReadAct o m s) = held s := by simp [regReadAct]

theorem held_actRead {o m s p} : actRead o m s = some p → held p.2 = held s := by
  unfold actRead
  refine held_of_ite ?_ (held_of_ite ?_ held_of_none)
  · refine held_of_ite held_of_none (held_of_ite ?_ ?_)
    · exact held_of_some (held_if_snd (held_fenceDataRead ..) rfl)
    · split
      · exact held_of_some (held_mk_snd (held_readMem ..))
      · exact held_of_none
  · exact held_of_some (held_splitWord ..)

@[simp] theorem held_regWrite (o m d s) : held (regWrite o m d s) = held s := by
  unfold regWrite
  generalize windowOf o = w
  generalize merge (regRead o s) d m = v
  generalize d &&& m = act
  repeat' first | with_reducible apply held_if | split
  all_goals simp

@[simp] theorem held_answer (p s) : held (answer p s) = held s := rfl

@[simp] theorem held_hawkAlloc (k s) : held (hawkAlloc k s) = held s := by
  unfold hawkAlloc
  split
  · simp [held_alloc ‹_›]
  · simp

@[simp] theorem held_burstRead (o s) : held (burstRead o s).2 = held s := by
  unfold burstRead
  split
  · simp
  · split <;> exact held_of_snd ‹_› (held_windowRead ((o - 0x800000) / 8) 8 0xFF s)

@[simp] theorem held_dataWindow (i k f s) : held (dataWindow i k f s) = held s := by
  unfold dataWindow
  split
  · simp
  · split
    · simp
    · split
      · simp [held_windowPop ‹_›]
      · simp

@[simp] theorem held_maskSync (f s) : held (maskSync f s) = held s := by simp [maskSync]

@[simp] theorem held_portRead (o f s) : held (portRead o f s) = held s := by
  unfold portRead; dsimp only
  repeat' split
  any_goals simp
  · exact held_of_snd ‹_› (held_windowRead ..)
  · exact held_of_snd ‹_› (held_windowRead ..)
  · exact held_actRead ‹_›

@[simp] theorem held_portAct (r s) : held (portAct r s) = held s := by simp [portAct]

@[simp] theorem held_portGoFuel : ∀ fuel s, held (portGoFuel fuel s) = held s
  | 0, _ => rfl
  | fuel + 1, s => by
    unfold portGoFuel
    split
    · rfl
    · split <;> simp [held_portGoFuel fuel]

@[simp] theorem held_portGo (s) : held (portGo s) = held s := by simp [portGo]
@[simp] theorem held_portSubmit (r s) : held (portSubmit r s) = held s := by simp [portSubmit]

end Sys2Proof.Machine
end

section
/-! SUPPORT. Every command answers a next state with the variant and the queue it was given. -/

namespace Sys2Proof.Machine

open Sys2Proof

/-! ## Alu -/

@[simp] theorem heldEff_semExtr (c t w s) : heldEff (semExtr c t w s) = held s := by simp [semExtr]
@[simp] theorem heldEff_semInsr (c t w s) : heldEff (semInsr c t w s) = held s := by simp [semInsr]
@[simp] theorem heldEff_semLimm (c t w s) : heldEff (semLimm c t w s) = held s := by simp [semLimm]

/-! ## Branch -/

@[simp] theorem heldEff_semBr (c t w s) : heldEff (semBr c t w s) = held s := by simp [semBr]
@[simp] theorem heldEff_semCb (c t w s) : heldEff (semCb c t w s) = held s := by simp [semCb]
@[simp] theorem held_link (c t s) : held (link c t s) = held s := by simp [link]
@[simp] theorem heldEff_semCall (c t w s) : heldEff (semCall c t w s) = held s := by simp [semCall]
@[simp] theorem heldEff_semCallr (c t w s) : heldEff (semCallr c t w s) = held s := by simp [semCallr]
@[simp] theorem heldEff_semRet (c t w s) : heldEff (semRet c t w s) = held s := by simp [semRet]
@[simp] theorem heldEff_semEvret (c t w s) : heldEff (semEvret c t w s) = held s := by simp [semEvret]

/-! ## Decimal -/

@[simp] theorem heldEff_formD (c t f w s) : heldEff (formD c t f w s) = held s := by simp [formD]
@[simp] theorem heldEff_formD1 (c t f w s) : heldEff (formD1 c t f w s) = held s := by simp [formD1]

/-! ## Events -/

@[simp] theorem held_srvPublish (n s) : held (srvPublish n s) = held s := rfl
@[simp] theorem held_servoFault (mech loop s) : held (servoFault mech loop s) = held s := by simp [servoFault]
@[simp] theorem held_icPresent (s) : held (icPresent s) = held s := by simp [icPresent]

@[simp] theorem held_rdWaitExpiry (s) : held (rdWaitExpiry s) = held s := by
  unfold rdWaitExpiry; split <;> simp

/-! ## Commands -/

theorem answers_issue {c t key sem s} (h : ∀ w u, heldEff (sem w u) = held u) :
    Answers s (.next (issue c t key sem s)) :=
  answers_next (held_issue _ _ _ _ _ h)

theorem answers_admin {op f s} (h : ∀ e u, held (f e u) = held u) : Answers s (.next (admin op f s)) :=
  answers_next (held_admin _ _ _ h)

theorem answers_putReg (off a v s) : Answers s (putReg off a v s) := answers_next (held_portSubmit ..)
theorem answers_getReg (off a s) : Answers s (getReg off a s) := answers_next (held_portSubmit ..)

theorem answers_execMove (c t s) : Answers s (execMove c t s) := by
  unfold execMove
  split
  · exact answers_next (held_moveOn ..)
  · exact answers_issue fun _ _ => heldEff_semMove ..

theorem answers_execQpost (c t s) : Answers s (execQpost c t s) := by
  unfold execQpost
  split
  · exact answers_next (held_retry _ _ _ _ _ fun _ => heldEff_qpostGo ..)
  · exact answers_issue fun _ _ => heldEff_semQpost ..

theorem answers_execWaittExpiry (c t s) : Answers s (execWaittExpiry c t s) := by
  unfold execWaittExpiry
  split <;> exact answers_next (by simp)

theorem answers_execEndProg (c t s) : Answers s (execEndProg c t s) := by
  unfold execEndProg
  split
  · exact answers_next (held_tryEnd ..)
  · exact answers_issue fun _ _ => heldEff_semEnd ..

theorem exec_answers (s : State) : ∀ i : Instr, Answers s (exec i s)
  | .sqTailDoorbell _ _ _ => answers_putReg ..
  | .cqHeadDoorbell _ _ _ => answers_putReg ..
  | .registerWrite _ _ _ => answers_putReg ..
  | .calRecordWrite _ _ _ => answers_putReg ..
  | .icMsgWrite _ _ => answers_putReg ..
  | .icMaskSyncRead _ => answers_getReg ..
  | .icEoiWrite _ _ _ => answers_putReg ..
  | .hawkAllocRead _ _ => answers_getReg ..
  | .hawkFreeWrite _ _ _ => answers_putReg ..
  | .hawkPoolCfgWrite _ _ _ => answers_putReg ..
  | .streamDataWindowRead _ _ _ => answers_getReg ..
  | .rdWaitExpiry => answers_next (held_rdWaitExpiry ..)
  | .flush _ _ _ => answers_putReg ..
  | .streamEnableWrite _ _ _ => answers_putReg ..
  | .dmaSdoorWrite _ _ _ => answers_putReg ..
  | .senableWrite _ _ _ => answers_putReg ..
  | .qeQctlEnable _ _ _ => answers_putReg ..
  | .qeQctlDisable _ _ _ => answers_putReg ..
  | .qeQctlReserved _ _ _ => answers_putReg ..
  | .registerColdReset _ _ => answers_putReg ..
  | .registerWarmReset _ => answers_putReg ..
  | .haltEvidenceClear _ => answers_putReg ..
  | .chPatchGo _ _ _ => answers_putReg ..
  | .patchCopy _ => answers_next (held_patchCopy ..)
  | .fenceFill _ _ _ => answers_putReg ..
  | .fenceFillEnd _ => answers_next (held_fillEnd ..)
  | .chFenceDataRead _ _ => answers_getReg ..
  | .chFenceDataWrite _ _ _ => answers_putReg ..
  | .chDieWrite _ _ _ _ => answers_putReg ..
  | .chPinctlWrite _ _ _ => answers_putReg ..
  | .pwrDomainOn _ _ => answers_putReg ..
  | .pwrDomainSleep _ _ => answers_putReg ..
  | .pwrRetentionRequest _ _ => answers_putReg ..
  | .intBankRetireWrite _ _ => answers_putReg ..
  | .poolWithholdEnd _ => answers_next (by simp)
  | .splitWindowRead _ _ => answers_getReg ..
  | .splitWindowWrite _ _ _ => answers_putReg ..
  | .primerWindowRead _ _ => answers_getReg ..
  | .prmNop _ => answers_putReg ..
  | .prmRead _ => answers_putReg ..
  | .prmProgram _ => answers_putReg ..
  | .prmErase _ => answers_putReg ..
  | .prmSuspend _ => answers_putReg ..
  | .prmResume _ => answers_putReg ..
  | .prmReadFactory _ => answers_putReg ..
  | .prmRotate _ => answers_putReg ..
  | .prmEraseVerify _ => answers_putReg ..
  | .prmReservedCmd _ _ => answers_putReg ..
  | .prmPulseEnd _ => answers_next (held_pulseEnd ..)
  | .prmWindowEnable _ _ => answers_putReg ..
  | .lathProbeGo _ _ => answers_putReg ..
  | .probeTimeout => answers_next (held_probeTimeout ..)
  | .lathSelfWrite _ _ => answers_putReg ..
  | .lathNodeWrite _ _ _ => answers_putReg ..
  | .lathPortEnable _ _ _ => answers_putReg ..
  | .srvFaultInfoRead _ => answers_getReg ..
  | .plbFaultInfoRead _ => answers_getReg ..
  | .lathEventRead _ => answers_getReg ..
  | .intErrlogRead _ => answers_getReg ..
  | .chLdpcStatRead _ _ => answers_getReg ..
  | .strStatusRead _ _ => answers_getReg ..
  | .gctlSoftStateRead _ => answers_getReg ..
  | .pwrTokenStateRead _ => answers_getReg ..
  | .intBankRetireRead _ => answers_getReg ..
  | .lathPortStateRead _ _ => answers_getReg ..
  | .add _ _ => answers_issue fun _ _ => heldEff_formR ..
  | .addi _ _ => answers_issue fun _ _ => heldEff_formI ..
  | .sub _ _ => answers_issue fun _ _ => heldEff_formR ..
  | .subi _ _ => answers_issue fun _ _ => heldEff_formI ..
  | .and _ _ => answers_issue fun _ _ => heldEff_formR ..
  | .andi _ _ => answers_issue fun _ _ => heldEff_formI ..
  | .or _ _ => answers_issue fun _ _ => heldEff_formR ..
  | .ori _ _ => answers_issue fun _ _ => heldEff_formI ..
  | .xor _ _ => answers_issue fun _ _ => heldEff_formR ..
  | .xori _ _ => answers_issue fun _ _ => heldEff_formI ..
  | .shl _ _ => answers_issue fun _ _ => heldEff_formR ..
  | .shli _ _ => answers_issue fun _ _ => heldEff_formI ..
  | .shr _ _ => answers_issue fun _ _ => heldEff_formR ..
  | .shri _ _ => answers_issue fun _ _ => heldEff_formI ..
  | .sar _ _ => answers_issue fun _ _ => heldEff_formR ..
  | .sari _ _ => answers_issue fun _ _ => heldEff_formI ..
  | .ror _ _ => answers_issue fun _ _ => heldEff_formR ..
  | .rori _ _ => answers_issue fun _ _ => heldEff_formI ..
  | .minu _ _ => answers_issue fun _ _ => heldEff_formR ..
  | .maxu _ _ => answers_issue fun _ _ => heldEff_formR ..
  | .popc _ _ => answers_issue fun _ _ => heldEff_formU ..
  | .clz _ _ => answers_issue fun _ _ => heldEff_formU ..
  | .ctz _ _ => answers_issue fun _ _ => heldEff_formU ..
  | .extr _ _ => answers_issue fun _ _ => heldEff_semExtr ..
  | .insr _ _ => answers_issue fun _ _ => heldEff_semInsr ..
  | .mul _ _ => answers_issue fun _ _ => heldEff_formR ..
  | .mulhu _ _ => answers_issue fun _ _ => heldEff_formR ..
  | .muli _ _ => answers_issue fun _ _ => heldEff_formI ..
  | .mov _ _ => answers_issue fun _ _ => heldEff_formU ..
  | .limm _ _ => answers_issue fun _ _ => heldEff_semLimm ..
  | .seq _ _ => answers_issue fun _ _ => heldEff_formR ..
  | .seqi _ _ => answers_issue fun _ _ => heldEff_formI ..
  | .sne _ _ => answers_issue fun _ _ => heldEff_formR ..
  | .snei _ _ => answers_issue fun _ _ => heldEff_formI ..
  | .slt _ _ => answers_issue fun _ _ => heldEff_formR ..
  | .slti _ _ => answers_issue fun _ _ => heldEff_formI ..
  | .sltu _ _ => answers_issue fun _ _ => heldEff_formR ..
  | .sltui _ _ => answers_issue fun _ _ => heldEff_formI ..
  | .sle _ _ => answers_issue fun _ _ => heldEff_formR ..
  | .slei _ _ => answers_issue fun _ _ => heldEff_formI ..
  | .sleu _ _ => answers_issue fun _ _ => heldEff_formR ..
  | .sleui _ _ => answers_issue fun _ _ => heldEff_formI ..
  | .br _ _ => answers_issue fun _ _ => heldEff_semBr ..
  | .cb _ _ => answers_issue fun _ _ => heldEff_semCb ..
  | .call _ _ => answers_issue fun _ _ => heldEff_semCall ..
  | .callr _ _ => answers_issue fun _ _ => heldEff_semCallr ..
  | .ret _ _ => answers_issue fun _ _ => heldEff_semRet ..
  | .evret _ _ => answers_issue fun _ _ => heldEff_semEvret ..
  | .ld _ _ => answers_issue fun _ _ => heldEff_semLd ..
  | .lds _ _ => answers_issue fun _ _ => heldEff_semLds ..
  | .st _ _ => answers_issue fun _ _ => heldEff_semSt ..
  | .swap _ _ => answers_issue fun _ _ => heldEff_semSwap ..
  | .fadd _ _ => answers_issue fun _ _ => heldEff_semFadd ..
  | .dop _ _ => answers_issue fun _ _ => heldEff_semDop ..
  | .dopw _ _ => answers_issue fun _ _ => heldEff_semDopw ..
  | .dopt _ _ => answers_issue fun _ _ => heldEff_semDopt ..
  | .prgr _ _ => answers_issue fun _ _ => heldEff_semPrgr ..
  | .calcommitChange _ _ => answers_issue fun _ _ => heldEff_semCalcommit ..
  | .calcommitRevalidate _ _ => answers_issue fun _ _ => heldEff_semCalcommit ..
  | .move _ _ => answers_execMove ..
  | .halloc _ _ => answers_issue fun _ _ => heldEff_semHalloc ..
  | .hfree _ _ => answers_issue fun _ _ => heldEff_semHfree ..
  | .openCtx _ _ => answers_issue fun _ _ => heldEff_semRcmd ..
  | .accumulate _ _ => answers_issue fun _ _ => heldEff_semRcmd ..
  | .parityOut _ _ => answers_issue fun _ _ => heldEff_semRcmd ..
  | .rebuild _ _ => answers_issue fun _ _ => heldEff_semRcmd ..
  | .release _ _ => answers_issue fun _ _ => heldEff_semRcmd ..
  | .closeCtx _ _ => answers_issue fun _ _ => heldEff_semRcmd ..
  | .renderFetchEnd _ _ _ => answers_next (held_fetchEnd ..)
  | .renderFetchTimeout _ _ _ => answers_next (held_fetchTimeout ..)
  | .plbrd _ _ => answers_issue fun _ _ => heldEff_semPlbrd ..
  | .plbwr _ _ => answers_issue fun _ _ => heldEff_semPlbwr ..
  | .plbrst _ _ => answers_issue fun _ _ => heldEff_semPlbrst ..
  | .plbfrzFreeze _ _ => answers_issue fun _ _ => heldEff_semPlbfrz ..
  | .plbfrzResume _ _ => answers_issue fun _ _ => heldEff_semPlbfrz ..
  | .qpost _ _ => answers_execQpost ..
  | .endProg _ _ => answers_execEndProg ..
  | .feat _ _ => answers_issue fun _ _ => heldEff_semFeat ..
  | .time _ _ => answers_issue fun _ _ => heldEff_semTime ..
  | .waitt _ _ => answers_issue fun _ _ => heldEff_semWaitt ..
  | .waittExpiry _ _ => answers_execWaittExpiry ..
  | .waite _ _ => answers_issue fun _ _ => heldEff_semWaite ..
  | .sigset _ _ => answers_issue fun _ _ => heldEff_semSigset ..
  | .nop _ _ => answers_issue fun _ _ => heldEff_semNop ..
  | .dadd _ _ => answers_issue fun _ _ => heldEff_formD ..
  | .dsub _ _ => answers_issue fun _ _ => heldEff_formD ..
  | .dadj _ _ => answers_issue fun _ _ => heldEff_formD1 ..
  | .bcd2bin _ _ => answers_issue fun _ _ => heldEff_formD1 ..
  | .bin2bcd _ _ => answers_issue fun _ _ => heldEff_formD1 ..
  | .msfadd _ _ => answers_issue fun _ _ => heldEff_formR ..
  | .msfsub _ _ => answers_issue fun _ _ => heldEff_formR ..
  | .msf2n _ _ => answers_issue fun _ _ => heldEff_formU ..
  | .n2msf _ _ => answers_issue fun _ _ => heldEff_formU ..
  | .dslt _ _ => answers_issue fun _ _ => heldEff_formD ..
  | .abort => answers_admin fun _ _ => held_adminAbort ..
  | .entryTakenByThread _ => answers_next (held_entryTaken ..)
  | .calibrationStart _ => answers_next (held_calibrationStart ..)
  | .routineStart _ => answers_next (held_routineStart ..)
  | .idle _ => answers_next (held_microStep ..)
  | .cmd _ => answers_next (held_microStep ..)
  | .addr _ => answers_next (held_microStep ..)
  | .din _ => answers_next (held_microStep ..)
  | .dout _ _ => answers_next (held_microStep ..)
  | .stat _ _ => answers_next (held_microStep ..)
  | .trainOut _ _ => answers_next (held_microStep ..)
  | .trainIn _ => answers_next (held_microStep ..)
  | .softHandoff _ => answers_next (held_microStep ..)
  | .routineEnd _ _ => answers_next (held_microStep ..)
  | .outcomeWrite _ _ => answers_next (held_outcomeWrite ..)
  | .parkExpiry _ _ => answers_next (held_parkExpiry ..)
  | .readyTimeout _ _ => answers_next (held_readyTimeout ..)
  | .routineKill _ _ => answers_next (held_routineKill ..)
  | .pumpStartAdmit => answers_next (by split <;> simp)
  | .dqGuardRelease _ _ => answers_next (held_guardRelease ..)
  | .tokenReturn => answers_next (held_tokenReturn ..)
  | .hardDecodeEnd _ => answers_next (held_hardEnd ..)
  | .softAssign => answers_next (held_softAssign ..)
  | .softDecodeEnd _ => answers_next (held_softEnd ..)
  | .calWindowOpen _ => answers_next (held_windowOpen ..)
  | .calMeasureEnd _ _ => answers_next (held_measureEnd ..)
  | .fetchTurn => answers_next (held_fetchTurn ..)
  | .entryCheck _ _ => answers_next (held_entryCheck ..)
  | .contextReadDone _ _ _ => answers_next (held_ctxReadDone ..)
  | .contextWriteResponse _ _ _ => answers_next (held_ctxWriteResp ..)
  | .fragmentTableReadDone _ _ => answers_next (held_fragDone ..)
  | .entryBufferAlloc _ => answers_next (held_bufferAlloc ..)
  | .entryDispatch _ => answers_next (held_entryDispatch ..)
  | .completionPost _ => answers_next (held_completionPost ..)
  | .completionWriteResponse _ _ => answers_next (held_completionResp ..)
  | .batchPost _ => answers_next (held_batchPost ..)
  | .batchTimeExpiry _ => answers_next (held_batchExpiry ..)
  | .indexPublish _ _ _ => answers_next (held_indexPublish ..)
  | .adminNop => answers_admin fun _ _ => held_finishEntry ..
  | .createCq => answers_admin fun _ _ => held_adminCreate ..
  | .createSq => answers_admin fun _ _ => held_adminCreate ..
  | .deleteSq => answers_admin fun _ _ => held_adminDeleteSq ..
  | .deleteCq => answers_admin fun _ _ => held_adminDeleteCq ..
  | .disableSq => answers_admin fun _ _ => held_adminDisable ..
  | .enableSq => answers_admin fun _ _ => held_adminEnable ..
  | .setArb => answers_admin fun _ _ => held_adminSetArb ..
  | .dmaDescriptorReadDone _ _ => answers_next (held_descReadDone ..)
  | .dmaDataResponse _ _ _ _ => answers_next (held_dataResponse ..)
  | .dmaWritebackResponse _ _ _ => answers_next (held_wbackResponse ..)
  | .dmaStreamBurst _ => answers_next (held_streamBurst ..)
  | .streamWordIn _ _ _ => answers_next (by simp)
  | .srvPublish _ => answers_next (held_srvPublish ..)
  | .servoFaultMsg _ _ => answers_next (held_servoFault ..)
  | .icPresent => answers_next (held_icPresent ..)
  | .taken _ => answers_next (by simp)
  | .holdoffExpiry _ => answers_next (by simp)
  | .pwrGrantRise _ => answers_next (held_grantRise ..)
  | .pwrGrantFall _ => answers_next (held_grantFall ..)
  | .retGrant _ => answers_next (held_retGrant ..)
  | .quiescence _ => answers_next (held_quiescence ..)
  | .quadLoad _ => answers_next (held_quadLoad ..)
  | .stgInitEnd => answers_next (held_stgInitEnd ..)
  | .pfailRise => answers_next (by simp)
  | .pfailFall => answers_next rfl
  | .brownoutRise => answers_next (by simp)
  | .brownoutFall => answers_next (by simp)
  | .powerOnReset => answers_next (by simp)
  | .fuseWord _ => answers_next (held_fuseWord ..)
  | .fuseTimeout => answers_next (held_fuseTimeout ..)
  | .bootInitEnd => answers_next (held_bootInitEnd ..)
  | .bootJournal => answers_next (held_bootJournal ..)
  | .bootDirectory => answers_next (held_bootDirectory ..)
  | .lathRequest _ _ => answers_next (held_deliverAs ..)
  | .lathData _ _ => answers_next (held_deliverAs ..)
  | .lathAccept _ _ => answers_next (held_deliverAs ..)
  | .lathComplete _ _ => answers_next (held_deliverAs ..)
  | .lathReject _ _ => answers_next (held_deliverAs ..)
  | .lathAbort _ _ => answers_next (held_deliverAs ..)
  | .lathAbortResult _ _ => answers_next (held_deliverAs ..)
  | .lathHeartbeat _ _ => answers_next (held_deliverAs ..)
  | .lathProbe _ _ => answers_next (held_deliverAs ..)
  | .lathProbeReply _ _ => answers_next (held_deliverAs ..)
  | .lathHello _ _ => answers_next (held_helloIn ..)
  | .lathLink _ _ => answers_next (held_linkIn ..)
  | .lathFrameForward _ _ => answers_next (held_forward ..)
  | .linkTrainStep _ _ => answers_next (held_trainStep ..)
  | .linkTrainRetry _ => answers_next (held_trainRetry ..)
  | .heartbeatTimer _ => answers_next (held_heartbeat ..)
  | .remoteTimeout _ => answers_next (held_remoteTimeout ..)
  | .brownOutDetectorTrip => answers_next (held_tripDetector ..)
  | .brownOutDetectorRelease => answers_next (by simp)
  | .lathNoLink _ => answers_next (by simp)

/-- Settles O3: `exec_answers`, the case split over the commands. -/
theorem everyCommandAnswers : Obligations.EveryCommandAnswers := by
  unfold Obligations.EveryCommandAnswers
  intro i s
  obtain ⟨u, hu, h⟩ := exec_answers s i
  exact ⟨u, hu, congrArg Prod.snd h, congrArg Prod.fst h⟩

end Sys2Proof.Machine
end

section
/-! SUPPORT. A microword's step: its fetch, its row, what holds it back, its cycle, and the registers and next address at its
end (R154-R160, R167, R170, R242, R249). -/

namespace Sys2Proof.Machine

open Sys2Proof Sys2Proof.Spec

/-! ## The routine of a thread -/

@[simp] theorem rtnOf_modRtn (c : Chan) (t : Thr) (f : Routine → Routine) (s : State) :
    rtnOf (modRtn c t f s) c t = (rtnOf s c t).map f := by simp [rtnOf, modRtn]

theorem rtnOf_modChan (c : Chan) (t : Thr) {f : Channel → Channel} (s : State) (h : ∀ x, (f x).thr = x.thr) :
    rtnOf (modChan c f s) c t = rtnOf s c t := congrArg Thread.rtn (thr_modChan c t f s h)

@[simp] theorem rtnOf_setCe (c : Chan) (t : Thr) (j : Ctx) (low : Bool) (s : State) :
    rtnOf (setCe c j low s) c t = rtnOf s c t := rtnOf_modChan c t s fun _ => rfl

@[simp] theorem rtnOf_setCycle (c : Chan) (t : Thr) (d : DieRec) (x : Cycle) (s : State) :
    rtnOf (setCycle c d x s) c t = rtnOf s c t := rtnOf_modChan c t s fun _ => rfl

/-- A fetch from a store changes flags, the log and the word that it corrects, and no thread (R170). -/
theorem thr_fetchStore (c : Chan) (b : Bool) (i : Nat) (s : State) (t : Thr) :
    thr (fetchStore c b i s).2 c t = thr s c t := by
  have flagged (f : ChReg → ChReg) (k : Byte) (j : Bool) (l : BitVec 32) (v : W64) (u : State) :
      thr (modReg c f (logRec k j l v u)) c t = thr u c t :=
    (thr_modChan c t (fun ch => { ch with reg := f ch.reg }) _ fun _ => rfl).trans (thr_of_ch (logRec_ch k j l v u) c t)
  unfold fetchStore
  dsimp only
  split
  · exact flagged ..
  · split
    · rfl
    · refine (flagged ..).trans (thr_modChan c t _ _ fun _ => ?_)
      split <;> rfl
    · exact flagged ..

theorem rtnOf_of_stepAt {c : Chan} {t : Thr} {r : Routine} {w : BitVec 128} {s y : State} (h : StepAt c t r w s y) :
    rtnOf y c t = some r := by
  obtain ⟨⟨_, _, _, hr, _⟩, hf, _⟩ := h
  have := congrArg Thread.rtn (thr_fetchStore c false r.upc.toNat s t)
  rw [hf] at this
  exact this.trans hr

/-! ## The commands of microword steps -/

/-- A command of a microword step is its row's step, with the bytes that its die sends. -/
theorem exec_stepCmd {c : Chan} {d : List Byte} {e : URow × List Byte × Instr} (he : e ∈ stepCmd c d) (s : State) :
    exec e.2.2 s = .next (microStep c e.1 e.2.1 s) := by
  simp only [stepCmd, List.mem_cons, List.not_mem_nil, or_false] at he
  rcases he with rfl | rfl | rfl | rfl | rfl | rfl | rfl | rfl | rfl | rfl <;> rfl

section
variable {c : Chan} {t : Thr} {r : Routine} {w : BitVec 128} {d : List Byte} {s y z : State} {row : URow}

theorem microStep_fetch_fails (h : OnBus c t r s) (hf : fetchStore c false r.upc.toNat s = (none, y)) :
    microStep c row d s = endRoutine c t .engine y := by
  obtain ⟨hc, hq, ht, hr, hw⟩ := h
  simp [microStep, hc, hq, ht, hr, hw, hf]

theorem microStep_illegal (h : OnBus c t r s) (hf : fetchStore c false r.upc.toNat s = (some w, y))
    (hl : uLegal w = false) : microStep c row d s = endRoutine c t .engine (refuseWord c r.upc.toNat y) := by
  obtain ⟨hc, hq, ht, hr, hw⟩ := h
  simp [microStep, hc, hq, ht, hr, hw, hf, hl]

theorem microStep_other_row (h : StepAt c t r w s y) (hrow : uRow w ≠ row) : microStep c row d s = s := by
  obtain ⟨⟨hc, hq, ht, hr, hw⟩, hf, hl⟩ := h
  simp [microStep, hc, hq, ht, hr, hw, hf, hl, hrow]

/-- The step of its row is over at its yield check. -/
theorem microStep_stop (h : StepAt c t r w s y) (hrow : uRow w = row) (hy : yieldCheck c t r w y = .stop z) :
    microStep c row d s = z := by
  obtain ⟨⟨hc, hq, ht, hr, hw⟩, hf, hl⟩ := h
  simp [microStep, hc, hq, ht, hr, hw, hf, hl, hrow, hy]

/-- The step of its row passes its yield check. -/
theorem microStep_go (h : StepAt c t r w s y) (hrow : uRow w = row) (hy : yieldCheck c t r w y = .go z) :
    microStep c row d s = stepBody c t w d z := by
  obtain ⟨⟨hc, hq, ht, hr, hw⟩, hf, hl⟩ := h
  simp [microStep, hc, hq, ht, hr, hw, hf, hl, hrow, hy]

theorem yieldCheck_not_due (hw : uYield w = false) (hp : r.passed = true ∨ uBus w = 0) : yieldCheck c t r w s = .go s := by
  unfold yieldCheck
  rcases hp with hp | hp <;> simp [hw, hp]

end

/-! ## Rows and buses -/

/-- The BUS code of each row but END's (R156). -/
def rowBus : URow → Nat
  | .idle | .soft | .end_ => 0
  | .cmd => 1
  | .addr => 2
  | .din => 3
  | .dout => 4
  | .stat => 5
  | .trainOut => 6
  | .trainIn => 7

theorem uBus_le_of_legal {w : BitVec 128} (h : uLegal w = true) : uBus w ≤ 7 := by
  simp only [uLegal, Bool.and_eq_true, decide_eq_true_eq] at h
  omega

theorem uRow_eq_end {w : BitVec 128} : uRow w = .end_ ↔ uSeq w = 3 := by
  unfold uRow
  by_cases hs : uSeq w = 3
  · simp [hs]
  · simp only [hs, if_false, iff_false]
    split
    case h_1 => split <;> decide
    all_goals decide

theorem uBus_eq_rowBus {w : BitVec 128} {row : URow} (hl : uLegal w = true) (h : uRow w = row) (hrow : row ≠ .end_) :
    uBus w = rowBus row := by
  subst h
  have hle := uBus_le_of_legal hl
  have hs : uSeq w ≠ 3 := fun hs => hrow (uRow_eq_end.mpr hs)
  rw [uRow, if_neg hs]
  generalize uBus w = n at hle
  match n, hle with
  | 0, _ =>
    change 0 = rowBus (if uDpath w = 2 then .soft else .idle)
    split <;> rfl
  | 1, _ | 2, _ | 3, _ | 4, _ | 5, _ | 6, _ | 7, _ => rfl

theorem uDpath_of_soft {w : BitVec 128} (hl : uLegal w = true) (h : uRow w = .soft) : uDpath w = 2 := by
  have hb := uBus_eq_rowBus hl h (by decide)
  have hs : uSeq w ≠ 3 := fun hs => by cases (uRow_eq_end.mpr hs).symm.trans h
  simpa [uRow, hs, hb, rowBus] using h

theorem uDpath_of_idle {w : BitVec 128} (hl : uLegal w = true) (h : uRow w = .idle) : uDpath w ≠ 2 := by
  have hb := uBus_eq_rowBus hl h (by decide)
  have hs : uSeq w ≠ 3 := fun hs => by cases (uRow_eq_end.mpr hs).symm.trans h
  simpa [uRow, hs, hb, rowBus] using h

/-! ## What a step waits for -/

section
variable {c : Chan} {t : Thr} {r : Routine} {w : BitVec 128} {d : List Byte} {s : State}

theorem stepBody_decoder_busy (hr : rtnOf s c t = some r) (hb : uBus w = 4) (hc : isCoded w = true)
    (hq : ∃ k ∈ (chan s c).decq, k.buf = stepBuf r w) :
    stepBody c t w d s = modRtn c t (fun r => { r with wait := .place }) (quietPins c s) := by
  simp [stepBody, hr, hb, hc, hq]

theorem stepBody_handoffs_out (hr : rtnOf s c t = some r) (hb : uBus w = 0) (hd : uDpath w = 2) (hn : 4 ≤ r.handoffs) :
    stepBody c t w d s = modRtn c t (fun r => { r with wait := .place }) (quietPins c s) := by
  simp [stepBody, hr, hb, hd, hn]

theorem stepBody_guarded (hr : rtnOf s c t = some r) (hb : isBurst w = true)
    (hq : uBus w = 4 → isCoded w = true → ∀ k ∈ (chan s c).decq, k.buf ≠ stepBuf r w)
    (hen : s.srv.dqEn = true) (hg : guarded s = true) :
    stepBody c t w d s = modRtn c t (fun r => { r with wait := .guard }) (quietPins c s) := by
  have hbus : uBus w ≠ 0 ∧ uBus w ≠ 1 := by
    simp only [isBurst, Bool.or_eq_true, decide_eq_true_eq] at hb
    omega
  simp only [stepBody, hr]
  rw [if_neg (by simp [hbus]), if_neg (by simpa [and_imp] using hq), if_neg (by simp [hbus]),
    if_pos (by simp [hb, hen, hg])]

theorem stepBody_free (hr : rtnOf s c t = some r) (h : StepFree c r w s) : stepBody c t w d s = driveStep c t w d s := by
  obtain ⟨hpump, hq, hn, hg⟩ := h
  simp only [stepBody, hr]
  rw [if_neg (by simpa using hpump), if_neg (by simpa [and_imp] using hq), if_neg (by simpa [and_imp] using hn),
    if_neg (by simpa [and_imp] using hg)]

/-! ## The end of a step -/

theorem finishStep_loadRegs (x : State) : finishStep c t w (modRtn c t (loadRegs w) x) = stepEnds c t w x := by
  unfold finishStep stepEnds
  cases h : rtnOf (modRtn c t (loadRegs w) x) c t <;> simp [h, and_assoc]

theorem driveStep_eq (hr : rtnOf s c t = some r) : driveStep c t w d s =
    stepEnds c t w (driveCycle c t r w d (modRtn c t (fun r => { r with wait := .none }) s)) := by
  simp only [driveStep, hr, finishStep_loadRegs]

/-- A step of END ends its routine, where no kill came within it (R167, R169). -/
theorem stepEnds_end {x : State} (hr : rtnOf x c t = some r) (hs : uSeq w = 3) (hk : r.kill = false) :
    stepEnds c t w x = endRoutine c t .normal (modRtn c t (loadRegs w) x) := by
  have hk' : (loadRegs w r).kill = false := hk
  simp [stepEnds, chooseNext, stepDone, hs, hr, hk']

/-! ## The cycle of a step -/

theorem captured_one (b : Byte) (s : State) : captured 1 [b] s = ([b], s) := rfl

theorem driveCycle_idle (hl : uLegal w = true) (h : uRow w = .idle) : driveCycle c t r w d s =
    setCycle c r.dieRec (.idle (!uCe w)) (setCe c r.die (uCe w) s) := by
  simp [driveCycle, uBus_eq_rowBus hl h, rowBus, uDpath_of_idle hl h]

theorem driveCycle_soft (hl : uLegal w = true) (h : uRow w = .soft) : driveCycle c t r w d s =
    handoff c t r w (setCycle c r.dieRec (.idle (!uCe w)) (setCe c r.die (uCe w) s)) := by
  simp [driveCycle, uBus_eq_rowBus hl h, rowBus, uDpath_of_soft hl h]

theorem driveCycle_end (hb : uBus w = 0) (hd : uDpath w ≠ 2) : driveCycle c t r w d s =
    setCycle c r.dieRec (.idle (!uCe w)) (setCe c r.die (uCe w) s) := by
  simp [driveCycle, hb, hd]

theorem driveCycle_cmd (hl : uLegal w = true) (h : uRow w = .cmd) : driveCycle c t r w d s =
    setCycle c r.dieRec (.cmd r.die (srcByte r w)) (setCe c r.die (uCe w) s) := by
  simp [driveCycle, uBus_eq_rowBus hl h, rowBus]

theorem driveCycle_addr (hl : uLegal w = true) (h : uRow w = .addr) : driveCycle c t r w d s =
    setCycle c r.dieRec (.addr r.die (srcByte r w)) (setCe c r.die (uCe w) s) := by
  simp [driveCycle, uBus_eq_rowBus hl h, rowBus]

theorem driveCycle_stat {b : Byte} (hl : uLegal w = true) (h : uRow w = .stat) : driveCycle c t r w [b] s =
    setCycle c r.dieRec (.stat r.die) (modRtn c t (fun r => { r with status := b }) (setCe c r.die (uCe w) s)) := by
  simp [driveCycle, uBus_eq_rowBus hl h, rowBus, captured_one]

theorem driveCycle_in (hl : uLegal w = true) (h : uRow w = .din ∨ uRow w = .trainIn) (hn : burstLen r w ≠ 0) :
    driveCycle c t r w d s = dinBurst c t r w (setCe c r.die (uCe w) s) := by
  rcases h with h | h <;> simp [driveCycle, uBus_eq_rowBus hl h, rowBus, hn]

theorem driveCycle_out (hl : uLegal w = true) (h : uRow w = .dout ∨ uRow w = .trainOut) (hn : burstLen r w ≠ 0) :
    driveCycle c t r w d s = doutBurst c t r w d (setCe c r.die (uCe w) s) := by
  rcases h with h | h <;> simp [driveCycle, uBus_eq_rowBus hl h, rowBus, hn]

theorem driveCycle_no_bytes (hl : uLegal w = true) (h : uRow w ∈ [URow.din, .dout, .trainIn, .trainOut])
    (hn : burstLen r w = 0) : driveCycle c t r w d s = quietPins c (setCe c r.die (uCe w) s) := by
  simp only [List.mem_cons, List.not_mem_nil, or_false] at h
  rcases h with h | h | h | h <;> simp [driveCycle, uBus_eq_rowBus hl h, rowBus, hn]

/-! ## The step as a command -/

theorem exec_step_goes {e : URow × List Byte × Instr} {y z : State} (h : StepAt c t r w s y) (he : e ∈ stepCmd c d)
    (hrow : uRow w = e.1) (hy : yieldCheck c t r w y = .go z) : exec e.2.2 s = .next (stepBody c t w e.2.1 z) := by
  rw [exec_stepCmd he, microStep_go h hrow hy]

theorem exec_step_stops {e : URow × List Byte × Instr} {y z : State} (h : StepAt c t r w s y) (he : e ∈ stepCmd c d)
    (hrow : uRow w = e.1) (hy : yieldCheck c t r w y = .stop z) : exec e.2.2 s = .next z := by
  rw [exec_stepCmd he, microStep_stop h hrow hy]

/-- With no yield due and nothing to wait for, the step ends with what its cycle gives. -/
theorem exec_step_free {e : URow × List Byte × Instr} {y z : State} (h : StepAt c t r w s y) (hy : uYield w = false)
    (hp : r.passed = true ∨ uBus w = 0) (hf : StepFree c r w y) (he : e ∈ stepCmd c d) (hrow : uRow w = e.1)
    (hz : driveCycle c t r w e.2.1 (modRtn c t (fun r => { r with wait := .none }) y) = z) :
    exec e.2.2 s = .next (stepEnds c t w z) := by
  have hr := rtnOf_of_stepAt h
  rw [exec_step_goes h he hrow (yieldCheck_not_due hy hp), stepBody_free hr hf, driveStep_eq hr, hz]

end

/-- Settles O47: the fetch, the row, what a step waits for, and each row's cycle with the end of its step. -/
theorem microSteps : Obligations.MicroSteps := by
  unfold Obligations.MicroSteps
  intro c t r w d s y x
  refine ⟨fun hb hf e he => ?unfetched, fun hb hf hl e he => ?refused, fun h e he hrow => ?otherRow,
    fun h hy hp e he hrow => ?waits, fun p hpins => ?quiet, fun h hy hp hf hx => ?cycle⟩
  case unfetched => rw [exec_stepCmd he, microStep_fetch_fails hb hf]
  case refused => rw [exec_stepCmd he, microStep_illegal hb hf hl]
  case otherRow => rw [exec_stepCmd he, microStep_other_row h hrow]
  case waits =>
    have hr := rtnOf_of_stepAt h
    rw [exec_step_goes h he hrow (yieldCheck_not_due hy hp)]
    refine ⟨fun hb hc hq => ?_, fun hb hd hn => ?_, fun hb _ hq hen hg => ?_, fun hb hc hen hg => ?_⟩
    · rw [stepBody_decoder_busy hr hb hc hq]
    · rw [stepBody_handoffs_out hr hb hd hn]
    · rw [stepBody_guarded hr hb (fun _ _ => hq) hen hg]
    · rw [stepBody_guarded hr hb (fun h4 hco => by simp [h4, hco] at hc) hen hg]
  case quiet =>
    subst hpins
    simp [quietPins, busPins]
  case cycle =>
    have ⟨_, _, hl⟩ := h
    have step (d : List Byte) (e : URow × List Byte × Instr) {z : State} :=
      exec_step_free (d := d) (e := e) (z := z) h hy hp hf
    subst hx
    refine ⟨fun e he hrow => step d e he hrow rfl, fun hrow => ?idle, fun hrow => ?cmd, fun hrow => ?addr,
      fun b hrow => ?stat, fun hrow hn i hi => ?bytesIn, fun hrow hn i hi => ?bytesOut,
      fun e he hrow hburst hn => ?noBytes, fun hrow => ?soft, fun hrow hb hd hk => ?ends⟩
    case idle => exact step d (.idle, [], .idle c) (by simp [stepCmd]) hrow (driveCycle_idle hl hrow)
    case cmd => exact step d (.cmd, [], .cmd c) (by simp [stepCmd]) hrow (driveCycle_cmd hl hrow)
    case addr => exact step d (.addr, [], .addr c) (by simp [stepCmd]) hrow (driveCycle_addr hl hrow)
    case stat => exact step [b] (.stat, [b], .stat c b) (by simp [stepCmd]) hrow (driveCycle_stat hl hrow)
    case bytesIn =>
      subst hi
      rcases hrow with hrow | hrow
      · rw [if_pos hrow]
        exact step d (.din, [], .din c) (by simp [stepCmd]) hrow (driveCycle_in hl (.inl hrow) hn)
      · rw [if_neg (by simp [hrow])]
        exact step d (.trainIn, [], .trainIn c) (by simp [stepCmd]) hrow (driveCycle_in hl (.inr hrow) hn)
    case bytesOut =>
      subst hi
      rcases hrow with hrow | hrow
      · rw [if_pos hrow]
        exact step d (.dout, d, .dout c d) (by simp [stepCmd]) hrow (driveCycle_out hl (.inl hrow) hn)
      · rw [if_neg (by simp [hrow])]
        exact step d (.trainOut, d, .trainOut c d) (by simp [stepCmd]) hrow (driveCycle_out hl (.inr hrow) hn)
    case noBytes => exact step d e he hrow (driveCycle_no_bytes hl (hrow ▸ hburst) hn)
    case soft => exact step d (.soft, [], .softHandoff c) (by simp [stepCmd]) hrow (driveCycle_soft hl hrow)
    case ends =>
      refine (step d (.end_, d, .routineEnd c d) (by simp [stepCmd]) hrow (driveCycle_end hb hd)).trans (congrArg _ ?_)
      exact stepEnds_end (r := { r with wait := .none }) (by simp [rtnOf_of_stepAt h]) (uRow_eq_end.mp hrow) hk

end Sys2Proof.Machine
end

section
/-! SUPPORT. The yield check (R162-R165, R174, R197). -/

namespace Sys2Proof.Machine

open Sys2Proof Sys2Proof.Spec

/-- A yield check is due at this microword (R162, R163). -/
def YieldDue (r : Routine) (w : BitVec 128) : Prop := uYield w = true ∨ (r.passed = false ∧ 1 ≤ uBus w)

section
variable {c : Chan} {t : Thr} {r : Routine} {w : BitVec 128} {s : State}

theorem modRtn_congr {f g : Routine → Routine} (hr : rtnOf s c t = some r) (h : f r = g r) :
    modRtn c t f s = modRtn c t g s := by
  have hr' : (thr s c t).rtn = some r := hr
  exact modThr_congr (by simp [hr', h])

/-- No abort and no timeout ends the routine at this yield point or sends it to ABT (R162). -/
def RunsOn (r : Routine) : Prop :=
  (r.passed = false ∧ r.abortP = false) ∨ (r.passed = true ∧ r.abortP = false ∧ r.expired = false) ∨
    (r.passed = true ∧ r.early ≠ .none)

theorem RunsOn.not_early (h : RunsOn r) : ¬ (!r.passed && r.abortP) = true ∧
    ¬ (r.passed && (r.abortP || r.expired) && decide (r.early = .none)) = true := by
  rcases h with ⟨hp, ha⟩ | ⟨hp, ha, hx⟩ | ⟨hp, he⟩ <;> simp [*]

theorem YieldDue.not_skipped (h : YieldDue r w) : ¬ (!(uYield w || (!r.passed && decide (1 ≤ uBus w)))) = true := by
  rcases h with h | ⟨hp, hb⟩ <;> simp [*]

theorem yieldCheck_discards (hw : YieldDue r w) (hp : r.passed = false) (ha : r.abortP = true) :
    yieldCheck c t r w s = .stop (endRoutine c t .discard s) := by
  unfold yieldCheck
  rw [if_neg hw.not_skipped]
  exact if_pos (by simp [hp, ha])

theorem yieldCheck_goes_to_abt (hr : rtnOf s c t = some r) (hw : YieldDue r w) (hp : r.passed = true)
    (hx : r.abortP = true ∨ r.expired = true) (he : r.early = .none) :
    yieldCheck c t r w s = .stop (writePrg c t (uAbt w) r.upc false (modRtn c t (fun r => { r with
      early := if r.abortP then .abort else .timeout, abt := uAbt w, upc := uAbt w }) s)) := by
  unfold yieldCheck
  rw [if_neg hw.not_skipped]
  dsimp only
  rw [if_neg (by simp [hp]), if_pos (by simp [hp, hx, he])]
  exact congrArg (fun u => Yck.stop (writePrg c t (uAbt w) r.upc false u)) (modRtn_congr hr rfl)

section
variable {res : BitVec 12} {park : Bool} (hw : YieldDue r w) (h : RunsOn r)
  (hres : res = if uYield w then uRes w else r.upc) (hpark : park = (uYield w && uPark w))
include hw h hres hpark

theorem yieldCheck_yields (hy : park = true ∨ mustYield s c t r = true) :
    yieldCheck c t r w s = .stop (yieldNow c t res park (uDly w) (writePrg c t res r.upc park (modRtn c t (fun r => { r with
      passed := true, abt := uAbt w, ycount := satInc r.ycount }) s))) := by
  obtain ⟨hd, he⟩ := h.not_early
  unfold yieldCheck
  rw [if_neg hw.not_skipped]
  simp [hd, he, ← hres, ← hpark, hy]

theorem yieldCheck_goes_on (hk : park = false) (hy : mustYield s c t r = false) :
    yieldCheck c t r w s = .go (writePrg c t res r.upc false (modRtn c t (fun r => { r with
      passed := true, abt := uAbt w }) s)) := by
  obtain ⟨hd, he⟩ := h.not_early
  unfold yieldCheck
  rw [if_neg hw.not_skipped]
  simp [hd, he, ← hres, ← hpark, hk, hy]

end

end

/-- Settles O48: the branches of the yield check, in the order of R162 to R164. -/
theorem yieldPoints : Obligations.YieldPoints := by
  unfold Obligations.YieldPoints
  intro c t r w d s y h hw e he hrow
  have hr := rtnOf_of_stepAt h
  refine ⟨fun hp ha => ?discard, fun hp hx hn => ?abt, fun res park z hon hres hpark =>
    ⟨fun hy hz => ?yields, fun hk hy hz => ?on⟩⟩
  case discard => exact exec_step_stops h he hrow (yieldCheck_discards hw hp ha)
  case abt => exact exec_step_stops h he hrow (yieldCheck_goes_to_abt hr hw hp hx hn)
  case yields =>
    rw [exec_step_stops h he hrow (yieldCheck_yields hw hon hres hpark hy), ← hz]
    rfl
  case on => rw [exec_step_goes h he hrow (yieldCheck_goes_on hw hon hres hpark hk hy), hz]

end Sys2Proof.Machine
end

section
/-! SUPPORT. The commands of the admin queue (R322-R325, R341-R343). -/

namespace Sys2Proof.Machine

open Sys2Proof Sys2Proof.Spec

@[simp] theorem qctx_modEntry (id : Nat) (f : Entry → Entry) (s : State) (k : Nat) :
    qctx (modEntry id f s) k = qctx s k := rfl

/-! ## Whose turn it is, and the refusals for all commands -/

section
variable {op : Nat} {f : Entry → State → State} {e : Entry} {s : State}

theorem admin_not_due (h : adminNext s = none ∨ ∃ x, adminNext s = some x ∧ (eOpcode x).toNat ≠ op) :
    admin op f s = s := by
  unfold admin
  rcases h with h | ⟨x, h, hop⟩
  · rw [h]
  · rw [h]
    exact if_pos hop

theorem admin_nop (h : adminNext s = some e) (hop : (eOpcode e).toNat = 0) : admin 0 f s = f e s := by
  simp [admin, h, hop]

theorem admin_unmanaged (h : adminNext s = some e) (hop : (eOpcode e).toNat = op) (h0 : op ≠ 0) (h7 : op ≠ 7)
    (hm : s.gctl.qmode = false) : admin op f s = adminRefuse e.id 1 s := by
  simp [admin, h, hop, h0, h7, hm]

theorem admin_queue_zero (h : adminNext s = some e) (hop : (eOpcode e).toNat = op) (h0 : op ≠ 0)
    (hm : op = 7 ∨ s.gctl.qmode = true) (hq : adminQ e = 0) : admin op f s = adminRefuse e.id 2 s := by
  rcases hm with hm | hm <;> simp [admin, h, hop, h0, hm, hq]

theorem admin_at (h : AdminAt op e s) : admin op f s = f e s := by
  obtain ⟨hn, hop, hm, hq⟩ := h
  have hq' : ¬ adminQ e = 0#17 := hq
  rcases hm with hm | hm <;> simp [admin, hn, hop, hm, hq']

/-- A command that the refusals for all commands let through does what is its own. -/
theorem exec_admin_at {i : Instr} {u : State} (h : AdminAt op e s) (hi : exec i s = .next (admin op f s))
    (hu : f e s = u) : exec i s = .next u := by
  rw [hi, admin_at h, hu]

end

theorem exec_of_mem_adminTable : ∀ a ∈ adminTable, ∃ f, ∀ s, exec a.2 s = .next (admin a.1 f s) := by
  simp only [adminTable, List.forall_mem_cons]
  exact ⟨⟨_, fun _ => rfl⟩, ⟨_, fun _ => rfl⟩, ⟨_, fun _ => rfl⟩, ⟨_, fun _ => rfl⟩, ⟨_, fun _ => rfl⟩,
    ⟨_, fun _ => rfl⟩, ⟨_, fun _ => rfl⟩, ⟨_, fun _ => rfl⟩, nofun⟩

theorem ne_zero_of_mem_adminTable : ∀ a ∈ adminTable, a.1 ≠ 0 := by
  simp [adminTable]

/-! ## CREATE and DELETE -/

section
variable {cq : Bool} {e : Entry} {s : State}

theorem adminCreate_enabled (h : (qctx s (ctxKey cq (adminQ e))).enabled = true) :
    adminCreate cq e s = adminRefuse e.id 3 s := if_pos h

theorem adminCreate_fault {n : Nat} (h : (qctx s (ctxKey cq (adminQ e))).enabled = false)
    (hf : enableFault (ctxKey cq (adminQ e)) [eword e 4, eword e 5, eword e 6, 0] s = some n) :
    adminCreate cq e s = adminRefuse e.id n s := by
  simp only [adminCreate, h, Bool.false_eq_true, if_false, List.getD_cons_zero, List.getD_cons_succ, hf]

theorem adminCreate_enables (h : (qctx s (ctxKey cq (adminQ e))).enabled = false)
    (hf : enableFault (ctxKey cq (adminQ e)) [eword e 4, eword e 5, eword e 6, 0] s = none) :
    adminCreate cq e s = finishEntry e.id 0 0 (modQctx (ctxKey cq (adminQ e)) (fun x => { x with created := true })
      (enableCtx (ctxKey cq (adminQ e)) 4 [eword e 4, eword e 5, eword e 6, flag 31 cq] s)) := by
  simp only [adminCreate, h, Bool.false_eq_true, if_false, List.getD_cons_zero, List.getD_cons_succ, hf]

theorem adminDeleteSq_not_created (h : (qctx s (adminQ e).toNat).created = false) :
    adminDeleteSq e s = adminRefuse e.id 3 s := by
  simp [adminDeleteSq, ctxKey, h]

theorem adminDeleteSq_created {y : State} (h : (qctx s (adminQ e).toNat).created = true)
    (hy : y = modEntry e.id (fun e => { e with stage := .deleting, upTo := s.qe.nextId })
      (modQctx (adminQ e).toNat (fun x => { x with created := false }) s)) :
    adminDeleteSq e s = adminSettle (if (qctx s (adminQ e).toNat).enabled
      then disableSq (adminQ e).toNat [e.id] y else waitStop (adminQ e).toNat e.id y) := by
  simp [adminDeleteSq, ctxKey, h, hy]

theorem adminDeleteCq_not_created (h : (qctx s (ctxKey true (adminQ e))).created = false) :
    adminDeleteCq e s = adminRefuse e.id 3 s := by
  simp [adminDeleteCq, h]

theorem adminDeleteCq_in_use (h : (qctx s (ctxKey true (adminQ e))).created = true)
    (hu : cqInUse s (adminQ e) = true) : adminDeleteCq e s = adminRefuse e.id 5 s := by
  simp [adminDeleteCq, h, hu]

theorem adminDeleteCq_unused (h : (qctx s (ctxKey true (adminQ e))).created = true)
    (hu : cqInUse s (adminQ e) = false) :
    adminDeleteCq e s = finishEntry e.id 0 0 (modQctx (ctxKey true (adminQ e)) (fun x => { x with created := false })
      (if (qctx s (ctxKey true (adminQ e))).enabled then disableCq (ctxKey true (adminQ e)) s else s)) := by
  simp [adminDeleteCq, h, hu]

/-! ## DISABLE_SQ, ENABLE_SQ and SET_ARB -/

theorem adminDisable_not_created (h : (qctx s (adminQ e).toNat).created = false) :
    adminDisable e s = adminRefuse e.id 3 s := by
  simp [adminDisable, ctxKey, h]

theorem adminDisable_waits {x : QCtx} {y : State} (hx : x = qctx s (adminQ e).toNat) (h : x.created = true)
    (hs : x.enabled = true ∨ x.stops ≠ [])
    (hy : y = modEntry e.id (fun e => { e with stage := .disabling, result := BitVec.ofNat 32 x.head.toNat }) s) :
    adminDisable e s =
      if x.enabled then disableSq (adminQ e).toNat [e.id] y else waitStop (adminQ e).toNat e.id y := by
  simp [adminDisable, ctxKey, stopping, ← hx, h, hs, hy]

theorem adminDisable_stopped {x : QCtx} (hx : x = qctx s (adminQ e).toNat) (h : x.created = true)
    (hn : x.enabled = false) (hs : x.stops = []) :
    adminDisable e s = finishEntry e.id 0 (BitVec.ofNat 32 x.head.toNat) s := by
  simp [adminDisable, ctxKey, stopping, ← hx, h, hn, hs]

theorem adminEnable_refused
    (h : (qctx s (adminQ e).toNat).created = false ∨ (qctx s (adminQ e).toNat).enabled = true) :
    adminEnable e s = adminRefuse e.id 3 s := by
  rcases h with h | h <;> simp [adminEnable, ctxKey, h]

theorem adminEnable_cached {x : QCtx} (hx : x = qctx s (adminQ e).toNat) (h : x.created = true)
    (hn : x.enabled = false) (hc : x.cached = true) :
    adminEnable e s = adminCtx e (adminQ e).toNat (heldCtx x) s := by
  simp [adminEnable, ctxKey, ← hx, h, hn, hc]

theorem adminEnable_asks {x : QCtx} (hx : x = qctx s (adminQ e).toNat) (h : x.created = true)
    (hn : x.enabled = false) (hc : x.cached = false) :
    adminEnable e s = askCtx (adminQ e).toNat (modEntry e.id (fun e => { e with stage := .adminRead }) s) := by
  simp [adminEnable, ctxKey, ← hx, h, hn, hc]

theorem adminSetArb_not_created (h : (qctx s (adminQ e).toNat).created = false) :
    adminSetArb e s = adminRefuse e.id 3 s := by
  simp [adminSetArb, ctxKey, h]

theorem adminSetArb_cached {x : QCtx} (hx : x = qctx s (adminQ e).toNat) (h : x.created = true)
    (hc : x.cached = true) : adminSetArb e s = adminCtx e (adminQ e).toNat (heldCtx x) s := by
  simp [adminSetArb, ctxKey, ← hx, h, hc]

theorem adminSetArb_asks {x : QCtx} (hx : x = qctx s (adminQ e).toNat) (h : x.created = true)
    (hc : x.cached = false) :
    adminSetArb e s = askCtx (adminQ e).toNat (modEntry e.id (fun e => { e with stage := .adminRead }) s) := by
  simp [adminSetArb, ctxKey, ← hx, h, hc]

section
variable {k : Nat} {x : QCtx} {ws : List W64}

/-- ENABLE_SQ takes words 0-2 of the context that is held, and head and tail from its entry (R342). -/
theorem heldCtx_set (hw : ws = [x.w0, x.w1, x.w2,
      at_ 48 (BitVec.ofNat 16 (bits (eword e 3) 0 16)) ||| at_ 32 (BitVec.ofNat 16 (bits (eword e 3) 16 16))]) :
    (heldCtx x).set 3 (at_ 48 (fld (eword e 3) 0 16) ||| at_ 32 (fld (eword e 3) 16 16)) = ws := by
  rw [hw, ← fld_eq_ofNat_bits, ← fld_eq_ofNat_bits]
  rfl

variable (hop : (eOpcode e).toNat = 6) (hn : (qctx s k).enabled = false)
  (hw : (heldCtx x).set 3 (at_ 48 (fld (eword e 3) 0 16) ||| at_ 32 (fld (eword e 3) 16 16)) = ws)
include hop hn hw

theorem adminCtx_fault {n : Nat} (hf : enableFault k ws s = some n) :
    adminCtx e k (heldCtx x) s = adminRefuse e.id n s := by
  have hop' : eOpcode e = 6 := BitVec.eq_of_toNat_eq hop
  simp only [adminCtx, hop', hn, hw, hf, if_true, Bool.false_eq_true, if_false]

theorem adminCtx_enables (hf : enableFault k ws s = none) :
    adminCtx e k (heldCtx x) s = finishEntry e.id 0 0 (enableCtx k 1 ws s) := by
  have hop' : eOpcode e = 6 := BitVec.eq_of_toNat_eq hop
  simp only [adminCtx, hop', hn, hw, hf, if_true, Bool.false_eq_true, if_false]

end

/-- SET_ARB changes word 1 of the context that is held and writes it back (R322). -/
theorem adminCtx_setArb {k : Nat} {x : QCtx} {w : W64} (hop : (eOpcode e).toNat = 8)
    (hw : w = merge x.w1 (eword e 3) (at_ 52 0xFFF#12)) :
    adminCtx e k (heldCtx x) s =
      finishEntry e.id 0 0 (issueCtxWrite k 1 [w] (modQctx k (fun x => { x with w1 := w }) s)) := by
  have hop' : eOpcode e ≠ 6 := fun h => by simp [h] at hop
  rw [adminCtx, if_neg hop', hw]
  rfl

/-! ## ABORT -/

/-- The entries that an ABORT names: of the host, of its queue and with its CID (R324). -/
theorem abort_names (x : Entry) :
    (decide (x.kind = .host) && decide (x.sq = adminQ e) && decide (eCid x = fld (eword e 2) 32 16)) =
      decide (x.kind = .host ∧ x.sq = adminQ e ∧ (eCid x).toNat = bits (eword e 2) 32 16) := by
  simp [← BitVec.toNat_inj, fld_toNat, bits, Bool.and_assoc]

/-- The entry that an ABORT names, if it is in the store. -/
def abortNamed (e : Entry) (s : State) : Option Entry :=
  s.qe.store.find? fun x =>
    decide (x.kind = .host ∧ x.sq = adminQ e ∧ (eCid x).toNat = bits (eword e 2) 32 16)

theorem adminAbort_absent (h : abortNamed e s = none) : adminAbort e s = abortOutcome e.id false s := by
  unfold abortNamed at h
  simp only [adminAbort, abort_names, h]

theorem adminAbort_remote {v : Entry} {tag : BitVec 12} (h : abortNamed e s = some v) (hv : v.stage = .remote tag) :
    adminAbort e s = abortRemote e.id tag s := by
  unfold abortNamed at h
  simp only [adminAbort, abort_names, h, hv]

theorem adminAbort_here {v : Entry} (h : abortNamed e s = some v) (hv : ∀ tag, v.stage ≠ .remote tag) :
    adminAbort e s = abortOutcome e.id (abortEntry v.id s).1 (abortEntry v.id s).2 := by
  unfold abortNamed at h
  simp only [adminAbort, abort_names, h]

end

/-! ## The statements -/

theorem adminRefusals : Spec.AdminRefusals := by
  intro e s
  refine ⟨fun h hop => ?nop, fun a ha h => ?other, fun a ha h hop => ⟨fun h7 hm => ?mode, fun hm hq => ?zero⟩,
    ?notCreated, ?enabled⟩
  case nop => exact congrArg _ (admin_nop h hop)
  case other =>
    obtain ⟨f, hf⟩ := exec_of_mem_adminTable a ha
    rw [hf, admin_not_due h]
  case mode =>
    obtain ⟨f, hf⟩ := exec_of_mem_adminTable a ha
    rw [hf, admin_unmanaged h hop (ne_zero_of_mem_adminTable a ha) h7 hm]
    rfl
  case zero =>
    obtain ⟨f, hf⟩ := exec_of_mem_adminTable a ha
    rw [hf, admin_queue_zero h hop (ne_zero_of_mem_adminTable a ha) hm hq]
    rfl
  case notCreated =>
    simp only [List.forall_mem_cons]
    exact ⟨fun h hc => exec_admin_at h rfl (adminDeleteSq_not_created hc),
      fun h hc => exec_admin_at h rfl (adminDisable_not_created hc),
      fun h hc => exec_admin_at h rfl (adminEnable_refused (.inl hc)),
      fun h hc => exec_admin_at h rfl (adminSetArb_not_created hc), nofun⟩
  case enabled =>
    simp only [List.forall_mem_cons]
    exact ⟨fun h he => exec_admin_at h rfl (adminCreate_enabled he),
      fun h he => exec_admin_at h rfl (adminCreate_enabled he), nofun⟩

theorem adminCommands_effects : Spec.AdminCommands := by
  rintro e s _ x rfl hx
  refine ⟨?create, fun h hc y hy => ?deleteSq, ?deleteCq, fun h hc => ⟨fun y hy => ?disable, fun hn hs => ?stopped⟩,
    ?enable, ?arb, ?abort⟩
  case create =>
    simp only [List.forall_mem_cons]
    refine ⟨?_, ?_, nofun⟩
    all_goals
      rintro h _ rfl he
      exact ⟨fun n hf => exec_admin_at h rfl (adminCreate_fault he hf),
        fun hf => exec_admin_at h rfl (adminCreate_enables he hf)⟩
  case deleteSq =>
    subst hx
    have hd := adminDeleteSq_created hc hy
    exact ⟨fun he => exec_admin_at h rfl (hd.trans (by rw [if_pos he])),
      fun he => exec_admin_at h rfl (hd.trans (by simp [he]))⟩
  case deleteCq =>
    rintro h _ rfl
    exact ⟨fun hc => exec_admin_at h rfl (adminDeleteCq_not_created hc),
      fun hc hu => exec_admin_at h rfl (adminDeleteCq_in_use hc hu),
      fun hc hu => exec_admin_at h rfl (adminDeleteCq_unused hc hu)⟩
  case disable =>
    exact ⟨fun he => exec_admin_at h rfl ((adminDisable_waits hx hc (.inl he) hy).trans (if_pos he)),
      fun hn hs => exec_admin_at h rfl ((adminDisable_waits hx hc (.inr hs) hy).trans (if_neg (by simp [hn])))⟩
  case stopped => exact exec_admin_at h rfl (adminDisable_stopped hx hc hn hs)
  case enable =>
    refine fun h hc => ⟨fun he => ?_, fun hn hcached ws hw => ?_, fun hn hcached => ?_⟩
    · exact exec_admin_at h rfl (adminEnable_refused (.inr (hx ▸ he)))
    · have heq := adminEnable_cached hx hc hn hcached
      have ⟨_, hop, _⟩ := h
      exact ⟨fun n hf => exec_admin_at h rfl (heq.trans (adminCtx_fault hop (hx ▸ hn) (heldCtx_set hw) hf)),
        fun hf => exec_admin_at h rfl (heq.trans (adminCtx_enables hop (hx ▸ hn) (heldCtx_set hw) hf))⟩
    · exact exec_admin_at h rfl (adminEnable_asks hx hc hn hcached)
  case arb =>
    intro h hc
    have ⟨_, hop, _⟩ := h
    exact ⟨fun hcached w hw => exec_admin_at h rfl
        ((adminSetArb_cached hx hc hcached).trans (adminCtx_setArb hop hw)),
      fun hcached => exec_admin_at h rfl (adminSetArb_asks hx hc hcached)⟩
  case abort =>
    rintro h _ rfl
    refine ⟨fun hv => exec_admin_at h rfl (adminAbort_absent hv),
      fun v tag hv ht => exec_admin_at h rfl (adminAbort_remote hv ht), ?_⟩
    rintro v hv ht _ rfl
    exact exec_admin_at h rfl (adminAbort_here hv ht)

/-- Settles O60: each command's turn and common refusals, then its own rule at the front of SQ0. -/
theorem adminCommands : Obligations.AdminCommands := by
  unfold Obligations.AdminCommands
  exact ⟨adminRefusals, adminCommands_effects⟩

end Sys2Proof.Machine
end

section
/-! SUPPORT. The ends of hard and soft decodes, and a soft decoder's input (R240-R252, R257). -/

namespace Sys2Proof.Machine

open Sys2Proof Sys2Proof.Spec

/-! ## The hard decoder of a channel -/

theorem hardEnd_without_job {c : Chan} {s : State} (h : (chan s c).decq = []) : hardEnd c s = s := by
  unfold hardEnd
  rw [h]

section
variable {c : Chan} {j : DecJob} {rest : List DecJob} {s x : State} (hj : (chan s c).decq = j :: rest)
  (hx : x = modChan c (fun ch => { ch with decq := rest }) s)
include hj hx

theorem hardEnd_erased (he : j.erased = true) :
    hardEnd c s = tellHard j false c (cwReport c j.buf (report 0 false false 5 0 0 0) (rqChan c)
      (cwGood c j.buf (List.replicate 4160 0xFF) (rqChan c) x)) := by
  unfold hardEnd
  rw [hj, hx]
  exact if_pos he

section
variable {g : List (Byte × Bool) × State} {q : Decision} (he : j.erased = false)
  (hg : g = cwRead c j.buf 0 (cwLen j.rate.toNat) (rqChan c) x)
  (hq : q = hardDecide j.rate.toNat (plain g.1) (passLimit j.iter))
include he hg hq

theorem hardEnd_good (hv : q.conv = true) (hcrc : crcOk q.word = true) {k : Nat × Nat × Nat}
    (hk : k = corrCounts (plain g.1) q.word (scrBytes (cwLen j.rate.toNat) j.seed j.bypass)) {z : State}
    (hz : z = cwReport c j.buf (report q.passes false false 0 k.1 k.2.1 k.2.2) (rqChan c)
      (cwGood c j.buf (q.word.take 4160) (rqChan c) g.2)) :
    hardEnd c s = tellHard j false c (if j.sample then plbSample c j.die j.zone j.ptype
      (BitVec.ofNat 16 (min k.2.1 65535)) (BitVec.ofNat 16 (min k.2.2 65535)) z else z) := by
  unfold hardEnd
  rw [hj, hz, hk]
  dsimp only
  rw [if_neg (by simp [he]), ← hx, ← hg, ← hq, if_pos (by simp [hv, hcrc])]
  rfl

theorem hardEnd_failed (hf : q.conv = false ∨ crcOk q.word = false) :
    hardEnd c s = tellHard j true c (modReg c (fun r => { r with hardFail := satInc r.hardFail }) (cwReport c j.buf
      (report q.passes true false (if q.conv then 2 else 1) 0 0 0) (rqChan c) (cwPoison c j.buf g.2))) := by
  unfold hardEnd
  rw [hj]
  dsimp only
  rw [if_neg (by simp [he]), ← hx, ← hg, ← hq, if_neg (by rcases hf with h | h <;> simp [h])]
  rfl

end

end

/-! ## The soft decoder pool -/

theorem softLook_without_handoff {s : State} (h : s.soft.queue = []) : softLook s = s := by
  simp [softLook, softHeads, h]

theorem softAssign_without_handoff {s : State} (h : s.soft.queue = []) : softAssign s = s := by
  unfold softAssign
  rw [h]
  exact softLook_without_handoff h

theorem softAssign_takes {s : State} {h : Handoff} {rest : List Handoff} {k : Nat} (hq : s.soft.queue = h :: rest)
    (hk : freeDecoder s = some k) :
    softAssign s = softLook { s with soft := { s.soft with
      queue := rest, dec := tput k h s.soft.dec,
      maxWait := if s.soft.maxWait.toNat < (s.time - h.since).toNat
        then BitVec.ofNat 32 (min (s.time - h.since).toNat 4294967295) else s.soft.maxWait } } := by
  unfold softAssign
  rw [hq, hk]

theorem softEnd_idle {k : Nat} {s : State} (h : s.soft.dec.find? (·.1 = k) = none) : softEnd k s = s := by
  unfold softEnd
  rw [h]

section
variable {k : Nat} {h : Handoff} {s : State} {g : List (Byte × Bool) × State} {p : List (List Byte) × State}
  {hard : List Byte} {q : Decision} (hd : s.soft.dec.find? (·.1 = k) = some (k, h))
  (hg : g = cwRead h.c h.buf 0 (cwLen h.rate.toNat) rqSoft { s with soft := { s.soft with dec := tdel k s.soft.dec } })
  (hp : p = rereads h g.2) (hh : hard = xorBytes (plain g.1) (scrBytes (cwLen h.rate.toNat) h.seed h.bypass))
  (hq : q = softDecide h.rate.toNat hard (softInput hard p.1 h.llr) (passLimit h.iter))
include hd hg hp hh hq

theorem softEnd_good (hv : q.conv = true) (hcrc : crcOk q.word = true) :
    softEnd k s = softLook (tellSoft h (modReg h.c (fun r => { r with softOk := satInc r.softOk })
      (cwReport h.c h.buf (report q.passes false false 3 (oneBits (xorBytes hard q.word)) 0 0) rqSoft
        (cwGood h.c h.buf (q.word.take 4160) rqSoft p.2)))) := by
  unfold rereads at hp
  unfold softEnd
  rw [hd]
  dsimp only
  rw [← hg, ← hp, ← hh, ← hq, if_pos (by simp [hv, hcrc])]
  rfl

theorem softEnd_failed (hf : q.conv = false ∨ crcOk q.word = false) :
    softEnd k s = softLook (tellSoft h (modReg h.c (fun r => { r with softFail := satInc r.softFail })
      (cwReport h.c h.buf (report q.passes true false 4 0 0 0) rqSoft
        (cwPoison h.c h.buf (cwWrite h.c h.buf 0 (clean (hard.take 4160)) rqSoft p.2))))) := by
  unfold rereads at hp
  unfold softEnd
  rw [hd]
  dsimp only
  rw [← hg, ← hp, ← hh, ← hq, if_neg (by rcases hf with h | h <;> simp [h])]
  rfl

end

/-! ## The input of a soft decoder (R248) -/

/-- The planes that `f` picks, with plane `j` at weight `2 ^ (n + j)`. -/
theorem foldl_zipIdx_eq_sum (f : List Byte → Bool) (planes : List (List Byte)) : ∀ n a : Nat,
    (planes.zipIdx n).foldl (fun m p => if f p.1 then m + 2 ^ p.2 else m) a =
      a + ((List.range planes.length).map fun j => if f (planes.getD j []) then 2 ^ (n + j) else 0).sum := by
  induction planes with
  | nil => intro n a; rfl
  | cons p ps ih =>
    intro n a
    rw [List.zipIdx_cons, List.foldl_cons, ih, List.length_cons, List.range_succ_eq_map, List.map_cons, List.sum_cons,
      List.map_map]
    have hw : ∀ j, n + 1 + j = n + (j + 1) := by omega
    cases hb : f p <;> simp [hb, hw, Function.comp_def, Nat.add_assoc]

theorem fld_eq_zero_iff (v : W64) (lo len : Nat) : fld v lo len = 0 ↔ bits v lo len = 0 := by
  rw [fld_eq_ofNat_bits, ← BitVec.toNat_inj, BitVec.toNat_ofNat,
    Nat.mod_eq_of_lt (show bits v lo len < 2 ^ len from Nat.mod_lt _ (Nat.two_pow_pos len))]
  rfl

theorem softBit_eq (hard : List Byte) (planes : List (List Byte)) (llr : W64) (i k : Nat) {m : Nat}
    (hm : m = bits llr (8 * ((List.range planes.length).map fun j =>
      if bit ((planes.getD j []).getD i 0) k then 2 ^ j else 0).sum) 6) :
    softBit hard planes llr i k = if m = 0 then none else some (bit (hard.getD i 0) k, BitVec.ofNat 6 m) := by
  have hsum := foldl_zipIdx_eq_sum (fun p => bit (p.getD i 0) k) planes 0 0
  simp only [Nat.zero_add] at hsum
  unfold softBit
  dsimp only
  rw [hsum, hm, ← fld_eq_ofNat_bits]
  simp only [fld_eq_zero_iff]

/-! ## The statement -/

theorem exec_hardDecodeEnd (c : Chan) (s : State) : exec (.hardDecodeEnd c) s = .next (hardEnd c s) := rfl
theorem exec_softAssign (s : State) : exec .softAssign s = .next (softAssign s) := rfl
theorem exec_softDecodeEnd (k : BitVec 4) (s : State) : exec (.softDecodeEnd k) s = .next (softEnd k.toNat s) := rfl

/-- Settles O51: each branch of the hard decoder, of the assignment and of the soft decoder by its own rule. -/
theorem decoderEnds : Obligations.DecoderEnds := by
  unfold Obligations.DecoderEnds
  simp only [exec_hardDecodeEnd, exec_softAssign, exec_softDecodeEnd]
  refine fun c s => ⟨?noJob, fun j rest x hj hx => ⟨?erased, fun he g q hg hq =>
    ⟨fun hv hcrc k hk z hz => ?good, fun hf => ?failed⟩⟩, ?assign, ?noHandoff, ?input, ?idle,
    fun k h g q p hd hg hp hard hh hq => ⟨fun hv hcrc => ?softGood, fun hf => ?softFailed⟩⟩
  case noJob => exact fun h => by rw [hardEnd_without_job h]
  case erased => exact fun he => by rw [hardEnd_erased hj hx he]
  case good =>
    rw [hardEnd_good hj hx he hg hq hv hcrc hk hz]
    exact ⟨fun hs => by rw [if_neg (by simp [hs])], fun hs => by rw [if_pos hs]⟩
  case failed => rw [hardEnd_failed hj hx he hg hq hf]
  case assign => exact fun h rest k hq hk => by rw [softAssign_takes hq hk]
  case noHandoff => exact fun h => by rw [softAssign_without_handoff h]
  case input => exact fun hard planes llr i k m hm => softBit_eq hard planes llr i k hm
  case idle => exact fun k h => by rw [softEnd_idle h]
  case softGood => rw [softEnd_good hd hg hp hh hq hv hcrc]
  case softFailed => rw [softEnd_failed hd hg hp hh hq hf]

end Sys2Proof.Machine
end

section
/-! SUPPORT. A frame that arrives alone and ends at this node is taken by its TYPE (R478, R479, R484). -/

namespace Sys2Proof.Machine

open Sys2Proof Sys2Proof.Spec

/-- A search of a range that only `i` satisfies. -/
theorem findSome?_range_of_only {α : Type} {p : Nat → Option α} {n i : Nat} (hi : i < n)
    (h : ∀ j < n, j ≠ i → p j = none) : (List.range n).findSome? p = p i := by
  cases hp : (List.range n).findSome? p with
  | none => exact (List.findSome?_eq_none_iff.1 hp i (List.mem_range.2 hi)).symm
  | some v =>
    obtain ⟨j, hj, hv⟩ := List.exists_of_findSome?_eq_some hp
    have hji : j = i := Decidable.byContradiction fun hne =>
      Option.some_ne_none v (hv.symm.trans (h j (List.mem_range.1 hj) hne))
    rw [← hji, hv]

/-! ## The receive buffers -/

section
variable {x : BitVec 2} {f : Frame} {s : State}

theorem frameBuf_lt (f : Frame) : frameBuf f < 4 := by
  unfold frameBuf
  cases f.cls <;> cases f.laneB <;> decide

theorem takeHead_empty (b : Nat) (h : (lport s x).rx = []) : takeHead s x b = none := by
  simp [takeHead, h, takeFirst]

theorem takeHead_single (b : Nat) (h : (lport s x).rx = [f]) :
    takeHead s x b = if frameBuf f = b then rxEffect x f (withPort x (fun p => { p with rx := [] }) s) else none := by
  by_cases hb : frameBuf f = b
  · rw [if_pos hb, takeHead, h, takeFirst, if_pos (decide_eq_true hb)]
    rfl
  · simp [takeHead, h, takeFirst, hb]

/-- Of the twelve receive buffers, only the one that holds the frame gives anything. -/
theorem lathStep_alone {z : State} (h : Alone x f s)
    (hz : rxEffect x f (withPort x (fun p => { p with rx := [] }) s) = some z) : lathStep s = some z := by
  obtain ⟨hx, hrx, -, -⟩ := h
  have hb := frameBuf_lt f
  have hfx : takeHead s x (frameBuf f) = some z := by
    rw [takeHead_single _ ((hrx x hx).trans (if_pos rfl)), if_pos rfl, hz]
  have hport : BitVec.ofNat 2 ((4 * x.toNat + frameBuf f) / 4) = x := by
    apply BitVec.eq_of_toNat_eq
    rw [BitVec.toNat_ofNat]
    omega
  have hbuf : (4 * x.toNat + frameBuf f) % 4 = frameBuf f := by omega
  have hone : (List.range 12).findSome? (fun i => takeHead s (BitVec.ofNat 2 (i / 4)) (i % 4)) = some z := by
    rw [findSome?_range_of_only (i := 4 * x.toNat + frameBuf f) (by omega), hport, hbuf, hfx]
    intro j hj hne
    have hk : (BitVec.ofNat 2 (j / 4)).toNat = j / 4 := by
      rw [BitVec.toNat_ofNat]
      omega
    by_cases hjx : BitVec.ofNat 2 (j / 4) = x
    · rw [hjx, takeHead_single _ ((hrx x hx).trans (if_pos rfl)), if_neg]
      rw [hjx] at hk
      omega
    · exact takeHead_empty _ ((hrx _ (by omega)).trans (if_neg hjx))
  unfold lathStep
  rw [hone]

theorem lathGo_alone {z : State} (h : Alone x f s)
    (hz : rxEffect x f (withPort x (fun p => { p with rx := [] }) s) = some z) :
    lathGo s = linksSent (lathRun 1 z) := by
  have hstep := lathStep_alone h hz
  obtain ⟨-, -, hsum, hloop⟩ := h
  have hrun : lathRun 2 s = lathRun 1 z := by
    rw [lathRun, hstep]
  unfold lathGo
  dsimp only
  rw [hsum, hloop]
  exact congrArg linksSent hrun

end

/-! ## Arrival -/

section
variable {x : BitVec 2} {f : Frame} {s y : State}

theorem exec_frameCmd {e : BitVec 4 × Instr} (he : e ∈ frameCmd x f) (s : State) :
    exec e.2 s = .next (deliverAs e.1 x f s) := by
  revert e
  simp only [frameCmd, List.forall_mem_cons]
  exact ⟨rfl, rfl, rfl, rfl, rfl, rfl, rfl, rfl, rfl, rfl, nofun⟩

theorem reservedType_of_frameCmd {e : BitVec 4 × Instr} (he : e ∈ frameCmd x f) (ht : f.typ = e.1) :
    reservedType f = false := by
  unfold reservedType
  rw [ht]
  revert e
  simp [frameCmd]

theorem forMe_iff : forMe s f = true ↔ Mine s f := by
  simp [forMe, Mine, or_assoc]

theorem rxEffect_here {z : State} (hr : reservedType f = false) (hroute : routeOf y x f = .deliver) (hm : Mine y f)
    (hz : frameEffect x f y = some z) : rxEffect x f y = some (giveBack x (frameBuf f) (frameCredits f) z) := by
  simp [rxEffect, hr, hroute, frameHere, forMe_iff.2 hm, hz, drained]

theorem arrive_mine (ha : Accepted x f s) (hr : reservedType f = false) (hroute : routeOf s x f = .deliver)
    (hm : Mine s f) : arrive x f s = lathGo (heard f.src (fEpoch f) (inBuffer x f s)) := by
  obtain ⟨hup, hok, hseq⟩ := ha
  have htaken : (!reservedType f && decide (routeOf (inBuffer x f s) x f = .deliver) && forMe (inBuffer x f s) f) =
      true := by
    have hroute' : routeOf (inBuffer x f s) x f = .deliver := hroute
    have hm' : forMe (inBuffer x f s) f = true := forMe_iff.2 hm
    simp [hr, hroute', hm']
  unfold arrive
  rw [if_neg (by simp [hup]), if_neg (by simp [hok]), if_neg (by simp [hseq])]
  exact congrArg lathGo (if_pos htaken)

/-- A frame delivered alone has the effect of its TYPE and leaves its buffer. -/
theorem exec_delivered {z : State} (hd : Delivered x f s y) {e : BitVec 4 × Instr} (he : e ∈ frameCmd x f)
    (ht : f.typ = e.1) (hz : frameEffect x f y = some z) : exec e.2 s = leaves x f z := by
  obtain ⟨hacc, ⟨hroute, hrouteY⟩, ⟨hm, hmY⟩, halone, rfl⟩ := hd
  have hr := reservedType_of_frameCmd he ht
  rw [exec_frameCmd he, deliverAs, if_neg (by simp [ht, hroute]), arrive_mine hacc hr hroute hm,
    lathGo_alone halone (rxEffect_here hr hrouteY hmY hz)]
  rfl

end

end Sys2Proof.Machine
end

section
/-! SUPPORT. What the responses mean at the node that sent the REQUEST or the PROBE (R298, R328, R336, R485, R487, R488,
R499). -/

namespace Sys2Proof.Machine

open Sys2Proof Sys2Proof.Spec

/-! ## The effect of each TYPE -/

section
variable {x : BitVec 2} {f : Frame} {s y : State}

theorem exec_lathData_back (hd : Delivered x f s y) (ht : f.typ = 2) (hc : f.cls = true) :
    exec (.lathData x f) s = leaves x f (dataBack x f y) :=
  exec_delivered hd (e := (2, .lathData x f)) (by simp [frameCmd]) ht (by simp [frameEffect, ht, hc])

theorem exec_lathAccept (hd : Delivered x f s y) (ht : f.typ = 3) :
    exec (.lathAccept x f) s = leaves x f (acceptBack f y) :=
  exec_delivered hd (e := (3, .lathAccept x f)) (by simp [frameCmd]) ht (by simp [frameEffect, ht])

theorem exec_lathComplete (hd : Delivered x f s y) (ht : f.typ = 4) :
    exec (.lathComplete x f) s = leaves x f (completeBack f y) :=
  exec_delivered hd (e := (4, .lathComplete x f)) (by simp [frameCmd]) ht (by simp [frameEffect, ht])

theorem exec_lathReject (hd : Delivered x f s y) (ht : f.typ = 5) :
    exec (.lathReject x f) s = leaves x f (rejectBack f y) :=
  exec_delivered hd (e := (5, .lathReject x f)) (by simp [frameCmd]) ht (by simp [frameEffect, ht])

theorem exec_lathAbortResult (hd : Delivered x f s y) (ht : f.typ = 7) :
    exec (.lathAbortResult x f) s = leaves x f (abortBack f y) :=
  exec_delivered hd (e := (7, .lathAbortResult x f)) (by simp [frameCmd]) ht (by simp [frameEffect, ht])

theorem exec_lathProbeReply (hd : Delivered x f s y) (ht : f.typ = 10) :
    exec (.lathProbeReply x f) s = leaves x f (probeReply f y) :=
  exec_delivered hd (e := (10, .lathProbeReply x f)) (by simp [frameCmd]) ht (by simp [frameEffect, ht])

end

/-! ## A response that names no entry in flight -/

section
variable {x : BitVec 2} {f : Frame} {y : State} (h : inFlight y f = none)
include h

theorem dataBack_late : dataBack x f y = lateRsp y := by rw [dataBack, h]
theorem acceptBack_late : acceptBack f y = lateRsp y := by rw [acceptBack, h]
theorem completeBack_late : completeBack f y = lateRsp y := by rw [completeBack, h]
theorem rejectBack_late : rejectBack f y = lateRsp y := by rw [rejectBack, h]

end

/-! ## A response of an entry in flight -/

section
variable {x : BitVec 2} {f : Frame} {y : State} {r : Remote} {e : Entry} (h : inFlight y f = some (r, e))
include h

theorem acceptBack_inFlight :
    acceptBack f y = modRemote (fTag f) (fun r => { r with epoch := some (fEpoch f) }) y := by
  rw [acceptBack, h]

theorem dataBack_stores (hr : eDir e = 2 ∧ e.handle ≠ 0) :
    dataBack x f y = modRemote (fTag f) (fun r => { r with got := r.got + f.payload.length })
      (bufWrite e.handle r.got (f.payload.zipIdx.map fun b => (b.1, bit f.mask (b.2 / 64))) (rqLath x) y) := by
  obtain ⟨hdir, hhandle⟩ := hr
  rw [dataBack, h]
  exact if_neg (by simpa [hdir] using hhandle)

theorem dataBack_without_place (hr : eDir e ≠ 2 ∨ e.handle = 0) : dataBack x f y = y := by
  rw [dataBack, h]
  exact if_pos (by simpa using hr)

theorem completeBack_fetch (hk : e.kind ≠ .host) :
    completeBack f y = endFetch e e.handle (fCode f) (freeSlot (fTag f) r y) := by
  rw [completeBack, h]
  exact if_pos hk

theorem completeBack_data (hk : e.kind = .host) (hdir : eDir e = 2) (hgot : r.got ≠ 0) :
    completeBack f y = startXfer e.id e.sq false (eDmode e) (eDaddr e) (min r.got (eDlen e)) e.frags e.handle
      (modEntry e.id (fun e => { e with
        stage := .dataOut, status := fCode f, result := BitVec.ofNat 32 (bits (payloadWord f 0) 0 32) })
        (freeSlot (fTag f) r y)) := by
  rw [completeBack, h, ← fld_eq_ofNat_bits]
  exact (if_neg (fun h => h hk)).trans (if_pos (by simp [hdir, hgot]))

theorem completeBack_no_data (hk : e.kind = .host) (hn : eDir e ≠ 2 ∨ r.got = 0) :
    completeBack f y = finishEntry e.id (fCode f) (BitVec.ofNat 32 (bits (payloadWord f 0) 0 32))
      (freeEntryBuffer e.handle (freeSlot (fTag f) r y)) := by
  rw [completeBack, h, ← fld_eq_ofNat_bits]
  exact (if_neg (fun h => h hk)).trans (if_neg (by simpa using fun hdir => hn.resolve_left (not_not_intro hdir)))

theorem rejectBack_not_admitted (hc : fCode f = 1) :
    rejectBack f y = depart r.node (loseEntry (fTag f).toNat y) := by
  rw [rejectBack, h]
  exact if_pos hc

theorem rejectBack_refused (hc : fCode f = 2 ∨ fCode f = 3) :
    rejectBack f y = if e.kind = .host then halt (fCode f) e.sq e.index e.words true (freeSlot (fTag f) r y)
      else endFetch e e.handle 0x19 (freeSlot (fTag f) r y) := by
  have h1 : fCode f ≠ 1 := by rcases hc with hc | hc <;> simp [hc]
  rw [rejectBack, h]
  exact (if_neg h1).trans (if_pos (by simpa using hc))

end

/-! ## ABORT_RESULT (R488) -/

section
variable {f : Frame} {y : State}

theorem abortBack_late
    (h : y.lath.table.find? (·.1 = (fTag f).toNat) = none ∨ y.gctl.halted = true) : abortBack f y = lateRsp y := by
  unfold abortBack
  split
  · rfl
  · next hfind =>
    have hh : y.gctl.halted = true := h.resolve_left (by simp [hfind])
    exact if_pos (by simp [hh])

section
variable {r : Remote} (hr : y.lath.table.find? (·.1 = (fTag f).toNat) = some ((fTag f).toNat, r))
include hr

theorem abortBack_without_abort (ha : r.abort = none) (hf : r.fetchAbort = false) : abortBack f y = lateRsp y := by
  rw [abortBack, hr]
  exact if_pos (by simp [ha, hf])

variable {z : State} (hh : y.gctl.halted = false)
  (hz : z = (if r.done then withLath (fun l => { l with table := tdel (fTag f).toNat l.table }) y
    else modRemote (fTag f) (fun r => { r with abort := none, fetchAbort := false }) y))
include hh hz

theorem abortBack_fetch (ha : r.abort = none) (hf : r.fetchAbort = true) : abortBack f y = z := by
  rw [abortBack, hr, hz]
  simp only [hh, ha, hf]
  rfl

theorem abortBack_entry {id : Nat} (ha : r.abort = some id) :
    abortBack f y = abortOutcome id (decide (fCode f = 0)) z := by
  rw [abortBack, hr, hz]
  simp only [hh, ha]
  rfl

end

end

/-! ## PROBE_REPLY (R499) -/

/-- RESULT of a probe: the high half of the reply's first word over the low half of its second (log entry 94). -/
def replyWord (f : Frame) : W64 :=
  merge (at_ 0 (fld (payloadWord f 1) 0 32)) (payloadWord f 0) (at_ 32 (BitVec.allOnes 32))

theorem fld_merge {n : Nat} (old new m : BitVec n) (lo len : Nat) :
    fld (merge old new m) lo len = merge (fld old lo len) (fld new lo len) (fld m lo len) := by
  ext i hi
  have hout : lo + i < n ∨ old.getLsbD (lo + i) = false := by
    rcases Nat.lt_or_ge (lo + i) n with h | h
    · exact .inl h
    · exact .inr (BitVec.getLsbD_of_ge _ _ h)
  rcases hout with h | h <;> simp [fld, merge, h]

theorem merge_allOnes {n : Nat} (old new : BitVec n) : merge old new (BitVec.allOnes n) = new := by simp [merge]

theorem merge_zero {n : Nat} (old new : BitVec n) : merge old new 0#n = old := by simp [merge]

/-- A half of a word, placed at bit 0, reads as itself. -/
theorem fld_at_zero (v : BitVec 32) : fld (at_ 0 v) 0 32 = v := by
  ext i hi
  simp only [fld, at_, BitVec.getElem_extractLsb', BitVec.shiftLeft_zero, BitVec.getLsbD_setWidth, Nat.zero_add]
  simp [hi, show i < 64 by omega]

theorem fld_replyWord_high (f : Frame) : fld (replyWord f) 32 32 = fld (payloadWord f 0) 32 32 := by
  have hmask : fld (at_ 32 (BitVec.allOnes 32)) 32 32 = BitVec.allOnes 32 := by decide
  rw [replyWord, fld_merge, hmask, merge_allOnes]

theorem fld_replyWord_low (f : Frame) : fld (replyWord f) 0 32 = fld (payloadWord f 1) 0 32 := by
  have hmask : fld (at_ 32 (BitVec.allOnes 32)) 0 32 = 0#32 := by decide
  rw [replyWord, fld_merge, hmask, merge_zero]
  exact fld_at_zero _

theorem bits_eq_of_fld_eq {v w : W64} {lo len : Nat} (h : fld v lo len = fld w lo len) :
    bits v lo len = bits w lo len := by
  rw [bits, bits, ← fld_toNat, ← fld_toNat, h]

theorem probeReply_idle {f : Frame} {y : State} (h : y.lath.pBusy = false) : probeReply f y = y := by
  simp [probeReply, h]

theorem probeReply_busy {f : Frame} {y : State} (h : y.lath.pBusy = true) :
    probeReply f y = probeOver 1 (replyWord f) y := by
  rw [probeReply, if_neg (by simp [h])]
  rfl

/-! ## The statement -/

/-- Settles O46: a delivered response has the effect of its TYPE, and each branch of that effect has its own rule. -/
theorem lathAtSender : Obligations.LathAtSender := by
  unfold Obligations.LathAtSender
  refine fun x f s y hd => ⟨?late,
    fun r e h => ⟨fun ht => ?accept, fun ht hc => ⟨fun hr => ?stores, fun hr => ?noPlace⟩, ?complete,
      fun ht => ⟨fun hc => ?notAdmitted, fun hc hk => ?halts, fun hc hk => ?endsFetch⟩⟩,
    fun ht => ⟨fun hl => ?lateAbort,
      fun r hr hh z hz => ⟨fun ha hf => ?noAbort, fun ha hf => ?fetchAbort, fun id ha => ?abort⟩⟩,
    fun ht => ⟨fun hp => ?noProbe, fun hp => ⟨replyWord f, bits_eq_of_fld_eq (fld_replyWord_high f),
      bits_eq_of_fld_eq (fld_replyWord_low f), ?probe⟩⟩⟩
  case late =>
    simp only [List.forall_mem_cons]
    refine ⟨fun ht hc h => ?_, fun ht _ h => ?_, fun ht _ h => ?_, fun ht _ h => ?_, nofun⟩
    · rw [exec_lathData_back hd ht (hc.resolve_left fun h => h ht), dataBack_late h]
      rfl
    · rw [exec_lathAccept hd ht, acceptBack_late h]
      rfl
    · rw [exec_lathComplete hd ht, completeBack_late h]
      rfl
    · rw [exec_lathReject hd ht, rejectBack_late h]
      rfl
  case accept => rw [exec_lathAccept hd ht, acceptBack_inFlight h]
  case stores => rw [exec_lathData_back hd ht hc, dataBack_stores h hr]
  case noPlace => rw [exec_lathData_back hd ht hc, dataBack_without_place h hr]
  case complete =>
    rintro ht z res rfl rfl
    refine ⟨fun hk => ?_, fun hk hdir hgot => ?_, fun hk hn => ?_⟩
    · rw [exec_lathComplete hd ht, completeBack_fetch h hk]
    · rw [exec_lathComplete hd ht, completeBack_data h hk hdir hgot]
    · rw [exec_lathComplete hd ht, completeBack_no_data h hk hn]
  case notAdmitted => rw [exec_lathReject hd ht, rejectBack_not_admitted h hc]
  case halts => rw [exec_lathReject hd ht, rejectBack_refused h hc, if_pos hk]
  case endsFetch => rw [exec_lathReject hd ht, rejectBack_refused h hc, if_neg hk]
  case lateAbort =>
    rw [exec_lathAbortResult hd ht, abortBack_late hl]
    rfl
  case noAbort =>
    rw [exec_lathAbortResult hd ht, abortBack_without_abort hr ha hf]
    rfl
  case fetchAbort => rw [exec_lathAbortResult hd ht, abortBack_fetch hr hh hz ha hf]
  case abort => rw [exec_lathAbortResult hd ht, abortBack_entry hr hh hz ha]
  case noProbe => rw [exec_lathProbeReply hd ht, probeReply_idle hp]
  case probe => rw [exec_lathProbeReply hd ht, probeReply_busy hp]

end Sys2Proof.Machine
end

section
/-! SUPPORT. What REQUEST, DATA, ABORT, HEARTBEAT and PROBE mean at the node they name (R328, R477, R485, R486, R488,
R499). -/

namespace Sys2Proof.Machine

open Sys2Proof Sys2Proof.Spec

/-! ## A frame that must wait -/

section
variable {x : BitVec 2} {f : Frame} {s y : State}

/-- A frame alone in its receive buffer that must wait there leaves nothing to take. -/
theorem lathStep_alone_waits (h : Alone x f s)
    (hz : rxEffect x f (withPort x (fun p => { p with rx := [] }) s) = none) : lathStep s = none := by
  obtain ⟨-, hrx, -, hloop⟩ := h
  have hhead : ∀ i ∈ List.range 12, takeHead s (BitVec.ofNat 2 (i / 4)) (i % 4) = none := by
    intro i hi
    have hk : (BitVec.ofNat 2 (i / 4)).toNat < 3 := by
      have := List.mem_range.1 hi
      rw [BitVec.toNat_ofNat]
      omega
    by_cases hx : BitVec.ofNat 2 (i / 4) = x
    · rw [hx] at hk ⊢
      rw [takeHead_single _ ((hrx x hk).trans (if_pos rfl)), hz, ite_self]
    · exact takeHead_empty _ ((hrx _ hk).trans (if_neg hx))
  unfold lathStep
  rw [List.findSome?_eq_none_iff.2 hhead]
  simp [takeLoop, hloop]

theorem lathGo_alone_waits (h : Alone x f s)
    (hz : rxEffect x f (withPort x (fun p => { p with rx := [] }) s) = none) : lathGo s = linksSent s := by
  have hrun (n : Nat) : lathRun n s = s := by
    cases n with
    | zero => rfl
    | succ n => rw [lathRun, lathStep_alone_waits h hz]
  unfold lathGo
  dsimp only
  rw [hrun]
  rfl

theorem rxEffect_here_waits (hr : reservedType f = false) (hroute : routeOf y x f = .deliver) (hm : Mine y f)
    (hz : frameEffect x f y = none) : rxEffect x f y = none := by
  simp [rxEffect, hr, hroute, frameHere, forMe_iff.2 hm, hz]

/-- A frame delivered alone that must wait stays in its buffer. -/
theorem exec_delivered_waits (hd : Delivered x f s y) {e : BitVec 4 × Instr} (he : e ∈ frameCmd x f)
    (ht : f.typ = e.1) (hz : frameEffect x f y = none) : exec e.2 s = staysIn x f s := by
  obtain ⟨hacc, ⟨hroute, hrouteY⟩, ⟨hm, hmY⟩, halone, rfl⟩ := hd
  have hr := reservedType_of_frameCmd he ht
  rw [exec_frameCmd he, deliverAs, if_neg (by simp [ht, hroute]), arrive_mine hacc hr hroute hm,
    lathGo_alone_waits halone (rxEffect_here_waits hr hrouteY hmY hz)]
  rfl

end

/-! ## The effect of each TYPE -/

/-- The outcome of a frame delivered alone: it takes effect and leaves its buffer, or it stays there. -/
def takenOr (x : BitVec 2) (f : Frame) (s : State) : Option State → Out
  | some z => leaves x f z
  | none => staysIn x f s

section
variable {x : BitVec 2} {f : Frame} {s y : State}

theorem exec_takenOr (hd : Delivered x f s y) {e : BitVec 4 × Instr} (he : e ∈ frameCmd x f) (ht : f.typ = e.1) :
    exec e.2 s = takenOr x f s (frameEffect x f y) := by
  cases hz : frameEffect x f y with
  | none => exact exec_delivered_waits hd he ht hz
  | some z => exact exec_delivered hd he ht hz

theorem exec_lathRequest (hd : Delivered x f s y) (ht : f.typ = 1) :
    exec (.lathRequest x f) s = takenOr x f s (requestIn x f y) := by
  simpa [frameEffect, ht] using exec_takenOr hd (e := (1, .lathRequest x f)) (by simp [frameCmd]) ht

theorem exec_lathData_in (hd : Delivered x f s y) (ht : f.typ = 2) (hc : f.cls = false) (hh : y.gctl.halted = false) :
    exec (.lathData x f) s = takenOr x f s (dataIn x f y) := by
  simpa [frameEffect, ht, hc, hh] using exec_takenOr hd (e := (2, .lathData x f)) (by simp [frameCmd]) ht

theorem exec_lathAbort (hd : Delivered x f s y) (ht : f.typ = 6) :
    exec (.lathAbort x f) s = leaves x f (abortIn f y) :=
  exec_delivered hd (e := (6, .lathAbort x f)) (by simp [frameCmd]) ht (by simp [frameEffect, ht])

theorem exec_lathHeartbeat (hd : Delivered x f s y) (ht : f.typ = 8) :
    exec (.lathHeartbeat x f) s = leaves x f y :=
  exec_delivered hd (e := (8, .lathHeartbeat x f)) (by simp [frameCmd]) ht (by simp [frameEffect, ht])

theorem exec_lathProbe (hd : Delivered x f s y) (ht : f.typ = 9) :
    exec (.lathProbe x f) s = leaves x f (probeIn x f y) :=
  exec_delivered hd (e := (9, .lathProbe x f)) (by simp [frameCmd]) ht (by simp [frameEffect, ht])

end

/-! ## REQUEST -/

/-- The entry that a REQUEST asks this node to hold. -/
def requestEntry (x : BitVec 2) (f : Frame) (s : State) : Entry :=
  { id := s.qe.nextId, words := (List.range 8).map (payloadWord f), kind := .remoteIn f.src (fTag f) x f.pathMode }

/-- A REQUEST is accepted: its node's heartbeats begin, its entry is held, and ACCEPT answers it. -/
def requestAccepted (x : BitVec 2) (f : Frame) (s : State) : State :=
  let z := if holdsFrom s f.src then s
    else withLath (fun l => { l with beat := tput f.src.toNat (s.time, timeoutNs s / 4) l.beat }) s
  answerTo f 3 0 (addEntry { requestEntry x f s with stage := if eDir (requestEntry x f s) = 0 then .ready else .needBuf }
    { z with qe := { z.qe with nextId := z.qe.nextId + 1 } })

section
variable {x : BitVec 2} {f : Frame} {y : State}

theorem requestIn_halted (hh : y.gctl.halted = true) : requestIn x f y = some y := if_pos hh

section
variable (hh : y.gctl.halted = false)
include hh

theorem requestIn_unadmitted (h : admitted y f.src = none ∨ y.lath.node = 0) :
    requestIn x f y = some (refuseIn f y) := by
  unfold requestIn
  rw [if_neg (by simp [hh]), if_pos (by simpa using h)]

section
variable (ha : admitted y f.src ≠ none) (hn : y.lath.node ≠ 0)
include ha hn

/-- The checks of a REQUEST whose sender is ADMITTED. -/
theorem requestIn_admitted : requestIn x f y =
    if nChan y ≤ (eCh (requestEntry x f y)).toNat then some (answerTo f 5 3 y)
    else if (quad y (eQuad (requestEntry x f y))).known &&
        !slotValid y (eQuad (requestEntry x f y)) (eOpcode (requestEntry x f y)) then some (answerTo f 5 2 y)
    else if 4096 ≤ storeUsed y + storeDue y then none
    else some (requestAccepted x f y) := by
  have hadmitted : ¬ ((admitted y f.src).isNone || decide (y.lath.node = 0)) = true := by
    rw [Bool.or_eq_true, decide_eq_true_iff, Option.isNone_iff_eq_none]
    exact not_or.2 ⟨ha, hn⟩
  unfold requestIn
  rw [if_neg (by simp [hh]), if_neg hadmitted]
  rfl

theorem requestIn_bad_channel (hc : nChan y ≤ (eCh (requestEntry x f y)).toNat) :
    requestIn x f y = some (answerTo f 5 3 y) := by
  rw [requestIn_admitted hh ha hn, if_pos hc]

section
variable (hc : (eCh (requestEntry x f y)).toNat < nChan y)
include hc

theorem requestIn_bad_opcode (hk : (quad y (eQuad (requestEntry x f y))).known = true)
    (hv : slotValid y (eQuad (requestEntry x f y)) (eOpcode (requestEntry x f y)) = false) :
    requestIn x f y = some (answerTo f 5 2 y) := by
  rw [requestIn_admitted hh ha hn, if_neg (Nat.not_le.2 hc), if_pos (by simp [hk, hv])]

/-- A REQUEST for a channel here, with an opcode that is valid or not known yet, takes a place or waits for one. -/
theorem requestIn_placed (hv : (quad y (eQuad (requestEntry x f y))).known = false ∨
      slotValid y (eQuad (requestEntry x f y)) (eOpcode (requestEntry x f y)) = true) :
    requestIn x f y = if 4096 ≤ storeUsed y + storeDue y then none else some (requestAccepted x f y) := by
  rw [requestIn_admitted hh ha hn, if_neg (Nat.not_le.2 hc), if_neg (by rcases hv with h | h <;> simp [h])]

end
end
end
end

/-! ## DATA of a REQUEST -/

section
variable {x : BitVec 2} {f : Frame} {y : State}

theorem dataIn_without_entry (h : heldFor y f.src (fTag f) = none) : dataIn x f y = some y := by rw [dataIn, h]

variable {e : Entry} (h : heldFor y f.src (fTag f) = some e)
include h

theorem dataIn_before_buffer (hs : e.stage = .needBuf ∨ e.stage = .waitBuf ∨ e.stage = .waitStg) :
    dataIn x f y = none := by
  rw [dataIn, h]
  exact if_pos (by simpa [or_assoc] using hs)

theorem dataIn_stores (hs : e.stage = .dataIn) {got : Nat} (hg : got = tget 0 e.id y.lath.inData) {z : State}
    (hz : z = bufWrite e.handle got (f.payload.zipIdx.map fun b => (b.1, bit f.mask (b.2 / 64))) (rqLath x) y) :
    dataIn x f y = some (if sentBytes e ≤ got + f.payload.length
      then modEntry e.id (fun e => { e with stage := .ready }) (withLath (fun l => { l with inData := tdel e.id l.inData }) z)
      else withLath (fun l => { l with inData := tput e.id (got + f.payload.length) l.inData }) z) := by
  subst hg hz
  rw [dataIn, h]
  refine (if_neg (by simp [hs])).trans ((if_neg (by simp [hs])).trans ?_)
  exact (apply_ite some _ _ _).symm

end

/-! ## ABORT and PROBE -/

section
variable {x : BitVec 2} {f : Frame} {y : State}

theorem abortIn_halted (hh : y.gctl.halted = true) : abortIn f y = y := if_pos hh

theorem abortIn_without_entry (hh : y.gctl.halted = false) (h : heldFor y f.src (fTag f) = none) :
    abortIn f y = answerTo f 7 1 y := by
  rw [abortIn, if_neg (by simp [hh]), h]
  rfl

theorem abortIn_entry (hh : y.gctl.halted = false) {e : Entry} (h : heldFor y f.src (fTag f) = some e) :
    abortIn f y = answerTo f 7 (if (abortEntry e.id y).1 then 0 else 1) (abortEntry e.id y).2 := by
  rw [abortIn, if_neg (by simp [hh]), h]
  rfl

theorem probeIn_eq : probeIn x f y = sendRoute f.pathMode x (BitVec.ofNat 32 (bits (payloadWord f 0) 0 32))
    (mkFrame y 10 true f.src (fTag f) 0 0 (idPayload y)) y := by
  rw [probeIn, fld_eq_ofNat_bits]

end

/-! ## The statement -/

/-- Settles O45: a delivered frame has the effect of its TYPE or stays in its buffer, and each branch has its own rule. -/
theorem lathAtTarget : Obligations.LathAtTarget := by
  unfold Obligations.LathAtTarget
  refine fun x f s y hd => ⟨?request, fun ht hc hh => ⟨fun h => ?noEntry, fun e h => ⟨fun hs => ?beforeBuffer, ?stores⟩⟩,
    fun ht => ⟨fun hh => ?abortHalted, fun hh => ⟨fun h => ?abortNone, ?abort⟩⟩, fun ht => exec_lathHeartbeat hd ht,
    fun ht => ?probe⟩
  case request =>
    rintro ht _ rfl
    rw [exec_lathRequest hd ht]
    refine ⟨fun hh => ?_, fun hh h => ?_, fun hh ha hn => ⟨fun hc => ?_, fun hc => ⟨fun hk hv => ?_, fun hv =>
      ⟨fun hp => ?_, fun hp z hz => ?_⟩⟩⟩⟩
    · rw [requestIn_halted hh]
      rfl
    · rw [requestIn_unadmitted hh h]
      rfl
    · rw [requestIn_bad_channel hh ha hn hc]
      rfl
    · rw [requestIn_bad_opcode hh ha hn hc hk hv]
      rfl
    · rw [requestIn_placed hh ha hn hc hv, if_pos hp]
      rfl
    · rw [requestIn_placed hh ha hn hc hv, if_neg (Nat.not_le.2 hp), hz]
      rfl
  case noEntry =>
    rw [exec_lathData_in hd ht hc hh, dataIn_without_entry h]
    rfl
  case beforeBuffer =>
    rw [exec_lathData_in hd ht hc hh, dataIn_before_buffer h hs]
    rfl
  case stores =>
    intro hs got z hg hz
    rw [exec_lathData_in hd ht hc hh, dataIn_stores h hs hg hz]
    exact ⟨fun hl => congrArg (leaves x f) (if_pos hl), fun hl => congrArg (leaves x f) (if_neg (Nat.not_le.2 hl))⟩
  case abortHalted => rw [exec_lathAbort hd ht, abortIn_halted hh]
  case abortNone => rw [exec_lathAbort hd ht, abortIn_without_entry hh h]
  case abort =>
    rintro e _ h rfl
    rw [exec_lathAbort hd ht, abortIn_entry hh h]
  case probe => rw [exec_lathProbe hd ht, probeIn_eq]

end Sys2Proof.Machine
end

section
/-! SUPPORT. An answered fetch: its entries are checked in ring order (R329, R345, R346, R348). -/

namespace Sys2Proof.Machine

open Sys2Proof Sys2Proof.Spec

/-- An answer that comes before a halt: the entries of its words are checked, or the block halts with cause 7. -/
def answeredFetch (f : Fetch) (r : MemResp) (s : State) : State :=
  match r with
  | .words ws => checkEntries f (ringSize (qctx s f.sq.toNat).w0) 0 (groups8 f.n ws) s
  | .error | .poisoned => halt 7 f.sq f.index [] false s

/-- After an answered fetch the SQ's index has moved where its head has, and its disables go on. -/
def fetchSettled (f : Fetch) (head : BitVec 16) (s : State) : State :=
  pumpEng 0 (tryStop f.sq.toNat (if fetchHead s f.sq = head then s else idxMoved f.sq.toNat s))

section
variable {k : Nat} {f : Fetch} {m : FmReq} {s y z : State}

theorem answeredFetch_failed {r : MemResp} (hr : r = .error ∨ r = .poisoned) :
    answeredFetch f r s = halt 7 f.sq f.index [] false s := by
  rcases hr with rfl | rfl <;> rfl

theorem exec_entryCheck_answered (hk : s.qe.fetches[k]? = some f) (hm : takeFm (.fetch f.id) s = some (m, y))
    (hz : z = withQe (fun q => { q with fetches := q.fetches.filter fun g => decide (g.id ≠ f.id) }) y) (r : MemResp) :
    exec (.entryCheck k r) s = .next (if y.gctl.halted then pumpEng 0 z
      else fetchSettled f (fetchHead y f.sq) (answeredFetch f r z)) := by
  subst hz
  change Host.Outcome.next (entryCheck k r s) = _
  unfold entryCheck
  rw [hk]
  dsimp only
  rw [hm]
  cases r <;> rfl

end

/-! ## The entries of a fetch -/

section
variable {f : Fetch} {i ring : Nat} {ws : List W64} {rest : List (List W64)} {x : State} {e : Entry}
  (he : e = { id := f.id + i, sq := f.sq, cq := f.cq, index := BitVec.ofNat 16 ((f.index.toNat + i) % ring), words := ws })
include he

theorem checkEntries_bad {c : Nat} (hc : entryCause x e = some c) :
    checkEntries f ring i (ws :: rest) x = halt (BitVec.ofNat 8 c) f.sq e.index ws false x := by
  subst he
  simp only [checkEntries, hc]

theorem checkEntries_good (hc : entryCause x e = none) :
    checkEntries f ring i (ws :: rest) x = checkEntries f ring (i + 1) rest (admitEntry e x) := by
  subst he
  simp only [checkEntries, hc]

end

/-- Settles O55: what an answer does, and the check of one entry before the rest. -/
theorem entryChecks : Obligations.EntryChecks := by
  unfold Obligations.EntryChecks
  rintro k f m s y z hk hm hz _ rfl
  have hexec (r : MemResp) := exec_entryCheck_answered hk hm hz r
  refine ⟨fun r hh => ?_, fun r hh hr => ?_, ?_, fun i ring ws rest x e he =>
    ⟨fun c hc => checkEntries_bad he hc, fun hc => checkEntries_good he hc⟩⟩
  · rw [hexec, if_pos hh]
  · rw [hexec, if_neg (by simp [hh]), answeredFetch_failed hr]
    rfl
  · rintro ws _ hh rfl
    rw [hexec, if_neg (by simp [hh])]
    rfl

end Sys2Proof.Machine
end

section
/-! SUPPORT. What leaves the queue engine's record alone, and what leaves a queue's context alone: the streams, reads of the
checked memories, the traffic of a fabric port, and the work on another context (R63, R317, R389, R430). -/

namespace Sys2Proof.Machine

open Sys2Proof

/-! ## Streams and the integrity log -/

@[simp] theorem ite_qe {c : Prop} [Decidable c] (a b : State) : (if c then a else b).qe = if c then a.qe else b.qe :=
  apply_ite State.qe c a b

@[simp] theorem grantPlaces_qe (i : Nat) (s : State) : (grantPlaces i s).qe = s.qe := by simp [grantPlaces]
@[simp] theorem crossing_qe (i before : Nat) (s : State) : (crossing i before s).qe = s.qe := by simp [crossing]
@[simp] theorem sendWord_qe (i : Nat) (sw : SW) (s : State) : (sendWord i sw s).qe = s.qe := by simp [sendWord]

@[simp] theorem grant_qe (i : Nat) (s : State) : (grant i s).qe = s.qe := by
  unfold grant
  dsimp only
  split <;> simp

theorem popWord_qe {i : Nat} {s : State} {p : SW × State} (h : popWord i s = some p) : p.2.qe = s.qe := by
  unfold popWord at h
  split at h
  · cases h
  · cases h; simp

theorem windowPop_qe {i : Nat} {s : State} {p : W64 × State} (h : windowPop i s = some p) : p.2.qe = s.qe := by
  unfold windowPop at h
  split at h
  · cases h
  · next hpop => cases h; simpa using popWord_qe hpop

@[simp] theorem windowServe_qe (i : Nat) (s : State) : (windowServe i s).qe = s.qe := by
  unfold windowServe
  split
  · split
    · split
      · rfl
      · next hpop => simpa using windowPop_qe hpop
    · rfl
  · rfl

@[simp] theorem acceptWord_qe (i : Nat) (sw : SW) (s : State) : (acceptWord i sw s).qe = s.qe := by
  simp [acceptWord, grantServe]

@[simp] theorem logRec_qe (kind : Byte) (intr : Bool) (loc : BitVec 32) (detail : W64) (s : State) :
    (logRec kind intr loc detail s).qe = s.qe := by simp [logRec]

/-! ## Reads of the checked memories -/

@[simp] theorem setRam_qe (sp : Sp) (r : Ram) (s : State) : (setRam sp r s).qe = s.qe := by cases sp <;> rfl
@[simp] theorem modRam_qe (sp : Sp) (f : Ram → Ram) (s : State) : (modRam sp f s).qe = s.qe := setRam_qe ..
@[simp] theorem setMark_qe (sp : Sp) (a : Nat) (b : Bool) (s : State) : (setMark sp a b s).qe = s.qe := modRam_qe ..

@[simp] theorem checkGroup_qe (sp : Sp) (a : Nat) (rq : Rq) (s : State) : (checkGroup sp a rq s).qe = s.qe := by
  simp [checkGroup]

@[simp] theorem logParity_qe (sp : Sp) (a : Nat) (m : Byte) (rq : Rq) (s : State) :
    (logParity sp a m rq s).qe = s.qe := by
  cases sp <;> simp [logParity]

theorem readWord_qe (sp : Sp) (w lo n : Nat) (rq : Rq) (s : State) : (readWord sp w lo n rq s).2.qe = s.qe := by
  unfold readWord
  dsimp only
  split
  · rfl
  · simp

theorem readFuel_qe (sp : Sp) (rq : Rq) (fuel a n : Nat) (s : State) : (readFuel sp rq fuel a n s).2.qe = s.qe := by
  induction fuel generalizing a n s with
  | zero => rfl
  | succ fuel ih =>
    unfold readFuel
    dsimp only
    split
    · rfl
    · rw [ih, readWord_qe]

theorem readMem_qe (sp : Sp) (a n : Nat) (rq : Rq) (s : State) : (readMem sp a n rq s).2.qe = s.qe := readFuel_qe ..

theorem pathOut_qe (rq : Rq) (r : List (Byte × Bool) × State) : (pathOut rq r).2.qe = r.2.qe := by
  unfold pathOut
  dsimp only
  split
  · rfl
  · exact logRec_qe ..

theorem snd_qe {α : Type} {a : α} {s t : State} (h : s.qe = t.qe) : (a, s).2.qe = t.qe := h

theorem stgRead_qe (a n : Nat) (rq : Rq) (s : State) : (stgRead a n rq s).2.qe = s.qe := by
  unfold stgRead
  dsimp only
  split
  · exact readMem_qe ..
  · exact snd_qe ((readMem_qe ..).trans (readMem_qe ..))

theorem bufRead_qe (h : BitVec 32) (off n : Nat) (rq : Rq) (s : State) : (bufRead h off n rq s).2.qe = s.qe :=
  (pathOut_qe ..).trans (stgRead_qe ..)

/-! ## The traffic of a fabric port -/

@[simp] theorem xferBytes_qe (x : Xfer) (off n : Nat) (s : State) : (xferBytes x off n s).2.qe = s.qe := by
  unfold xferBytes
  split
  · rfl
  · exact bufRead_qe ..

@[simp] theorem modDsc_qe (x : XferRef) (i : Nat) (f : Dsc → Dsc) (s : State) : (modDsc x i f s).qe = s.qe := rfl

@[simp] theorem issueTxn_qe (r : XferRef) (i j : Nat) (s : State) : (issueTxn r i j s).qe = s.qe := by
  unfold issueTxn
  split
  · rfl
  · split
    · rfl
    · simp

theorem doWork_qe (r : XferRef) (w : Work) (s : State) : (doWork r w s).qe = s.qe := by
  unfold doWork
  split
  · rfl
  · cases w with
    | desc | data => simp
    | word2 | word3 =>
      dsimp only [modXfer]
      split
      · rfl
      · split <;> rfl

theorem dmaNext_qe {e : BitVec 2} {s t : State} (h : dmaNext e s = some t) : t.qe = s.qe := by
  unfold dmaNext at h
  split at h
  · cases h
  · split at h
    · cases h; rfl
    · obtain ⟨w, -, rfl⟩ := Option.map_eq_some_iff.1 h
      exact doWork_qe ..

/-- A port's next transaction changes no context. -/
theorem fmStep_ctx {e : BitVec 2} {s t : State} (h : fmStep e s = some t) : t.qe.ctx = s.qe.ctx := by
  have hdma (u : State) (hu : dmaNext e s = some u) : u.qe.ctx = s.qe.ctx := congrArg Qe.ctx (dmaNext_qe hu)
  unfold fmStep at h
  split at h
  · cases h
  · dsimp only at h
    split at h
    · split at h
      · cases h; rfl
      · obtain ⟨u, hu, rfl⟩ := Option.map_eq_some_iff.1 h
        exact hdma u hu
    · obtain ⟨u, hu, rfl⟩ := Option.map_eq_some_iff.1 h
      split <;> exact hdma u hu

theorem fmGo_ctx (e : BitVec 2) (fuel : Nat) (s : State) : (fmGo e fuel s).qe.ctx = s.qe.ctx := by
  induction fuel generalizing s with
  | zero => rfl
  | succ fuel ih =>
    unfold fmGo
    split
    · next t h => exact (ih t).trans (fmStep_ctx h)
    · rfl

/-! ## Contexts -/

@[simp] theorem qctx_pumpEng (e : BitVec 2) (s : State) (k : Nat) : qctx (pumpEng e s) k = qctx s k := by
  rw [qctx, pumpEng, fmGo_ctx]
  rfl

@[simp] theorem qctx_issueQe (r : FmReq) (s : State) (k : Nat) : qctx (issueQe r s) k = qctx s k := qctx_pumpEng ..

theorem qctx_modQctx_other {j k : Nat} (h : k ≠ j) (f : QCtx → QCtx) (s : State) :
    qctx (modQctx j f s) k = qctx s k := by
  unfold qctx modQctx
  simp [tget_tmod, h]

theorem qctx_issueCtxWrite_other {j k : Nat} (h : k ≠ j) (w : Nat) (ws : List W64) (s : State) :
    qctx (issueCtxWrite j w ws s) k = qctx s k := by
  unfold issueCtxWrite
  split
  · exact qctx_modQctx_other h ..
  · exact qctx_issueQe ..

@[simp] theorem qctx_touch (j k : Nat) (s : State) : qctx (touch j s) k = qctx s k := by
  unfold touch
  split <;> rfl

/-- An eviction beside a context leaves that context alone. -/
@[simp] theorem qctx_evictOne (k : Nat) (s : State) : qctx (evictOne k s) k = qctx s k := by
  unfold evictOne
  split
  · rfl
  · next v hv =>
    have hne : k ≠ v := Ne.symm (by simpa using List.find?_some hv)
    rw [qctx_issueCtxWrite_other hne, uncache, qctx_modQctx_other hne]
    rfl

theorem qctx_cacheIn (k : Nat) (s : State) :
    qctx (cacheIn k s) k = { qctx s k with cached := true, reading := false } := by
  unfold cacheIn
  dsimp only
  split
  · rw [qctx_evictOne, qctx_touch, qctx_modQctx]
  · rw [qctx_touch, qctx_modQctx]

end Sys2Proof.Machine
end

section
/-! SUPPORT. Answered reads and writes of queue contexts (R317-R319, R345, R351-R353). -/

namespace Sys2Proof.Machine

open Sys2Proof Sys2Proof.Spec

/-! ## The key of a queue -/

section
variable {cq : Bool} {q : QNum}

theorem isCq_ctxKey : isCq (ctxKey cq q) = cq := by
  have hq : q.toNat < 131072 := q.isLt
  cases cq <;> simp [isCq, ctxKey, hq]

theorem keyQ_ctxKey : keyQ (ctxKey cq q) = q := by
  have hq : q.toNat < 131072 := q.isLt
  apply BitVec.eq_of_toNat_eq
  cases cq <;> simp [keyQ, ctxKey, hq]

/-- Two queues with one key are one queue. -/
theorem ctxKey_inj {cq' : Bool} {q' : QNum} : ctxKey cq' q' = ctxKey cq q ↔ cq' = cq ∧ q' = q := by
  refine ⟨fun h => ⟨?_, ?_⟩, ?_⟩
  · simpa only [isCq_ctxKey] using congrArg isCq h
  · simpa only [keyQ_ctxKey] using congrArg keyQ h
  · rintro ⟨rfl, rfl⟩
    rfl

/-- QE_QCTL is busy with the queue of a key. -/
theorem busy_any_iff {b : Option Qctl} :
    (b.any fun b => decide (ctxKey b.cq b.q = ctxKey cq q)) = true ↔ b = some ⟨cq, q⟩ := by
  cases b with
  | none => simp
  | some b =>
    obtain ⟨cq', q'⟩ := b
    simp [ctxKey_inj]

end

/-! ## Work that goes on with a context -/

/-- A context is needed by its queue: it is enabled, or an earlier disable of it has not ended. -/
abbrev Needed (x : QCtx) : Prop := x.enabled = true ∨ x.stops ≠ []

theorem needed_iff {x : QCtx} : (x.enabled || stopping x) = true ↔ Needed x := by
  simp [stopping, Needed]

/-- An admin command that waits for a context with words 0-3 `ws` goes on. -/
def adminGoesOn (k : Nat) (ws : List W64) (s : State) : State :=
  match adminReader s k with
  | some e => adminCtx e k ws s
  | none => s

section
variable {k : Nat} {s : State} {ws : List W64}

theorem ctxWriting_eq_false (hw : ∀ g ∈ s.fm ++ s.qe.wait, g.who ≠ .ctxWrite k) (hd : (qctx s k).due = []) :
    ctxWriting s k = false := by
  rw [ctxWriting, hd, List.any_eq_false.2 fun g hg => by simpa using hw g hg]
  rfl

theorem adminGoesOn_reader {e : Entry} (h : adminReader s k = some e) : adminGoesOn k ws s = adminCtx e k ws s := by
  rw [adminGoesOn, h]

theorem adminGoesOn_none (h : adminReader s k = none) : adminGoesOn k ws s = s := by
  rw [adminGoesOn, h]

theorem ctxGoOn_needed (h : Needed (qctx s k)) : ctxGoOn k ws s = adminGoesOn k ws (ctxReady k s) :=
  congrArg (adminGoesOn k ws) (if_pos (needed_iff.2 h))

theorem ctxGoOn_other (h : ¬ Needed (qctx s k)) : ctxGoOn k ws s = adminGoesOn k ws s :=
  congrArg (adminGoesOn k ws) (if_neg fun hn => h (needed_iff.1 hn))

end

/-! ## Answered reads -/

section
variable {k : Nat} {m : FmReq} {s y z : State} {ws : List W64}

theorem ctxReadDone_stale (hm : takeFm (.ctxRead k) s = some (m, y)) (hs : (qctx y k).stale = true) :
    ctxReadDone k (.words ws) s = pumpEng 0 (ctxAgain k y) := by
  simp [ctxReadDone, hm, hs]

theorem ctxReadDone_taken (hm : takeFm (.ctxRead k) s = some (m, y)) (hs : (qctx y k).stale = false) :
    ctxReadDone k (.words ws) s = pumpEng 0 (ctxTaken k ws y) := by
  simp [ctxReadDone, hm, hs]

theorem ctxReadDone_failed (hm : takeFm (.ctxRead k) s = some (m, y)) {r : MemResp} (hr : r = .error ∨ r = .poisoned)
    (hz : z = modQctx k (fun x => { x with reading := false, stale := false }) y) :
    ctxReadDone k r s = pumpEng 0 (haltCtx k (qctlLost k z)) := by
  subst hz
  rcases hr with rfl | rfl <;> simp [ctxReadDone, hm]

section
variable (hz : z = modQctx k (fun x => { x with stale := false }) y)
include hz

theorem ctxAgain_reads (hr : (qctx y k).reading = true) (hw : ∀ g ∈ y.fm ++ y.qe.wait, g.who ≠ .ctxWrite k)
    (hd : (qctx y k).due = []) : ctxAgain k y = issueCtxRead k z := by
  have hq : qctx z k = { qctx y k with stale := false } := by rw [hz, qctx_modQctx]
  have hidle : ctxWriting z k = false := ctxWriting_eq_false (by rw [hz]; exact hw) (by rw [hq]; exact hd)
  unfold ctxAgain
  rw [← hz]
  exact if_pos (by rw [hidle, hq, hr]; rfl)

theorem ctxAgain_drops (hr : (qctx y k).reading = false) : ctxAgain k y = z := by
  have hq : qctx z k = { qctx y k with stale := false } := by rw [hz, qctx_modQctx]
  unfold ctxAgain
  rw [← hz]
  exact if_neg (by rw [hq, hr]; simp)

end

section
variable {cq : Bool} {q : QNum} (hz : z = modQctx (ctxKey cq q) (fun x => { x with reading := false }) y)
include hz

theorem ctxTaken_enables (hn : ¬ Needed (qctx z (ctxKey cq q))) (hb : y.qe.busy = some ⟨cq, q⟩) :
    ctxTaken (ctxKey cq q) ws y = qctlEnable (ctxKey cq q) ws z := by
  have hbusy : z.qe.busy = some ⟨cq, q⟩ := by rw [hz]; exact hb
  unfold ctxTaken
  rw [← hz]
  exact (if_neg fun h => hn (needed_iff.1 h)).trans (if_pos (busy_any_iff.2 hbusy))

/-- Words that no ENABLE of QE_QCTL takes go to the queue that needs them, and to an admin command that waits. -/
theorem ctxTaken_goes_on {u : State} (hu : u = (if Needed (qctx z (ctxKey cq q))
      then ctxReady (ctxKey cq q) (cacheIn (ctxKey cq q) (modQctx (ctxKey cq q) (loadCtx (ctxKey cq q) ws) z)) else z))
    (hb : Needed (qctx z (ctxKey cq q)) ∨ y.qe.busy ≠ some ⟨cq, q⟩) :
    ctxTaken (ctxKey cq q) ws y = adminGoesOn (ctxKey cq q) ws u := by
  unfold ctxTaken
  rw [← hz]
  by_cases hn : Needed (qctx z (ctxKey cq q))
  · have hcached : Needed (qctx (cacheIn (ctxKey cq q) (modQctx (ctxKey cq q) (loadCtx (ctxKey cq q) ws) z))
        (ctxKey cq q)) := by
      rw [qctx_cacheIn, qctx_modQctx]
      exact hn
    rw [hu, if_pos hn, ← ctxGoOn_needed hcached]
    exact if_pos (needed_iff.2 hn)
  · have hbusy : z.qe.busy ≠ some ⟨cq, q⟩ := by
      rw [hz]
      exact hb.resolve_left hn
    rw [hu, if_neg hn, ← ctxGoOn_other hn]
    exact (if_neg fun h => hn (needed_iff.1 h)).trans (if_neg fun h => hbusy (busy_any_iff.1 h))

end

section
variable {cq : Bool} {q : QNum}

theorem qctlEnable_fault {n : Nat} (h : enableFault k ws z = some n) : qctlEnable k ws z =
    withQe (fun g => { g with busy := none, result := 2, reason := BitVec.ofNat 8 n }) z := by
  rw [qctlEnable, h]
  rfl

theorem qctlEnable_enables (h : enableFault k ws z = none) :
    qctlEnable k ws z = qctlDone k (enableCtx k 1 ws z) := by
  rw [qctlEnable, h]

/-- A context read that fails ends the QE_QCTL that asked for it (log entry 154). -/
theorem qctlLost_eq : qctlLost (ctxKey cq q) z =
    if (qctx z (ctxKey cq q)).enabled = false ∧ (qctx z (ctxKey cq q)).stops = [] ∧ z.qe.busy = some ⟨cq, q⟩
    then withQe (fun g => { g with busy := none }) z else z := by
  unfold qctlLost
  simp only [Bool.and_eq_true, busy_any_iff, Bool.not_eq_true', stopping, Bool.not_not, List.isEmpty_iff, and_assoc]
  rfl

/-- The queue that the evidence of a failed context read names (log entry 153). -/
theorem haltCtx_eq : haltCtx (ctxKey cq q) s =
    halt 7 (if cq then 0 else q) (if cq then 0 else (qctx s (ctxKey cq q)).head) [] false s := by
  rw [haltCtx, isCq_ctxKey, keyQ_ctxKey]

end
end

/-! ## Writes -/

section
variable {k w : Nat} {ws : List W64} {s : State}

theorem ctxBusy_iff {a : Nat} (ha : a = (ctxAddr s k + 8 * w) % 2 ^ 48) : ctxBusy s k w ws = true ↔
    ∃ g ∈ s.fm ++ s.qe.wait, g.who = .ctxWrite k ∧ g.addr % 2 ^ 48 < a + 8 * ws.length ∧ a < g.addr % 2 ^ 48 + g.len := by
  subst ha
  simp only [ctxBusy, List.any_eq_true, Bool.and_eq_true, decide_eq_true_iff, and_assoc]

/-- A write of a context waits behind one that has not left, and behind an unanswered one of the same words (R64). -/
theorem issueCtxWrite_waits (h : (qctx s k).due ≠ [] ∨ ctxBusy s k w ws = true) :
    issueCtxWrite k w ws s = modQctx k (fun x => { x with due := x.due ++ [(w, ws)] }) s :=
  if_pos (by simpa [or_comm] using h)

theorem issueCtxWrite_leaves (hd : (qctx s k).due = []) (hb : ¬ ctxBusy s k w ws = true) :
    issueCtxWrite k w ws s = issueQe (ctxWriteReq s k w ws) s :=
  if_neg (by simpa [hd] using hb)

end

/-! ## Answered writes -/

@[simp] theorem ctxAddr_ctxError (j k : Nat) (s : State) : ctxAddr (ctxError j s) k = ctxAddr s k := rfl

section
variable {k n : Nat} {m : FmReq} {s u y z : State} (hm : takeFmAt (.ctxWrite k) n s = some (m, u)) (hy : y = issueDue k u)
include hm hy

/-- After a write that is answered without an error, a read of the context that waited for it leaves. -/
theorem ctxWriteResp_ok : ctxWriteResp k n false s = pumpEng 0 (
    if (qctx y k).reading && !(qctx y k).stale && !ctxWriting y k then issueCtxRead k y else y) := by
  subst hy
  simp [ctxWriteResp, hm]

/-- An error of any other write than the write-back at an eviction is recorded. -/
theorem ctxWriteResp_error (hr : (qctx y k).reading = false)
    (h : (qctx y k).cached = true ∨ m.len ≠ 8 ∨ m.addr ≠ (ctxAddr y k + 24) % 2 ^ 48) :
    ctxWriteResp k n true s = pumpEng 0 (ctxError k y) := by
  simp only [ctxWriteResp, hm, ← hy]
  rw [if_neg (by rcases h with h | h | h <;> simp [-Nat.reducePow, h]), if_neg (by simp [hr])]
  rfl

/-- A write-back that failed leaves the context in the cache, as the first to be evicted the next time. -/
theorem ctxWriteResp_evicted {v : State} (hn : Needed (qctx y k)) (hc : (qctx y k).cached = false) (hl : m.len = 8)
    (ha : m.addr = (ctxAddr y k + 24) % 2 ^ 48)
    (hz : z = withQe (fun g => { g with lru := k :: g.lru })
      (modQctx k (fun x => { x with cached := true, reading := false }) (ctxError k y)))
    (hv : v = ctxReady k (if 4096 < z.qe.lru.length then evictOne k z else z)) :
    ctxWriteResp k n true s = pumpEng 0 (adminGoesOn k (heldCtx (qctx y k)) v) := by
  have hq : qctx z k = { qctx y k with cached := true, reading := false } := by
    rw [hz]
    exact qctx_modQctx k (fun x => { x with cached := true, reading := false }) (ctxError k y)
  have hneeded : Needed (qctx (if 4096 < z.qe.lru.length then evictOne k z else z) k) := by
    have hsame : qctx (if 4096 < z.qe.lru.length then evictOne k z else z) k = qctx z k := by
      split
      · exact qctx_evictOne ..
      · rfl
    rw [hsame, hq]
    exact hn
  rw [hv, ← ctxGoOn_needed hneeded, hz]
  simp only [ctxWriteResp, hm, ← hy]
  rw [if_pos (by simp [needed_iff.2 hn, hc, hl, ha])]
  rfl

end

/-! ## The statement -/

/-- Settles O57: the words of a read go where they are needed, and the answer to a write lets go on what waited. -/
theorem contextTransfers : Obligations.ContextTransfers := by
  unfold Obligations.ContextTransfers
  rintro cq q _ m s y rfl
  have hread (r : MemResp) : exec (.contextReadDone cq q r) s = .next (ctxReadDone (ctxKey cq q) r s) := rfl
  have hwrite (n : Nat) (err : Bool) :
      exec (.contextWriteResponse cq q ⟨n, err⟩) s = .next (ctxWriteResp (ctxKey cq q) n err s) := rfl
  have herror : ctxError (ctxKey cq q) y = withQe (fun g => { g with
      ctxError := true, ctxCq := if g.ctxError then g.ctxCq else cq,
      ctxQueue := if g.ctxError then g.ctxQueue else q }) y := by
    rw [ctxError, isCq_ctxKey, keyQ_ctxKey]
    rfl
  refine ⟨fun hm hs ws z hz => ?stale, fun hm hs z x hz hx => ⟨fun ws b hen hst hb hbc hbq => ?enable, ?taken⟩,
    fun hm z x r u hr hz hx hu => ?failed, fun w ws a ha => ⟨fun hd hg => ?leaves, fun h => ?waits⟩,
    fun n u hm hy z hz => ⟨fun hr => ?plain, fun hs => ?staleRead, fun hr hs hg hd => ?readAgain, fun hr h => ?error,
      fun hn hc hl ha t v ht hv => ?evicted⟩⟩
  case stale =>
    rw [hread, ctxReadDone_stale hm hs]
    exact ⟨fun hr hw hd => by rw [ctxAgain_reads hz hr hw hd], fun hr => by rw [ctxAgain_drops hz hr]⟩
  case enable =>
    subst hx
    have hbusy : y.qe.busy = some ⟨cq, q⟩ := by rw [hb, ← hbc, ← hbq]
    have hn : ¬ Needed (qctx z (ctxKey cq q)) := by simp [hen, hst]
    rw [hread, ctxReadDone_taken hm hs, ctxTaken_enables hz hn hbusy]
    exact ⟨fun n hf => by rw [qctlEnable_fault hf], fun hf => by rw [qctlEnable_enables hf]⟩
  case taken =>
    subst hx
    intro ws u hu h
    rw [hread, ctxReadDone_taken hm hs, ctxTaken_goes_on hz hu (or_assoc.2 h)]
    exact ⟨fun e he => by rw [adminGoesOn_reader he], fun he => by rw [adminGoesOn_none he]⟩
  case failed =>
    subst hx
    have hlost : qctlLost (ctxKey cq q) z = u := by rw [qctlLost_eq, hu, hz]; rfl
    have hctx : qctx u (ctxKey cq q) = qctx z (ctxKey cq q) := by rw [hu]; split <;> rfl
    rw [hread, ctxReadDone_failed hm hr hz, hlost, haltCtx_eq, hctx]
  case leaves =>
    refine issueCtxWrite_leaves hd fun hb => ?_
    obtain ⟨g, hmem, hwho, hlo, hhi⟩ := (ctxBusy_iff ha).1 hb
    have := hg g hmem hwho
    omega
  case waits => exact issueCtxWrite_waits (h.imp_right (ctxBusy_iff ha).2)
  case plain => rw [hwrite, ctxWriteResp_ok hm hy, if_neg (by simp [hr])]
  case staleRead => rw [hwrite, ctxWriteResp_ok hm hy, if_neg (by simp [hs])]
  case readAgain => rw [hwrite, ctxWriteResp_ok hm hy, if_pos (by simp [hr, hs, ctxWriting_eq_false hg hd])]
  case error => rw [hwrite, ctxWriteResp_error hm hy hr h, herror, hz]
  case evicted =>
    rw [hwrite, ctxWriteResp_evicted hm hy hn hc hl ha (ht.trans (by rw [hz, herror])) hv]
    exact ⟨fun he => by rw [adminGoesOn_none he], fun e he => by rw [adminGoesOn_reader he]; rfl⟩

end Sys2Proof.Machine
end

section
/-! SUPPORT. Completions, their writes, batches and index blocks (R316, R320, R336-R338, R341, R343). -/

namespace Sys2Proof.Machine

open Sys2Proof Sys2Proof.Spec

/-! ## Completions -/

section
variable {id : Nat} {e : Entry} {s : State}

/-- An entry that has not finished, a block that has halted and a full buffer hold a completion back. -/
theorem completionPost_held (he : entryOf s id = some e) (hx : xferOf s (.entry id) = none)
    (h : e.stage ≠ .finish ∨ s.gctl.halted = true ∨ (e.held = false ∧ 1024 ≤ cbufUsed s)) : completionPost id s = s := by
  simp only [completionPost, hx, he]
  exact if_pos (by simpa [or_assoc] using h)

theorem completionPost_finished (he : entryOf s id = some e) (hx : xferOf s (.entry id) = none)
    (hs : e.stage = .finish) (hh : s.gctl.halted = false) (hp : e.held = true ∨ cbufUsed s < 1024) {x : State}
    (hd : x = dropEntry id (withQe (fun q => { q with held := if e.held then q.held - 1 else q.held }) s)) :
    completionPost id s = adminSettle (passFrontier e.sq (if eBatch e && e.status = 0 && e.sq ≠ 0
      then withQe (fun q => { q with
        cov := q.cov ++ [{ sq := e.sq, index := e.index, cid := eCid e, order := e.id, cq := e.cq }] }) x
      else putCpl (cplOf e) x)) := by
  subst hd
  simp only [completionPost, hx, he]
  exact if_neg (by rcases hp with hp | hp <;> simp [hs, hh, hp])

end

theorem completionPosting : CompletionPosting := by
  intro id e s he hx
  refine ⟨fun h => congrArg _ (completionPost_held he hx h), fun hs hh hp x hd => ?_⟩
  have hpost := completionPost_finished he hx hs hh hp hd
  refine ⟨fun hb h0 hq => congrArg _ (hpost.trans ?_), fun hn => congrArg _ (hpost.trans ?_)⟩
  · rw [if_pos (by simpa [hb, h0] using hq)]
  · rw [if_neg]
    · rfl
    · simp only [Bool.and_eq_true, decide_eq_true_iff]
      rintro ⟨⟨hb, h0⟩, hq⟩
      rcases hn with h | h | h
      · exact Bool.noConfusion (h.symm.trans hb)
      · exact h h0
      · exact hq h

/-! ## The writes of completions -/

section
variable {q : QNum} {n : Nat} {m : FmReq} {p : Cpl} {rest : List Cpl} {s y z : State}

theorem exec_completionWriteResponse_answered (hm : takeFmAt (.completion q) n s = some (m, y))
    (hp : takeNth (fun p : Cpl => decide (p.cq = q)) n s.qe.flying = some (p, rest))
    (hz : z = withQe (fun g => { g with flying := rest }) y) (err : Bool) :
    exec (.completionWriteResponse q ⟨n, err⟩) s = .next (pumpEng 0 (
      if err then halt 8 p.sq p.index (bytesWords 2 m.data) false (modQctx (ctxKey true q) (fun x => { x with lost := true }) z)
      else if bit (qctx z (ctxKey true q)).w1 0 = true ∧ z.gctl.halted = false then post q.toNat (moveVisible q z)
      else moveVisible q z)) := by
  subst hz
  change Host.Outcome.next (completionResp q n err s) = _
  simp only [completionResp, hm, hp]
  cases err
  · simp only [Bool.false_eq_true, if_false, ← Bool.not_eq_true', ← Bool.and_eq_true]
    rfl
  · rfl

end

theorem completionWrites : CompletionWrites := by
  rintro q n m p rest s y z _ rfl hm hp hz
  have hexec := exec_completionWriteResponse_answered hm hp hz
  refine ⟨hexec true, ?_⟩
  rintro v _ hv rfl
  have hvisible : visibleTail z q = v := by rw [hv, hz]; rfl
  rw [hexec, ← hvisible]
  rfl

/-! ## Batches -/

section
variable {sq : QNum} {s : State}

theorem batchPlace_iff : batchPlace s sq = true ↔ s.gctl.halted = false ∧ batchCov s sq ≠ [] ∧ cbufUsed s < 1024 := by
  simp [batchPlace, and_assoc]

/-- A batch goes at its size, at once with time 0, and where nothing is left in its queue or it is deleted. -/
theorem batchPost_eq : batchPost sq s = if batchPlace s sq = true ∧ (batchMax s sq ≤ (batchCov s sq).length ∨
    batchTime s sq = 0 ∨ oldestOf s sq = none ∨ deleteWaits s sq = true) then postBatch sq s else s := by
  simp [batchPost, or_assoc]

theorem le_foldl_max {α : Type} {f : α → Nat} {n b : Nat} {l : List α} :
    n ≤ l.foldl (fun m c => max m (f c)) b ↔ n ≤ b ∨ ∃ c ∈ l, n ≤ f c := by
  induction l generalizing b with
  | nil => simp
  | cons c l ih =>
    have hmax : n ≤ max b (f c) ↔ n ≤ b ∨ n ≤ f c := by omega
    rw [List.foldl_cons, ih, hmax, or_assoc]
    simp only [List.mem_cons, exists_eq_or_imp]

/-- The time since the frontier passed a covered entry. -/
def sincePassed (s : State) (c : Cov) : Nat := (c.passed.map fun t => (s.time - t).toNat).getD 0

/-- The longest such time, one covered entry after another. -/
def laterPassed (s : State) (m : Nat) (c : Cov) : Nat :=
  match c.passed with
  | some t => max m (s.time - t).toNat
  | none => m

theorem laterPassed_eq : laterPassed s = fun m c => max m (sincePassed s c) := by
  funext m c
  unfold laterPassed sincePassed
  cases c.passed with
  | none => exact (Nat.max_zero m).symm
  | some t => rfl

theorem batchExpiry_eq : batchExpiry sq s =
    if batchPlace s sq = true ∧ 1000 * batchTime s sq ≤ (batchCov s sq).foldl (fun m c => max m (sincePassed s c)) 0
    then postBatch sq s else s := by
  have hlater : batchExpiry sq s =
      if batchPlace s sq && decide (1000 * batchTime s sq ≤ (batchCov s sq).foldl (laterPassed s) 0)
      then postBatch sq s else s := rfl
  rw [hlater, laterPassed_eq]
  simp only [Bool.and_eq_true, decide_eq_true_iff]

end

/-! ## Index blocks -/

section
variable {k : Nat} {s : State}

theorem idxIssue_flying (h : (qctx s k).idx.flying = true) : idxIssue k s = s := if_pos h

theorem idxIssue_none (h : (qctx s k).idx.flying = false) (hn : idxNext s k = none) : idxIssue k s = s := by
  simp [idxIssue, h, hn]

theorem idxIssue_next {a : Nat} {w : W64} {last : Bool} (h : (qctx s k).idx.flying = false)
    (hn : idxNext s k = some (a, w, last)) :
    idxIssue k s = issueQe { port := 0, who := .index k, write := true, addr := a, len := 8, data := wordBytes 8 w }
      (modQctx k (fun x => { x with idx := { x.idx with
        moved := x.idx.moved && last && x.enabled, flying := true, last := last } }) s) := by
  simp [idxIssue, h, hn]

/-- The word of a final head: STOPPED above the 16 bits of the head. -/
theorem stopped_word (h : BitVec 16) : flag 16 true ||| at_ 0 h = nat64 (2 ^ 16 + h.toNat) := by
  have hor : 2 ^ 16 * 1 + h.toNat = 2 ^ 16 * 1 ||| h.toNat := Nat.two_pow_add_eq_or_of_lt h.isLt 1
  have hlt : h.toNat < 65536 := h.isLt
  have hmod : h.toNat % 18446744073709551616 = h.toNat := Nat.mod_eq_of_lt (by omega)
  apply BitVec.eq_of_toNat_eq
  simp only [nat64, BitVec.toNat_ofNat, BitVec.toNat_or]
  rw [Nat.mod_eq_of_lt (by omega), ← Nat.mul_one (2 ^ 16), hor]
  simp [flag, at_, hmod]

theorem idxNext_final {d : Stop} {tl : List Stop} (h : (qctx s k).idx.final = true) (hs : (qctx s k).stops = d :: tl) :
    idxNext s k = some (d.addr, nat64 (2 ^ 16 + d.head.toNat), true) := by
  rw [← stopped_word]
  simp [idxNext, h, hs]

theorem idxNext_head (h : (qctx s k).idx.final = false ∨ (qctx s k).stops = []) :
    idxNext s k = if (qctx s k).idx.moved then some (indexAddr (qctx s k).w2, idxWord s k, false) else none := by
  rcases h with h | h <;> simp [idxNext, h]

/-- The answer to an index write ends the disable whose final head it published, and the next write leaves. -/
theorem indexPublish_answered {m : FmReq} {y z : State} {err : Bool} (hm : takeFm (.index k) s = some (m, y))
    (hz : z = modQctx k (fun x => { x with idx := { x.idx with flying := false, last := false } })
      (if err then withQe (fun g => { g with idxError := true }) y else y)) :
    indexPublish k (.response err) s =
      pumpEng 0 (idxIssue k (if (qctx y k).idx.last then tryStop k (stopEnd k z) else z)) := by
  subst hz
  simp only [indexPublish, hm]
  cases err <;> rfl

end

theorem batchesAndIndexes : BatchesAndIndexes := by
  rintro sq cq q _ s rfl
  have hpost : exec (.batchPost sq) s = .next (batchPost sq s) := rfl
  have hexpiry : exec (.batchTimeExpiry sq) s = .next (batchExpiry sq s) := rfl
  have hpublish (e : IndexStep) : exec (.indexPublish cq q e) s = .next (indexPublish (ctxKey cq q) e s) := rfl
  have hissue : exec (.indexPublish cq q .issue) s = .next (idxIssue (ctxKey cq q) s) := rfl
  refine ⟨fun hh hb hc => ?batches, fun h => ?noPlace, fun h => ?flying, fun d tl hf h hs => ?final,
    fun hf h => ⟨fun hmoved => ?moved, fun hmoved => ?still⟩, fun m y err hm z hz => ?answer⟩
  case batches =>
    have hplace := batchPlace_iff.2 ⟨hh, hb, hc⟩
    rw [hpost, hexpiry, batchPost_eq, batchExpiry_eq]
    refine ⟨fun h => ?_, fun hn ht ho hd => ?_, fun c hc t hp ht => ?_, fun h0 ht => ?_⟩
    · rw [if_pos ⟨hplace, h⟩]
    · rw [if_neg]
      rintro ⟨-, h | h | h | h⟩
      · exact Nat.not_le.2 hn h
      · exact ht h
      · exact ho h
      · simp [hd] at h
    · rw [if_pos ⟨hplace, le_foldl_max.2 (.inr ⟨c, hc, by simpa [sincePassed, hp] using ht⟩)⟩]
    · rw [if_neg]
      rintro ⟨-, h⟩
      rcases le_foldl_max.1 h with h | ⟨c, hc, h⟩
      · omega
      · unfold sincePassed at h
        cases hp : c.passed with
        | none =>
          simp only [hp, Option.map_none, Option.getD_none] at h
          omega
        | some t =>
          have := ht c hc t hp
          simp only [hp, Option.map_some, Option.getD_some] at h
          omega
  case noPlace =>
    have hplace : ¬ batchPlace s sq = true := by
      rw [batchPlace_iff]
      rintro ⟨hh, hb, hc⟩
      rcases h with h | h | h
      · simp [hh] at h
      · exact hb h
      · exact Nat.not_le.2 hc h
    rw [hpost, hexpiry, batchPost_eq, batchExpiry_eq, if_neg (fun h => hplace h.1), if_neg (fun h => hplace h.1)]
    exact ⟨rfl, rfl⟩
  case flying => rw [hissue, idxIssue_flying h]
  case final =>
    rw [hissue, idxIssue_next hf (idxNext_final h hs)]
    simp
  case moved =>
    rw [hissue, idxIssue_next hf ((idxNext_head h).trans (if_pos hmoved))]
    simp
  case still => rw [hissue, idxIssue_none hf ((idxNext_head h).trans (if_neg (by simp [hmoved])))]
  case answer =>
    rw [hpublish, indexPublish_answered hm hz]
    exact ⟨fun h => by rw [if_pos h], fun h => by rw [if_neg (by simp [h])]⟩

/-- Settles O59: completions posted or covered, the answers to their writes, and batches with index blocks. -/
theorem completions : Obligations.Completions := by
  unfold Obligations.Completions
  exact ⟨completionPosting, completionWrites, batchesAndIndexes⟩

end Sys2Proof.Machine
end

section
/-! SUPPORT. That every stream has room for its words and the credits it has granted (R387, R389), whatever the
memories hold. One lemma for each function of the model says that the streams of what it answers fit if those of what
it was given do. The lemmas are rewriting rules, so that the proof of one function's lemma is its case split and the
lemmas of what it calls. -/

namespace Sys2Proof.Machine

open Sys2Proof

/-- The streams of the state of an instruction's effect fit. -/
def EffFits : Eff → Prop
  | .write _ _ _ s | .plain s | .waited _ _ s | .waited0 s | .branch _ s | .event _ _ s | .wait _ s | .gone s =>
    StreamsFit s

/-- The streams of the state of a yield check fit. -/
def YckFits : Yck → Prop
  | .go s | .stop s => StreamsFit s

/-- The streams of the state that a command answers fit. -/
def OutFits (o : Out) : Prop := ∀ t, o = .next t → StreamsFit t

theorem outFits_next {t : State} (h : StreamsFit t) : OutFits (.next t) := by rintro _ ⟨⟩; exact h

/-! ## States that are built -/

section
variable {s : State}

@[simp] theorem fits_mk {variant time free pfail brownout gctl pwr tok cal srv ic hawk eng xfer rnd qe plb soft intg
    stg prm lath quad ch port fm pending} :
    StreamsFit (State.mk variant time free pfail brownout gctl pwr tok cal srv ic s.str hawk eng xfer rnd qe plb soft
      intg stg prm lath quad ch port fm pending) ↔ StreamsFit s := Iff.rfl

@[simp] theorem effFits_write {rd d v} : EffFits (.write rd d v s) ↔ StreamsFit s := Iff.rfl
@[simp] theorem effFits_plain : EffFits (.plain s) ↔ StreamsFit s := Iff.rfl
@[simp] theorem effFits_waited {rd v} : EffFits (.waited rd v s) ↔ StreamsFit s := Iff.rfl
@[simp] theorem effFits_waited0 : EffFits (.waited0 s) ↔ StreamsFit s := Iff.rfl
@[simp] theorem effFits_branch {n} : EffFits (.branch n s) ↔ StreamsFit s := Iff.rfl
@[simp] theorem effFits_event {c d} : EffFits (.event c d s) ↔ StreamsFit s := Iff.rfl
@[simp] theorem effFits_wait {w} : EffFits (.wait w s) ↔ StreamsFit s := Iff.rfl
@[simp] theorem effFits_gone : EffFits (.gone s) ↔ StreamsFit s := Iff.rfl
@[simp] theorem yckFits_go : YckFits (.go s) ↔ StreamsFit s := Iff.rfl
@[simp] theorem yckFits_stop : YckFits (.stop s) ↔ StreamsFit s := Iff.rfl

end

/-! ## Choices, pairs and folds -/

section
variable {α : Type} {c : Prop} [Decidable c]

@[simp] theorem fits_ite (a b : State) :
    StreamsFit (if c then a else b) ↔ if c then StreamsFit a else StreamsFit b := by split <;> rfl

@[simp] theorem effFits_ite (a b : Eff) : EffFits (if c then a else b) ↔ if c then EffFits a else EffFits b := by
  split <;> rfl

@[simp] theorem fits_ite_snd (a b : α × State) :
    StreamsFit (if c then a else b).2 ↔ if c then StreamsFit a.2 else StreamsFit b.2 := by split <;> rfl

/-- The form of `fits_ite` that leaves the condition alone. -/
theorem fits_if {a b : State} (ha : StreamsFit a) (hb : StreamsFit b) : StreamsFit (if c then a else b) := by
  split <;> assumption

theorem fits_if_snd {a b : α × State} (ha : StreamsFit a.2) (hb : StreamsFit b.2) :
    StreamsFit (if c then a else b).2 := by split <;> assumption

theorem fits_of_ite {a b : Option (α × State)} {p} (ha : a = some p → StreamsFit p.2)
    (hb : b = some p → StreamsFit p.2) : (if c then a else b) = some p → StreamsFit p.2 := by split <;> assumption

theorem fits_of_some {x p : α × State} (h : StreamsFit x.2) : some x = some p → StreamsFit p.2 := by
  rintro ⟨⟩
  exact h

theorem fits_of_none {p : α × State} : none = some p → StreamsFit p.2 := nofun

theorem fits_mk_snd {a : α} {s : State} (h : StreamsFit s) : StreamsFit (a, s).2 := h

theorem fits_of_snd {x : α × State} {a : α} {s : State} (e : x = (a, s)) (h : StreamsFit x.2) : StreamsFit s := by
  subst e
  exact h

theorem fits_getD {o : Option State} {d : State} {y : Prop} (h : ∀ {u}, o = some u → (StreamsFit u ↔ y))
    (hd : StreamsFit d ↔ y) : StreamsFit (o.getD d) ↔ y := by
  cases o with
  | none => exact hd
  | some u => exact h rfl

end

/-- A fold over a list, each of whose steps leaves the streams' room alone. -/
@[simp] theorem fits_foldl_iff {α : Type} {f : State → α → State} (l : List α) (s)
    (h : ∀ s a, StreamsFit (f s a) ↔ StreamsFit s) : StreamsFit (l.foldl f s) ↔ StreamsFit s := by
  induction l generalizing s with
  | nil => rfl
  | cons a l ih => exact (ih _).trans (h s a)

@[simp] theorem fits_foldl_snd_iff {α β : Type} {f : β × State → α → β × State} (l : List α) (p)
    (h : ∀ p a, StreamsFit (f p a).2 ↔ StreamsFit p.2) : StreamsFit (l.foldl f p).2 ↔ StreamsFit p.2 := by
  induction l generalizing p with
  | nil => rfl
  | cons a l ih => exact (ih _).trans (h p a)

/-- A fold over a list, each of whose steps keeps what fits. -/
theorem fits_foldl {α : Type} {f : State → α → State} (l : List α) (s) (hs : StreamsFit s)
    (h : ∀ s a, StreamsFit s → StreamsFit (f s a)) : StreamsFit (l.foldl f s) := by
  induction l generalizing s with
  | nil => exact hs
  | cons a l ih => exact ih _ (h s a hs)

/-- A fold that carries a value beside the state. -/
theorem fits_foldl_snd {α β : Type} {f : β × State → α → β × State} (l : List α) (p) (hs : StreamsFit p.2)
    (h : ∀ p a, StreamsFit p.2 → StreamsFit (f p a).2) : StreamsFit (l.foldl f p).2 := by
  induction l generalizing p with
  | nil => exact hs
  | cons a l ih => exact ih _ (h p a hs)

/-! ## Parts of the state -/

@[simp] theorem fits_modChan (c f s) : StreamsFit (modChan c f s) ↔ StreamsFit s := Iff.rfl
@[simp] theorem fits_modThr (c t f s) : StreamsFit (modThr c t f s) ↔ StreamsFit s := Iff.rfl
@[simp] theorem fits_modReg (c f s) : StreamsFit (modReg c f s) ↔ StreamsFit s := Iff.rfl
@[simp] theorem fits_setRam (sp r s) : StreamsFit (setRam sp r s) ↔ StreamsFit s := by cases sp <;> rfl
@[simp] theorem fits_modRam (sp f s) : StreamsFit (modRam sp f s) ↔ StreamsFit s := fits_setRam ..

/-! ## Streams -/

theorem StreamsFit.strm {s : State} (hs : StreamsFit s) (i : Nat) : StrmOk (strm s i) :=
  TAll.tget (P := StrmOk) hs StrmOk.empty i

/-- A change of one stream after which it fits. -/
theorem fits_modStrm_of {i : Nat} {f : Strm → Strm} {s : State} (hs : StreamsFit s) (hf : StrmOk (f (strm s i))) :
    StreamsFit (modStrm i f s) := TAll.tput (P := StrmOk) hs hf i

/-- A change of one stream that adds no word and no credit. -/
@[simp] theorem fits_modStrm (i f s) (hs : StreamsFit s)
    (hf : ∀ x, (f x).words.length + (f x).credits ≤ x.words.length + x.credits) : StreamsFit (modStrm i f s) :=
  fits_modStrm_of hs ((hf _).trans (hs.strm i))

end Sys2Proof.Machine
end

section
/-! SUPPORT. The shared operations, buffers, transfers and the Lath's sending side keep streams that fit. -/

namespace Sys2Proof.Machine

open Sys2Proof

/-! ## Ops -/

@[simp] theorem fits_modQuad (q f s) : StreamsFit (modQuad q f s) ↔ StreamsFit s := Iff.rfl
@[simp] theorem fits_modEng (e f s) : StreamsFit (modEng e f s) ↔ StreamsFit s := Iff.rfl
@[simp] theorem fits_modPool (k f s) : StreamsFit (modPool k f s) ↔ StreamsFit s := Iff.rfl
@[simp] theorem fits_modProc (p f s) : StreamsFit (modProc p f s) ↔ StreamsFit s := Iff.rfl
@[simp] theorem fits_draw (s) : StreamsFit (draw s).2 ↔ StreamsFit s := Iff.rfl
@[simp] theorem fits_setDom (d x s) : StreamsFit (setDom d x s) ↔ StreamsFit s := Iff.rfl
@[simp] theorem fits_setPend (n b s) : StreamsFit (setPend n b s) ↔ StreamsFit s := Iff.rfl
@[simp] theorem fits_post (n s) : StreamsFit (post n s) ↔ StreamsFit s := by simp [post]
@[simp] theorem fits_resample (s) : StreamsFit (resample s) ↔ StreamsFit s := by simp [resample]

@[simp] theorem fits_grantPlaces (i s) (hs : StreamsFit s) : StreamsFit (grantPlaces i s) := by
  unfold grantPlaces
  split
  · refine fits_modStrm_of hs ?_
    have := hs.strm i
    simp only [StrmOk] at this ⊢
    omega
  · exact hs

@[simp] theorem fits_crossing (i before s) (hs : StreamsFit s) : StreamsFit (crossing i before s) := by
  simp [crossing, hs]

theorem strmOk_countDown {x : Strm} (h : StrmOk x) : StrmOk (countDown x) := by
  unfold countDown; dsimp only
  (repeat' split) <;> exact h

/-- A word sent while no credit is granted is dropped. -/
theorem fits_dropWord (i sw s) (hs : StreamsFit s) (hg : grants s i = false) : StreamsFit (sendWord i sw s) := by
  have h := hs.strm i
  have hd : StrmOk { strm s i with credits := (strm s i).credits - 1 } :=
    (Nat.add_le_add_left (Nat.sub_le ..) _).trans h
  unfold sendWord
  simp only [hg, Bool.not_false, Bool.true_or, ↓reduceIte]
  refine fits_modStrm_of hs ?_
  split <;> exact hd

/-- A word sent against a credit takes the place that the credit stands for. -/
theorem fits_sendWord (i sw s) (hs : StreamsFit s) (hc : (strm s i).credits ≠ 0) : StreamsFit (sendWord i sw s) := by
  have h := hs.strm i
  have hd : StrmOk { strm s i with credits := (strm s i).credits - 1 } :=
    (Nat.add_le_add_left (Nat.sub_le ..) _).trans h
  have hw : StrmOk { strm s i with
      credits := (strm s i).credits - 1, words := (strm s i).words ++ [sw] } := by
    simp only [StrmOk, List.length_append, List.length_singleton] at h ⊢
    omega
  unfold sendWord
  dsimp only
  split
  · refine fits_modStrm_of hs ?_
    split <;> exact hd
  · refine fits_crossing _ _ _ (fits_modStrm_of hs ?_)
    split
    · exact strmOk_countDown hw
    · exact hw

@[simp] theorem fits_grant (i s) (hs : StreamsFit s) : StreamsFit (grant i s) := by
  unfold grant
  dsimp only
  split
  · split
    · simp [hs]
    · next hc => exact fits_grantPlaces _ _ (fits_sendWord _ _ _ (by simp [hs]) (by simpa using hc))
  · simp [hs]

theorem fits_popWord {i s p} (h : popWord i s = some p) (hs : StreamsFit s) : StreamsFit p.2 := by
  unfold popWord at h
  split at h
  · cases h
  · next e tl he =>
    cases h
    refine fits_grant _ _ (fits_modStrm_of hs ?_)
    have := hs.strm i
    simp only [StrmOk, he, List.length_cons] at this ⊢
    omega

theorem fits_windowPop {i s p} (h : windowPop i s = some p) (hs : StreamsFit s) : StreamsFit p.2 := by
  unfold windowPop at h
  split at h
  · cases h
  · cases h; simp [fits_popWord ‹_› hs]

@[simp] theorem fits_respond (rs s) : StreamsFit (respond rs s) ↔ StreamsFit s := Iff.rfl

@[simp] theorem fits_windowServe (i s) (hs : StreamsFit s) : StreamsFit (windowServe i s) := by
  unfold windowServe
  split
  · split
    · split
      · exact hs
      · simp [fits_windowPop ‹_› hs]
    · exact hs
  · exact hs

@[simp] theorem fits_grantServe (i s) (hs : StreamsFit s) : StreamsFit (grantServe i s) := by simp [grantServe, hs]

@[simp] theorem fits_acceptWord (i sw s) (hs : StreamsFit s) : StreamsFit (acceptWord i sw s) := by
  unfold acceptWord
  split
  · exact hs
  · exact fits_grantServe _ _ (fits_sendWord _ _ _ hs ‹_›)

@[simp] theorem fits_logRec (kind intr loc detail s) (hs : StreamsFit s) :
    StreamsFit (logRec kind intr loc detail s) := by
  unfold logRec; dsimp only
  have h (s : State) (hs : StreamsFit s) (w0 w1 w2 w3) : StreamsFit (acceptWord 3 w3 (acceptWord 3 w2
      (acceptWord 3 w1 (acceptWord 3 w0 s)))) := fits_acceptWord _ _ _ (fits_acceptWord _ _ _ (by simp [hs]))
  simp [h, hs]

@[simp] theorem fits_hit (k s) : StreamsFit (hit k s) ↔ StreamsFit s := Iff.rfl
@[simp] theorem fits_setMark (sp a b s) : StreamsFit (setMark sp a b s) ↔ StreamsFit s := by simp [setMark]

@[simp] theorem fits_checkGroup (sp a rq s) (hs : StreamsFit s) :
    StreamsFit (checkGroup sp a rq s) := by simp [checkGroup, hs]

@[simp] theorem fits_logParity (sp a m rq s) (hs : StreamsFit s) : StreamsFit (logParity sp a m rq s) := by
  unfold logParity; split <;> simp [hs]

@[simp] theorem fits_readWord (sp w lo n rq s) (hs : StreamsFit s) :
    StreamsFit (readWord sp w lo n rq s).2 := by simp [readWord, hs]

@[simp] theorem fits_readFuel (sp rq) : ∀ fuel a n s, StreamsFit s → StreamsFit (readFuel sp rq fuel a n s).2
  | 0, _, _, _, hs => hs
  | fuel + 1, a, n, s, hs => by simp [readFuel, fits_readFuel sp rq fuel, hs]

@[simp] theorem fits_readMem (sp a n rq s) (hs : StreamsFit s) :
    StreamsFit (readMem sp a n rq s).2 := fits_readFuel _ _ _ _ _ _ hs

@[simp] theorem fits_pathCheck (sp a rq s) (hs : StreamsFit s) :
    StreamsFit (pathCheck sp a rq s) := by simp [pathCheck, hs]

@[simp] theorem fits_pathOut (rq r) (hs : StreamsFit r.2) : StreamsFit (pathOut rq r).2 := by simp [pathOut, hs]

@[simp] theorem fits_writeChunk (sp a bs rq s) (hs : StreamsFit s) :
    StreamsFit (writeChunk sp a bs rq s) := by simp [writeChunk, hs]

@[simp] theorem fits_writeFuel (sp rq) : ∀ fuel a bs s, StreamsFit s → StreamsFit (writeFuel sp rq fuel a bs s)
  | 0, _, _, _, hs => hs
  | fuel + 1, a, bs, s, hs => by simp [writeFuel, fits_writeFuel sp rq fuel, hs]

@[simp] theorem fits_writeMem (sp a bs rq s) (hs : StreamsFit s) :
    StreamsFit (writeMem sp a bs rq s) := fits_writeFuel _ _ _ _ _ _ hs

@[simp] theorem fits_putWords (sp a ws rq s) (hs : StreamsFit s) : StreamsFit (putWords sp a ws rq s) :=
  fits_foldl _ _ hs fun _ _ => fits_writeMem _ _ _ _ _

@[simp] theorem fits_markRange (sp a n b s) : StreamsFit (markRange sp a n b s) ↔ StreamsFit s := by simp [markRange]

/-! ## EntryOps -/

@[simp] theorem fits_modEntry (id f s) : StreamsFit (modEntry id f s) ↔ StreamsFit s := Iff.rfl
@[simp] theorem fits_dropEntry (id s) : StreamsFit (dropEntry id s) ↔ StreamsFit s := Iff.rfl
@[simp] theorem fits_modQctx (k f s) : StreamsFit (modQctx k f s) ↔ StreamsFit s := Iff.rfl

/-! ## Xfer -/

@[simp] theorem fits_stgRead (a n rq s) (hs : StreamsFit s) : StreamsFit (stgRead a n rq s).2 := by
  unfold stgRead; dsimp only
  split
  · exact fits_readMem _ _ _ _ _ hs
  · exact fits_mk_snd (fits_readMem _ _ _ _ _ (fits_readMem _ _ _ _ _ hs))

@[simp] theorem fits_stgWrite (a bs rq s) (hs : StreamsFit s) :
    StreamsFit (stgWrite a bs rq s) := by simp [stgWrite, hs]

@[simp] theorem fits_bufRead (h off n rq s) (hs : StreamsFit s) :
    StreamsFit (bufRead h off n rq s).2 := by simp [bufRead, hs]

@[simp] theorem fits_bufWrite (h off bs rq s) (hs : StreamsFit s) :
    StreamsFit (bufWrite h off bs rq s) := by simp [bufWrite, hs]

@[simp] theorem fits_modXfer (x f s) : StreamsFit (modXfer x f s) ↔ StreamsFit s := Iff.rfl
@[simp] theorem fits_modDsc (x i f s) : StreamsFit (modDsc x i f s) ↔ StreamsFit s := by simp [modDsc]
@[simp] theorem fits_dropXfer (x s) : StreamsFit (dropXfer x s) ↔ StreamsFit s := Iff.rfl
@[simp] theorem fits_issueFm (r s) : StreamsFit (issueFm r s) ↔ StreamsFit s := Iff.rfl

@[simp] theorem fits_xferBytes (x off n s) (hs : StreamsFit s) : StreamsFit (xferBytes x off n s).2 := by
  unfold xferBytes; split <;> simp [hs]

@[simp] theorem fits_issueTxn (r i j s) (hs : StreamsFit s) : StreamsFit (issueTxn r i j s) := by
  unfold issueTxn
  (repeat' split) <;> simp [hs]

@[simp] theorem fits_doWork (r w s) (hs : StreamsFit s) : StreamsFit (doWork r w s) := by
  unfold doWork
  split
  · exact hs
  · cases w with
    | desc | data => simp [hs]
    | word2 | word3 =>
      dsimp only [modXfer]
      split
      · simp [hs]
      · split <;> simp [hs]

theorem fits_dmaNext {e s u} (h : dmaNext e s = some u) (hs : StreamsFit s) : StreamsFit u := by
  unfold dmaNext at h
  split at h
  · cases h
  · split at h
    · cases h; simp [hs]
    · obtain ⟨w, -, rfl⟩ := Option.map_eq_some_iff.1 h
      simp [hs]

theorem fits_fmStep {e s u} (h : fmStep e s = some u) (hs : StreamsFit s) : StreamsFit u := by
  unfold fmStep at h
  split at h
  · cases h
  · dsimp only at h
    split at h
    · split at h
      · cases h; simp [hs]
      · obtain ⟨w, hw, rfl⟩ := Option.map_eq_some_iff.1 h
        simp [fits_dmaNext hw, hs]
    · obtain ⟨w, hw, rfl⟩ := Option.map_eq_some_iff.1 h
      simp [fits_dmaNext hw, hs]

@[simp] theorem fits_fmGo (e) : ∀ fuel s, StreamsFit s → StreamsFit (fmGo e fuel s)
  | 0, _, hs => hs
  | fuel + 1, s, hs => by
    unfold fmGo
    split
    · exact fits_fmGo e fuel _ (fits_fmStep ‹_› hs)
    · exact hs

@[simp] theorem fits_pumpEng (e s) (hs : StreamsFit s) : StreamsFit (pumpEng e s) := by simp [pumpEng, hs]
@[simp] theorem fits_issueQe (r s) (hs : StreamsFit s) : StreamsFit (issueQe r s) := by simp [issueQe, hs]
@[simp] theorem fits_joinEng (e s) : StreamsFit (joinEng e s) ↔ StreamsFit s := by simp [joinEng]

@[simp] theorem fits_startXfer (id sq toBlock dmode daddr dlen frags h s) (hs : StreamsFit s) :
    StreamsFit (startXfer id sq toBlock dmode daddr dlen frags h s) := by simp [startXfer, hs]

/-! ## Threads -/

@[simp] theorem fits_operand (c t r s) : StreamsFit (operand c t r s).2 ↔ StreamsFit s := by simp [operand]
@[simp] theorem fits_finishWait (c t rd v s) : StreamsFit (finishWait c t rd v s) ↔ StreamsFit s := by simp [finishWait]
@[simp] theorem fits_hold (c t w s) : StreamsFit (hold c t w s) ↔ StreamsFit s := by simp [hold]

/-! ## Hawk -/

@[simp] theorem fits_rebuildPool (k s) : StreamsFit (rebuildPool k s) ↔ StreamsFit s := by simp [rebuildPool]
@[simp] theorem fits_rebuildPools (s) : StreamsFit (rebuildPools s) ↔ StreamsFit s := by simp [rebuildPools]
@[simp] theorem fits_lowCheck (k before s) : StreamsFit (lowCheck k before s) ↔ StreamsFit s := by simp [lowCheck]

@[simp] theorem fits_popBuffer (k s) : StreamsFit (popBuffer k s).2 ↔ StreamsFit s := by
  unfold popBuffer; split <;> simp

theorem fits_alloc {k fall s p} (h : alloc k fall s = some p) (hs : StreamsFit s) : StreamsFit p.2 := by
  unfold alloc at h
  split at h
  · cases h; simp [hs]
  · cases h

@[simp] theorem fits_joinWaiting (r s) : StreamsFit (joinWaiting r s) ↔ StreamsFit s := Iff.rfl

@[simp] theorem fits_deliver (w h s) (hs : StreamsFit s) : StreamsFit (deliver w h s) := by
  unfold deliver
  (repeat' split) <;> simp [hs]

@[simp] theorem fits_serve : ∀ rs kept s, StreamsFit s → StreamsFit (serve rs kept s)
  | [], _, _, hs => hs
  | r :: rs, kept, s, hs => by
    unfold serve
    split <;> simp [fits_serve rs, hs]

@[simp] theorem fits_serveWaiting (s) (hs : StreamsFit s) : StreamsFit (serveWaiting s) := by simp [serveWaiting, hs]
@[simp] theorem fits_badHandle (h s) : StreamsFit (badHandle h s) ↔ StreamsFit s := by simp [badHandle]

@[simp] theorem fits_freeBuffer (h only s) (hs : StreamsFit s) : StreamsFit (freeBuffer h only s) := by
  unfold freeBuffer; split <;> simp [hs]

@[simp] theorem fits_dropWaiter (w s) : StreamsFit (dropWaiter w s) ↔ StreamsFit s := Iff.rfl
@[simp] theorem fits_withholdStart (s) : StreamsFit (withholdStart s) ↔ StreamsFit s := by simp [withholdStart]
@[simp] theorem fits_withholdEnd (k s) (hs : StreamsFit s) : StreamsFit (withholdEnd k s) := by simp [withholdEnd, hs]

/-! ## Dma -/

@[simp] theorem fits_finishEntry (id status result s) : StreamsFit (finishEntry id status result s) ↔ StreamsFit s := by
  simp [finishEntry]

@[simp] theorem fits_freeEntryBuffer (h s) (hs : StreamsFit s) :
    StreamsFit (freeEntryBuffer h s) := by simp [freeEntryBuffer, hs]

@[simp] theorem fits_endEntryXfer (id x s) (hs : StreamsFit s) : StreamsFit (endEntryXfer id x s) := by
  unfold endEntryXfer; dsimp only
  (repeat' split) <;> simp [hs]

@[simp] theorem fits_stopStream (e reason s) : StreamsFit (stopStream e reason s) ↔ StreamsFit s := by simp [stopStream]

@[simp] theorem fits_streamSettled (e i err s) : StreamsFit (streamSettled e i err s) ↔ StreamsFit s := by
  unfold streamSettled
  (repeat' split) <;> simp

@[simp] theorem fits_closeXfer (r s) (hs : StreamsFit s) : StreamsFit (closeXfer r s) := by
  unfold closeXfer
  (repeat' split) <;> simp [hs]

@[simp] theorem fits_stepXfer (r s) (hs : StreamsFit s) : StreamsFit (stepXfer r s) := by
  unfold stepXfer; split <;> simp [hs]

theorem fits_takeFm {who s p} (h : takeFm who s = some p) (hs : StreamsFit s) : StreamsFit p.2 := by
  unfold takeFm at h
  split at h
  · cases h; exact hs
  · cases h

theorem fits_takeFmAt {who n s p} (h : takeFmAt who n s = some p) (hs : StreamsFit s) : StreamsFit p.2 := by
  obtain ⟨r, -, rfl⟩ := Option.map_eq_some_iff.1 h
  exact hs

@[simp] theorem fits_earlyFault (r reason index s) :
    StreamsFit (earlyFault r reason index s) ↔ StreamsFit s := by simp [earlyFault]

@[simp] theorem fits_listNext (r n a s) : StreamsFit (listNext r n a s) ↔ StreamsFit s := by simp [listNext]

@[simp] theorem fits_entryDescRead (id resp s) : StreamsFit (entryDescRead id resp s) ↔ StreamsFit s := by
  unfold entryDescRead; dsimp only
  (repeat' split) <;> simp

@[simp] theorem fits_addStream (e ds bytes due s) : StreamsFit (addStream e ds bytes due s) ↔ StreamsFit s := by
  unfold addStream; split <;> simp

@[simp] theorem fits_refuseStream (e reason d s) (hs : StreamsFit s) :
    StreamsFit (refuseStream e reason d s) := by simp [refuseStream, hs]

@[simp] theorem fits_streamDescRead (e resp s) (hs : StreamsFit s) : StreamsFit (streamDescRead e resp s) := by
  unfold streamDescRead; dsimp only
  (repeat' split) <;> simp [hs]

@[simp] theorem fits_descReadDone (x resp s) (hs : StreamsFit s) : StreamsFit (descReadDone x resp s) := by
  unfold descReadDone
  split
  · exact hs
  · rename_i h
    have hu := fits_takeFm h hs
    cases x
    · exact fits_stepXfer _ _ (by simp [hu])
    · simp [hu]

@[simp] theorem fits_setTxn (x i j t p s) : StreamsFit (setTxn x i j t p s) ↔ StreamsFit s := by simp [setTxn]

@[simp] theorem fits_popWords (i) : ∀ n s, StreamsFit s → StreamsFit (popWords i n s)
  | 0, _, hs => hs
  | n + 1, s, hs => by
    unfold popWords
    split
    · exact fits_popWords i n _ (fits_popWord ‹_› hs)
    · exact hs

@[simp] theorem fits_dataResponse (x i j resp s) (hs : StreamsFit s) : StreamsFit (dataResponse x i j resp s) := by
  unfold dataResponse
  split
  · split
    · exact hs
    · rename_i h _ _ _ _
      have hu := fits_takeFm h hs
      dsimp only at hu ⊢
      split
      · exact fits_stepXfer _ _ (by cases x <;> simp [hu])
      · split
        · exact hs
        · exact fits_stepXfer _ _ (by simp [hu])
      · exact fits_stepXfer _ _ (by cases x <;> simp [hu])
      · exact hs
  · exact hs

@[simp] theorem fits_endWback (x i wb err s) : StreamsFit (endWback x i wb err s) ↔ StreamsFit s := by
  unfold endWback; dsimp only
  split <;> simp

@[simp] theorem fits_wbackResponse (x i err s) (hs : StreamsFit s) : StreamsFit (wbackResponse x i err s) := by
  unfold wbackResponse
  split
  · have hu := fits_takeFm ‹_› hs
    split
    · exact hu
    · simp [hu]
  · exact hs

@[simp] theorem fits_streamBurst (e s) (hs : StreamsFit s) : StreamsFit (streamBurst e s) := by simp [streamBurst, hs]
@[simp] theorem fits_senableSet (e s) (hs : StreamsFit s) : StreamsFit (senableSet e s) := by simp [senableSet, hs]
@[simp] theorem fits_senableClear (e s) : StreamsFit (senableClear e s) ↔ StreamsFit s := by simp [senableClear]
@[simp] theorem fits_sdoor (e s) (hs : StreamsFit s) : StreamsFit (sdoor e s) := by simp [sdoor, hs]

/-! ## LathBase -/

@[simp] theorem fits_modLport (x f s) : StreamsFit (modLport x f s) ↔ StreamsFit s := Iff.rfl

@[simp] theorem fits_lathEvent (kind port node s) :
    StreamsFit (lathEvent kind port node s) ↔ StreamsFit s := by simp [lathEvent]

@[simp] theorem fits_discardFrame (s) : StreamsFit (discardFrame s) ↔ StreamsFit s := Iff.rfl
@[simp] theorem fits_startTimers (tags s) : StreamsFit (startTimers tags s) ↔ StreamsFit s := by simp [startTimers]
@[simp] theorem fits_giveBack (x b n s) : StreamsFit (giveBack x b n s) ↔ StreamsFit s := by simp [giveBack]
@[simp] theorem fits_giveQueued (q s) : StreamsFit (giveQueued q s) ↔ StreamsFit s := by simp [giveQueued]
@[simp] theorem fits_trainStart (x s) : StreamsFit (trainStart x s) ↔ StreamsFit s := by simp [trainStart]
@[simp] theorem fits_trainAll (s) : StreamsFit (trainAll s) ↔ StreamsFit s := by simp [trainAll]
@[simp] theorem fits_pumpLath (x s) : StreamsFit (pumpLath x s) ↔ StreamsFit s := by simp [pumpLath]
@[simp] theorem fits_enqueue (x q s) : StreamsFit (enqueue x q s) ↔ StreamsFit s := by simp [enqueue]

@[simp] theorem fits_sendRoute (mode port route f s) : StreamsFit (sendRoute mode port route f s) ↔ StreamsFit s := by
  unfold sendRoute
  (repeat' split) <;> simp

@[simp] theorem fits_sendNode (n f s) : StreamsFit (sendNode n f s) ↔ StreamsFit s := by
  unfold sendNode; split <;> simp

@[simp] theorem fits_sendData (n cls tag) : ∀ fuel bs s, StreamsFit (sendData n cls tag fuel bs s) ↔ StreamsFit s
  | 0, _, _ => Iff.rfl
  | fuel + 1, bs, s => by simp [sendData, fits_sendData n cls tag fuel]

@[simp] theorem fits_sendComplete (src tag status result data s) :
    StreamsFit (sendComplete src tag status result data s) ↔ StreamsFit s := by simp [sendComplete]

end Sys2Proof.Machine
end

section
/-! SUPPORT. Threads, calibration, queue contexts, the fence and micro-routines keep streams that fit. -/

namespace Sys2Proof.Machine

open Sys2Proof

/-! ## Operands -/

@[simp] theorem fits_fetchInstr (q i s) (hs : StreamsFit s) : StreamsFit (fetchInstr q i s).2 := by
  unfold fetchInstr
  (repeat' split) <;> simp [hs]

@[simp] theorem fits_wantCalib (c s) : StreamsFit (wantCalib c s) ↔ StreamsFit s := by simp [wantCalib]
@[simp] theorem fits_toIdle (c t s) : StreamsFit (toIdle c t s) ↔ StreamsFit s := by simp [toIdle]

@[simp] theorem fits_closePacket (c t s) (hs : StreamsFit s) :
    StreamsFit (closePacket c t s).2 := by simp [closePacket, hs]

@[simp] theorem fits_endHost (e h st res s) (hs : StreamsFit s) :
    StreamsFit (endHost e h st res s) := by simp [endHost, hs]

@[simp] theorem fits_endRemote (e src tag port h st res s) (hs : StreamsFit s) :
    StreamsFit (endRemote e src tag port h st res s) := by
  simp [endRemote, hs]

@[simp] theorem fits_endFetch (e h st s) (hs : StreamsFit s) : StreamsFit (endFetch e h st s) := by simp [endFetch, hs]

@[simp] theorem fits_endEntry (c t id st res s) (hs : StreamsFit s) : StreamsFit (endEntry c t id st res s) := by
  unfold endEntry
  (repeat' split) <;> simp [hs]

@[simp] theorem fits_noteOut (c t o b k s) : StreamsFit (noteOut c t o b k s) ↔ StreamsFit s := by simp [noteOut]
@[simp] theorem fits_judgePrio (c th p s) : StreamsFit (judgePrio c th p s) ↔ StreamsFit s := by simp [judgePrio]
@[simp] theorem fits_mapLevels (d s) : StreamsFit (mapLevels d s) ↔ StreamsFit s := by simp [mapLevels]
@[simp] theorem fits_fillTable (c j s) : StreamsFit (fillTable c j s) ↔ StreamsFit s := by simp [fillTable]
@[simp] theorem fits_initLeaves (c s) : StreamsFit (initLeaves c s) ↔ StreamsFit s := by simp [initLeaves]

@[simp] theorem fits_libLeaves (op c e st s) : StreamsFit (libLeaves op c e st s) ↔ StreamsFit s := by
  unfold libLeaves; split <;> simp

@[simp] theorem fits_endLeaves (c th st s) : StreamsFit (endLeaves c th st s) ↔ StreamsFit s := by
  unfold endLeaves
  (repeat' split) <;> simp

@[simp] theorem fits_tryEnd (c t s) (hs : StreamsFit s) : StreamsFit (tryEnd c t s) := by
  unfold tryEnd; dsimp only
  (repeat' split) <;> simp [hs]

@[simp] theorem fits_setEnding (c t st res s) :
    StreamsFit (setEnding c t st res s) ↔ StreamsFit s := by simp [setEnding]

@[simp] theorem fits_recordFault (c t code pc s) :
    StreamsFit (recordFault c t code pc s) ↔ StreamsFit s := by simp [recordFault]

@[simp] theorem fits_eventWords (c t code pc detail s) (hs : StreamsFit s) :
    StreamsFit (eventWords c t code pc detail s) := by
  simp [eventWords, hs]

@[simp] theorem fits_endByEvent (c t code pc s) (hs : StreamsFit s) :
    StreamsFit (endByEvent c t code pc s) := by simp [endByEvent, hs]

@[simp] theorem fits_raiseEvent (c t code detail pc s) (hs : StreamsFit s) :
    StreamsFit (raiseEvent c t code detail pc s) := by
  unfold raiseEvent; dsimp only
  split <;> simp [hs]

@[simp] theorem fits_recognise (c t s) (hs : StreamsFit s) : StreamsFit (recognise c t s) := by simp [recognise, hs]

@[simp] theorem fits_applyEff (c t e) (hs : EffFits e) : StreamsFit (applyEff c t e) := by
  cases e <;> simp at hs <;> simp [applyEff, hs]

@[simp] theorem fits_issue (c t key sem s) (h : ∀ w s, StreamsFit s → EffFits (sem w s)) (hs : StreamsFit s) :
    StreamsFit (issue c t key sem s) := by
  unfold issue
  extract_lets f s'
  have hs' : StreamsFit s' := by simp [s', f, hs]
  clear_value s'
  split
  · exact hs
  · split
    · simp [hs]
    · split <;> simp [h, hs, hs']

@[simp] theorem fits_retry (c t key s sem) (h : ∀ w, EffFits (sem w)) (hs : StreamsFit s) :
    StreamsFit (retry c t key s sem) := by
  simp [retry, h, hs]

@[simp] theorem effFits_formR (c t d f w s) (hs : StreamsFit s) : EffFits (formR c t d f w s) := by simp [formR, hs]
@[simp] theorem effFits_formI (c t d f w s) (hs : StreamsFit s) : EffFits (formI c t d f w s) := by simp [formI, hs]
@[simp] theorem effFits_formU (c t d f w s) (hs : StreamsFit s) : EffFits (formU c t d f w s) := by simp [formU, hs]

/-! ## Move -/

@[simp] theorem fits_locRead (sp a n rq s) (hs : StreamsFit s) :
    StreamsFit (locRead sp a n rq s).2 := by simp [locRead, hs]

@[simp] theorem fits_locWrite (sp a bs rq s) (hs : StreamsFit s) :
    StreamsFit (locWrite sp a bs rq s) := by simp [locWrite, hs]

@[simp] theorem fits_putWord (c t dp b moved dirty w s) (hs : StreamsFit s) :
    StreamsFit (putWord c t dp b moved dirty w s).2 := by
  simp [putWord, hs]

@[simp] theorem fits_copyWord (c t sp a moved ahead s) (hs : StreamsFit s) :
    StreamsFit (copyWord c t sp a moved ahead s).2 := by
  simp [copyWord, hs]

@[simp] theorem fits_pushWord (c t w em poison s) (hs : StreamsFit s) : StreamsFit (pushWord c t w em poison s) :=
  fits_modStrm _ _ _ (fits_acceptWord _ _ _ (by simp [hs])) fun _ => le_rfl

@[simp] theorem fits_unlockPop (c t i s) (hs : StreamsFit s) : StreamsFit (unlockPop c t i s) := by simp [unlockPop, hs]

@[simp] theorem fits_copyStep (c t sp a dp b moved ahead dirty s) (hs : StreamsFit s) :
    StreamsFit (copyStep c t sp a dp b moved ahead dirty s).s := by simp [copyStep, hs]

@[simp] theorem fits_pushStep (c t sp a moved last s) (hs : StreamsFit s) :
    StreamsFit (pushStep c t sp a moved last s).s := by
  unfold pushStep; dsimp only
  (repeat' split) <;> simp [hs]

@[simp] theorem fits_popStep (c t i dp b moved dirty s) (hs : StreamsFit s) :
    StreamsFit (popStep c t i dp b moved dirty s).s := by
  unfold popStep; dsimp only
  split
  · exact hs
  · split
    · simp [hs]
    · have h := fits_popWord ‹_› (by simp [hs])
      simp [h]

@[simp] theorem fits_passStep (c t i moved em last s) (hs : StreamsFit s) :
    StreamsFit (passStep c t i moved em last s).s := by
  unfold passStep; dsimp only
  split
  · exact hs
  · split
    · simp [hs]
    · split
      · simp [hs]
      · split
        · simp [hs]
        · have h := fits_popWord ‹_› (by simp [hs])
          simp [h]

@[simp] theorem fits_moveWord (c t src dst n moved em ahead dirty s) (hs : StreamsFit s) :
    StreamsFit (moveWord c t src dst n moved em ahead dirty s).s := by
  unfold moveWord; split <;> simp [hs]

@[simp] theorem fits_moveUnlock (c t l s) (hs : StreamsFit s) : StreamsFit (moveUnlock c t l s) := by
  unfold moveUnlock; split <;> simp [hs]

@[simp] theorem effFits_moveGo (c t w ra rb len moved ahead dirty s) (hs : StreamsFit s) :
    EffFits (moveGo c t w ra rb len moved ahead dirty s) := by
  unfold moveGo
  generalize locOf s c ra len false = x
  generalize locOf s c rb len true = y
  cases x <;> cases y <;> simp [hs]

@[simp] theorem fits_readAhead (c t src dst n s) (hs : StreamsFit s) : StreamsFit (readAhead c t src dst n s).2 := by
  unfold readAhead; split <;> simp [hs]

@[simp] theorem effFits_semMove (c t w s) (hs : StreamsFit s) : EffFits (semMove c t w s) := by simp [semMove, hs]

@[simp] theorem fits_moveOn (c t s) (hs : StreamsFit s) : StreamsFit (moveOn c t s) := by
  unfold moveOn; split <;> simp [hs]

@[simp] theorem fits_copyRest (c t src dst ahead) : ∀ k moved dirty s,
    StreamsFit s → StreamsFit (copyRest c t src dst ahead k moved dirty s)
  | 0, _, _, _, hs => hs
  | k + 1, moved, dirty, s, hs => by simp [copyRest, fits_copyRest c t src dst ahead k, hs]

@[simp] theorem fits_moveHalted (c t ra rb len moved ahead dirty s) (hs : StreamsFit s) :
    StreamsFit (moveHalted c t ra rb len moved ahead dirty s) := by simp [moveHalted, hs]

/-! ## Calib -/

@[simp] theorem fits_modChRec (c f s) : StreamsFit (modChRec c f s) ↔ StreamsFit s := Iff.rfl
@[simp] theorem fits_modDieRec (i f s) : StreamsFit (modDieRec i f s) ↔ StreamsFit s := Iff.rfl
@[simp] theorem fits_modRtn (c t f s) : StreamsFit (modRtn c t f s) ↔ StreamsFit s := by simp [modRtn]
@[simp] theorem fits_staleCh (c s) : StreamsFit (staleCh c s) ↔ StreamsFit s := by simp [staleCh]
@[simp] theorem fits_staleDie (i s) : StreamsFit (staleDie i s) ↔ StreamsFit s := by simp [staleDie]
@[simp] theorem fits_staleAll (c s) : StreamsFit (staleAll c s) ↔ StreamsFit s := by simp [staleAll]
@[simp] theorem fits_drifts (now train s) : StreamsFit (drifts now train s).2 ↔ StreamsFit s := by simp [drifts]

@[simp] theorem fits_swapLine (c s) : StreamsFit (swapLine c s) ↔ StreamsFit s := by
  unfold swapLine; split <;> simp

@[simp] theorem fits_boundary (c s) : StreamsFit (boundary c s) ↔ StreamsFit s := by simp [boundary]
@[simp] theorem fits_atRest (c s) : StreamsFit (atRest c s) ↔ StreamsFit s := by simp [atRest]
@[simp] theorem fits_windowOpen (c s) : StreamsFit (windowOpen c s) ↔ StreamsFit s := by simp [windowOpen]
@[simp] theorem fits_measureEnd (c laps s) : StreamsFit (measureEnd c laps s) ↔ StreamsFit s := by simp [measureEnd]
@[simp] theorem fits_countCommit (c s) : StreamsFit (countCommit c s) ↔ StreamsFit s := by simp [countCommit]

@[simp] theorem fits_commitCh (c change ws s) :
    StreamsFit (commitCh c change ws s).2 ↔ StreamsFit s := by simp [commitCh]

@[simp] theorem fits_commitDie (i change ws s) :
    StreamsFit (commitDie i change ws s).2 ↔ StreamsFit s := by simp [commitDie]

@[simp] theorem effFits_semCalcommit (change c t w s) (hs : StreamsFit s) : EffFits (semCalcommit change c t w s) := by
  unfold semCalcommit; dsimp only
  (repeat' split) <;> simp [hs]

@[simp] theorem fits_writeReject (s) : StreamsFit (writeReject s) ↔ StreamsFit s := by simp [writeReject]
@[simp] theorem fits_writeSet (w v s) : StreamsFit (writeSet w v s) ↔ StreamsFit s := by simp [writeSet]

/-! ## PowerBase -/

@[simp] theorem fits_setOn (d b s) : StreamsFit (setOn d b s) ↔ StreamsFit s := Iff.rfl
@[simp] theorem fits_setReq (d b s) : StreamsFit (setReq d b s) ↔ StreamsFit s := Iff.rfl
@[simp] theorem fits_setIso (d b s) : StreamsFit (setIso d b s) ↔ StreamsFit s := Iff.rfl
@[simp] theorem fits_setWant (d b s) : StreamsFit (setWant d b s) ↔ StreamsFit s := Iff.rfl
@[simp] theorem fits_setDue (d l s) : StreamsFit (setDue d l s) ↔ StreamsFit s := Iff.rfl
@[simp] theorem fits_ask (d r s) : StreamsFit (ask d r s) ↔ StreamsFit s := by simp [ask]
@[simp] theorem fits_setOutcome (d x s) : StreamsFit (setOutcome d x s) ↔ StreamsFit s := Iff.rfl
@[simp] theorem fits_startUp (d s) : StreamsFit (startUp d s) ↔ StreamsFit s := by simp [startUp]

@[simp] theorem fits_stgPower (s) : StreamsFit (stgPower s) ↔ StreamsFit s := by
  unfold stgPower; split <;> simp

@[simp] theorem fits_stgUp (s) : StreamsFit (stgUp s) ↔ StreamsFit s := by simp [stgUp]

@[simp] theorem fits_powerUp (d s) : StreamsFit (powerUp d s) ↔ StreamsFit s := by
  unfold powerUp
  (repeat' split) <;> simp

@[simp] theorem fits_requestUp (d s) : StreamsFit (requestUp d s) ↔ StreamsFit s := by simp [requestUp]
@[simp] theorem fits_runWants (s) : StreamsFit (runWants s) ↔ StreamsFit s := by simp [runWants]

@[simp] theorem fits_returnSlot (c s) : StreamsFit (returnSlot c s) ↔ StreamsFit s := by
  unfold returnSlot; split <;> simp

@[simp] theorem fits_startDrain (d s) : StreamsFit (startDrain d s) ↔ StreamsFit s := by simp [startDrain]
@[simp] theorem fits_refuseStg (s) : StreamsFit (refuseStg s) ↔ StreamsFit s := by simp [refuseStg]

@[simp] theorem fits_sleepReq (d r s) : StreamsFit (sleepReq d r s) ↔ StreamsFit s := by
  unfold sleepReq; split <;> simp

@[simp] theorem fits_serveDue (d s) : StreamsFit (serveDue d s) ↔ StreamsFit s := by
  unfold serveDue; split <;> simp

@[simp] theorem fits_upDone (d s) : StreamsFit (upDone d s) ↔ StreamsFit s := by simp [upDone]
@[simp] theorem fits_noteWake (d s) : StreamsFit (noteWake d s) ↔ StreamsFit s := Iff.rfl
@[simp] theorem fits_autoWake (d s) : StreamsFit (autoWake d s) ↔ StreamsFit s := by simp [autoWake]
@[simp] theorem fits_meetWake (d s) : StreamsFit (meetWake d s) ↔ StreamsFit s := by simp [meetWake]
@[simp] theorem fits_wakeWins (d s) : StreamsFit (wakeWins d s).2 ↔ StreamsFit s := by simp [wakeWins]
@[simp] theorem fits_sleepWrite (d s) : StreamsFit (sleepWrite d s) ↔ StreamsFit s := by simp [sleepWrite]

/-! ## QueueBase -/

@[simp] theorem fits_issueCtxRead (k s) (hs : StreamsFit s) :
    StreamsFit (issueCtxRead k s) := by simp [issueCtxRead, hs]

@[simp] theorem fits_issueCtxWrite (k w ws s) (hs : StreamsFit s) :
    StreamsFit (issueCtxWrite k w ws s) := by simp [issueCtxWrite, hs]

@[simp] theorem fits_issueDue (k s) (hs : StreamsFit s) : StreamsFit (issueDue k s) :=
  fits_foldl _ _ (by simp [hs]) fun _ _ h => by simp [h]

@[simp] theorem fits_askCtx (k s) (hs : StreamsFit s) : StreamsFit (askCtx k s) := by simp [askCtx, hs]
@[simp] theorem fits_touch (k s) : StreamsFit (touch k s) ↔ StreamsFit s := by simp [touch]
@[simp] theorem fits_uncache (k s) : StreamsFit (uncache k s) ↔ StreamsFit s := by simp [uncache]

@[simp] theorem fits_evictOne (k s) (hs : StreamsFit s) : StreamsFit (evictOne k s) := by
  unfold evictOne; split <;> simp [hs]

@[simp] theorem fits_cacheIn (k s) (hs : StreamsFit s) : StreamsFit (cacheIn k s) := by simp [cacheIn, hs]
@[simp] theorem fits_ctxError (k s) : StreamsFit (ctxError k s) ↔ StreamsFit s := by simp [ctxError]
@[simp] theorem fits_idxMoved (k s) : StreamsFit (idxMoved k s) ↔ StreamsFit s := by simp [idxMoved]

@[simp] theorem fits_idxIssue (k s) (hs : StreamsFit s) : StreamsFit (idxIssue k s) := by
  unfold idxIssue
  (repeat' split) <;> simp [hs]

@[simp] theorem fits_badDoor (k s) : StreamsFit (badDoor k s) ↔ StreamsFit s := by simp [badDoor]
@[simp] theorem fits_endRound (k s) : StreamsFit (endRound k s) ↔ StreamsFit s := by simp [endRound]
@[simp] theorem fits_setDoor (k v s) : StreamsFit (setDoor k v s) ↔ StreamsFit s := by simp [setDoor]
@[simp] theorem fits_applyDoors (k s) : StreamsFit (applyDoors k s) ↔ StreamsFit s := by simp [applyDoors]
@[simp] theorem fits_closeCtx (k s) : StreamsFit (closeCtx k s) ↔ StreamsFit s := by simp [closeCtx]
@[simp] theorem fits_writeBack (k s) (hs : StreamsFit s) : StreamsFit (writeBack k s) := by simp [writeBack, hs]
@[simp] theorem fits_adminSettle (s) : StreamsFit (adminSettle s) ↔ StreamsFit s := by simp [adminSettle]
@[simp] theorem fits_qctlDone (k s) : StreamsFit (qctlDone k s) ↔ StreamsFit s := by simp [qctlDone]
@[simp] theorem fits_stopEnd (k s) (hs : StreamsFit s) : StreamsFit (stopEnd k s) := by simp [stopEnd, hs]

@[simp] theorem fits_runStops (k) : ∀ fuel s, StreamsFit s → StreamsFit (runStops k fuel s)
  | 0, _, hs => hs
  | fuel + 1, s, hs => by
    unfold runStops
    split <;> simp [fits_runStops k fuel, hs]

@[simp] theorem fits_tryStop (k s) (hs : StreamsFit s) : StreamsFit (tryStop k s) := fits_runStops _ _ _ hs

@[simp] theorem fits_disableSq (k wait s) (hs : StreamsFit s) :
    StreamsFit (disableSq k wait s) := by simp [disableSq, hs]

@[simp] theorem fits_waitStop (k id s) : StreamsFit (waitStop k id s) ↔ StreamsFit s := by simp [waitStop]
@[simp] theorem fits_stallCq (q s) : StreamsFit (stallCq q s) ↔ StreamsFit s := by simp [stallCq]

@[simp] theorem fits_drainCq (q) : ∀ fuel s, StreamsFit s → StreamsFit (drainCq q fuel s)
  | 0, _, hs => hs
  | fuel + 1, s, hs => by
    unfold drainCq; dsimp only
    split <;> simp [fits_drainCq q fuel, hs]

@[simp] theorem fits_drain (q s) (hs : StreamsFit s) : StreamsFit (drain q s) := by simp [drain, hs]
@[simp] theorem fits_putCpl (p s) (hs : StreamsFit s) : StreamsFit (putCpl p s) := by simp [putCpl, hs]
@[simp] theorem fits_passFrontier (sq s) : StreamsFit (passFrontier sq s) ↔ StreamsFit s := Iff.rfl

@[simp] theorem fits_postBatch (sq s) (hs : StreamsFit s) : StreamsFit (postBatch sq s) := by
  unfold postBatch; dsimp only
  split <;> simp [hs]

@[simp] theorem fits_haltThread (c t s) (hs : StreamsFit s) : StreamsFit (haltThread c t s) := by
  unfold haltThread; dsimp only
  (repeat' split) <;> simp [hs]

@[simp] theorem fits_haltThreads (s) (hs : StreamsFit s) : StreamsFit (haltThreads s) :=
  fits_foldl _ _ hs fun _ _ h => fits_foldl _ _ h fun _ _ h => fits_haltThread _ _ _ h

@[simp] theorem fits_halt (cause sq index words isRem s) (hs : StreamsFit s) :
    StreamsFit (halt cause sq index words isRem s) := by
  simp [halt, hs]

@[simp] theorem fits_ringDoor (k v s) (hs : StreamsFit s) : StreamsFit (ringDoor k v s) := by simp [ringDoor, hs]
@[simp] theorem fits_doorbell (k v s) (hs : StreamsFit s) : StreamsFit (doorbell k v s) := by simp [doorbell, hs]
@[simp] theorem fits_ctxReady (k s) (hs : StreamsFit s) : StreamsFit (ctxReady k s) := by simp [ctxReady, hs]

/-! ## Scratch -/

@[simp] theorem effFits_scratchAt (c t w s k) (h : ∀ a n x s, StreamsFit s → EffFits (k a n x s)) (hs : StreamsFit s) :
    EffFits (scratchAt c t w s k) := by
  simp [scratchAt, h, hs]

@[simp] theorem effFits_semLd (c t w s) (hs : StreamsFit s) : EffFits (semLd c t w s) :=
  effFits_scratchAt _ _ _ _ _ (fun _ _ _ _ h => h) hs

@[simp] theorem effFits_semLds (c t w s) (hs : StreamsFit s) : EffFits (semLds c t w s) :=
  effFits_scratchAt _ _ _ _ _ (fun _ _ _ _ h => h) hs

@[simp] theorem fits_putScratch (c t a n v s) (hs : StreamsFit s) :
    StreamsFit (putScratch c t a n v s) := by simp [putScratch, hs]

@[simp] theorem effFits_semSt (c t w s) (hs : StreamsFit s) : EffFits (semSt c t w s) := by simp [semSt, hs]

@[simp] theorem effFits_semSwap (c t w s) (hs : StreamsFit s) : EffFits (semSwap c t w s) :=
  effFits_scratchAt _ _ _ _ _ (fun _ _ _ _ h => by simp [h]) hs

@[simp] theorem effFits_semFadd (c t w s) (hs : StreamsFit s) : EffFits (semFadd c t w s) :=
  effFits_scratchAt _ _ _ _ _ (fun _ _ _ _ h => by simp [h]) hs

/-! ## Codec -/

@[simp] theorem fits_cwRead (c buf off n rq s) (hs : StreamsFit s) :
    StreamsFit (cwRead c buf off n rq s).2 := by simp [cwRead, hs]

@[simp] theorem fits_cwWrite (c buf off bs rq s) (hs : StreamsFit s) :
    StreamsFit (cwWrite c buf off bs rq s) := by simp [cwWrite, hs]

@[simp] theorem fits_cwGood (c buf user rq s) (hs : StreamsFit s) :
    StreamsFit (cwGood c buf user rq s) := by simp [cwGood, hs]

@[simp] theorem fits_cwPoison (c buf s) : StreamsFit (cwPoison c buf s) ↔ StreamsFit s := by simp [cwPoison]

@[simp] theorem fits_cwReport (c buf w rq s) (hs : StreamsFit s) :
    StreamsFit (cwReport c buf w rq s) := by simp [cwReport, hs]

@[simp] theorem fits_freeBytes : ∀ n s, StreamsFit (freeBytes n s).2 ↔ StreamsFit s
  | 0, _ => Iff.rfl
  | n + 1, s => by simp [freeBytes, fits_freeBytes n]

/-! ## Fence -/

@[simp] theorem fits_fenceRead (c t j f s) (hs : StreamsFit s) :
    StreamsFit (fenceRead c t j f s).2 := by simp [fenceRead, hs]

@[simp] theorem fits_fenceWrite (c t j f v s) (hs : StreamsFit s) :
    StreamsFit (fenceWrite c t j f v s) := by simp [fenceWrite, hs]

@[simp] theorem fits_fenceReads (c t j) : ∀ fs s, StreamsFit s → StreamsFit (fenceReads c t j fs s).2
  | [], _, hs => hs
  | f :: fs, s, hs => by simp [fenceReads, fits_fenceReads c t j fs, hs]

@[simp] theorem fits_fenceWrites (c t j v fs s) (hs : StreamsFit s) : StreamsFit (fenceWrites c t j v fs s) :=
  fits_foldl _ _ hs fun _ _ h => fits_fenceWrite _ _ _ _ _ _ h

@[simp] theorem fits_fenceAccept (c t cls j a m s) (hs : StreamsFit s) :
    StreamsFit (fenceAccept c t cls j a m s).2 := by
  unfold fenceAccept; split <;> simp [hs]

@[simp] theorem fits_fenceOpen (c t j a m s) (hs : StreamsFit s) : StreamsFit (fenceOpen c t j a m s) := by
  unfold fenceOpen; split <;> simp [hs]

@[simp] theorem fits_fillRegion (c s) (hs : StreamsFit s) : StreamsFit (fillRegion c s) := by simp [fillRegion, hs]

/-! ## Plumb -/

@[simp] theorem fits_modPlb (c f s) : StreamsFit (modPlb c f s) ↔ StreamsFit s := by simp [modPlb]
@[simp] theorem fits_plbResetDie (c j s) : StreamsFit (plbResetDie c j s) ↔ StreamsFit s := by simp [plbResetDie]

@[simp] theorem fits_plbFault (c j z l clamp s) :
    StreamsFit (plbFault c j z l clamp s) ↔ StreamsFit s := by simp [plbFault]

@[simp] theorem fits_plbTrack (c j z l isOver s) :
    StreamsFit (plbTrack c j z l isOver s).2 ↔ StreamsFit s := by simp [plbTrack]

@[simp] theorem fits_plbLevel (c j z ty r01 r10 l s) : StreamsFit (plbLevel c j z ty r01 r10 l s) ↔ StreamsFit s := by
  simp [plbLevel]

@[simp] theorem fits_plbSample (c j z ty r01 r10 s) : StreamsFit (plbSample c j z ty r01 r10 s) ↔ StreamsFit s := by
  simp [plbSample]

@[simp] theorem effFits_semPlbrd (c t w s) (hs : StreamsFit s) : EffFits (semPlbrd c t w s) := by simp [semPlbrd, hs]
@[simp] theorem effFits_semPlbwr (c t w s) (hs : StreamsFit s) : EffFits (semPlbwr c t w s) := by simp [semPlbwr, hs]
@[simp] theorem effFits_semPlbrst (c t w s) (hs : StreamsFit s) : EffFits (semPlbrst c t w s) := by simp [semPlbrst, hs]

@[simp] theorem effFits_semPlbfrz (b c t w s) (hs : StreamsFit s) :
    EffFits (semPlbfrz b c t w s) := by simp [semPlbfrz, hs]

/-! ## Signal -/

@[simp] theorem fits_setCe (c j low s) : StreamsFit (setCe c j low s) ↔ StreamsFit s := by simp [setCe]
@[simp] theorem fits_setCycle (c d x s) : StreamsFit (setCycle c d x s) ↔ StreamsFit s := by simp [setCycle]
@[simp] theorem fits_idlePins (c s) : StreamsFit (idlePins c s) ↔ StreamsFit s := by simp [idlePins]
@[simp] theorem fits_quietPins (c s) : StreamsFit (quietPins c s) ↔ StreamsFit s := by simp [quietPins]
@[simp] theorem fits_inertPins (c s) : StreamsFit (inertPins c s) ↔ StreamsFit s := by simp [inertPins]

/-! ## ThreadOps -/

@[simp] theorem effFits_semFeat (c t w s) (hs : StreamsFit s) : EffFits (semFeat c t w s) := by simp [semFeat, hs]
@[simp] theorem effFits_semTime (_c _t w s) (hs : StreamsFit s) : EffFits (semTime _c _t w s) := by simp [semTime, hs]
@[simp] theorem effFits_semWaitt (c t w s) (hs : StreamsFit s) : EffFits (semWaitt c t w s) := by simp [semWaitt, hs]
@[simp] theorem effFits_semWaite (c t w s) (hs : StreamsFit s) : EffFits (semWaite c t w s) := by simp [semWaite, hs]

@[simp] theorem fits_releaseWaits (c) : ∀ ts s, StreamsFit (releaseWaits c ts s) ↔ StreamsFit s
  | [], _ => Iff.rfl
  | t :: ts, s => by
    unfold releaseWaits
    split <;> simp [fits_releaseWaits c ts]

@[simp] theorem effFits_semSigset (c _t w s) (hs : StreamsFit s) :
    EffFits (semSigset c _t w s) := by simp [semSigset, hs]

@[simp] theorem effFits_semNop (_c _t _w s) (hs : StreamsFit s) : EffFits (semNop _c _t _w s) := by simp [semNop, hs]

@[simp] theorem effFits_semDopw (c t w s) (hs : StreamsFit s) : EffFits (semDopw c t w s) := by
  unfold semDopw; split <;> simp [hs]

@[simp] theorem fits_wakeDopw (c t s) (hs : StreamsFit s) : StreamsFit (wakeDopw c t s) := by
  unfold wakeDopw; split <;> simp [hs]

@[simp] theorem effFits_semDopt (c t w s) (hs : StreamsFit s) : EffFits (semDopt c t w s) := by simp [semDopt, hs]
@[simp] theorem effFits_semPrgr (c t w s) (hs : StreamsFit s) : EffFits (semPrgr c t w s) := by simp [semPrgr, hs]

@[simp] theorem effFits_semHalloc (c t w s) (hs : StreamsFit s) : EffFits (semHalloc c t w s) := by
  unfold semHalloc; dsimp only
  split
  · exact fits_alloc ‹_› hs
  · simp [hs]

@[simp] theorem effFits_semHfree (c t w s) (hs : StreamsFit s) : EffFits (semHfree c t w s) := by simp [semHfree, hs]
@[simp] theorem effFits_semEnd (c t w s) (hs : StreamsFit s) : EffFits (semEnd c t w s) := by simp [semEnd, hs]

/-! ## MicroBase -/

@[simp] theorem fits_fetchStore (c disp i s) (hs : StreamsFit s) : StreamsFit (fetchStore c disp i s).2 := by
  unfold fetchStore; dsimp only
  (repeat' split) <;> simp [hs]

@[simp] theorem fits_refuseWord (c i s) (hs : StreamsFit s) : StreamsFit (refuseWord c i s) := by simp [refuseWord, hs]
@[simp] theorem fits_setLast (c j x s) : StreamsFit (setLast c j x s) ↔ StreamsFit s := by simp [setLast]

@[simp] theorem fits_refuseDop (c t k j code s) :
    StreamsFit (refuseDop c t k j code s) ↔ StreamsFit s := by simp [refuseDop]

@[simp] theorem fits_acceptDop (c t w ra rb ent cls s) :
    StreamsFit (acceptDop c t w ra rb ent cls s) ↔ StreamsFit s := by
  simp [acceptDop]

@[simp] theorem effFits_dopGo (c t w ra rb go s) (h : ∀ s, StreamsFit s → EffFits (go s)) (hs : StreamsFit s) :
    EffFits (dopGo c t w ra rb go s) := by
  unfold dopGo; dsimp only
  split
  · simp [hs]
  · split <;> simp [h, hs]

@[simp] theorem effFits_semDop (c t w s) (hs : StreamsFit s) : EffFits (semDop c t w s) :=
  effFits_dopGo _ _ _ _ _ _ _ (fun _ h => h) (by simp [hs])

@[simp] theorem fits_dopRetry (c t s) (hs : StreamsFit s) : StreamsFit (dopRetry c t s) := by
  unfold dopRetry
  split
  · exact fits_retry _ _ _ _ _ (fun _ => effFits_dopGo _ _ _ _ _ _ _ (fun _ => effFits_waited0.2) hs) hs
  · exact hs

@[simp] theorem fits_dopRetries (c s) (hs : StreamsFit s) : StreamsFit (dopRetries c s) :=
  fits_foldl _ _ hs fun _ _ h => fits_dopRetry _ _ _ h

@[simp] theorem fits_releaseHeld (c t j by_ engine s) : StreamsFit (releaseHeld c t j by_ engine s) ↔ StreamsFit s := by
  simp [releaseHeld]

@[simp] theorem fits_trainState (c r s) : StreamsFit (trainState c r s) ↔ StreamsFit s := by simp [trainState]
@[simp] theorem fits_leaveBus (c s) : StreamsFit (leaveBus c s) ↔ StreamsFit s := by simp [leaveBus]

@[simp] theorem fits_endRoutine (c t by_ s) (hs : StreamsFit s) : StreamsFit (endRoutine c t by_ s) := by
  unfold endRoutine; dsimp only
  (repeat' split) <;> simp [hs]

@[simp] theorem fits_outcomeWrite (c t s) (hs : StreamsFit s) : StreamsFit (outcomeWrite c t s) := by
  unfold outcomeWrite
  split
  · exact hs
  · split
    · exact hs
    · exact fits_tryEnd _ _ _ (fits_dopRetry _ _ _ (by simp [hs]))

@[simp] theorem fits_newOrder (c s) : StreamsFit (newOrder c s).2 ↔ StreamsFit s := by simp [newOrder]

@[simp] theorem fits_unpark (c t s) : StreamsFit (unpark c t s) ↔ StreamsFit s := by
  unfold unpark; split <;> simp

@[simp] theorem fits_parkExpiry (c t s) : StreamsFit (parkExpiry c t s) ↔ StreamsFit s := by
  unfold parkExpiry; split <;> simp

@[simp] theorem fits_readyTimeout (c t s) : StreamsFit (readyTimeout c t s) ↔ StreamsFit s := by
  unfold readyTimeout; split <;> simp

@[simp] theorem fits_routineKill (c t s) (hs : StreamsFit s) : StreamsFit (routineKill c t s) := by
  unfold routineKill; split <;> simp [hs]

end Sys2Proof.Machine
end

section
/-! SUPPORT. The queue engine, the Primer, the decoders, microcode, power and Render keep streams that fit. -/

namespace Sys2Proof.Machine

open Sys2Proof

/-! ## QueueEngine -/

@[simp] theorem fits_qctlRefuse (reason s) : StreamsFit (qctlRefuse reason s) ↔ StreamsFit s := Iff.rfl

@[simp] theorem fits_enableCtx (k n ws s) (hs : StreamsFit s) :
    StreamsFit (enableCtx k n ws s) := by simp [enableCtx, hs]

@[simp] theorem fits_qctlEnable (k ws s) (hs : StreamsFit s) : StreamsFit (qctlEnable k ws s) := by
  unfold qctlEnable; split <;> simp [hs]

@[simp] theorem fits_disableCq (k s) (hs : StreamsFit s) : StreamsFit (disableCq k s) := by simp [disableCq, hs]
@[simp] theorem fits_qctl (cmd cq q s) (hs : StreamsFit s) : StreamsFit (qctl cmd cq q s) := by simp [qctl, hs]

@[simp] theorem fits_adminRefuse (id reason s) :
    StreamsFit (adminRefuse id reason s) ↔ StreamsFit s := by simp [adminRefuse]

@[simp] theorem fits_adminCtx (e k ws s) (hs : StreamsFit s) : StreamsFit (adminCtx e k ws s) := by
  unfold adminCtx; dsimp only
  (repeat' split) <;> simp [hs]

@[simp] theorem fits_haltCtx (k s) (hs : StreamsFit s) : StreamsFit (haltCtx k s) := by simp [haltCtx, hs]

@[simp] theorem fits_ctxGoOn (k ws s) (hs : StreamsFit s) : StreamsFit (ctxGoOn k ws s) := by
  unfold ctxGoOn; dsimp only
  split <;> simp [hs]

@[simp] theorem fits_ctxTaken (k ws s) (hs : StreamsFit s) : StreamsFit (ctxTaken k ws s) := by simp [ctxTaken, hs]
@[simp] theorem fits_ctxAgain (k s) (hs : StreamsFit s) : StreamsFit (ctxAgain k s) := by simp [ctxAgain, hs]
@[simp] theorem fits_qctlLost (k s) : StreamsFit (qctlLost k s) ↔ StreamsFit s := by simp [qctlLost]

@[simp] theorem fits_ctxReadDone (k resp s) (hs : StreamsFit s) : StreamsFit (ctxReadDone k resp s) := by
  unfold ctxReadDone
  split
  · exact hs
  · have h := fits_takeFm ‹_› hs
    dsimp only at h ⊢
    (repeat' split) <;> simp [h]

@[simp] theorem fits_ctxWriteResp (k n err s) (hs : StreamsFit s) : StreamsFit (ctxWriteResp k n err s) := by
  unfold ctxWriteResp
  split
  · exact hs
  · have hi := fits_issueDue k _ (fits_takeFmAt ‹_› hs)
    exact fits_pumpEng _ _ (by simp [hi])

@[simp] theorem fits_issueFetch (ring f s) (hs : StreamsFit s) :
    StreamsFit (issueFetch ring f s) := by simp [issueFetch, hs]

@[simp] theorem fits_fetchTurn (s) (hs : StreamsFit s) : StreamsFit (fetchTurn s) := by
  unfold fetchTurn; dsimp only
  split
  · exact hs
  · split
    · exact hs
    · split
      · simp [hs]
      · exact fits_foldl _ _ (by simp [hs]) fun _ _ h => fits_issueFetch _ _ _ h

@[simp] theorem fits_addEntry (e s) : StreamsFit (addEntry e s) ↔ StreamsFit s := Iff.rfl
@[simp] theorem fits_issueFrags (e s) (hs : StreamsFit s) : StreamsFit (issueFrags e s) := by simp [issueFrags, hs]
@[simp] theorem fits_admitEntry (e s) (hs : StreamsFit s) : StreamsFit (admitEntry e s) := by simp [admitEntry, hs]

@[simp] theorem fits_checkEntries (f ring) : ∀ i es s, StreamsFit s → StreamsFit (checkEntries f ring i es s)
  | _, [], _, hs => hs
  | i, ws :: rest, s, hs => by
    unfold checkEntries; dsimp only
    split <;> simp [fits_checkEntries f ring _ rest, hs]

@[simp] theorem fits_entryCheck (k resp s) (hs : StreamsFit s) : StreamsFit (entryCheck k resp s) := by
  unfold entryCheck
  split
  · exact hs
  · split
    · exact hs
    · have h := fits_takeFm ‹_› hs
      dsimp only at h ⊢
      split
      · simp [h]
      · refine fits_pumpEng _ _ (fits_tryStop _ _ ?_)
        cases resp <;> simp [h]

@[simp] theorem fits_checkFrags (id ws e s) : StreamsFit (checkFrags id ws e s) ↔ StreamsFit s := by simp [checkFrags]

@[simp] theorem fits_fragDone (id resp s) (hs : StreamsFit s) : StreamsFit (fragDone id resp s) := by
  unfold fragDone
  split
  · exact hs
  · have h := fits_takeFm ‹_› hs
    dsimp only at h ⊢
    (repeat' split) <;> simp [h]

@[simp] theorem fits_failEntry (id st res s) (hs : StreamsFit s) : StreamsFit (failEntry id st res s) := by
  unfold failEntry
  (repeat' split) <;> simp [hs]

@[simp] theorem fits_wakeOrFail (id d stage waits s) (hs : StreamsFit s) :
    StreamsFit (wakeOrFail id d stage waits s) := by
  simp [wakeOrFail, hs]

theorem fits_takeSlot {e s p} (h : takeSlot e s = some p) (hs : StreamsFit s) : StreamsFit p.2 := by
  unfold takeSlot at h
  split at h
  · cases h; exact hs
  · obtain ⟨t, -, rfl⟩ := Option.map_eq_some_iff.1 h
    simp [hs]

@[simp] theorem fits_takeBuffer (id e s) (hs : StreamsFit s) : StreamsFit (takeBuffer id e s) := by
  unfold takeBuffer; dsimp only
  split
  · simp [hs]
  · split
    · exact hs
    · split
      · exact fits_deliver _ _ _ (fits_alloc ‹_› (by simp [hs]))
      · simp [hs]

@[simp] theorem fits_bufferAlloc (id s) (hs : StreamsFit s) : StreamsFit (bufferAlloc id s) := by
  unfold bufferAlloc
  split
  · exact hs
  · split
    · exact hs
    · split
      · split
        · exact hs
        · simp [fits_takeSlot ‹_› hs]
      · simp [hs]

@[simp] theorem fits_sendTag (e t s) (hs : StreamsFit s) : StreamsFit (sendTag e t s) := by simp [sendTag, hs]

@[simp] theorem fits_sendRemote (e s) (hs : StreamsFit s) : StreamsFit (sendRemote e s) := by
  unfold sendRemote
  split
  · exact hs
  · simp [fits_takeSlot ‹_› hs]

@[simp] theorem fits_entryDispatch (id s) (hs : StreamsFit s) : StreamsFit (entryDispatch id s) := by
  unfold entryDispatch
  split
  · exact hs
  · rename_i e _
    cases e.kind <;> simp [hs]

@[simp] theorem fits_startProgram (c t n entry calib g s) :
    StreamsFit (startProgram c t n entry calib g s) ↔ StreamsFit s := by
  simp [startProgram]

@[simp] theorem fits_dispatchWord (e s) : StreamsFit (dispatchWord e s).2 ↔ StreamsFit s := by
  unfold dispatchWord; split <;> simp

@[simp] theorem fits_entryTaken (c s) (hs : StreamsFit s) : StreamsFit (entryTaken c s) := by
  unfold entryTaken; split <;> simp [hs]

@[simp] theorem fits_calibrationStart (c s) : StreamsFit (calibrationStart c s) ↔ StreamsFit s := by
  unfold calibrationStart
  (repeat' split) <;> simp

@[simp] theorem fits_completionPost (id s) (hs : StreamsFit s) : StreamsFit (completionPost id s) := by
  unfold completionPost; dsimp only
  (repeat' split) <;> simp [hs]

@[simp] theorem fits_moveVisible (q s) : StreamsFit (moveVisible q s) ↔ StreamsFit s := by simp [moveVisible]

@[simp] theorem fits_completionResp (q n err s) (hs : StreamsFit s) : StreamsFit (completionResp q n err s) := by
  unfold completionResp
  split
  · simp [fits_takeFmAt ‹_› hs]
  · exact hs

@[simp] theorem fits_batchPost (sq s) (hs : StreamsFit s) : StreamsFit (batchPost sq s) := by simp [batchPost, hs]
@[simp] theorem fits_batchExpiry (sq s) (hs : StreamsFit s) : StreamsFit (batchExpiry sq s) := by simp [batchExpiry, hs]

@[simp] theorem fits_indexPublish (k e s) (hs : StreamsFit s) : StreamsFit (indexPublish k e s) := by
  unfold indexPublish
  split
  · simp [hs]
  · split
    · exact hs
    · have h := fits_takeFm ‹_› hs
      exact fits_pumpEng _ _ (fits_idxIssue _ _ (fits_if (by simp [h]) (by simp [h])))

@[simp] theorem effFits_qpostGo (c t w a b s) (hs : StreamsFit s) :
    EffFits (qpostGo c t w a b s) := by simp [qpostGo, hs]

@[simp] theorem effFits_semQpost (c t w s) (hs : StreamsFit s) : EffFits (semQpost c t w s) := by simp [semQpost, hs]

/-! ## Primer -/

@[simp] theorem fits_modPrm (f s) : StreamsFit (modPrm f s) ↔ StreamsFit s := Iff.rfl
@[simp] theorem fits_setRaw (w v s) : StreamsFit (setRaw w v s) ↔ StreamsFit s := by simp [setRaw]
@[simp] theorem fits_draw72 (s) : StreamsFit (draw72 s).2 ↔ StreamsFit s := by simp [draw72]
@[simp] theorem fits_cutWord (w data s) : StreamsFit (cutWord w data s) ↔ StreamsFit s := by simp [cutWord]
@[simp] theorem fits_someBit (v s) : StreamsFit (someBit v s).2 ↔ StreamsFit s := by simp [someBit]
@[simp] theorem fits_cutRecord (w data s) : StreamsFit (cutRecord w data s) ↔ StreamsFit s := by simp [cutRecord]
@[simp] theorem fits_noteIntent (w s) : StreamsFit (noteIntent w s) ↔ StreamsFit s := by simp [noteIntent]
@[simp] theorem fits_cutJob (j w data s) : StreamsFit (cutJob j w data s) ↔ StreamsFit s := by simp [cutJob]
@[simp] theorem fits_failWord (j w data s) : StreamsFit (failWord j w data s) ↔ StreamsFit s := by simp [failWord]
@[simp] theorem fits_cutSector (k s) : StreamsFit (cutSector k s) ↔ StreamsFit s := by simp [cutSector]
@[simp] theorem fits_eraseSector (k s) : StreamsFit (eraseSector k s) ↔ StreamsFit s := by simp [eraseSector]
@[simp] theorem fits_setSect (k x s) : StreamsFit (setSect k x s) ↔ StreamsFit s := by simp [setSect]

@[simp] theorem fits_takeRecord (typ arg sector o s) : StreamsFit (takeRecord typ arg sector o s) ↔ StreamsFit s := by
  simp [takeRecord]

theorem fits_runJob {o s u} (h : runJob o s = some u) : StreamsFit u ↔ StreamsFit s := by
  unfold runJob at h
  split at h
  · cases h; rfl
  · split at h
    · cases h
    · cases h; simp
  · cases h; rfl
  · cases h; rfl

theorem fits_tryJob {o s u} (h : tryJob o s = some u) : StreamsFit u ↔ StreamsFit s := by
  unfold tryJob at h
  split at h
  · split at h <;> exact fits_runJob h
  · exact fits_runJob h

@[simp] theorem fits_awaitRelease (o s) : StreamsFit (awaitRelease o s) ↔ StreamsFit s := by simp [awaitRelease]

@[simp] theorem fits_startDue (s) : StreamsFit (startDue s) ↔ StreamsFit s := by
  unfold startDue; dsimp only
  split
  · split
    · simp
    · exact fits_getD (fun h => by simp [fits_tryJob h]) (by simp)
  · rfl

@[simp] theorem fits_endOp (r s) : StreamsFit (endOp r s) ↔ StreamsFit s := by simp [endOp]

@[simp] theorem fits_failOp (o s) : StreamsFit (failOp o s) ↔ StreamsFit s := by
  unfold failOp; split <;> simp

@[simp] theorem fits_beginJob (o s) : StreamsFit (beginJob o s) ↔ StreamsFit s := by
  unfold beginJob
  split
  · simp
  · exact fits_getD (fun h => fits_tryJob h) (by simp)

@[simp] theorem fits_jobEffect (o w a2 s) : StreamsFit (jobEffect o w a2 s) ↔ StreamsFit s := by
  unfold jobEffect
  (repeat' split) <;> simp

@[simp] theorem fits_jobDone (o j w s) : StreamsFit (jobDone o j w s) ↔ StreamsFit s := by simp [jobDone]

@[simp] theorem fits_goOn (s) : StreamsFit (goOn s) ↔ StreamsFit s := by
  unfold goOn; split <;> simp

@[simp] theorem fits_wordFail (o j w d s) : StreamsFit (wordFail o j w d s) ↔ StreamsFit s := by
  unfold wordFail; split <;> simp

@[simp] theorem fits_unverified (o s) : StreamsFit (unverified o s) ↔ StreamsFit s := by
  unfold unverified; split <;> simp

@[simp] theorem fits_cutOp (reached o s) : StreamsFit (cutOp reached o s) ↔ StreamsFit s := by
  unfold cutOp; dsimp only
  split <;> simp

@[simp] theorem fits_tripDetector (s) : StreamsFit (tripDetector s) ↔ StreamsFit s := by
  unfold tripDetector; dsimp only
  (repeat' split) <;> simp

@[simp] theorem fits_afterPulse (j s) : StreamsFit (afterPulse j s) ↔ StreamsFit s := by
  unfold afterPulse; split <;> simp

@[simp] theorem fits_pulseEnd (good s) : StreamsFit (pulseEnd good s) ↔ StreamsFit s := by
  unfold pulseEnd
  (repeat' split) <;> simp

@[simp] theorem fits_setResult (r s) : StreamsFit (setResult r s) ↔ StreamsFit s := by simp [setResult]

@[simp] theorem fits_prmCmd (nests f s) (h : ∀ s, StreamsFit (f s) ↔ StreamsFit s) :
    StreamsFit (prmCmd nests f s) ↔ StreamsFit s := by
  simp [prmCmd, h]

@[simp] theorem fits_prmReadCmd (s) : StreamsFit (prmReadCmd s) ↔ StreamsFit s := by
  unfold prmReadCmd; split <;> simp

@[simp] theorem fits_prmProgram (s) : StreamsFit (prmProgram s) ↔ StreamsFit s := by
  unfold prmProgram; split <;> simp

@[simp] theorem fits_prmErase (s) : StreamsFit (prmErase s) ↔ StreamsFit s := by
  unfold prmErase; split <;> simp

@[simp] theorem fits_prmSuspend (s) : StreamsFit (prmSuspend s) ↔ StreamsFit s := by simp [prmSuspend]

@[simp] theorem fits_prmResume (s) : StreamsFit (prmResume s) ↔ StreamsFit s := by
  unfold prmResume; split <;> simp

@[simp] theorem fits_prmRotate (s) : StreamsFit (prmRotate s) ↔ StreamsFit s := by simp [prmRotate]

@[simp] theorem fits_prmCommand (code s) : StreamsFit (prmCommand code s) ↔ StreamsFit s := by
  unfold prmCommand
  split
  case h_7 => exact fits_prmCmd _ _ _ fun _ => fits_modPrm ..
  case h_9 => exact fits_prmCmd _ _ _ fun _ => by split <;> simp
  all_goals simp

@[simp] theorem fits_windowBase (en base s) : StreamsFit (windowBase en base s) ↔ StreamsFit s := by simp [windowBase]

@[simp] theorem fits_logPrimer (w m who s) (hs : StreamsFit s) :
    StreamsFit (logPrimer w m who s) := by simp [logPrimer, hs]

@[simp] theorem fits_windowRead (w n m s) (hs : StreamsFit s) : StreamsFit (windowRead w n m s).2 := by
  unfold windowRead; dsimp only
  (repeat' split) <;> simp [hs]

@[simp] theorem fits_prmRegWrite (o m v act s) :
    StreamsFit (prmRegWrite o m v act s) ↔ StreamsFit s := by simp [prmRegWrite]

@[simp] theorem fits_bootHead (k seq s) : StreamsFit (bootHead k seq s) ↔ StreamsFit s := by simp [bootHead]

@[simp] theorem fits_scanJournal (s) (hs : StreamsFit s) : StreamsFit (scanJournal s) :=
  fits_foldl_snd _ _ hs fun _ _ h => fits_if_snd h (fits_mk_snd (fits_logPrimer _ _ _ _ h))

@[simp] theorem fits_replay (s r) : StreamsFit (replay s r) ↔ StreamsFit s := by
  unfold replay; split <;> simp

@[simp] theorem fits_journalBoot (s) (hs : StreamsFit s) : StreamsFit (journalBoot s) := by
  unfold journalBoot
  extract_lets s1 d seq t s2 s3 rs s4 sect
  have h1 : StreamsFit s1 := fits_scanJournal s hs
  have ht : StreamsFit t := by simp [t, d, h1]
  have h2 : StreamsFit s2 := by unfold s2; split <;> simp [h1, ht]
  have h3 : StreamsFit s3 := by unfold s3; split <;> simp [h2]
  simp [s4, h3]

@[simp] theorem fits_loaderWords (w n s) (hs : StreamsFit s) : StreamsFit (loaderWords w n s).2 := by
  unfold loaderWords; dsimp only
  split <;> simp [hs]

@[simp] theorem fits_dirCopy (k s) (hs : StreamsFit s) : StreamsFit (dirCopy k s).2 := by
  unfold dirCopy; dsimp only
  split <;> simp [hs]

@[simp] theorem fits_directoryBoot (s) (hs : StreamsFit s) : StreamsFit (directoryBoot s) := by
  unfold directoryBoot; dsimp only
  split <;> simp [hs]

/-! ## Decoders -/

@[simp] theorem fits_stepDone (c t next s) (hs : StreamsFit s) : StreamsFit (stepDone c t next s) := by
  unfold stepDone
  (repeat' split) <;> simp [hs]

@[simp] theorem fits_chooseNext (c t w s) (hs : StreamsFit s) : StreamsFit (chooseNext c t w s) := by
  unfold chooseNext
  (repeat' split) <;> simp [hs]

@[simp] theorem fits_decodeGone (c t s) (hs : StreamsFit s) : StreamsFit (decodeGone c t s) := by
  unfold decodeGone; split <;> simp [hs]

@[simp] theorem fits_tellHard (job fail c s) (hs : StreamsFit s) :
    StreamsFit (tellHard job fail c s) := by simp [tellHard, hs]

@[simp] theorem fits_hardEnd (c s) (hs : StreamsFit s) : StreamsFit (hardEnd c s) := by
  unfold hardEnd
  split
  · exact hs
  · extract_lets rq rate n s1 se g got d k s3 s4 s5 s6 s7
    have hg : StreamsFit g.2 := by simp [g, s1, hs]
    clear_value g d
    split
    · exact fits_tellHard _ _ _ _ (fits_cwReport _ _ _ _ _ (fits_cwGood _ _ _ _ _ (by simp [s1, hs])))
    · split
      · have h4 : StreamsFit s4 := fits_cwReport _ _ _ _ _ (fits_cwGood _ _ _ _ _ hg)
        exact fits_tellHard _ _ _ _ (fits_if ((fits_plbSample ..).2 h4) h4)
      · exact fits_tellHard _ _ _ _ ((fits_modReg ..).2 (fits_cwReport _ _ _ _ _ ((fits_cwPoison ..).2 hg)))

@[simp] theorem fits_tellSoft (h s) (hs : StreamsFit s) : StreamsFit (tellSoft h s) := by simp [tellSoft, hs]
@[simp] theorem fits_noBank (h s) (hs : StreamsFit s) : StreamsFit (noBank h s) := by simp [noBank, hs]

@[simp] theorem fits_softHeads : ∀ fuel s, StreamsFit s → StreamsFit (softHeads fuel s)
  | 0, _, hs => hs
  | fuel + 1, s, hs => by
    unfold softHeads; dsimp only
    split <;> simp [fits_softHeads fuel, hs]

@[simp] theorem fits_softLook (s) (hs : StreamsFit s) : StreamsFit (softLook s) := by simp [softLook, hs]

@[simp] theorem fits_softAssign (s) (hs : StreamsFit s) : StreamsFit (softAssign s) := by
  unfold softAssign; split <;> simp [hs]

@[simp] theorem fits_softEnd (k s) (hs : StreamsFit s) : StreamsFit (softEnd k s) := by
  unfold softEnd
  split
  · exact hs
  · extract_lets rate n soft s1 g p hard d
    have hg : StreamsFit g.2 := by simp [g, s1, hs]
    have hp : StreamsFit p.2 := fits_foldl_snd _ _ hg fun q i h => by simp [h]
    clear_value p d
    split <;> refine fits_softLook _ (fits_tellSoft _ _ ((fits_modReg ..).2 ?_))
    · exact fits_cwReport _ _ _ _ _ (fits_cwGood _ _ _ _ _ hp)
    · exact fits_cwReport _ _ _ _ _ ((fits_cwPoison ..).2 (fits_cwWrite _ _ _ _ _ _ hp))

/-! ## Micro -/

@[simp] theorem fits_firstStart (c t r s) : StreamsFit (firstStart c t r s) ↔ StreamsFit s := by simp [firstStart]

@[simp] theorem fits_refuseStale (c t k j s) (hs : StreamsFit s) : StreamsFit (refuseStale c t k j s) :=
  fits_tryEnd _ _ _ (fits_dopRetry _ _ _ (by simp [hs]))

@[simp] theorem fits_routineStart (c s) (hs : StreamsFit s) : StreamsFit (routineStart c s) := by
  unfold routineStart
  (repeat' split) <;> simp [hs]

@[simp] theorem fits_writePrg (c t resume yaddr parked s) :
    StreamsFit (writePrg c t resume yaddr parked s) ↔ StreamsFit s := by
  unfold writePrg; split <;> simp

@[simp] theorem fits_yieldNow (c t res park dly s) :
    StreamsFit (yieldNow c t res park dly s) ↔ StreamsFit s := by simp [yieldNow]

@[simp] theorem fits_takeToken (p s) : StreamsFit (takeToken p s) ↔ StreamsFit s := by simp [takeToken]

@[simp] theorem fits_dinBurst (c t r w s) (hs : StreamsFit s) : StreamsFit (dinBurst c t r w s) := by
  unfold dinBurst; dsimp only
  split
  · simp only [fits_setCycle, fits_modRtn]
    exact fits_cwReport _ _ _ _ _ (fits_cwWrite _ _ _ _ _ _ (fits_cwRead _ _ _ _ _ _ hs))
  · simp [hs]

@[simp] theorem fits_captured (n d s) : StreamsFit (captured n d s).2 ↔ StreamsFit s := by simp [captured]

@[simp] theorem fits_captureTiming (c s) : StreamsFit (captureTiming c s) ↔ StreamsFit s := by
  unfold captureTiming; dsimp only
  rw [fits_modChan]
  exact fits_foldl_snd_iff _ _ fun _ _ => fits_draw _

@[simp] theorem fits_doutBurst (c t r w d s) (hs : StreamsFit s) :
    StreamsFit (doutBurst c t r w d s) := by simp [doutBurst, hs]

@[simp] theorem fits_handoff (c t r w s) (hs : StreamsFit s) : StreamsFit (handoff c t r w s) := by simp [handoff, hs]

@[simp] theorem fits_driveCycle (c t r w d s) (hs : StreamsFit s) : StreamsFit (driveCycle c t r w d s) := by
  unfold driveCycle; split <;> simp [hs]

@[simp] theorem fits_finishStep (c t w s) (hs : StreamsFit s) :
    StreamsFit (finishStep c t w s) := by simp [finishStep, hs]

@[simp] theorem fits_driveStep (c t w d s) (hs : StreamsFit s) : StreamsFit (driveStep c t w d s) := by
  unfold driveStep; split <;> simp [hs]

@[simp] theorem fits_admitPump (p s) (hs : StreamsFit s) : StreamsFit (admitPump p s) := by
  unfold admitPump; split <;> simp [hs]

@[simp] theorem fits_pumpStep (c t r w s) (hs : StreamsFit s) :
    StreamsFit (pumpStep c t r w s) := by simp [pumpStep, hs]

@[simp] theorem fits_stepBody (c t w d s) (hs : StreamsFit s) : StreamsFit (stepBody c t w d s) := by
  unfold stepBody; split <;> simp [hs]

theorem yckFits_yieldCheck {c t r w s y} (h : yieldCheck c t r w s = y) (hs : StreamsFit s) : YckFits y := by
  subst h
  unfold yieldCheck; dsimp only
  (repeat' split) <;> simp [hs]

@[simp] theorem fits_microStep (c row d s) (hs : StreamsFit s) : StreamsFit (microStep c row d s) := by
  unfold microStep; dsimp only
  repeat' split
  any_goals simp [hs]
  · exact fits_endRoutine _ _ _ _ (by simp [hs])
  · exact yckFits_yieldCheck ‹_› (by simp [hs])
  · exact fits_stepBody _ _ _ _ _ (yckFits_go.1 (yckFits_yieldCheck ‹_› (by simp [hs])))

@[simp] theorem fits_guardRelease (c d s) (hs : StreamsFit s) : StreamsFit (guardRelease c d s) := by
  unfold guardRelease
  (repeat' split) <;> simp [hs]

@[simp] theorem fits_tokenReturn (s) : StreamsFit (tokenReturn s) ↔ StreamsFit s := by
  unfold tokenReturn; split <;> simp

/-! ## Power -/

@[simp] theorem fits_staleTrace : ∀ l s, StreamsFit (staleTrace l s).2 ↔ StreamsFit s
  | [], _ => Iff.rfl
  | (_, _) :: rest, s => by simp [staleTrace, fits_staleTrace rest]

@[simp] theorem fits_clearChannel (c s) : StreamsFit (clearChannel c s) ↔ StreamsFit s := by simp [clearChannel]
@[simp] theorem fits_dropChannel (c s) : StreamsFit (dropChannel c s) ↔ StreamsFit s := by simp [dropChannel]
@[simp] theorem fits_dropStores (q s) : StreamsFit (dropStores q s) ↔ StreamsFit s := by simp [dropStores]

@[simp] theorem fits_dropStg (s) (hs : StreamsFit s) : StreamsFit (dropStg s) :=
  fits_foldl _ _ hs fun _ _ h => fits_modStrm _ _ _ h fun _ => Nat.add_le_add_right (Nat.zero_le _) _

@[simp] theorem fits_isolate (d s) (hs : StreamsFit s) : StreamsFit (isolate d s) := by simp [isolate, hs]

@[simp] theorem fits_grantAll (s) (hs : StreamsFit s) : StreamsFit (grantAll s) :=
  fits_foldl _ _ hs fun _ _ h => fits_grantServe _ _ h

@[simp] theorem fits_grantRise (d s) (hs : StreamsFit s) : StreamsFit (grantRise d s) := by simp [grantRise, hs]

@[simp] theorem fits_checkImage (prog q s) (hs : StreamsFit s) : StreamsFit (checkImage prog q s).2 := by
  unfold checkImage; dsimp only
  (repeat' split) <;> simp [hs]

@[simp] theorem fits_refuseLoad (prog q reason s) (hs : StreamsFit s) : StreamsFit (refuseLoad prog q reason s) :=
  fits_foldl _ _ (by simp [hs]) fun _ _ h => fits_failEntry _ _ _ _ h

@[simp] theorem fits_loadMicro (c ws s) : StreamsFit (loadMicro c ws s) ↔ StreamsFit s := by simp [loadMicro]
@[simp] theorem fits_loadProgram (q ws s) : StreamsFit (loadProgram q ws s) ↔ StreamsFit s := by simp [loadProgram]
@[simp] theorem fits_quadRuns (q s) : StreamsFit (quadRuns q s) ↔ StreamsFit s := by simp [quadRuns]

@[simp] theorem fits_quadLoad (q s) (hs : StreamsFit s) : StreamsFit (quadLoad q s) := by
  unfold quadLoad; dsimp only
  split
  · exact hs
  · have hm := fits_checkImage false q.toNat { s with pwr := { s.pwr with loadQ := s.pwr.loadQ.tail } } hs
    split
    · exact fits_refuseLoad _ _ _ _ hm
    · have hp := fits_checkImage true q.toNat _ hm
      split
      · exact fits_refuseLoad _ _ _ _ hp
      · simpa using hp

@[simp] theorem fits_applySpares (s) (hs : StreamsFit s) : StreamsFit (applySpares s) :=
  fits_foldl _ _ hs fun _ _ h => fits_if h (fits_logRec _ _ _ _ _ h)

@[simp] theorem fits_retireForce (s) (hs : StreamsFit s) : StreamsFit (retireForce s) :=
  fits_foldl _ _ hs fun _ _ h => fits_logRec _ _ _ _ _ h

@[simp] theorem fits_stgInitEnd (s) (hs : StreamsFit s) : StreamsFit (stgInitEnd s) := by simp [stgInitEnd, hs]
@[simp] theorem fits_saveUid (c s) (hs : StreamsFit s) : StreamsFit (saveUid c s) := by simp [saveUid, hs]

@[simp] theorem fits_waitEnds (s) : StreamsFit (waitEnds s) ↔ StreamsFit s := by
  unfold waitEnds; split <;> simp

@[simp] theorem fits_stgWithdraw (s) (hs : StreamsFit s) : StreamsFit (stgWithdraw s) :=
  (fits_waitEnds _).2 (fits_foldl _ _ hs fun _ _ h => fits_wakeOrFail _ _ _ _ _ h)

@[simp] theorem fits_quiescence (d s) (hs : StreamsFit s) : StreamsFit (quiescence d s) := by
  unfold quiescence; dsimp only
  have hu := fits_foldl (chansOf (d - 4)) s hs fun u c h => fits_saveUid c u h
  have hw := fits_stgWithdraw s hs
  split
  · exact hs
  · split
    · exact fits_if (by simp [hw]) (by simp [hw])
    · simp [hs, hu]

@[simp] theorem fits_grantFall (d s) (hs : StreamsFit s) : StreamsFit (grantFall d s) := by simp [grantFall, hs]
@[simp] theorem fits_retGrant (level s) (hs : StreamsFit s) : StreamsFit (retGrant level s) := by simp [retGrant, hs]

@[simp] theorem fits_retSet (s) : StreamsFit (retSet s) ↔ StreamsFit s := by
  unfold retSet; split <;> simp

@[simp] theorem fits_retClear (s) : StreamsFit (retClear s) ↔ StreamsFit s := by simp [retClear]
@[simp] theorem fits_domainCtrl (v s) (hs : StreamsFit s) : StreamsFit (domainCtrl v s) := by simp [domainCtrl, hs]
@[simp] theorem fits_patchGo (c v s) : StreamsFit (patchGo c v s) ↔ StreamsFit s := by simp [patchGo]

@[simp] theorem fits_patchWords (c disp) : ∀ n src dst s, StreamsFit s → StreamsFit (patchWords c disp n src dst s).2
  | 0, _, _, _, hs => hs
  | n + 1, src, dst, s, hs => by
    unfold patchWords; dsimp only
    split <;> simp [fits_patchWords c disp n, hs]

@[simp] theorem fits_patchCopy (c s) (hs : StreamsFit s) : StreamsFit (patchCopy c s) := by
  unfold patchCopy; dsimp only
  split <;> simp [hs]

@[simp] theorem fits_fillEnd (c s) (hs : StreamsFit s) : StreamsFit (fillEnd c s) := by simp [fillEnd, hs]
@[simp] theorem fits_cutFill (c s) (hs : StreamsFit s) : StreamsFit (cutFill c s) := by simp [cutFill, hs]
@[simp] theorem fits_portReset (s) : StreamsFit (portReset s) ↔ StreamsFit s := by simp [portReset]

@[simp] theorem fits_coldState (cause boot s) : StreamsFit (coldState cause boot s) := by
  intro e he
  obtain ⟨x, -, rfl⟩ := List.mem_map.1 he
  exact Nat.zero_le _

@[simp] theorem fits_coldReset (s) : StreamsFit (coldReset s) := by simp [coldReset]
@[simp] theorem fits_coldWins (s) : StreamsFit (coldWins s).2 ↔ StreamsFit s := by simp [coldWins]
@[simp] theorem fits_warmChannel (c s) (hs : StreamsFit s) : StreamsFit (warmChannel c s) := by simp [warmChannel, hs]

@[simp] theorem fits_warmReset (s) : StreamsFit (warmReset s) := by
  intro e he
  obtain ⟨x, -, rfl⟩ := List.mem_map.1 he
  exact Nat.zero_le _

@[simp] theorem fits_fuseOver (s) : StreamsFit (fuseOver s) ↔ StreamsFit s := by simp [fuseOver]

@[simp] theorem fits_fuseFault (detail s) (hs : StreamsFit s) :
    StreamsFit (fuseFault detail s) := by simp [fuseFault, hs]

@[simp] theorem fits_fuseWord (w s) (hs : StreamsFit s) : StreamsFit (fuseWord w s) := by simp [fuseWord, hs]
@[simp] theorem fits_fuseTimeout (s) (hs : StreamsFit s) : StreamsFit (fuseTimeout s) := by simp [fuseTimeout, hs]
@[simp] theorem fits_bootInitEnd (s) : StreamsFit (bootInitEnd s) ↔ StreamsFit s := by simp [bootInitEnd]
@[simp] theorem fits_bootJournal (s) (hs : StreamsFit s) : StreamsFit (bootJournal s) := by simp [bootJournal, hs]
@[simp] theorem fits_bootDirectory (s) (hs : StreamsFit s) : StreamsFit (bootDirectory s) := by simp [bootDirectory, hs]

/-! ## Integrity -/

@[simp] theorem fits_modIntg (f s) : StreamsFit (modIntg f s) ↔ StreamsFit s := Iff.rfl

@[simp] theorem fits_retireBanks (bits s) (hs : StreamsFit s) :
    StreamsFit (retireBanks bits s) := by simp [retireBanks, hs]

@[simp] theorem fits_splitWord (o lo n s) (hs : StreamsFit s) : StreamsFit (splitWord o lo n s).2 := by
  unfold splitWord
  (repeat' split) <;> simp [hs]

@[simp] theorem fits_splitWrite (o m v s) (hs : StreamsFit s) : StreamsFit (splitWrite o m v s) := by
  unfold splitWrite; dsimp only
  (repeat' split) <;> simp [hs]

@[simp] theorem fits_intReadAct (o m s) : StreamsFit (intReadAct o m s) ↔ StreamsFit s := by simp [intReadAct]

@[simp] theorem fits_intWrite (o v act s) (hs : StreamsFit s) :
    StreamsFit (intWrite o v act s) := by simp [intWrite, hs]

/-! ## Render -/

@[simp] theorem fits_modRctx (i f s) : StreamsFit (modRctx i f s) ↔ StreamsFit s := Iff.rfl
@[simp] theorem fits_cwCode (h off s) (hs : StreamsFit s) : StreamsFit (cwCode h off s).2 := by simp [cwCode, hs]

@[simp] theorem fits_writeCw (h off code g ws marks s) (hs : StreamsFit s) :
    StreamsFit (writeCw h off code g ws marks s) := by
  simp [writeCw, hs]

@[simp] theorem fits_accWrite (x t off bs s) (hs : StreamsFit s) : StreamsFit (accWrite x t off bs s) :=
  fits_foldl _ _ hs fun _ _ h => by simp [h]

@[simp] theorem fits_accRead (id t off sym bs s) :
    StreamsFit (accRead id t off sym bs s) ↔ StreamsFit s := by simp [accRead]

@[simp] theorem fits_accPages (id t h src dst pages s) (hs : StreamsFit s) :
    StreamsFit (accPages id t h src dst pages s) :=
  fits_foldl _ _ hs fun _ _ h => by simp [h]

@[simp] theorem fits_noteAcc (id t node s) : StreamsFit (noteAcc id t node s) ↔ StreamsFit s := by simp [noteAcc]

theorem fits_takeFree {s p} (h : takeFree s = some p) : StreamsFit p.2 ↔ StreamsFit s := by
  unfold takeFree at h; dsimp only at h
  split at h
  · cases h
  · rw [← Option.some.inj h]
    exact fits_draw s

@[simp] theorem fits_popBuffers (p) : ∀ m s, StreamsFit (popBuffers p m s).2 ↔ StreamsFit s
  | 0, _ => Iff.rfl
  | m + 1, s => by simp [popBuffers, fits_popBuffers p m]

@[simp] theorem fits_zeroBuffer (h s) (hs : StreamsFit s) : StreamsFit (zeroBuffer h s) := by simp [zeroBuffer, hs]

@[simp] theorem fits_openWrite (g s) (hs : StreamsFit s) : StreamsFit (openWrite g s).2 := by
  unfold openWrite; dsimp only
  split
  · exact hs
  · split
    · exact hs
    · have hu := (fits_takeFree ‹_›).2 hs
      split
      · exact hs
      · exact hs
      · exact (fits_modRctx ..).2 (fits_foldl _ _ ((fits_popBuffers ..).2 hu) fun _ _ => fits_zeroBuffer _ _)

@[simp] theorem fits_openRead (g b s) : StreamsFit (openRead g b s).2 ↔ StreamsFit s := by
  unfold openRead; dsimp only
  split
  · rfl
  · split
    · rfl
    · simp [fits_takeFree ‹_›]

@[simp] theorem fits_rOpen (a b s) (hs : StreamsFit s) : StreamsFit (rOpen a b s).2 := by simp [rOpen, hs]

@[simp] theorem fits_rAccumulate (a b s) (hs : StreamsFit s) :
    StreamsFit (rAccumulate a b s).2 := by simp [rAccumulate, hs]

@[simp] theorem fits_accReads (off) : ∀ ks s, StreamsFit s → StreamsFit (accReads off ks s).2
  | [], _, hs => hs
  | _ :: ks, s, hs => by simp [accReads, fits_accReads off ks, hs]

@[simp] theorem fits_solveWrite (i s) (hs : StreamsFit s) : StreamsFit (solveWrite i s) := by
  refine (fits_modRctx ..).2 (fits_foldl _ _ hs fun u off h => ?_)
  extract_lets r cols marks v
  have hv : StreamsFit v := fits_foldl _ _ (fits_accReads _ _ _ h) fun _ _ => fits_writeCw _ _ _ _ _ _ _
  exact fits_if hv hv

@[simp] theorem fits_rParityOut (a s) (hs : StreamsFit s) : StreamsFit (rParityOut a s).2 := by
  unfold rParityOut; dsimp only
  split <;> simp [hs]

@[simp] theorem fits_rRelease (a s) : StreamsFit (rRelease a s).2 ↔ StreamsFit s := by simp [rRelease]

@[simp] theorem fits_rClose (a b s) (hs : StreamsFit s) : StreamsFit (rClose a b s).2 := by
  unfold rClose; dsimp only
  split
  · exact hs
  · exact hs
  · refine fits_if_snd hs (fits_mk_snd (fits_foldl _ _ ?_ fun _ _ => fits_freeBuffer _ _ _))
    simp [hs]

@[simp] theorem fits_takeParity (i s) (hs : StreamsFit s) : StreamsFit (takeParity i s) := by
  unfold takeParity; dsimp only
  split
  · exact hs
  · exact fits_foldl _ _ hs fun _ _ h => fits_if h (by simp [h])

@[simp] theorem fits_listEntry (h u t p s) (hs : StreamsFit s) :
    StreamsFit (listEntry h u t p s).2 := by simp [listEntry, hs]

@[simp] theorem fits_requestFetch (i t p e s) : StreamsFit (requestFetch i t p e s) ↔ StreamsFit s := Iff.rfl

@[simp] theorem fits_posEntries (h u t) : ∀ ps s, StreamsFit s → StreamsFit (posEntries h u t ps s).2
  | [], _, hs => hs
  | _ :: ps, s, hs => by simp [posEntries, fits_posEntries h u t ps, hs]

@[simp] theorem fits_fetchPos (i x h t s) (hs : StreamsFit s) : StreamsFit (fetchPos i x h t s) := by
  unfold fetchPos; dsimp only
  have hp := fits_posEntries h (tagU x.tag) t (ctxPages x) s hs
  exact fits_if hp (fits_foldl _ _ hp fun _ _ h => h)

@[simp] theorem fits_startFetches (i target s) (hs : StreamsFit s) : StreamsFit (startFetches i target s) := by
  unfold startFetches; dsimp only
  split
  · exact hs
  · exact fits_foldl _ _ hs fun _ _ h => fits_if h (fits_fetchPos _ _ _ _ _ h)

@[simp] theorem fits_solveRead (x ts target h) : ∀ ks s, StreamsFit s → StreamsFit (solveRead x ts target h ks s).2.2
  | [], _, hs => hs
  | _ :: ks, s, hs => by simp [solveRead, fits_solveRead x ts target h ks, hs]

@[simp] theorem fits_rSolve (i target h s) (hs : StreamsFit s) :
    StreamsFit (rSolve i target h s).2 := by simp [rSolve, hs]

@[simp] theorem fits_rRebuild (a b s) (hs : StreamsFit s) : StreamsFit (rRebuild a b s).2 := by
  unfold rRebuild; dsimp only
  have hp := fits_takeParity (fld a 0 10).toNat s hs
  have hf := fits_startFetches (fld a 0 10).toNat (fld a 16 6).toNat _ hp
  repeat' split
  all_goals simp [hs, hp, hf]

@[simp] theorem fits_rServe (k a b s) (hs : StreamsFit s) : StreamsFit (rServe k a b s).2 := by
  unfold rServe
  (repeat' split) <;> simp [hs]

@[simp] theorem effFits_rGo (k c t w a b s) (hs : StreamsFit s) : EffFits (rGo k c t w a b s) := by
  unfold rGo
  split <;> simpa using fits_of_snd ‹_› (fits_rServe k a b s hs)

@[simp] theorem effFits_semRcmd (k c t w s) (hs : StreamsFit s) : EffFits (semRcmd k c t w s) := by simp [semRcmd, hs]

@[simp] theorem fits_rNext (m s) (hs : StreamsFit s) : StreamsFit (rNext m s) := by
  unfold rNext
  split
  · simp [hs]
  · split <;> simpa using fits_of_snd ‹_› (fits_rServe m.k m.a m.b s hs)

@[simp] theorem fits_renderNext : ∀ ms s, StreamsFit s → StreamsFit (renderNext ms s)
  | [], _, hs => hs
  | m :: rest, s, hs => by simp [renderNext, fits_renderNext rest, hs]

@[simp] theorem fits_renderDone (m v s) (hs : StreamsFit s) : StreamsFit (renderDone m v s) := by
  unfold renderDone; dsimp only
  split <;> simp [hs]

@[simp] theorem fits_renderOn (s) (hs : StreamsFit s) : StreamsFit (renderOn s) := by
  unfold renderOn; dsimp only
  split
  · exact hs
  · rename_i m _
    split
    · have h := fits_rServe 0 m.a m.b s hs
      split
      · exact fits_renderDone _ _ _ (fits_of_snd ‹_› h)
      · exact fits_of_snd ‹_› h
    · simp [hs]

@[simp] theorem fits_settlePos (i t s) (hs : StreamsFit s) : StreamsFit (settlePos i t s) := by
  unfold settlePos; dsimp only
  split
  · exact hs
  · refine fits_foldl _ _ (fits_if ((fits_noteAcc ..).2 (fits_foldl _ _ hs ?_)) hs) ?_ <;>
    · intro s f h
      split <;> simp [h]

@[simp] theorem fits_fetchOver (i t p good s) (hs : StreamsFit s) :
    StreamsFit (fetchOver i t p good s) := by simp [fetchOver, hs]

@[simp] theorem fits_fetchEnd (i t p s) (hs : StreamsFit s) : StreamsFit (fetchEnd i t p s) := by
  unfold fetchEnd
  (repeat' split) <;> simp [hs]

@[simp] theorem fits_renderDepart (n s) : StreamsFit (renderDepart n s) ↔ StreamsFit s := by simp [renderDepart]

@[simp] theorem fits_rndWrite (o v act s) : StreamsFit (rndWrite o v act s) ↔ StreamsFit s := by
  unfold rndWrite; split <;> simp

end Sys2Proof.Machine
end

section
/-! SUPPORT. Admin commands, the Lath, interrupts, streams and the register port keep streams that fit. -/

namespace Sys2Proof.Machine

open Sys2Proof

/-! ## Admin -/

@[simp] theorem fits_endUnbounded (c t s) (hs : StreamsFit s) : StreamsFit (endUnbounded c t s) := by
  unfold endUnbounded; dsimp only
  split <;> simp [hs]

@[simp] theorem fits_abortThread (c t s) (hs : StreamsFit s) :
    StreamsFit (abortThread c t s) := by simp [abortThread, hs]

@[simp] theorem fits_abortEntry (id s) (hs : StreamsFit s) : StreamsFit (abortEntry id s).2 := by
  unfold abortEntry
  (repeat' split) <;> simp [hs]

@[simp] theorem fits_abortOutcome (id won s) :
    StreamsFit (abortOutcome id won s) ↔ StreamsFit s := by simp [abortOutcome]

@[simp] theorem fits_abortRemote (id tag s) : StreamsFit (abortRemote id tag s) ↔ StreamsFit s := by
  unfold abortRemote; split <;> simp

@[simp] theorem fits_fetchTimeout (i t p s) (hs : StreamsFit s) : StreamsFit (fetchTimeout i t p s) := by
  unfold fetchTimeout; dsimp only
  (repeat' split) <;> simp [hs]

@[simp] theorem fits_admin (op f s) (h : ∀ e s, StreamsFit s → StreamsFit (f e s)) (hs : StreamsFit s) :
    StreamsFit (admin op f s) := by
  unfold admin
  split <;> simp [h, hs]

@[simp] theorem fits_adminCreate (cq e s) (hs : StreamsFit s) : StreamsFit (adminCreate cq e s) := by
  unfold adminCreate; dsimp only
  (repeat' split) <;> simp [hs]

@[simp] theorem fits_adminDeleteSq (e s) (hs : StreamsFit s) :
    StreamsFit (adminDeleteSq e s) := by simp [adminDeleteSq, hs]

@[simp] theorem fits_adminDeleteCq (e s) (hs : StreamsFit s) :
    StreamsFit (adminDeleteCq e s) := by simp [adminDeleteCq, hs]

@[simp] theorem fits_adminDisable (e s) (hs : StreamsFit s) :
    StreamsFit (adminDisable e s) := by simp [adminDisable, hs]

@[simp] theorem fits_adminEnable (e s) (hs : StreamsFit s) : StreamsFit (adminEnable e s) := by simp [adminEnable, hs]
@[simp] theorem fits_adminSetArb (e s) (hs : StreamsFit s) : StreamsFit (adminSetArb e s) := by simp [adminSetArb, hs]

@[simp] theorem fits_adminAbort (e s) (hs : StreamsFit s) : StreamsFit (adminAbort e s) := by
  unfold adminAbort; dsimp only
  (repeat' split) <;> simp [hs]

/-! ## Lath -/

@[simp] theorem fits_modLath (f s) : StreamsFit (modLath f s) ↔ StreamsFit s := Iff.rfl
@[simp] theorem fits_lateRsp (s) : StreamsFit (lateRsp s) ↔ StreamsFit s := by simp [lateRsp]
@[simp] theorem fits_cfgReject (s) : StreamsFit (cfgReject s) ↔ StreamsFit s := by simp [cfgReject]
@[simp] theorem fits_linkDown (x s) : StreamsFit (linkDown x s) ↔ StreamsFit s := by simp [linkDown]
@[simp] theorem fits_linkFail (x s) : StreamsFit (linkFail x s) ↔ StreamsFit s := by simp [linkFail]

@[simp] theorem fits_loseEntry (t s) (hs : StreamsFit s) : StreamsFit (loseEntry t s) := by
  unfold loseEntry
  (repeat' split) <;> simp [hs]

@[simp] theorem fits_depart (n s) : StreamsFit (depart n s) ↔ StreamsFit s := by simp [depart]
@[simp] theorem fits_restart (n s) : StreamsFit (restart n s) ↔ StreamsFit s := by simp [restart]

@[simp] theorem fits_heard (n epoch s) (hs : StreamsFit s) : StreamsFit (heard n epoch s) := by
  unfold heard
  simp only [fits_restart, fits_ite, fits_depart, fits_lathEvent]
  split
  · exact hs
  · exact fits_foldl _ _ hs fun _ _ => fits_loseEntry _ _

@[simp] theorem fits_drained (x f s) : StreamsFit (drained x f s) ↔ StreamsFit s := by simp [drained]

@[simp] theorem fits_refuseIn (f s) : StreamsFit (refuseIn f s) ↔ StreamsFit s := by
  unfold refuseIn; dsimp only
  split <;> simp

theorem fits_requestIn {x f s u} (h : requestIn x f s = some u) (hs : StreamsFit s) : StreamsFit u := by
  unfold requestIn at h; dsimp only at h
  split at h
  · cases h; exact hs
  · split at h
    · cases h; simp [hs]
    · split at h
      · cases h; simp [hs]
      · split at h
        · cases h; simp [hs]
        · split at h
          · cases h
          · rw [← Option.some.inj h]; simp [hs]

theorem fits_dataIn {x f s u} (h : dataIn x f s = some u) (hs : StreamsFit s) : StreamsFit u := by
  unfold dataIn at h; dsimp only at h
  split at h
  · cases h; exact hs
  · split at h
    · cases h
    · split at h
      · cases h; exact hs
      · split at h <;> (cases h; simp [hs])

@[simp] theorem fits_abortIn (f s) (hs : StreamsFit s) : StreamsFit (abortIn f s) := by
  unfold abortIn
  (repeat' split) <;> simp [hs]

@[simp] theorem fits_modRemote (tag g s) : StreamsFit (modRemote tag g s) ↔ StreamsFit s := by simp [modRemote]

@[simp] theorem fits_dataBack (x f s) (hs : StreamsFit s) : StreamsFit (dataBack x f s) := by
  unfold dataBack; split <;> simp [hs]

@[simp] theorem fits_acceptBack (f s) : StreamsFit (acceptBack f s) ↔ StreamsFit s := by
  unfold acceptBack; split <;> simp

@[simp] theorem fits_freeSlot (tag r s) : StreamsFit (freeSlot tag r s) ↔ StreamsFit s := by simp [freeSlot]

@[simp] theorem fits_completeBack (f s) (hs : StreamsFit s) : StreamsFit (completeBack f s) := by
  unfold completeBack; split <;> simp [hs]

@[simp] theorem fits_rejectBack (f s) (hs : StreamsFit s) : StreamsFit (rejectBack f s) := by
  unfold rejectBack; split <;> simp [hs]

@[simp] theorem fits_abortBack (f s) : StreamsFit (abortBack f s) ↔ StreamsFit s := by
  unfold abortBack
  (repeat' split) <;> simp

@[simp] theorem fits_heartbeat (n s) : StreamsFit (heartbeat n s) ↔ StreamsFit s := by
  unfold heartbeat; split <;> simp

@[simp] theorem fits_remoteTimeout (tag s) (hs : StreamsFit s) : StreamsFit (remoteTimeout tag s) := by
  unfold remoteTimeout
  (repeat' split) <;> simp [hs]

@[simp] theorem fits_probeIn (x f s) : StreamsFit (probeIn x f s) ↔ StreamsFit s := by simp [probeIn]
@[simp] theorem fits_probeEnd (r res s) : StreamsFit (probeEnd r res s) ↔ StreamsFit s := by simp [probeEnd]
@[simp] theorem fits_probeReply (f s) : StreamsFit (probeReply f s) ↔ StreamsFit s := by simp [probeReply]
@[simp] theorem fits_probeTimeout (s) : StreamsFit (probeTimeout s) ↔ StreamsFit s := by simp [probeTimeout]
@[simp] theorem fits_linkOut (x s) : StreamsFit (linkOut x s) ↔ StreamsFit s := by simp [linkOut]

theorem fits_frameEffect {x f s u} (h : frameEffect x f s = some u) (hs : StreamsFit s) : StreamsFit u := by
  unfold frameEffect at h
  split at h
  · exact fits_requestIn h hs
  · split at h
    · cases h; simp [hs]
    · split at h
      · cases h; exact hs
      · exact fits_dataIn h hs
  all_goals cases h; simp [hs]

theorem fits_frameHere {x f s u} (h : frameHere x f s = some u) (hs : StreamsFit s) : StreamsFit u := by
  unfold frameHere at h
  split at h
  · exact fits_frameEffect h hs
  · cases h; simp [hs]

theorem fits_rxEffect {x f s u} (h : rxEffect x f s = some u) (hs : StreamsFit s) : StreamsFit u := by
  unfold rxEffect at h
  split at h
  · cases h; simp [hs]
  · split at h
    · obtain ⟨v, hv, rfl⟩ := Option.map_eq_some_iff.1 h
      simp [fits_frameHere hv hs]
    · cases h; simp [hs]
    · cases h; simp [hs]

theorem fits_takeHead {s x b u} (h : takeHead s x b = some u) (hs : StreamsFit s) : StreamsFit u := by
  unfold takeHead at h
  split at h
  · cases h
  · exact fits_rxEffect h hs

theorem fits_takeLoop {s u} (h : takeLoop s = some u) (hs : StreamsFit s) : StreamsFit u := by
  unfold takeLoop at h
  split at h
  · cases h
  · exact fits_frameHere h hs

theorem fits_lathStep {s u} (h : lathStep s = some u) (hs : StreamsFit s) : StreamsFit u := by
  unfold lathStep at h
  split at h
  · cases h
    obtain ⟨i, -, hi⟩ := List.exists_of_findSome?_eq_some ‹_›
    exact fits_takeHead hi hs
  · exact fits_takeLoop h hs

@[simp] theorem fits_lathRun : ∀ fuel s, StreamsFit s → StreamsFit (lathRun fuel s)
  | 0, _, hs => hs
  | fuel + 1, s, hs => by
    unfold lathRun
    split
    · exact hs
    · exact fits_lathRun fuel _ (fits_lathStep ‹_› hs)

@[simp] theorem fits_lathGo (s) (hs : StreamsFit s) : StreamsFit (lathGo s) := by simp [lathGo, hs]
@[simp] theorem fits_arrive (x f s) (hs : StreamsFit s) : StreamsFit (arrive x f s) := by simp [arrive, hs]
@[simp] theorem fits_deliverAs (t x f s) (hs : StreamsFit s) : StreamsFit (deliverAs t x f s) := by simp [deliverAs, hs]
@[simp] theorem fits_forward (x f s) (hs : StreamsFit s) : StreamsFit (forward x f s) := by simp [forward, hs]
@[simp] theorem fits_sayHello (x r s) : StreamsFit (sayHello x r s) ↔ StreamsFit s := by simp [sayHello]

@[simp] theorem fits_trainStep (x pass s) : StreamsFit (trainStep x pass s) ↔ StreamsFit s := by
  unfold trainStep; dsimp only
  split <;> simp

@[simp] theorem fits_trainRetry (x s) : StreamsFit (trainRetry x s) ↔ StreamsFit s := by simp [trainRetry]
@[simp] theorem fits_portCtl (x v s) : StreamsFit (portCtl x v s) ↔ StreamsFit s := by simp [portCtl]
@[simp] theorem fits_helloIn (x f s) (hs : StreamsFit s) : StreamsFit (helloIn x f s) := by simp [helloIn, hs]
@[simp] theorem fits_replayAll (x s) : StreamsFit (replayAll x s) ↔ StreamsFit s := by simp [replayAll]
@[simp] theorem fits_linkIn (x f s) (hs : StreamsFit s) : StreamsFit (linkIn x f s) := by simp [linkIn, hs]
@[simp] theorem fits_probeGo (v s) (hs : StreamsFit s) : StreamsFit (probeGo v s) := by simp [probeGo, hs]
@[simp] theorem fits_lathReadAct (o m s) : StreamsFit (lathReadAct o m s) ↔ StreamsFit s := by simp [lathReadAct]
@[simp] theorem fits_selfWrite (m v s) : StreamsFit (selfWrite m v s) ↔ StreamsFit s := by simp [selfWrite]
@[simp] theorem fits_cfgWrite (m v s) : StreamsFit (cfgWrite m v s) ↔ StreamsFit s := by simp [cfgWrite]
@[simp] theorem fits_nodeWrite (i v s) : StreamsFit (nodeWrite i v s) ↔ StreamsFit s := by simp [nodeWrite]

@[simp] theorem fits_lathWrite (o m v act s) (hs : StreamsFit s) :
    StreamsFit (lathWrite o m v act s) := by simp [lathWrite, hs]

/-! ## Interrupt -/

@[simp] theorem fits_place (s) : StreamsFit (place s) ↔ StreamsFit s := by
  unfold place
  (repeat' split) <;> simp

@[simp] theorem fits_placeAll : ∀ fuel s, StreamsFit (placeAll fuel s) ↔ StreamsFit s
  | 0, _ => Iff.rfl
  | fuel + 1, s => by simp [placeAll, fits_placeAll fuel]

@[simp] theorem fits_withdrawDue (s) : StreamsFit (withdrawDue s) ↔ StreamsFit s := Iff.rfl
@[simp] theorem fits_markDue (f s) : StreamsFit (markDue f s) ↔ StreamsFit s := Iff.rfl

@[simp] theorem fits_syncServe (s) : StreamsFit (syncServe s) ↔ StreamsFit s := by
  unfold syncServe; split <;> simp

@[simp] theorem fits_startHold (g s) : StreamsFit (startHold g s) ↔ StreamsFit s := by simp [startHold]

@[simp] theorem fits_icTaken (p s) : StreamsFit (icTaken p s) ↔ StreamsFit s := by
  unfold icTaken; split <;> simp

@[simp] theorem fits_holdEnd (g s) : StreamsFit (holdEnd g s) ↔ StreamsFit s := by simp [holdEnd]
@[simp] theorem fits_icMsg (src s) : StreamsFit (icMsg src s) ↔ StreamsFit s := by simp [icMsg]
@[simp] theorem fits_icEoi (p level s) : StreamsFit (icEoi p level s) ↔ StreamsFit s := by simp [icEoi]

@[simp] theorem fits_icWrite (o m v act s) : StreamsFit (icWrite o m v act s) ↔ StreamsFit s := by
  unfold icWrite
  (repeat' split) <;> simp

/-! ## Streams -/

@[simp] theorem fits_windowExpire (i s) (hs : StreamsFit s) :
    StreamsFit (windowExpire i s) := by simp [windowExpire, hs]

@[simp] theorem fits_strEnable (i b s) (hs : StreamsFit s) : StreamsFit (strEnable i b s) := by simp [strEnable, hs]

@[simp] theorem fits_endPops (i s) (hs : StreamsFit s) : StreamsFit (endPops i s) := by
  refine fits_foldl _ _ hs fun s c h => fits_foldl _ _ h fun s t h => ?_
  dsimp only
  split
  · exact fits_if (by simp [h]) h
  · exact h

set_option maxRecDepth 1000 in
@[simp] theorem fits_strFlush (i s) (hs : StreamsFit s) : StreamsFit (strFlush i s) := by
  unfold strFlush
  extract_lets x n s1 s2
  have h1 : StreamsFit s1 := fits_modStrm _ _ _ hs fun x => Nat.add_le_add_right (List.length_take_le' ..) _
  have h2 : StreamsFit s2 := fits_endPops _ _ (fits_grant _ _ h1)
  clear_value s2
  split
  · exact fits_if (fits_windowExpire _ _ h2) h2
  · exact h2

theorem grants_modStrm {i f s} (he : ∀ x, (f x).enable = x.enable) (hz : ∀ x, (f x).frozen = x.frozen) :
    grants (modStrm i f s) i = grants s i := by
  unfold grants
  rw [strm_modStrm, he, hz]
  rfl

@[simp] theorem fits_streamWordIn (i w em s) (hs : StreamsFit s) : StreamsFit (streamWordIn i w em s) := by
  unfold streamWordIn
  split
  · exact hs
  · split
    · simp [hs]
    · split
      · next h =>
        refine fits_dropWord _ _ _ (by simp [hs]) ((grants_modStrm ?_ ?_).trans ?_)
        · exact fun _ => rfl
        · exact fun _ => rfl
        · simpa using (Bool.and_eq_true_iff.1 h).2
      · simp [hs]

@[simp] theorem fits_traceFreeze (s) (hs : StreamsFit s) : StreamsFit (traceFreeze s) := by
  unfold traceFreeze
  refine fits_if hs (fits_if ?_ ?_) <;> exact fits_modStrm _ _ _ hs fun _ => le_rfl

@[simp] theorem fits_strRegWrite (i k m v act s) (hs : StreamsFit s) : StreamsFit (strRegWrite i k m v act s) := by
  unfold strRegWrite; split <;> simp [hs]

/-! ## Registers -/

@[simp] theorem fits_clearEvidence (s) : StreamsFit (clearEvidence s) ↔ StreamsFit s := by simp [clearEvidence]
@[simp] theorem fits_resetWrite (act s) (hs : StreamsFit s) : StreamsFit (resetWrite act s) := by simp [resetWrite, hs]
@[simp] theorem fits_gctlWrite (o v act s) : StreamsFit (gctlWrite o v act s) ↔ StreamsFit s := by simp [gctlWrite]

@[simp] theorem fits_pwrWrite (o v s) (hs : StreamsFit s) : StreamsFit (pwrWrite o v s) := by
  unfold pwrWrite; split <;> simp [hs]

@[simp] theorem fits_calWrite (o m v act s) : StreamsFit (calWrite o m v act s) ↔ StreamsFit s := by
  unfold calWrite; split <;> simp

@[simp] theorem fits_srvReadAct (o m s) : StreamsFit (srvReadAct o m s) ↔ StreamsFit s := by simp [srvReadAct]

@[simp] theorem fits_srvWrite (o v act s) : StreamsFit (srvWrite o v act s) ↔ StreamsFit s := by
  unfold srvWrite; split <;> simp

@[simp] theorem fits_qeWrite (o m v act s) (hs : StreamsFit s) : StreamsFit (qeWrite o m v act s) := by
  unfold qeWrite; split <;> simp [hs]

@[simp] theorem fits_dmaCtrl (e v s) (hs : StreamsFit s) : StreamsFit (dmaCtrl e v s) := by simp [dmaCtrl, hs]

@[simp] theorem fits_dmaWrite (e o m v act s) (hs : StreamsFit s) : StreamsFit (dmaWrite e o m v act s) := by
  unfold dmaWrite; split <;> simp [hs]

@[simp] theorem fits_poolReject (s) : StreamsFit (poolReject s) ↔ StreamsFit s := Iff.rfl
@[simp] theorem fits_poolCfg (k v s) (hs : StreamsFit s) : StreamsFit (poolCfg k v s) := by simp [poolCfg, hs]

@[simp] theorem fits_hawkWrite (o m v act s) (hs : StreamsFit s) :
    StreamsFit (hawkWrite o m v act s) := by simp [hawkWrite, hs]

@[simp] theorem fits_plbReadAct (o m s) : StreamsFit (plbReadAct o m s) ↔ StreamsFit s := by simp [plbReadAct]
@[simp] theorem fits_plbWrite (o v s) : StreamsFit (plbWrite o v s) ↔ StreamsFit s := by simp [plbWrite]
@[simp] theorem fits_dieWrite (c j v s) : StreamsFit (dieWrite c j v s) ↔ StreamsFit s := by simp [dieWrite]
@[simp] theorem fits_pinctl (c b s) : StreamsFit (pinctl c b s) ↔ StreamsFit s := by simp [pinctl]

@[simp] theorem fits_fenceCfgWrite (c v act s) :
    StreamsFit (fenceCfgWrite c v act s) ↔ StreamsFit s := by simp [fenceCfgWrite]

@[simp] theorem fits_fenceDataRead (c s) (hs : StreamsFit s) : StreamsFit (fenceDataRead c s).2 := by
  unfold fenceDataRead; split <;> simp [hs]

@[simp] theorem fits_fenceDataWrite (c v s) (hs : StreamsFit s) : StreamsFit (fenceDataWrite c v s) := by
  unfold fenceDataWrite; split <;> simp [hs]

@[simp] theorem fits_chReadAct (c o m s) : StreamsFit (chReadAct c o m s) ↔ StreamsFit s := by simp [chReadAct]
@[simp] theorem fits_chWrite (c o m v act s) : StreamsFit (chWrite c o m v act s) ↔ StreamsFit s := by simp [chWrite]

/-! ## Port -/

@[simp] theorem fits_regReadAct (o m s) (hs : StreamsFit s) : StreamsFit (regReadAct o m s) := by simp [regReadAct, hs]

theorem fits_actRead {o m s p} (hs : StreamsFit s) : actRead o m s = some p → StreamsFit p.2 := by
  unfold actRead
  refine fits_of_ite ?_ (fits_of_ite ?_ fits_of_none)
  · refine fits_of_ite fits_of_none (fits_of_ite ?_ ?_)
    · exact fits_of_some (fits_if_snd (fits_fenceDataRead _ _ hs) hs)
    · split
      · exact fits_of_some (fits_mk_snd (fits_readMem _ _ _ _ _ hs))
      · exact fits_of_none
  · exact fits_of_some (fits_splitWord _ _ _ _ hs)

@[simp] theorem fits_regWrite (o m d s) (hs : StreamsFit s) : StreamsFit (regWrite o m d s) := by
  unfold regWrite
  generalize windowOf o = w
  generalize merge (regRead o s) d m = v
  generalize d &&& m = act
  repeat' first | with_reducible apply fits_if | split
  all_goals simp [hs]

@[simp] theorem fits_answer (p s) : StreamsFit (answer p s) ↔ StreamsFit s := Iff.rfl

@[simp] theorem fits_hawkAlloc (k s) (hs : StreamsFit s) : StreamsFit (hawkAlloc k s) := by
  unfold hawkAlloc
  split
  · simp [fits_alloc ‹_› hs]
  · simp [hs]

@[simp] theorem fits_burstRead (o s) (hs : StreamsFit s) : StreamsFit (burstRead o s).2 := by
  unfold burstRead
  split
  · exact fits_mk_snd (fits_foldl_snd _ _ hs fun _ _ => fits_splitWord _ _ _ _)
  · split <;> exact fits_of_snd ‹_› (fits_windowRead ((o - 0x800000) / 8) 8 0xFF s hs)

@[simp] theorem fits_dataWindow (i k f s) (hs : StreamsFit s) : StreamsFit (dataWindow i k f s) := by
  unfold dataWindow
  split
  · simp [hs]
  · split
    · simp [hs]
    · split
      · simp [fits_windowPop ‹_› hs]
      · simp [hs]

@[simp] theorem fits_maskSync (f s) : StreamsFit (maskSync f s) ↔ StreamsFit s := by simp [maskSync]

@[simp] theorem fits_portRead (o f s) (hs : StreamsFit s) : StreamsFit (portRead o f s) := by
  unfold portRead; dsimp only
  repeat' split
  any_goals simp [hs]
  · exact fits_of_snd ‹_› (fits_windowRead _ _ _ _ hs)
  · exact fits_of_snd ‹_› (fits_windowRead _ _ _ _ hs)
  · exact fits_actRead hs ‹_›

@[simp] theorem fits_portAct (r s) (hs : StreamsFit s) : StreamsFit (portAct r s) := by simp [portAct, hs]

@[simp] theorem fits_portGoFuel : ∀ fuel s, StreamsFit s → StreamsFit (portGoFuel fuel s)
  | 0, _, hs => hs
  | fuel + 1, s, hs => by
    unfold portGoFuel
    split
    · exact hs
    · split <;> simp [fits_portGoFuel fuel, hs]

@[simp] theorem fits_portGo (s) (hs : StreamsFit s) : StreamsFit (portGo s) := by simp [portGo, hs]
@[simp] theorem fits_portSubmit (r s) (hs : StreamsFit s) : StreamsFit (portSubmit r s) := by simp [portSubmit, hs]

end Sys2Proof.Machine
end

section
/-! SUPPORT. Every command keeps streams that fit (R387, R389). -/

namespace Sys2Proof.Machine

open Sys2Proof

/-! ## Alu -/

@[simp] theorem effFits_semExtr (c t w s) (hs : StreamsFit s) : EffFits (semExtr c t w s) := by simp [semExtr, hs]
@[simp] theorem effFits_semInsr (c t w s) (hs : StreamsFit s) : EffFits (semInsr c t w s) := by simp [semInsr, hs]
@[simp] theorem effFits_semLimm (c t w s) (hs : StreamsFit s) : EffFits (semLimm c t w s) := by simp [semLimm, hs]

/-! ## Branch -/

@[simp] theorem effFits_semBr (c t w s) (hs : StreamsFit s) : EffFits (semBr c t w s) := by simp [semBr, hs]
@[simp] theorem effFits_semCb (c t w s) (hs : StreamsFit s) : EffFits (semCb c t w s) := by simp [semCb, hs]
@[simp] theorem fits_link (c t s) (hs : StreamsFit s) : StreamsFit (link c t s) := by simp [link, hs]
@[simp] theorem effFits_semCall (c t w s) (hs : StreamsFit s) : EffFits (semCall c t w s) := by simp [semCall, hs]
@[simp] theorem effFits_semCallr (c t w s) (hs : StreamsFit s) : EffFits (semCallr c t w s) := by simp [semCallr, hs]
@[simp] theorem effFits_semRet (c t w s) (hs : StreamsFit s) : EffFits (semRet c t w s) := by simp [semRet, hs]
@[simp] theorem effFits_semEvret (c t w s) (hs : StreamsFit s) : EffFits (semEvret c t w s) := by simp [semEvret, hs]

/-! ## Decimal -/

@[simp] theorem effFits_formD (c t f w s) (hs : StreamsFit s) : EffFits (formD c t f w s) := by simp [formD, hs]
@[simp] theorem effFits_formD1 (c t f w s) (hs : StreamsFit s) : EffFits (formD1 c t f w s) := by simp [formD1, hs]

/-! ## Events -/

@[simp] theorem fits_srvPublish (n s) (hs : StreamsFit s) : StreamsFit (srvPublish n s) := hs

@[simp] theorem fits_servoFault (mech loop s) (hs : StreamsFit s) :
    StreamsFit (servoFault mech loop s) := by simp [servoFault, hs]

@[simp] theorem fits_icPresent (s) (hs : StreamsFit s) : StreamsFit (icPresent s) := by simp [icPresent, hs]

@[simp] theorem fits_rdWaitExpiry (s) (hs : StreamsFit s) : StreamsFit (rdWaitExpiry s) := by
  unfold rdWaitExpiry
  split
  · exact fits_if (fits_portGo _ (fits_windowExpire _ _ hs)) hs
  · exact hs

/-! ## Commands -/

section

variable {s : State} (hs : StreamsFit s)
include hs

theorem outFits_issue {c t key sem} (h : ∀ w u, StreamsFit u → EffFits (sem w u)) :
    OutFits (.next (issue c t key sem s)) :=
  outFits_next (fits_issue _ _ _ _ _ h hs)

theorem outFits_admin {op f} (h : ∀ e u, StreamsFit u → StreamsFit (f e u)) : OutFits (.next (admin op f s)) :=
  outFits_next (fits_admin _ _ _ h hs)

theorem outFits_putReg {off a v} : OutFits (putReg off a v s) := outFits_next (fits_portSubmit _ _ hs)
theorem outFits_getReg {off a} : OutFits (getReg off a s) := outFits_next (fits_portSubmit _ _ hs)

theorem outFits_execMove {c t} : OutFits (execMove c t s) := by
  unfold execMove
  split
  · exact outFits_next (fits_moveOn _ _ _ hs)
  · exact outFits_issue hs fun _ _ => effFits_semMove _ _ _ _

theorem outFits_execQpost {c t} : OutFits (execQpost c t s) := by
  unfold execQpost
  split
  · exact outFits_next (fits_retry _ _ _ _ _ (fun _ => by simp [hs]) hs)
  · exact outFits_issue hs fun _ _ => effFits_semQpost _ _ _ _

theorem outFits_execWaittExpiry {c t} : OutFits (execWaittExpiry c t s) := by
  unfold execWaittExpiry
  split <;> exact outFits_next (by simp [hs])

theorem outFits_execEndProg {c t} : OutFits (execEndProg c t s) := by
  unfold execEndProg
  split
  · exact outFits_next (fits_tryEnd _ _ _ hs)
  · exact outFits_issue hs fun _ _ => effFits_semEnd _ _ _ _

theorem exec_fits : ∀ i : Instr, OutFits (exec i s)
  | .sqTailDoorbell _ _ _ => outFits_putReg hs
  | .cqHeadDoorbell _ _ _ => outFits_putReg hs
  | .registerWrite _ _ _ => outFits_putReg hs
  | .calRecordWrite _ _ _ => outFits_putReg hs
  | .icMsgWrite _ _ => outFits_putReg hs
  | .icMaskSyncRead _ => outFits_getReg hs
  | .icEoiWrite _ _ _ => outFits_putReg hs
  | .hawkAllocRead _ _ => outFits_getReg hs
  | .hawkFreeWrite _ _ _ => outFits_putReg hs
  | .hawkPoolCfgWrite _ _ _ => outFits_putReg hs
  | .streamDataWindowRead _ _ _ => outFits_getReg hs
  | .rdWaitExpiry => outFits_next (fits_rdWaitExpiry _ hs)
  | .flush _ _ _ => outFits_putReg hs
  | .streamEnableWrite _ _ _ => outFits_putReg hs
  | .dmaSdoorWrite _ _ _ => outFits_putReg hs
  | .senableWrite _ _ _ => outFits_putReg hs
  | .qeQctlEnable _ _ _ => outFits_putReg hs
  | .qeQctlDisable _ _ _ => outFits_putReg hs
  | .qeQctlReserved _ _ _ => outFits_putReg hs
  | .registerColdReset _ _ => outFits_putReg hs
  | .registerWarmReset _ => outFits_putReg hs
  | .haltEvidenceClear _ => outFits_putReg hs
  | .chPatchGo _ _ _ => outFits_putReg hs
  | .patchCopy _ => outFits_next (fits_patchCopy _ _ hs)
  | .fenceFill _ _ _ => outFits_putReg hs
  | .fenceFillEnd _ => outFits_next (fits_fillEnd _ _ hs)
  | .chFenceDataRead _ _ => outFits_getReg hs
  | .chFenceDataWrite _ _ _ => outFits_putReg hs
  | .chDieWrite _ _ _ _ => outFits_putReg hs
  | .chPinctlWrite _ _ _ => outFits_putReg hs
  | .pwrDomainOn _ _ => outFits_putReg hs
  | .pwrDomainSleep _ _ => outFits_putReg hs
  | .pwrRetentionRequest _ _ => outFits_putReg hs
  | .intBankRetireWrite _ _ => outFits_putReg hs
  | .poolWithholdEnd _ => outFits_next (fits_if (fits_portGo _ (by simp [hs])) hs)
  | .splitWindowRead _ _ => outFits_getReg hs
  | .splitWindowWrite _ _ _ => outFits_putReg hs
  | .primerWindowRead _ _ => outFits_getReg hs
  | .prmNop _ => outFits_putReg hs
  | .prmRead _ => outFits_putReg hs
  | .prmProgram _ => outFits_putReg hs
  | .prmErase _ => outFits_putReg hs
  | .prmSuspend _ => outFits_putReg hs
  | .prmResume _ => outFits_putReg hs
  | .prmReadFactory _ => outFits_putReg hs
  | .prmRotate _ => outFits_putReg hs
  | .prmEraseVerify _ => outFits_putReg hs
  | .prmReservedCmd _ _ => outFits_putReg hs
  | .prmPulseEnd _ => outFits_next ((fits_pulseEnd ..).2 hs)
  | .prmWindowEnable _ _ => outFits_putReg hs
  | .lathProbeGo _ _ => outFits_putReg hs
  | .probeTimeout => outFits_next ((fits_probeTimeout ..).2 hs)
  | .lathSelfWrite _ _ => outFits_putReg hs
  | .lathNodeWrite _ _ _ => outFits_putReg hs
  | .lathPortEnable _ _ _ => outFits_putReg hs
  | .srvFaultInfoRead _ => outFits_getReg hs
  | .plbFaultInfoRead _ => outFits_getReg hs
  | .lathEventRead _ => outFits_getReg hs
  | .intErrlogRead _ => outFits_getReg hs
  | .chLdpcStatRead _ _ => outFits_getReg hs
  | .strStatusRead _ _ => outFits_getReg hs
  | .gctlSoftStateRead _ => outFits_getReg hs
  | .pwrTokenStateRead _ => outFits_getReg hs
  | .intBankRetireRead _ => outFits_getReg hs
  | .lathPortStateRead _ _ => outFits_getReg hs
  | .add _ _ => outFits_issue hs fun _ _ h => effFits_formR _ _ _ _ _ _ h
  | .addi _ _ => outFits_issue hs fun _ _ h => effFits_formI _ _ _ _ _ _ h
  | .sub _ _ => outFits_issue hs fun _ _ h => effFits_formR _ _ _ _ _ _ h
  | .subi _ _ => outFits_issue hs fun _ _ h => effFits_formI _ _ _ _ _ _ h
  | .and _ _ => outFits_issue hs fun _ _ h => effFits_formR _ _ _ _ _ _ h
  | .andi _ _ => outFits_issue hs fun _ _ h => effFits_formI _ _ _ _ _ _ h
  | .or _ _ => outFits_issue hs fun _ _ h => effFits_formR _ _ _ _ _ _ h
  | .ori _ _ => outFits_issue hs fun _ _ h => effFits_formI _ _ _ _ _ _ h
  | .xor _ _ => outFits_issue hs fun _ _ h => effFits_formR _ _ _ _ _ _ h
  | .xori _ _ => outFits_issue hs fun _ _ h => effFits_formI _ _ _ _ _ _ h
  | .shl _ _ => outFits_issue hs fun _ _ h => effFits_formR _ _ _ _ _ _ h
  | .shli _ _ => outFits_issue hs fun _ _ h => effFits_formI _ _ _ _ _ _ h
  | .shr _ _ => outFits_issue hs fun _ _ h => effFits_formR _ _ _ _ _ _ h
  | .shri _ _ => outFits_issue hs fun _ _ h => effFits_formI _ _ _ _ _ _ h
  | .sar _ _ => outFits_issue hs fun _ _ h => effFits_formR _ _ _ _ _ _ h
  | .sari _ _ => outFits_issue hs fun _ _ h => effFits_formI _ _ _ _ _ _ h
  | .ror _ _ => outFits_issue hs fun _ _ h => effFits_formR _ _ _ _ _ _ h
  | .rori _ _ => outFits_issue hs fun _ _ h => effFits_formI _ _ _ _ _ _ h
  | .minu _ _ => outFits_issue hs fun _ _ h => effFits_formR _ _ _ _ _ _ h
  | .maxu _ _ => outFits_issue hs fun _ _ h => effFits_formR _ _ _ _ _ _ h
  | .popc _ _ => outFits_issue hs fun _ _ h => effFits_formU _ _ _ _ _ _ h
  | .clz _ _ => outFits_issue hs fun _ _ h => effFits_formU _ _ _ _ _ _ h
  | .ctz _ _ => outFits_issue hs fun _ _ h => effFits_formU _ _ _ _ _ _ h
  | .extr _ _ => outFits_issue hs fun _ _ h => effFits_semExtr _ _ _ _ h
  | .insr _ _ => outFits_issue hs fun _ _ h => effFits_semInsr _ _ _ _ h
  | .mul _ _ => outFits_issue hs fun _ _ h => effFits_formR _ _ _ _ _ _ h
  | .mulhu _ _ => outFits_issue hs fun _ _ h => effFits_formR _ _ _ _ _ _ h
  | .muli _ _ => outFits_issue hs fun _ _ h => effFits_formI _ _ _ _ _ _ h
  | .mov _ _ => outFits_issue hs fun _ _ h => effFits_formU _ _ _ _ _ _ h
  | .limm _ _ => outFits_issue hs fun _ _ h => effFits_semLimm _ _ _ _ h
  | .seq _ _ => outFits_issue hs fun _ _ h => effFits_formR _ _ _ _ _ _ h
  | .seqi _ _ => outFits_issue hs fun _ _ h => effFits_formI _ _ _ _ _ _ h
  | .sne _ _ => outFits_issue hs fun _ _ h => effFits_formR _ _ _ _ _ _ h
  | .snei _ _ => outFits_issue hs fun _ _ h => effFits_formI _ _ _ _ _ _ h
  | .slt _ _ => outFits_issue hs fun _ _ h => effFits_formR _ _ _ _ _ _ h
  | .slti _ _ => outFits_issue hs fun _ _ h => effFits_formI _ _ _ _ _ _ h
  | .sltu _ _ => outFits_issue hs fun _ _ h => effFits_formR _ _ _ _ _ _ h
  | .sltui _ _ => outFits_issue hs fun _ _ h => effFits_formI _ _ _ _ _ _ h
  | .sle _ _ => outFits_issue hs fun _ _ h => effFits_formR _ _ _ _ _ _ h
  | .slei _ _ => outFits_issue hs fun _ _ h => effFits_formI _ _ _ _ _ _ h
  | .sleu _ _ => outFits_issue hs fun _ _ h => effFits_formR _ _ _ _ _ _ h
  | .sleui _ _ => outFits_issue hs fun _ _ h => effFits_formI _ _ _ _ _ _ h
  | .br _ _ => outFits_issue hs fun _ _ h => effFits_semBr _ _ _ _ h
  | .cb _ _ => outFits_issue hs fun _ _ h => effFits_semCb _ _ _ _ h
  | .call _ _ => outFits_issue hs fun _ _ h => effFits_semCall _ _ _ _ h
  | .callr _ _ => outFits_issue hs fun _ _ h => effFits_semCallr _ _ _ _ h
  | .ret _ _ => outFits_issue hs fun _ _ h => effFits_semRet _ _ _ _ h
  | .evret _ _ => outFits_issue hs fun _ _ h => effFits_semEvret _ _ _ _ h
  | .ld _ _ => outFits_issue hs fun _ _ h => effFits_semLd _ _ _ _ h
  | .lds _ _ => outFits_issue hs fun _ _ h => effFits_semLds _ _ _ _ h
  | .st _ _ => outFits_issue hs fun _ _ h => effFits_semSt _ _ _ _ h
  | .swap _ _ => outFits_issue hs fun _ _ h => effFits_semSwap _ _ _ _ h
  | .fadd _ _ => outFits_issue hs fun _ _ h => effFits_semFadd _ _ _ _ h
  | .dop _ _ => outFits_issue hs fun _ _ h => effFits_semDop _ _ _ _ h
  | .dopw _ _ => outFits_issue hs fun _ _ h => effFits_semDopw _ _ _ _ h
  | .dopt _ _ => outFits_issue hs fun _ _ h => effFits_semDopt _ _ _ _ h
  | .prgr _ _ => outFits_issue hs fun _ _ h => effFits_semPrgr _ _ _ _ h
  | .calcommitChange _ _ => outFits_issue hs fun _ _ h => effFits_semCalcommit _ _ _ _ _ h
  | .calcommitRevalidate _ _ => outFits_issue hs fun _ _ h => effFits_semCalcommit _ _ _ _ _ h
  | .move _ _ => outFits_execMove hs
  | .halloc _ _ => outFits_issue hs fun _ _ h => effFits_semHalloc _ _ _ _ h
  | .hfree _ _ => outFits_issue hs fun _ _ h => effFits_semHfree _ _ _ _ h
  | .openCtx _ _ => outFits_issue hs fun _ _ h => effFits_semRcmd _ _ _ _ _ h
  | .accumulate _ _ => outFits_issue hs fun _ _ h => effFits_semRcmd _ _ _ _ _ h
  | .parityOut _ _ => outFits_issue hs fun _ _ h => effFits_semRcmd _ _ _ _ _ h
  | .rebuild _ _ => outFits_issue hs fun _ _ h => effFits_semRcmd _ _ _ _ _ h
  | .release _ _ => outFits_issue hs fun _ _ h => effFits_semRcmd _ _ _ _ _ h
  | .closeCtx _ _ => outFits_issue hs fun _ _ h => effFits_semRcmd _ _ _ _ _ h
  | .renderFetchEnd _ _ _ => outFits_next (fits_fetchEnd _ _ _ _ hs)
  | .renderFetchTimeout _ _ _ => outFits_next (fits_fetchTimeout _ _ _ _ hs)
  | .plbrd _ _ => outFits_issue hs fun _ _ h => effFits_semPlbrd _ _ _ _ h
  | .plbwr _ _ => outFits_issue hs fun _ _ h => effFits_semPlbwr _ _ _ _ h
  | .plbrst _ _ => outFits_issue hs fun _ _ h => effFits_semPlbrst _ _ _ _ h
  | .plbfrzFreeze _ _ => outFits_issue hs fun _ _ h => effFits_semPlbfrz _ _ _ _ _ h
  | .plbfrzResume _ _ => outFits_issue hs fun _ _ h => effFits_semPlbfrz _ _ _ _ _ h
  | .qpost _ _ => outFits_execQpost hs
  | .endProg _ _ => outFits_execEndProg hs
  | .feat _ _ => outFits_issue hs fun _ _ h => effFits_semFeat _ _ _ _ h
  | .time _ _ => outFits_issue hs fun _ _ h => effFits_semTime _ _ _ _ h
  | .waitt _ _ => outFits_issue hs fun _ _ h => effFits_semWaitt _ _ _ _ h
  | .waittExpiry _ _ => outFits_execWaittExpiry hs
  | .waite _ _ => outFits_issue hs fun _ _ h => effFits_semWaite _ _ _ _ h
  | .sigset _ _ => outFits_issue hs fun _ _ h => effFits_semSigset _ _ _ _ h
  | .nop _ _ => outFits_issue hs fun _ _ h => effFits_semNop _ _ _ _ h
  | .dadd _ _ => outFits_issue hs fun _ _ h => effFits_formD _ _ _ _ _ h
  | .dsub _ _ => outFits_issue hs fun _ _ h => effFits_formD _ _ _ _ _ h
  | .dadj _ _ => outFits_issue hs fun _ _ h => effFits_formD1 _ _ _ _ _ h
  | .bcd2bin _ _ => outFits_issue hs fun _ _ h => effFits_formD1 _ _ _ _ _ h
  | .bin2bcd _ _ => outFits_issue hs fun _ _ h => effFits_formD1 _ _ _ _ _ h
  | .msfadd _ _ => outFits_issue hs fun _ _ h => effFits_formR _ _ _ _ _ _ h
  | .msfsub _ _ => outFits_issue hs fun _ _ h => effFits_formR _ _ _ _ _ _ h
  | .msf2n _ _ => outFits_issue hs fun _ _ h => effFits_formU _ _ _ _ _ _ h
  | .n2msf _ _ => outFits_issue hs fun _ _ h => effFits_formU _ _ _ _ _ _ h
  | .dslt _ _ => outFits_issue hs fun _ _ h => effFits_formD _ _ _ _ _ h
  | .abort => outFits_admin hs fun _ _ h => fits_adminAbort _ _ h
  | .entryTakenByThread _ => outFits_next (fits_entryTaken _ _ hs)
  | .calibrationStart _ => outFits_next ((fits_calibrationStart ..).2 hs)
  | .routineStart _ => outFits_next (fits_routineStart _ _ hs)
  | .idle _ => outFits_next (fits_microStep _ _ _ _ hs)
  | .cmd _ => outFits_next (fits_microStep _ _ _ _ hs)
  | .addr _ => outFits_next (fits_microStep _ _ _ _ hs)
  | .din _ => outFits_next (fits_microStep _ _ _ _ hs)
  | .dout _ _ => outFits_next (fits_microStep _ _ _ _ hs)
  | .stat _ _ => outFits_next (fits_microStep _ _ _ _ hs)
  | .trainOut _ _ => outFits_next (fits_microStep _ _ _ _ hs)
  | .trainIn _ => outFits_next (fits_microStep _ _ _ _ hs)
  | .softHandoff _ => outFits_next (fits_microStep _ _ _ _ hs)
  | .routineEnd _ _ => outFits_next (fits_microStep _ _ _ _ hs)
  | .outcomeWrite _ _ => outFits_next (fits_outcomeWrite _ _ _ hs)
  | .parkExpiry _ _ => outFits_next ((fits_parkExpiry ..).2 hs)
  | .readyTimeout _ _ => outFits_next ((fits_readyTimeout ..).2 hs)
  | .routineKill _ _ => outFits_next (fits_routineKill _ _ _ hs)
  | .pumpStartAdmit => outFits_next (by split <;> simp [hs])
  | .dqGuardRelease _ _ => outFits_next (fits_guardRelease _ _ _ hs)
  | .tokenReturn => outFits_next ((fits_tokenReturn ..).2 hs)
  | .hardDecodeEnd _ => outFits_next (fits_hardEnd _ _ hs)
  | .softAssign => outFits_next (fits_softAssign _ hs)
  | .softDecodeEnd _ => outFits_next (fits_softEnd _ _ hs)
  | .calWindowOpen _ => outFits_next ((fits_windowOpen ..).2 hs)
  | .calMeasureEnd _ _ => outFits_next ((fits_measureEnd ..).2 hs)
  | .fetchTurn => outFits_next (fits_fetchTurn _ hs)
  | .entryCheck _ _ => outFits_next (fits_entryCheck _ _ _ hs)
  | .contextReadDone _ _ _ => outFits_next (fits_ctxReadDone _ _ _ hs)
  | .contextWriteResponse _ _ _ => outFits_next (fits_ctxWriteResp _ _ _ _ hs)
  | .fragmentTableReadDone _ _ => outFits_next (fits_fragDone _ _ _ hs)
  | .entryBufferAlloc _ => outFits_next (fits_bufferAlloc _ _ hs)
  | .entryDispatch _ => outFits_next (fits_entryDispatch _ _ hs)
  | .completionPost _ => outFits_next (fits_completionPost _ _ hs)
  | .completionWriteResponse _ _ => outFits_next (fits_completionResp _ _ _ _ hs)
  | .batchPost _ => outFits_next (fits_batchPost _ _ hs)
  | .batchTimeExpiry _ => outFits_next (fits_batchExpiry _ _ hs)
  | .indexPublish _ _ _ => outFits_next (fits_indexPublish _ _ _ hs)
  | .adminNop => outFits_admin hs fun _ _ h => (fits_finishEntry ..).2 h
  | .createCq => outFits_admin hs fun _ _ h => fits_adminCreate _ _ _ h
  | .createSq => outFits_admin hs fun _ _ h => fits_adminCreate _ _ _ h
  | .deleteSq => outFits_admin hs fun _ _ h => fits_adminDeleteSq _ _ h
  | .deleteCq => outFits_admin hs fun _ _ h => fits_adminDeleteCq _ _ h
  | .disableSq => outFits_admin hs fun _ _ h => fits_adminDisable _ _ h
  | .enableSq => outFits_admin hs fun _ _ h => fits_adminEnable _ _ h
  | .setArb => outFits_admin hs fun _ _ h => fits_adminSetArb _ _ h
  | .dmaDescriptorReadDone _ _ => outFits_next (fits_descReadDone _ _ _ hs)
  | .dmaDataResponse _ _ _ _ => outFits_next (fits_dataResponse _ _ _ _ _ hs)
  | .dmaWritebackResponse _ _ _ => outFits_next (fits_wbackResponse _ _ _ _ hs)
  | .dmaStreamBurst _ => outFits_next (fits_streamBurst _ _ hs)
  | .streamWordIn _ _ _ => outFits_next (by simp [hs])
  | .srvPublish _ => outFits_next (fits_srvPublish _ _ hs)
  | .servoFaultMsg _ _ => outFits_next (fits_servoFault _ _ _ hs)
  | .icPresent => outFits_next (fits_icPresent _ hs)
  | .taken _ => outFits_next (by simp [hs])
  | .holdoffExpiry _ => outFits_next (by simp [hs])
  | .pwrGrantRise _ => outFits_next (fits_grantRise _ _ hs)
  | .pwrGrantFall _ => outFits_next (fits_grantFall _ _ hs)
  | .retGrant _ => outFits_next (fits_retGrant _ _ hs)
  | .quiescence _ => outFits_next (fits_quiescence _ _ hs)
  | .quadLoad _ => outFits_next (fits_quadLoad _ _ hs)
  | .stgInitEnd => outFits_next (fits_stgInitEnd _ hs)
  | .pfailRise => outFits_next (by simp [hs])
  | .pfailFall => outFits_next hs
  | .brownoutRise => outFits_next (by simp [hs])
  | .brownoutFall => outFits_next (by simp [hs])
  | .powerOnReset => outFits_next (fits_coldState _ _ _)
  | .fuseWord _ => outFits_next (fits_fuseWord _ _ hs)
  | .fuseTimeout => outFits_next (fits_fuseTimeout _ hs)
  | .bootInitEnd => outFits_next ((fits_bootInitEnd ..).2 hs)
  | .bootJournal => outFits_next (fits_bootJournal _ hs)
  | .bootDirectory => outFits_next (fits_bootDirectory _ hs)
  | .lathRequest _ _ => outFits_next (fits_deliverAs _ _ _ _ hs)
  | .lathData _ _ => outFits_next (fits_deliverAs _ _ _ _ hs)
  | .lathAccept _ _ => outFits_next (fits_deliverAs _ _ _ _ hs)
  | .lathComplete _ _ => outFits_next (fits_deliverAs _ _ _ _ hs)
  | .lathReject _ _ => outFits_next (fits_deliverAs _ _ _ _ hs)
  | .lathAbort _ _ => outFits_next (fits_deliverAs _ _ _ _ hs)
  | .lathAbortResult _ _ => outFits_next (fits_deliverAs _ _ _ _ hs)
  | .lathHeartbeat _ _ => outFits_next (fits_deliverAs _ _ _ _ hs)
  | .lathProbe _ _ => outFits_next (fits_deliverAs _ _ _ _ hs)
  | .lathProbeReply _ _ => outFits_next (fits_deliverAs _ _ _ _ hs)
  | .lathHello _ _ => outFits_next (fits_helloIn _ _ _ hs)
  | .lathLink _ _ => outFits_next (fits_linkIn _ _ _ hs)
  | .lathFrameForward _ _ => outFits_next (fits_forward _ _ _ hs)
  | .linkTrainStep _ _ => outFits_next ((fits_trainStep ..).2 hs)
  | .linkTrainRetry _ => outFits_next ((fits_trainRetry ..).2 hs)
  | .heartbeatTimer _ => outFits_next ((fits_heartbeat ..).2 hs)
  | .remoteTimeout _ => outFits_next (fits_remoteTimeout _ _ hs)
  | .brownOutDetectorTrip => outFits_next ((fits_tripDetector ..).2 hs)
  | .brownOutDetectorRelease => outFits_next (by simp [hs])
  | .lathNoLink _ => outFits_next (by simp [hs])
end

/-- Settles O4: a step is the command at the front of the queue, or a tick of TIME with the Lath's waiting frames and
the port's held transactions; neither makes a stream hold more than its places. -/
theorem streamsStayInCapacity : Obligations.StreamsStayInCapacity := by
  unfold Obligations.StreamsStayInCapacity
  intro s t hs hstep
  unfold step at hstep
  split at hstep
  · cases hstep
    exact fits_portGo _ (fits_lathGo _ hs)
  · next c cs _ => exact exec_fits (s := { s with pending := cs }) hs c t hstep

end Sys2Proof.Machine
end

section
/-! SUPPORT. IC_MSG, and the choice of the source and the processor (R408, R411, R412). -/

namespace Sys2Proof.Machine

open Sys2Proof Sys2Proof.Spec

/-! ## IC_MSG -/

/-- A write that covers the low half of IC_MSG hands SOURCE on. -/
theorem icMsgWrite_low {a : Acc} {v : W64} {s : State} (hs : PortFree s) (ha : a = .full ∨ a = .low) :
    exec (.icMsgWrite a v) s = wrote (icMsg (fld v 0 18) (atPort s)) := by
  have hw : Word a := ha.imp_right .inl
  have hlow : low a = true := by rcases ha with rfl | rfl <;> rfl
  have hmask : fld (covered a) 0 18 ≠ 0 := by rcases ha with rfl | rfl <;> decide
  calc exec (.icMsgWrite a v) s
      = wrote (icWrite 0 (covered a) (stored a (regRead 0x400000 s) v) (given a v) (atPort s)) :=
        registerWrite_ic (x := 0x400000) hs hw rfl (by decide) rfl v
    _ = wrote (icMsg (fld (given a v) 0 18) (atPort s)) := congrArg wrote (if_pos hmask)
    _ = wrote (icMsg (fld v 0 18) (atPort s)) := by rw [fld_given hw hlow v (by decide)]

/-- The sources that a message may not name. -/
theorem message_refused_iff (n : Nat) : (decide (nSrc ≤ n) || isLevel n || isReservedSrc n) = true ↔
    132096 ≤ n ∨ n = 131073 ∨ n = 131084 ∨ (131085 ≤ n ∧ n ≤ 131327) := by
  simp only [isLevel, isReservedSrc, Bool.or_eq_true, Bool.and_eq_true, decide_eq_true_eq, or_assoc]
  rfl

/-- Settles O10, by the number that SOURCE holds. -/
theorem messages : Obligations.Messages := by
  rintro a v n s hs ha rfl
  have hsrc : (fld v 0 18).toNat = bits v 0 18 := fld_toNat ..
  rw [icMsgWrite_low hs ha, icMsg]
  constructor
  · intro hlt hpfail hstall hres
    rw [hsrc, if_neg ((message_refused_iff _).not.mpr (by omega))]
  · intro hbad
    rw [hsrc, if_pos ((message_refused_iff _).mpr hbad), fld_eq_ofNat_bits]
    rfl

/-! ## The first of a list after a number -/

theorem firstAfter_eq_none {last : Nat} {xs : List Nat} (h : firstAfter last xs = none) : xs = [] := by
  unfold firstAfter at h
  cases hm : (xs.filter (last < ·)).min? with
  | some a => simp [hm] at h
  | none => simpa [hm] using h

/-- What is found is in the list; it is the least above `last`, or, with none above, the least. -/
theorem firstAfter_eq_some {last n : Nat} {xs : List Nat} (h : firstAfter last xs = some n) :
    n ∈ xs ∧ ∀ m ∈ xs, (last < n → last < m → n ≤ m) ∧ (n ≤ last → m ≤ last ∧ n ≤ m) := by
  unfold firstAfter at h
  cases hm : (xs.filter (last < ·)).min? with
  | some a =>
    obtain rfl : a = n := by simpa [hm] using h
    obtain ⟨hmem, hle⟩ := List.min?_eq_some_iff.mp hm
    obtain ⟨hin, hlast⟩ := List.mem_filter.mp hmem
    have hlt : last < a := of_decide_eq_true hlast
    exact ⟨hin, fun m hmx => ⟨fun _ hl => hle m (List.mem_filter.mpr ⟨hmx, decide_eq_true hl⟩), fun hge => by omega⟩⟩
  | none =>
    have hmin : xs.min? = some n := by simpa [hm] using h
    have hnone : ∀ m ∈ xs, m ≤ last := by simpa [List.filter_eq_nil_iff] using hm
    obtain ⟨hin, hle⟩ := List.min?_eq_some_iff.mp hmin
    exact ⟨hin, fun m hmx => ⟨fun _ _ => hle m hmx, fun _ => ⟨hnone m hmx, hle m hmx⟩⟩⟩

/-! ## The highest and the lowest value over a list -/

/-- No value of a list is above their maximum. -/
theorem le_foldl_max_of_mem (f : Nat → Nat) {xs : List Nat} {x : Nat} (h : x ∈ xs) (a : Nat) :
    f x ≤ xs.foldl (fun m n => max m (f n)) a := le_foldl_max.mpr (.inr ⟨x, h, Nat.le_refl _⟩)

theorem foldl_min_le (f : Nat → Nat) (xs : List Nat) (a : Nat) :
    xs.foldl (fun m n => min m (f n)) a ≤ a ∧ ∀ x ∈ xs, xs.foldl (fun m n => min m (f n)) a ≤ f x := by
  induction xs generalizing a with
  | nil => exact ⟨Nat.le_refl a, nofun⟩
  | cons y ys ih =>
    obtain ⟨hinit, hrest⟩ := ih (min a (f y))
    exact ⟨hinit.trans (Nat.min_le_left ..), List.forall_mem_cons.mpr ⟨hinit.trans (Nat.min_le_right ..), hrest⟩⟩

/-! ## The candidates -/

/-- A source whose pending bit is set is among those that the pending array lists. -/
theorem mem_pendingSrcs {s : State} {n : Nat} (h : pendOf s n = true) : n ∈ pendingSrcs s := by
  unfold pendOf tget at h
  split at h
  · next e he =>
    have hkey : e.1 = n / 64 := eq_of_beq (List.find?_some (p := fun x : Nat × W64 => x.1 == n / 64) he)
    refine List.mem_flatMap.mpr ⟨e, List.mem_of_find?_eq_some he, List.mem_map.mpr ⟨n % 64, ?_, ?_⟩⟩
    · exact List.mem_filter.mpr ⟨List.mem_range.mpr (Nat.mod_lt _ (by decide)), h⟩
    · rw [hkey, Nat.div_add_mod]
  · simp at h

theorem pendOf_of_eligible {s : State} {n : Nat} (h : eligible s n = true) : pendOf s n = true := by
  simp only [eligible, Bool.and_eq_true] at h
  exact h.1.1.1.1.2

/-- The candidates are the eligible sources that some processor accepts. -/
theorem mem_candidates {s : State} {n : Nat} :
    n ∈ candidates s ↔ eligible s n = true ∧ ∃ p < 16, canAccept s n p = true := by
  simp only [candidates, List.mem_filter, Bool.and_eq_true, List.any_eq_true, List.mem_range]
  exact ⟨fun h => h.2, fun h => ⟨mem_pendingSrcs (pendOf_of_eligible h.1), h⟩⟩

/-- With a candidate, one of the highest PRIO is found. -/
theorem candidates_eq_nil_of_pickSource {s : State} (h : pickSource s = none) : candidates s = [] := by
  have hnone := List.filter_eq_nil_iff.mp (firstAfter_eq_none h)
  simp only [decide_eq_true_eq] at hnone
  refine List.eq_nil_iff_forall_not_mem.mpr fun m hm => ?_
  rcases le_foldl_max.mp (Nat.le_refl ((candidates s).foldl (fun m n => max m (prioOf s n).toNat) 0))
    with hzero | ⟨x, hx, hle⟩
  · have hm' := le_foldl_max_of_mem (fun n => (prioOf s n).toNat) hm 0
    exact hnone m hm (by omega)
  · exact hnone x hx (Nat.le_antisymm (le_foldl_max_of_mem (fun n => (prioOf s n).toNat) hx 0) hle)

theorem pickSource_eq_some {s : State} {n : Nat} (h : pickSource s = some n) : n ∈ candidates s ∧
    ∀ m ∈ candidates s, (prioOf s m).toNat ≤ (prioOf s n).toNat ∧
      (prioOf s m = prioOf s n → ∀ l, l = tget 132095 (prioOf s n).toNat s.ic.lastSrc →
        (l < n → l < m → n ≤ m) ∧ (n ≤ l → m ≤ l ∧ n ≤ m)) := by
  obtain ⟨hmem, hfirst⟩ := firstAfter_eq_some h
  obtain ⟨hn, hprio⟩ := List.mem_filter.mp hmem
  have htop := of_decide_eq_true hprio
  refine ⟨hn, fun m hm => ⟨?_, ?_⟩⟩
  · rw [htop]
    exact le_foldl_max_of_mem (fun n => (prioOf s n).toNat) hm 0
  · rintro hsame l rfl
    rw [htop]
    exact hfirst m (List.mem_filter.mpr ⟨hm, decide_eq_true ((congrArg BitVec.toNat hsame).trans htop)⟩)

theorem pickProc_eq_some {s : State} {n p : Nat} (h : pickProc s n = some p) : canAccept s n p = true ∧
    ∀ k < 16, canAccept s n k = true → runPrio (proc s p) ≤ runPrio (proc s k) ∧
      (runPrio (proc s k) = runPrio (proc s p) → (s.ic.lastProc < p → s.ic.lastProc < k → p ≤ k) ∧
        (p ≤ s.ic.lastProc → k ≤ s.ic.lastProc ∧ p ≤ k)) := by
  obtain ⟨hmem, hfirst⟩ := firstAfter_eq_some h
  obtain ⟨hp, hprio⟩ := List.mem_filter.mp hmem
  have hleast := of_decide_eq_true hprio
  refine ⟨(List.mem_filter.mp hp).2, fun k hk hacc => ?_⟩
  have hin : k ∈ (List.range 16).filter (canAccept s n) := List.mem_filter.mpr ⟨List.mem_range.mpr hk, hacc⟩
  constructor
  · rw [hleast]
    exact (foldl_min_le (fun p => runPrio (proc s p)) _ 16).2 k hin
  · exact fun hsame => hfirst k (List.mem_filter.mpr ⟨hin, decide_eq_true (hsame.trans hleast)⟩)

/-- Settles O12: the candidates are those of R411, and `firstAfter` takes the first after LASTSRC or LASTPROC. -/
theorem pickFollowsRule : Obligations.PickFollowsRule := by
  intro s
  refine ⟨fun h m _ hel p hp => ?_, fun n h => ?_, fun n p h => pickProc_eq_some h⟩
  · have hno : m ∉ candidates s := by simp [candidates_eq_nil_of_pickSource h]
    exact Bool.eq_false_iff.mpr fun hacc => hno (mem_candidates.mpr ⟨hel, p, hp, hacc⟩)
  · obtain ⟨hn, hall⟩ := pickSource_eq_some h
    exact ⟨mem_candidates.mp hn, fun m _ hel hacc => hall m (mem_candidates.mpr ⟨hel, hacc⟩)⟩

end Sys2Proof.Machine
end

section
/-! SUPPORT. Fields of a stored word, and DMA_SDOOR and DMA_CTRL (R59, R367, R368, R370). -/

namespace Sys2Proof.Machine

open Sys2Proof Sys2Proof.Spec

/-! ## Fields that an access covers -/

/-- A field of the low half that an access covers is stored as the data has it. -/
theorem fld_stored {a : Acc} (ha : a = .full ∨ a = .low) (old v : W64) {lo len : Nat} (hl : lo + len ≤ 32) :
    fld (stored a old v) lo len = fld v lo len := by
  have hmask : fld (covered a) lo len = BitVec.allOnes len := by
    ext i hi
    have hlow : low a = true := by rcases ha with rfl | rfl <;> rfl
    have hbit : bit (covered a) (lo + i) = true := (bit_covered_low (ha.imp_right .inl) (by omega)).trans hlow
    simpa [fld, bit, BitVec.getElem_extractLsb'] using hbit
  calc fld (stored a old v) lo len = fld (merge old v (covered a)) lo len := rfl
    _ = fld v lo len := by rw [fld_merge, hmask, merge_allOnes]

theorem bit_fld (v : W64) (i : Nat) : bit (fld v i 1) 0 = bit v i := by simp [bit, fld]

theorem bit_stored {a : Acc} (ha : a = .full ∨ a = .low) (old v : W64) {i : Nat} (hi : i < 32) :
    bit (stored a old v) i = bit v i := by
  rw [← bit_fld, fld_stored ha old v (by omega), bit_fld]

theorem bit_given {a : Acc} (ha : a = .full ∨ a = .low) (v : W64) {i : Nat} (hi : i < 32) :
    bit (given a v) i = bit v i := by
  have hlow : low a = true := by rcases ha with rfl | rfl <;> rfl
  rw [← bit_fld, fld_given (ha.imp_right .inl) hlow v (by omega), bit_fld]

theorem bit_covered_zero {a : Acc} (ha : a = .full ∨ a = .low) : bit (covered a) 0 = true := by
  rcases ha with rfl | rfl <;> rfl

theorem bits_one_lt (v : W64) (i : Nat) : bits v i 1 < 2 := Nat.mod_lt _ (by decide)

theorem bit_eq_false_of_bits {v : W64} {i : Nat} (h : bits v i 1 = 0) : bit v i = false := by
  rw [bit_eq_bits, h]
  rfl

theorem bit_eq_true_of_bits {v : W64} {i : Nat} (h : bits v i 1 = 1) : bit v i = true := by
  rw [bit_eq_bits, h]
  rfl

/-! ## Which engine serves a stream (R367) -/

theorem eng_modEng_other {e k : BitVec 2} (h : k ≠ e) (f : Eng → Eng) (s : State) : eng (modEng e f s) k = eng s k := by
  have hne : k.toNat ≠ e.toNat := fun he => h (BitVec.eq_of_toNat_eq he)
  unfold eng modEng
  rw [tget_tmod, if_neg hne]

theorem mem_of_xferOf {s : State} {r : XferRef} {x : Xfer} (h : xferOf s r = some x) : x.ref = r := by
  simpa using List.find?_some (p := fun y : Xfer => decide (y.ref = r)) h

theorem serves_iff (s : State) (k i : BitVec 2) : serves s k i = true ↔ Serving s k i.toNat := by
  have hstream (d : Dsc) : dscStream d = i ↔ bits d.w1 0 2 = i.toNat := by
    rw [← BitVec.toNat_inj, dscStream, fld_toNat]
    rfl
  have hset : (eng s k).stream = i ↔ (eng s k).stream.toNat = i.toNat := BitVec.toNat_inj.symm
  unfold serves Serving
  cases xferOf s (.stream k) <;> simp [hstream, hset]

theorem serving_modEng_other {e k : BitVec 2} (h : k ≠ e) (f : Eng → Eng) (s : State) (i : Nat) :
    Serving (modEng e f s) k i ↔ Serving s k i := by
  unfold Serving
  rw [eng_modEng_other h]
  exact Iff.rfl

/-- Some engine but `e` serves the stream: the engines' numbers are those of two bits. -/
theorem taken_iff (s : State) (e i : BitVec 2) :
    ((List.range 4).any fun k => k ≠ e.toNat && serves s (BitVec.ofNat 2 k) i) = true ↔
    ∃ k, k ≠ e ∧ Serving s k i.toNat := by
  simp only [List.any_eq_true, List.mem_range, Bool.and_eq_true, decide_eq_true_eq, serves_iff]
  constructor
  · rintro ⟨k, hk, hne, hserving⟩
    refine ⟨BitVec.ofNat 2 k, fun heq => hne ?_, hserving⟩
    rw [← heq, BitVec.toNat_ofNat]
    omega
  · rintro ⟨k, hne, hserving⟩
    exact ⟨k.toNat, k.isLt, fun heq => hne (BitVec.eq_of_toNat_eq heq), by rwa [BitVec.ofNat_toNat, BitVec.setWidth_eq]⟩

/-! ## The registers' writes -/

theorem dmaSdoorWrite_eq {e : BitVec 2} {a : Acc} {s : State} (hs : PortFree s) (ha : Word a) (v : W64) :
    exec (.dmaSdoorWrite e a v) s = wrote (sdoor e (atPort s)) := by
  have he := e.isLt
  refine (registerWrite_word (o := 0x20010 + 0x4000 * e.toNat) hs ha (by omega) (by omega)).trans ?_
  rw [regWrite_dma (o := 0x10) (by omega) he (by decide), BitVec.ofNat_toNat, BitVec.setWidth_eq]
  rfl

theorem senableWrite_eq {e : BitVec 2} {a : Acc} {s : State} (hs : PortFree s) (ha : Word a) (v : W64) :
    ∃ old, exec (.senableWrite e a v) s =
      wrote (if bit (covered a) 0 then dmaCtrl e (stored a old v) (atPort s) else atPort s) := by
  have he := e.isLt
  refine ⟨regRead (0x20000 + 0x4000 * e.toNat) (atPort s),
    (registerWrite_word (o := 0x20000 + 0x4000 * e.toNat) hs ha (by omega) (by omega)).trans ?_⟩
  rw [regWrite_dma (o := 0) (by omega) he (by decide), BitVec.ofNat_toNat, BitVec.setWidth_eq]
  rfl

theorem senableWrite_low {e : BitVec 2} {a : Acc} {s : State} (hs : PortFree s) (ha : a = .full ∨ a = .low) (v : W64) :
    exec (.senableWrite e a v) s = wrote (dmaCtrl e v (atPort s)) := by
  obtain ⟨old, h⟩ := senableWrite_eq (e := e) hs (ha.imp_right .inl) v
  rw [h, if_pos (bit_covered_zero ha)]
  unfold dmaCtrl
  rw [bit_stored ha old v (by decide), fld_stored ha old v (by decide)]

/-! ## DMA_CTRL -/

/-- STREAM is stored while the list is not enabled. -/
def setStream (e : BitVec 2) (v : W64) (s : State) : State :=
  modEng e (fun g => { g with stream := BitVec.ofNat 2 (bits v 1 2) }) s

theorem dmaCtrl_of_disabled {e : BitVec 2} {v : W64} {s : State} (h : (eng s e).senable = false) :
    dmaCtrl e v s = if bit v 0 then senableSet e (setStream e v s) else setStream e v s := by
  simp only [dmaCtrl, setStream, h, fld_eq_ofNat_bits]
  cases bit v 0 <;> rfl

theorem dmaCtrl_of_enabled {e : BitVec 2} {v : W64} {s : State} (h : (eng s e).senable = true) :
    dmaCtrl e v s = if bit v 0 then s else senableClear e s := by
  simp only [dmaCtrl, h]
  cases bit v 0 <;> rfl

/-- What `senableSet` refuses, of the STREAM just stored: streams 0 and 1, and those that another engine serves. -/
theorem refused_setStream (e : BitVec 2) (v : W64) (s : State) {i : BitVec 2}
    (hi : i = (eng (setStream e v s) e).stream) : (i = 0 || i = 1 ||
      ((List.range 4).any fun k => k ≠ e.toNat && serves (setStream e v s) (BitVec.ofNat 2 k) i)) = true ↔
    bits v 1 2 < 2 ∨ ∃ k, k ≠ e ∧ Serving s k (bits v 1 2) := by
  have hnum : i.toNat = bits v 1 2 := by
    rw [hi, setStream, eng_modEng, BitVec.toNat_ofNat]
    exact Nat.mod_mod ..
  have hlow : i = 0 ∨ i = 1 ↔ bits v 1 2 < 2 := by
    rw [← BitVec.toNat_inj, ← BitVec.toNat_inj, hnum]
    change _ = 0 ∨ _ = 1 ↔ _
    omega
  have hserve : (∃ k, k ≠ e ∧ Serving (setStream e v s) k i.toNat) ↔ ∃ k, k ≠ e ∧ Serving s k i.toNat :=
    exists_congr fun k => and_congr_right fun hk => serving_modEng_other hk _ s _
  rw [Bool.or_eq_true, Bool.or_eq_true, decide_eq_true_eq, decide_eq_true_eq, taken_iff, hserve, hlow, hnum]

/-- Such a stream is refused, another starts the list. -/
theorem senableSet_setStream (e : BitVec 2) (v : W64) (s : State) :
    ((bits v 1 2 < 2 ∨ ∃ k, k ≠ e ∧ Serving s k (bits v 1 2)) → senableSet e (setStream e v s) =
      modEng e (fun g => { g with srefused := true }) (setStream e v s)) ∧
    (¬ (bits v 1 2 < 2 ∨ ∃ k, k ≠ e ∧ Serving s k (bits v 1 2)) → senableSet e (setStream e v s) =
      pumpEng e (modXfer (.stream e) (fun y => { y with old := y.descs.length }) (modEng e (fun g => { g with
        senable := true, st := .running, ahead := [], links := 0, rdAt := g.slist.toNat, bad := none })
        (setStream e v s)))) := by
  have hrefuse := refused_setStream e v s rfl
  exact ⟨fun h => if_pos (hrefuse.mpr h), fun h => if_neg (mt hrefuse.mp h)⟩

/-- Settles O30, by `sdoor`, and by `dmaCtrl` of a list that is enabled and of one that is not. -/
theorem dmaCommands : Obligations.DmaCommands := by
  rintro e a v s x g hs ha rfl rfl
  have hctrl (hlow : a = .full ∨ a = .low) := senableWrite_low (e := e) hs hlow v
  refine ⟨fun h => ?_, fun h => ?_, ?_, fun hlow => ⟨fun hdis hset => ⟨fun href => ?_, fun htwo hnone => ?_⟩,
    fun hen hclear => ?_, fun hen hset => ?_, fun hdis hclear => ?_⟩⟩
  · exact (dmaSdoorWrite_eq hs ha v).trans (congrArg wrote (if_pos h))
  · exact (dmaSdoorWrite_eq hs ha v).trans (congrArg wrote (if_neg h))
  · obtain ⟨old, hhigh⟩ := senableWrite_eq (e := e) hs (.inr (.inr rfl)) v
    exact hhigh
  · rw [hctrl hlow, dmaCtrl_of_disabled (s := atPort s) hdis, if_pos (bit_eq_true_of_bits hset)]
    exact congrArg wrote ((senableSet_setStream e v (atPort s)).1 href)
  · have hok : ¬ (bits v 1 2 < 2 ∨ ∃ k, k ≠ e ∧ Serving s k (bits v 1 2)) := by
      rintro (hlt | ⟨k, hk, hserving⟩)
      · omega
      · exact hnone k hk hserving
    rw [hctrl hlow, dmaCtrl_of_disabled (s := atPort s) hdis, if_pos (bit_eq_true_of_bits hset)]
    exact congrArg wrote ((senableSet_setStream e v (atPort s)).2 hok)
  · rw [hctrl hlow, dmaCtrl_of_enabled (s := atPort s) hen, bit_eq_false_of_bits hclear]
    rfl
  · rw [hctrl hlow, dmaCtrl_of_enabled (s := atPort s) hen, if_pos (bit_eq_true_of_bits hset)]
  · rw [hctrl hlow, dmaCtrl_of_disabled (s := atPort s) hdis, bit_eq_false_of_bits hclear]
    rfl

end Sys2Proof.Machine
end

section
/-! SUPPORT. HAWK_ALLOC, HAWK_FREE and HAWK_POOL_CFG (R374-R386). -/

namespace Sys2Proof.Machine

open Sys2Proof Sys2Proof.Spec

/-! ## The registers' accesses -/

/-- A word written in the pools' range, with STG powered; an OPEN of Render that waits may then go on. -/
theorem registerWrite_hawk {a : Acc} {s : State} {x o : Nat} (hs : PortFree s) (ha : Word a) (hp : powered s 1 = true)
    (hx : x = 0x30000 + o) (ho : o < 0x10000) (h8 : o % 8 = 0) (v : W64) : exec (.registerWrite x a v) s =
      wrote (renderOn (hawkWrite o (covered a) (stored a (hawkRead o s) v) (given a v) (atPort s))) := by
  have hthere : stgThere (atPort s) = true := hp
  have he : x - 0x30000 = o := by omega
  have hread : regRead x (atPort s) = hawkRead o s := by
    simp (disch := omega) only [regRead, if_neg, if_pos, hthere, he]
    rfl
  rw [registerWrite_word hs ha (by omega) (by omega)]
  simp (disch := omega) only [regWrite, if_neg, if_pos, hthere, he, hread]
  rfl

theorem hawkFreeWrite_eq {k : Nat} {a : Acc} {s : State} (hs : PortFree s) (ha : Word a) (hp : powered s 1 = true)
    (hk : k < 6) (v : W64) : exec (.hawkFreeWrite k a v) s = wrote (renderOn
      (if bit (covered a) 0 then freeBuffer (fld (given a v) 0 32) (some k) (atPort s) else atPort s)) := by
  have he : (0x200 + 8 * k - 0x200) / 8 = k := by omega
  have hoff : 0x30200 + 8 * k = 0x30000 + (0x200 + 8 * k) := by omega
  refine (registerWrite_hawk hs ha hp hoff (by omega) (by omega) v).trans ?_
  simp (disch := omega) only [hawkWrite, if_neg, if_pos, he]

theorem hawkFreeWrite_low {k : Nat} {a : Acc} {s : State} (hs : PortFree s) (ha : a = .full ∨ a = .low)
    (hp : powered s 1 = true) (hk : k < 6) (v : W64) : exec (.hawkFreeWrite k a v) s =
      wrote (renderOn (freeBuffer (BitVec.ofNat 32 (bits v 0 32)) (some k) (atPort s))) := by
  have hlow : low a = true := by rcases ha with rfl | rfl <;> rfl
  rw [hawkFreeWrite_eq hs (ha.imp_right .inl) hp hk, if_pos (bit_covered_zero ha),
    fld_given (ha.imp_right .inl) hlow v (by decide), fld_eq_ofNat_bits]

theorem hawkPoolCfgWrite_eq {k : Nat} {a : Acc} {s : State} (hs : PortFree s) (ha : Word a) (hp : powered s 1 = true)
    (hk : k < 6) (v : W64) : exec (.hawkPoolCfgWrite k a v) s =
      wrote (renderOn (poolCfg k (stored a (poolWord (pool s k)) v) (atPort s))) := by
  have he : 8 * k / 8 = k := by omega
  refine (registerWrite_hawk (x := 0x30000 + 8 * k) (o := 8 * k) hs ha hp (by omega) (by omega) (by omega) v).trans ?_
  simp (disch := omega) only [hawkWrite, hawkRead, if_pos, he]

/-- A read that covers the low half allocates. -/
theorem hawkAllocRead_low {k : Nat} {a : Acc} {s : State} (hs : PortFree s) (ha : a = .full ∨ a = .low)
    (hp : powered s 1 = true) (hk : k < 6) : exec (.hawkAllocRead k a) s = .next (hawkAlloc k (atPort s)) := by
  have hthere : stgThere (atPort s) = true := hp
  have hburst : a ≠ .burst := by rcases ha with rfl | rfl <;> decide
  have he : (0x30100 + 8 * k - 0x30100) / 8 = k := by omega
  have hbit : bit (covered a) 0 = true := bit_covered_zero ha
  have ho : 0x30100 ≤ 0x30100 + 8 * k ∧ 0x30100 + 8 * k < 0x30130 ∧ bit (covered a) 0 ∧ stgThere (atPort s) :=
    ⟨by omega, by omega, hbit, hthere⟩
  refine (getReg_word (o := 0x30100 + 8 * k) hs.wait hs.held hs.boot (ha.imp_right .inl) (by omega) (by omega)).trans ?_
  change Host.Outcome.next (portRead (0x30100 + 8 * k) a (atPort s)) = _
  simp only [portRead, formMask_eq_covered (ha.imp_right .inl), if_neg hburst, if_pos ho, he]
  rw [if_neg (by omega)]

/-- One of the high half reads 0 and allocates nothing. -/
theorem hawkAllocRead_high {k : Nat} {s : State} (hs : PortFree s) (hk : k < 6) :
    exec (.hawkAllocRead k .high) s = returns 0 (atPort s) := by
  have hact : actRead (0x30100 + 8 * k) (covered .high) (atPort s) = none := by
    simp (disch := omega) only [actRead, if_neg]
  have hread : regRead (0x30100 + 8 * k) (atPort s) = 0 := by
    have he : 0x30100 + 8 * k - 0x30000 = 0x100 + 8 * k := by omega
    simp (disch := omega) only [regRead, if_neg, if_pos, he, hawkRead, ite_self]
  have hquiet : regReadAct (0x30100 + 8 * k) (covered .high) (atPort s) = atPort s := by
    simp (disch := omega) only [regReadAct, if_neg]
  have hbit : bit (covered .high) 0 = false := by decide
  refine (getReg_word (o := 0x30100 + 8 * k) hs.wait hs.held hs.boot (.inr (.inr rfl)) (by omega) (by omega)).trans ?_
  change Host.Outcome.next (portRead (0x30100 + 8 * k) .high (atPort s)) = _
  simp (disch := omega) only [portRead, formMask_eq_covered (a := .high) (.inr (.inr rfl)), hact, hread, hquiet, hbit]
  rw [if_neg nofun, if_neg (by omega), if_neg (by simp), if_neg (by omega), if_neg (by omega)]
  rfl

/-! ## Allocation -/

theorem listedIn_one (s : State) {k : Nat} (hk : k < 6) : listedIn s k false 1 =
    if (pool s k).enable = true ∧ (pool s k).free ≠ [] then some k else none := by
  unfold listedIn
  cases hfree : (pool s k).free <;> cases hen : (pool s k).enable <;> simp [hfree, hen, hk]

/-- What the request of HAWK_ALLOC[k] finds. -/
theorem servedBy_one (s : State) {k : Nat} (hk : k < 6) (earlier : List HReq) :
    (stgOn s = false ∨ (pool s k).enable = false ∨ (pool s k).free = [] → servedBy s earlier k false 1 = .nothing) ∧
    (stgOn s = true → (pool s k).enable = true → (pool s k).free ≠ [] →
      ((pool s k).busy = true → servedBy s earlier k false 1 = .busy) ∧
      ((pool s k).busy = false → (∀ r ∈ earlier, couldTake r k = false) →
        servedBy s earlier k false 1 = .pool k)) := by
  unfold servedBy
  rw [listedIn_one s hk]
  refine ⟨fun h => ?_, fun hon hen hfree => ?_⟩
  · by_cases hfree : (pool s k).enable = true ∧ (pool s k).free ≠ []
    · have hoff : stgOn s = false := by
        rcases h with h | h | h
        · exact h
        · simp [h] at hfree
        · simp [h] at hfree
      simp [if_pos hfree, hoff]
    · rw [if_neg hfree]
  · rw [if_pos ⟨hen, hfree⟩]
    refine ⟨fun hbusy => by simp [hon, hbusy], fun hidle hnone => ?_⟩
    have hcould : earlier.any (couldTake · k) = false := by simpa using hnone
    have hheld : (earlier.any fun r => couldTake r k && heldBack s r) = false := by
      simp only [List.any_eq_false, Bool.and_eq_true, not_and]
      intro r hr ht
      simp [hnone r hr] at ht
    simp [hon, hidle, hcould, hheld]

theorem bit_setBit_self {n : Nat} (w : BitVec n) {i : Nat} (hi : i < n) (b : Bool) : bit (setBit w i b) i = b := by
  cases b <;> simp [bit, setBit, hi]

theorem pendOf_post_self (n : Nat) (s : State) : pendOf (post n s) n = true := by
  unfold pendOf post setPend
  rw [tget_tset, if_pos rfl]
  exact bit_setBit_self _ (Nat.mod_lt _ (by decide)) true

theorem lowCheck_of_passed {k n : Nat} {s : State} (hle : (pool s k).low.toNat ≤ n)
    (hlt : (pool s k).free.length < (pool s k).low.toNat) : lowCheck k n s =
      post srcHawk { s with hawk := { s.hawk with low := setBit s.hawk.low k true } } :=
  if_pos ⟨fun h => by simp [h] at hlt, hle, hlt⟩

/-- No pool changes where LOW is checked. -/
theorem pool_lowCheck (k n j : Nat) (s : State) : pool (lowCheck k n s) j = pool s j := by
  simp only [lowCheck]
  split <;> rfl

theorem popBuffer_cons {k i : Nat} {rest : List Nat} {s : State} (h : (pool s k).free = i :: rest) :
    popBuffer k s = (mkHandle k i, lowCheck k (rest.length + 1) (modPool k (fun p => { p with free := rest }) s)) := by
  unfold popBuffer
  rw [h]

/-- A buffer is free and no request before could take it: it is popped, and LOW checked. -/
theorem hawkAlloc_of_free {k i : Nat} {rest : List Nat} {s : State} (hk : k < 6) (hon : stgOn s = true)
    (hen : (pool s k).enable = true) (hidle : (pool s k).busy = false) (hfree : (pool s k).free = i :: rest)
    (hnone : ∀ r ∈ s.hawk.waiting, couldTake r k = false) : hawkAlloc k s =
      answer { ok := true, value := (mkHandle k i).setWidth 64 }
        (lowCheck k (rest.length + 1) (modPool k (fun p => { p with free := rest }) s)) := by
  have hserved := ((servedBy_one s hk s.hawk.waiting).2 hon hen (by simp [hfree])).2 hidle hnone
  simp only [hawkAlloc, alloc, hserved, popBuffer_cons hfree]

theorem hawkAlloc_of_none {k : Nat} {s : State} (hk : k < 6)
    (h : stgOn s = false ∨ (pool s k).enable = false ∨ (pool s k).free = []) :
    hawkAlloc k s = answer { ok := true } s := by
  have hserved := (servedBy_one s hk s.hawk.waiting).1 h
  simp [hawkAlloc, alloc, allocBusy, hserved]

theorem hawkAlloc_of_busy {k : Nat} {s : State} (hk : k < 6) (hon : stgOn s = true) (hen : (pool s k).enable = true)
    (hfree : (pool s k).free ≠ []) (hbusy : (pool s k).busy = true) : hawkAlloc k s =
      joinWaiting { who := .port, pool := k, fall := false, wait := false }
        { s with port := { s.port with wait := some .alloc } } := by
  have hserved := ((servedBy_one s hk s.hawk.waiting).2 hon hen hfree).1 hbusy
  simp [hawkAlloc, alloc, allocBusy, hserved]

theorem couldTake_eq_false {r : HReq} {k : Nat} (h : r.pool ≠ k ∧ ¬ (r.fall = true ∧ r.pool ≤ k)) :
    couldTake r k = false := by
  obtain ⟨hpool, hfall⟩ := h
  simpa [couldTake, hpool] using hfall

/-! ## HAWK_FREE and HAWK_POOL_CFG -/

/-- A buffer of the pool, which is enabled and has that many: a withheld one is dropped, another is appended. -/
theorem freeBuffer_of_good {k i : Nat} {h : BitVec 32} {s : State} (hh : handlePool h = some (k, i))
    (hen : (pool s k).enable = true) (hi : i < (pool s k).count.toNat) : freeBuffer h (some k) s =
      if withheld s k i || 262144 ≤ (pool s k).free.length then s
      else serveWaiting (modPool k (fun p => { p with free := p.free ++ [i] }) s) := by
  unfold freeBuffer
  rw [hh]
  simp [hen, Nat.not_le.mpr hi]

theorem freeBuffer_of_bad {k : Nat} {h : BitVec 32} {s : State}
    (hbad : ∀ i, handlePool h = some (k, i) → (pool s k).enable = false ∨ (pool s k).count.toNat ≤ i) :
    freeBuffer h (some k) s = badHandle h s := by
  unfold freeBuffer
  cases hh : handlePool h with
  | none => rfl
  | some ki =>
    obtain ⟨j, i⟩ := ki
    by_cases hj : j = k
    · subst hj
      rcases hbad i hh with hen | hcount
      · simp [hen]
      · simp [hcount]
    · have hne : k ≠ j := fun h => hj h.symm
      simp [hne]

/-- The pool takes COUNT, LOW and BASE from the word. -/
theorem poolFields_eq (v : W64) (p : Pool) :
    poolFields v p = { p with count := fld v 44 18, low := fld v 26 18, base := fld v 6 20 } := by
  simp only [poolFields, fld_eq_ofNat_bits]

theorem fld_eq_iff_bits (v : W64) (lo : Nat) {len : Nat} (x : BitVec len) :
    fld v lo len = x ↔ bits v lo len = x.toNat := by
  rw [← BitVec.toNat_inj, fld_toNat]
  rfl

theorem poolCfg_of_disabled {k : Nat} {v : W64} {s : State} (h : (pool s k).enable = false) : poolCfg k v s =
    if bit v 63 = false then modPool k (poolFields v) s
    else if bits v 44 18 = 0 ∨ 67108864 < 64 * bits v 6 20 + bits v 44 18 * poolSize k then
      poolReject (modPool k (poolFields v) s)
    else serveWaiting (rebuildPool k
      (modPool k (fun p => { p with enable := true }) (modPool k (poolFields v) s))) := by
  have hfields : poolFields v = fun p => { p with count := fld v 44 18, low := fld v 26 18, base := fld v 6 20 } :=
    funext (poolFields_eq v)
  have hcount : (fld v 44 18).toNat = bits v 44 18 := fld_toNat ..
  have hbase : (fld v 6 20).toNat = bits v 6 20 := fld_toNat ..
  have hzero : fld v 44 18 = 0 ↔ bits v 44 18 = 0 := fld_eq_iff_bits v 44 0
  simp only [poolCfg, h, hfields, hcount, hbase, hzero, Bool.or_eq_true, decide_eq_true_eq]
  cases bit v 63 <;> rfl

theorem poolCfg_of_enabled {k : Nat} {v : W64} {s : State} (h : (pool s k).enable = true) : poolCfg k v s =
    if bits v 44 18 ≠ (pool s k).count.toNat ∨ bits v 6 20 ≠ (pool s k).base.toNat then poolReject s
    else if bit v 63 = true then modPool k (poolFields v) s
    else serveWaiting (modPool k (fun p => { p with enable := false, free := [], busy := false })
      (modPool k (poolFields v) s)) := by
  have hfields : poolFields v = fun p => { p with count := fld v 44 18, low := fld v 26 18, base := fld v 6 20 } :=
    funext (poolFields_eq v)
  have hchange : (decide (fld v 44 18 ≠ (pool s k).count) || decide (fld v 6 20 ≠ (pool s k).base)) = true ↔
      bits v 44 18 ≠ (pool s k).count.toNat ∨ bits v 6 20 ≠ (pool s k).base.toNat := by
    rw [Bool.or_eq_true, decide_eq_true_eq, decide_eq_true_eq, ne_eq, ne_eq, fld_eq_iff_bits, fld_eq_iff_bits]
  simp only [poolCfg, h, hfields, hchange]
  rfl

/-- Settles O28, by what `hawkAlloc`, `freeBuffer` and `poolCfg` do in each case. -/
theorem poolCommands : Obligations.PoolCommands := by
  rintro k a v z s x p hs hk rfl rfl hp rfl ha
  refine ⟨?high, fun hlow => ⟨?free, ?none, ?busy, ?good, ?bad⟩, fun hdis => ?disabled, fun hen => ?enabled⟩
  case high =>
    rintro rfl
    exact ⟨hawkAllocRead_high hs hk, hawkFreeWrite_eq hs ha hp hk v⟩
  case free =>
    intro i rest hon hen hidle hfree hnone
    have hpop := hawkAlloc_of_free (s := atPort s) hk hon hen hidle hfree fun r hr => couldTake_eq_false (hnone r hr)
    refine ⟨lowCheck k (rest.length + 1) (modPool k (fun p => { p with free := rest }) (atPort s)), ?_, ?_,
      fun hle hlt => ?_⟩
    · rw [hawkAllocRead_low hs hlow hp hk, hpop, nat64, BitVec.ofNat_toNat]
      rfl
    · rw [pool_lowCheck, pool_modPool]
      rfl
    · rw [lowCheck_of_passed (by rwa [pool_modPool]) (by rwa [pool_modPool])]
      exact ⟨bit_setBit_self _ hk true, pendOf_post_self ..⟩
  case none =>
    intro h
    rw [hawkAllocRead_low hs hlow hp hk, hawkAlloc_of_none (s := atPort s) hk h]
    rfl
  case busy =>
    intro hon hen hfree hbusy
    rw [hawkAllocRead_low hs hlow hp hk, hawkAlloc_of_busy (s := atPort s) hk hon hen hfree hbusy]
    rfl
  case good =>
    intro i hh hen hi
    rw [hawkFreeWrite_low hs hlow hp hk, freeBuffer_of_good (s := atPort s) hh hen hi]
    refine ⟨fun hw => ?_, fun hw hlt => ?_⟩
    · have hdrop : withheld (atPort s) k i = true := hw
      simp [hdrop]
    · have hkeep : withheld (atPort s) k i = false := hw
      have hroom : ¬ 262144 ≤ (pool (atPort s) k).free.length := Nat.not_le.mpr hlt
      simp [hkeep, hroom]
  case bad =>
    intro hbad
    rw [hawkFreeWrite_low hs hlow hp hk, freeBuffer_of_bad (s := atPort s) hbad]
    rfl
  case disabled =>
    rw [hawkPoolCfgWrite_eq hs ha hp hk, poolCfg_of_disabled (s := atPort s) hdis]
    refine ⟨fun h => ?_, fun h hbad => ?_, fun h hne hle => ?_⟩
    · rw [if_pos (bit_eq_false_of_bits h)]
    · rw [bit_eq_true_of_bits h, if_neg nofun, if_pos hbad]
      rfl
    · rw [bit_eq_true_of_bits h, if_neg nofun, if_neg (by omega)]
  case enabled =>
    rw [hawkPoolCfgWrite_eq hs ha hp hk, poolCfg_of_enabled (s := atPort s) hen]
    refine ⟨fun h => ?_, fun hcount hbase => ?_⟩
    · exact congrArg (fun t => wrote (renderOn t)) (if_pos h)
    · have hsame : ¬ (bits (stored a (poolWord (pool s k)) v) 44 18 ≠ (pool (atPort s) k).count.toNat ∨
          bits (stored a (poolWord (pool s k)) v) 6 20 ≠ (pool (atPort s) k).base.toNat) :=
        not_or.mpr ⟨not_not.mpr hcount, not_not.mpr hbase⟩
      rw [if_neg hsame]
      exact ⟨fun h => by rw [if_pos (bit_eq_true_of_bits h)],
        fun h => by rw [bit_eq_false_of_bits h, if_neg Bool.false_ne_true]⟩

end Sys2Proof.Machine
end

section
/-! SUPPORT. What words into and out of streams leave of the register port, where no read waits at it (R389-R397). -/

namespace Sys2Proof.Machine

open Sys2Proof Sys2Proof.Spec

@[simp] theorem crossing_port (i n : Nat) (s : State) : (crossing i n s).port = s.port := by
  simp only [crossing]
  split <;> rfl

@[simp] theorem sendWord_port (i : Nat) (sw : SW) (s : State) : (sendWord i sw s).port = s.port := by
  simp only [sendWord]
  split
  · rfl
  · exact crossing_port ..

@[simp] theorem grantPlaces_port (i : Nat) (s : State) : (grantPlaces i s).port = s.port := by
  unfold grantPlaces
  split <;> rfl

@[simp] theorem grant_port (i : Nat) (s : State) : (grant i s).port = s.port := by
  simp only [grant]
  split
  · split <;> simp
  · exact grantPlaces_port i s

/-- No read waits at the port: nothing is served. -/
theorem windowServe_of_free (i : Nat) {s : State} (h : s.port.wait = none) : windowServe i s = s := by
  unfold windowServe
  rw [h]

theorem grantServe_of_free (i : Nat) {s : State} (h : s.port.wait = none) : grantServe i s = grant i s :=
  windowServe_of_free i (by rwa [grant_port])

theorem acceptWord_port (i : Nat) (sw : SW) {s : State} (h : s.port.wait = none) :
    (acceptWord i sw s).port = s.port := by
  unfold acceptWord
  split
  · rfl
  · rw [grantServe_of_free i (by rwa [sendWord_port]), grant_port, sendWord_port]

theorem logRec_port (kind : Byte) (intr : Bool) (loc : BitVec 32) (detail : W64) {s : State} (h : s.port.wait = none) :
    (logRec kind intr loc detail s).port = s.port := by
  have hpost (b : Bool) (t : State) : (if b then post srcIntegrity t else t).port = t.port := by cases b <;> rfl
  have hstep (sw : SW) {t : State} (ht : t.port = s.port) : (acceptWord 3 sw t).port = s.port := by
    rw [acceptWord_port 3 sw (by rw [ht]; exact h), ht]
  simp only [logRec]
  rw [hpost]
  split
  · rfl
  · exact hstep _ (hstep _ (hstep _ (hstep _ rfl)))

end Sys2Proof.Machine
end

section
/-! SUPPORT. How an operation of the Primer store begins: the journal's words, and the record of a window (R458, R459,
R465); PRM_WINDOW_BASE and the window of the array (R452). -/

namespace Sys2Proof.Machine

open Sys2Proof Sys2Proof.Spec

/-! ## Jobs -/

theorem map_filter_eq_filterMap {α β : Type} (p : α → Prop) [DecidablePred p] (f : α → β) (l : List α) :
    (l.filter fun e => p e).map f = l.filterMap fun e => if p e then some (f e) else none := by
  induction l with
  | nil => rfl
  | cons e l ih => by_cases h : p e <;> simp [h, ih]

theorem moveJobs_eq (s : State) : moveJobs s = journalMove s :=
  congrArg (· ++ _) (map_filter_eq_filterMap (fun e : Nat × Nat => e.2 / 256 = nextJournal s) _ _)

/-- A journal move begins with a record of its own. -/
theorem journalMove_cons (s : State) : ∃ typ arg k rest, journalMove s = .record typ arg k true :: rest := by
  rw [← moveJobs_eq]
  simp only [moveJobs]
  cases (s.prm.jOpen.filter fun e => e.2 / 256 = 4092 + (s.prm.jSector - 4092 + 1) % 4) with
  | nil => exact ⟨_, _, _, _, rfl⟩
  | cons e l => exact ⟨_, _, _, _, rfl⟩

/-- The SEQ of a record that is not written again is the next one. -/
theorem takeRecord_fresh {o : POp} (h : o.again = none) (typ : BitVec 4) (arg k : BitVec 12) (s : State) :
    takeRecord typ arg k o s = recordAt o typ arg k s := by
  simp only [takeRecord, recSeq, h]
  rfl

theorem runJob_record {o : POp} {typ : BitVec 4} {arg k : BitVec 12} {b : Bool} {rest : List PJob}
    (h : o.jobs = .record typ arg k b :: rest) (s : State) :
    runJob o s = if 255 < s.prm.jPos then none else some (takeRecord typ arg k o s) := by
  unfold runJob
  rw [h]

theorem tryJob_spare {o : POp} {typ : BitVec 4} {arg k : BitVec 12} {rest : List PJob}
    (h : o.jobs = .record typ arg k true :: rest) (s : State) : tryJob o s = runJob o s := by
  unfold tryJob
  rw [h]

theorem tryJob_record {o : POp} {typ : BitVec 4} {arg k : BitVec 12} {rest : List PJob}
    (h : o.jobs = .record typ arg k false :: rest) (s : State) : tryJob o s =
      if 238 < s.prm.jPos then
        runJob { o with jobs := journalMove s ++ o.jobs, tries := 0, held := o.tries, again := none } s
      else runJob o s := by
  unfold tryJob
  rw [h, moveJobs_eq]

/-- R459: the word that a record takes, the move that comes first, and the failure where no word is left. -/
theorem recorded_of_tryJob {o : POp} {s : State} {out : State → Prop} {fails : Prop} (hagain : o.again = none)
    (hout : ∀ y, tryJob o s = some y → out y) (hfails : tryJob o s = none → fails) : Recorded o s out fails := by
  intro typ arg k rest hjobs
  refine ⟨fun hpos => hout _ ?_, fun ty ar se tl hlow hhigh hmove => hout _ ?_, fun hpos => hfails ?_⟩
  · rw [tryJob_record hjobs, if_neg (by omega), runJob_record hjobs, if_neg (by omega), takeRecord_fresh hagain]
  · have hhead : journalMove s ++ o.jobs = .record ty ar se true :: (tl ++ o.jobs) := by rw [hmove, List.cons_append]
    rw [tryJob_record hjobs, if_pos hlow, runJob_record hhead, if_neg (by omega), takeRecord_fresh rfl]
    simp only [recordAt]
  · obtain ⟨ty, ar, se, tl, hmove⟩ := journalMove_cons s
    have hhead : journalMove s ++ o.jobs = .record ty ar se true :: (tl ++ o.jobs) := by rw [hmove, List.cons_append]
    rw [tryJob_record hjobs, if_pos (by omega), runJob_record hhead, if_pos hpos]

theorem tryJob_word {o : POp} {w : Nat} {d : BitVec 72} {rest : List PJob} (h : o.jobs = .word w d :: rest)
    (s : State) :
    tryJob o s = some (withPrm (fun p => { p with op := some { o with cur := some (w, d), pulses := 0 } }) s) := by
  unfold tryJob runJob
  rw [h]
  rfl

theorem tryJob_erase {o : POp} {k : Nat} {rest : List PJob} (h : o.jobs = .erase k :: rest) (s : State) :
    tryJob o s = some (withPrm (fun p => { p with op := some { o with cur := none, pulses := 0 } }) s) := by
  unfold tryJob runJob
  rw [h]
  rfl

theorem tryJob_jhead {o : POp} {k : Nat} {rest : List PJob} (h : o.jobs = .jhead k :: rest) (s : State) :
    tryJob o s = some (withPrm (fun p => { p with
      jSeq := p.jSeq + 1, op := some { o with
        cur := some (256 * k, withParity (recWord 4 p.jSeq 0 (BitVec.ofNat 12 k))), pulses := 0 } }) s) := by
  unfold tryJob runJob
  rw [h]
  rfl

/-- While the detector is tripped no job begins. -/
theorem beginJob_tripped {s : State} (h : s.prm.tripped = true) (o : POp) : beginJob o s = awaits o s := by
  unfold beginJob
  rw [if_pos h]
  rfl

theorem beginJob_some {o : POp} {s y : State} (h : s.prm.tripped = false) (hy : tryJob o s = some y) :
    beginJob o s = y := by
  unfold beginJob
  rw [h, hy]
  rfl

theorem beginJob_none {o : POp} {s : State} (h : s.prm.tripped = false) (hy : tryJob o s = none) :
    beginJob o s = failOp o (withPrm (fun p => { p with op := some o }) s) := by
  unfold beginJob
  rw [h, hy]
  rfl

/-! ## PRM_WINDOW_BASE -/

/-- The operation that records a window enabled at sector `b` with HEAD `h`. -/
def windowOp (h : BitVec 7) (b : BitVec 12) : POp := { kind := .window, jobs := [.record 3 (h.setWidth 12) b false] }

theorem startDue_not_due {s : State} (h : s.prm.winDue = false) : startDue s = s := by
  simp [startDue, h]

theorem startDue_busy {s : State} (h0 : prmNest s ≠ 0) (h3 : prmNest s ≠ 3) : startDue s = s := by
  simp [startDue, h0, h3]

theorem startDue_free {s y : State} (hdue : s.prm.winDue = true) (hnest : prmNest s = 0 ∨ prmNest s = 3)
    (hy : y = withPrm (fun p => { p with winDue := false }) s) : startDue s =
      if y.prm.tripped then awaits (windowOp y.prm.winHead y.prm.winBase) y
      else (tryJob (windowOp y.prm.winHead y.prm.winBase) y).getD y := by
  have hcond : (s.prm.winDue && (prmNest s = 0 || prmNest s = 3)) = true := by simp [hdue, hnest]
  unfold startDue
  rw [if_pos hcond, hy]
  rfl

/-- A word written in the Primer store's range. -/
theorem registerWrite_prm {a : Acc} {s : State} {x o : Nat} (hs : PortFree s) (ha : Word a) (hx : x = 0x500000 + o)
    (ho : o < 0x100000) (h8 : o % 8 = 0) (v : W64) : exec (.registerWrite x a v) s =
      wrote (prmRegWrite o (covered a) (stored a (regRead x s) v) (given a v) (atPort s)) := by
  rw [registerWrite_word hs ha (by omega) (by omega), regWrite_prm hx ho, regRead_atPort]
  rfl

theorem fld_or (v w : W64) (lo len : Nat) : fld (v ||| w) lo len = fld v lo len ||| fld w lo len :=
  BitVec.extractLsb'_or

/-- A write of the high half leaves the fields of the low half. -/
theorem fld_stored_high (old v : W64) {lo len : Nat} (hl : lo + len ≤ 32) :
    fld (stored .high old v) lo len = fld old lo len := by
  have hmask : fld (covered .high) lo len = 0#len := by
    ext i hi
    have hbit : bit (covered .high) (lo + i) = false := bit_covered_low (.inr (.inr rfl)) (by omega)
    simpa [fld, bit, BitVec.getElem_extractLsb'] using hbit
  calc fld (stored .high old v) lo len = fld (merge old v (covered .high)) lo len := rfl
    _ = fld old lo len := by rw [fld_merge, hmask, merge_zero]

theorem prmWindowEnable_low {a : Acc} {s : State} (hs : PortFree s) (ha : a = .full ∨ a = .low) (v : W64) :
    exec (.prmWindowEnable a v) s = wrote (windowBase true (BitVec.ofNat 12 (bits v 8 12)) (atPort s)) := by
  have hbit : bit (v ||| flag 31 true) 31 = true := by simp [bit, flag]
  have hbase : fld (v ||| flag 31 true) 8 12 = fld v 8 12 := by
    have hflag : fld (flag 31 true) 8 12 = 0#12 := by decide
    rw [fld_or, hflag, BitVec.or_zero]
  refine (registerWrite_prm (x := 0x500020) (o := 0x20) hs (ha.imp_right .inl) rfl (by decide) rfl _).trans ?_
  change wrote (windowBase (bit _ 31) (fld _ 8 12) _) = _
  rw [bit_stored ha _ _ (by decide), fld_stored ha _ _ (by decide), hbit, hbase, fld_eq_ofNat_bits]

theorem windowBase_enabled {b : BitVec 12} {s : State} (h : s.prm.winEn = true) (en : Bool) : windowBase en b s = s :=
  if_pos h

theorem windowBase_large {b : BitVec 12} {s : State} (h : s.prm.winEn = false) (hb : 4092 < b.toNat + 72) :
    windowBase true b s = withPrm (fun p => { p with winBase := b }) s := by
  unfold windowBase
  rw [h, if_neg nofun, if_neg nofun, if_pos hb]
  rfl

/-- A window enabled at sector `b`, whose record is due or not. -/
def armWindow (b : BitVec 12) (due : Bool) (s : State) : State :=
  withPrm (fun p => { p with winBase := b, winHead := 0, winEn := true, winDue := due }) s

theorem windowBase_fits {b : BitVec 12} {s : State} (h : s.prm.winEn = false) (hb : b.toNat + 72 ≤ 4092) :
    windowBase true b s = startDue (armWindow b true s) := by
  unfold windowBase
  rw [h, if_neg nofun, if_neg nofun, if_neg (by omega)]
  rfl

theorem windowBase_same {s : State} {en : Bool} (h : en = s.prm.winEn) : windowBase en s.prm.winBase s = s := by
  unfold windowBase
  cases hen : s.prm.winEn <;> rw [h, hen] <;> rfl

/-- A write of the high half leaves ENABLE and BASE as they are, which stores them again. -/
theorem prmWindowEnable_high {s : State} (hs : PortFree s) (v : W64) :
    exec (.prmWindowEnable .high v) s = wrote (atPort s) := by
  refine (registerWrite_prm (x := 0x500020) (o := 0x20) hs (.inr (.inr rfl)) rfl (by decide) rfl _).trans ?_
  change wrote (windowBase (bit (stored .high (prmRegRead 0x20 s) _) 31)
    (fld (stored .high (prmRegRead 0x20 s) _) 8 12) _) = _
  have hread : prmRegRead 0x20 s = flag 31 s.prm.winEn ||| at_ 8 s.prm.winBase ||| at_ 0 s.prm.winHead := rfl
  have hen : bit (prmRegRead 0x20 s) 31 = s.prm.winEn := by
    rw [hread]
    cases s.prm.winEn <;> simp [bit, flag, at_]
  have hbase : fld (prmRegRead 0x20 s) 8 12 = s.prm.winBase := by
    have hflag : fld (flag 31 s.prm.winEn) 8 12 = 0#12 := by cases s.prm.winEn <;> decide
    rw [hread, fld_or, fld_or, hflag, BitVec.zero_or]
    ext i hi
    have hhead : s.prm.winHead.getLsbD (8 + i) = false := BitVec.getLsbD_of_ge _ _ (by omega)
    simp [fld, at_, hhead, show 8 + i < 64 by omega, BitVec.getLsbD_eq_getElem hi]
  rw [← bit_fld, fld_stored_high _ _ (by decide), fld_stored_high _ _ (by decide), bit_fld, hbase, hen]
  exact congrArg wrote (windowBase_same (s := atPort s) rfl)

/-! ## The window of the array -/

theorem windowRead_held {w : Nat} {m : Byte} {s : State} (h : s.prm.op.isSome = true ∨ prmHeld s w = true) :
    windowRead w 1 m s = (none, withPrm (fun p => { p with rdBusy := true }) s) := by
  have hcond : (s.prm.op.isSome || ((List.range 1).map (w + ·)).any (prmHeld s)) = true := by simpa using h
  exact if_pos hcond

theorem windowRead_bad {w : Nat} {m : Byte} {s : State} (hop : s.prm.op = none) (hheld : prmHeld s w = false)
    (hbad : rawBad (prmRaw s w) &&& m ≠ 0) :
    windowRead w 1 m s = (none, logPrimer w m 0 (withPrm (fun p => { p with parity := true }) s)) := by
  have hcond : ¬ (s.prm.op.isSome || ((List.range 1).map (w + ·)).any (prmHeld s)) = true := by simp [hop, hheld]
  have hfind : ((List.range 1).map (w + ·)).find? (fun w => rawBad (prmRaw s w) &&& m ≠ 0) = some w :=
    List.find?_cons_of_pos (decide_eq_true hbad)
  unfold windowRead
  rw [if_neg hcond, hfind]
  rfl

theorem windowRead_good {w n : Nat} {m : Byte} {s : State} (hop : s.prm.op = none)
    (hheld : ∀ i < n, prmHeld s (w + i) = false) (hgood : ∀ i < n, rawBad (prmRaw s (w + i)) &&& m = 0) :
    windowRead w n m s = (some ((List.range n).map fun i => rawData (prmRaw s (w + i))), s) := by
  have hcond : ¬ (s.prm.op.isSome || ((List.range n).map (w + ·)).any (prmHeld s)) = true := by
    simpa [hop] using hheld
  have hfind : ((List.range n).map (w + ·)).find? (fun w => rawBad (prmRaw s w) &&& m ≠ 0) = none := by
    simpa [List.find?_eq_none] using hgood
  unfold windowRead
  rw [if_neg hcond, hfind]
  simp only [List.map_map]
  rfl

theorem logPrimer_port (w : Nat) (m : Byte) (who : W64) {s : State} (h : s.port.wait = none) :
    (logPrimer w m who s).port = s.port := logRec_port _ _ _ _ h

/-- With no response before it, an error response is the port's only one. -/
theorem answer_eq_fails {s : State} (h : s.port.resp = []) : (.next (answer { ok := false } s) : Out) = fails [] s := by
  simp only [answer, fails, h]
  rfl

/-- A word read in the window of the array. -/
theorem primerWindowRead_word {a : Acc} {w : BitVec 20} {s : State} (hs : PortFree s) (ha : Word a) :
    exec (.primerWindowRead w a) s = .next (match windowRead w.toNat 1 (coveredBytes a) (atPort s) with
      | (some ws, s) => answer { ok := true, value := ws.getD 0 0 &&& covered a } s
      | (none, s) => answer { ok := false } s) := by
  have hw := w.isLt
  have hburst : a ≠ .burst := by rcases ha with rfl | rfl | rfl <;> decide
  have hbytes : formBytes a = coveredBytes a := by rcases ha with rfl | rfl | rfl <;> rfl
  have hword : (0x800000 + 8 * w.toNat - 0x800000) / 8 = w.toNat := by omega
  refine (getReg_word (o := 0x800000 + 8 * w.toNat) hs.wait hs.held hs.boot ha (by omega) (by omega)).trans ?_
  change Host.Outcome.next (portRead (0x800000 + 8 * w.toNat) a (atPort s)) = _
  simp only [portRead, formMask_eq_covered ha, hbytes, hword, if_neg hburst]
  rw [if_neg (by omega), if_neg (by omega), if_neg (by omega), if_pos (by omega)] <;> rfl

/-- A burst reads eight words. -/
theorem primerWindowRead_burst {w : BitVec 20} {s : State} (hs : PortFree s) (hw8 : w.toNat % 8 = 0) :
    exec (.primerWindowRead w .burst) s = .next (match windowRead w.toNat 8 0xFF (atPort s) with
      | (some ws, s) => answer { ok := true, words := ws } s
      | (none, s) => answer { ok := false, words := List.replicate 8 0 } s) := by
  have hw := w.isLt
  have hword : (0x800000 + 8 * w.toNat - 0x800000) / 8 = w.toNat := by omega
  have hform : formBad ⟨false, 0x800000 + 8 * w.toNat, .burst, 0⟩ = false := by
    simp [formBad, burstRange]
    omega
  have hready : ready (atPort s) = true := decide_eq_true hs.boot
  have hburst : burstRead (0x800000 + 8 * w.toNat) (atPort s) =
      match windowRead w.toNat 8 0xFF (atPort s) with
      | (some ws, s) => ({ ok := true, words := ws }, s)
      | (none, s) => ({ ok := false, words := List.replicate 8 0 }, s) := by
    unfold burstRead
    rw [if_neg (by omega), hword] <;> rfl
  refine (getReg_free hs.wait hs.held (0x800000 + 8 * w.toNat) .burst).trans ?_
  change Host.Outcome.next (portAct _ (atPort s)) = _
  simp only [portAct, hform, hready, portRead, hburst]
  rw [if_neg (by omega)]
  cases h : windowRead w.toNat 8 0xFF (atPort s) with
  | mk ws t => cases ws <;> rfl

/-- Settles O41: a window that fits begins its record as `startDue` does, and a word of the window is read as
`windowRead` says. -/
theorem primerWindows : Obligations.PrimerWindows := by
  rintro a v w s x hs rfl
  refine ⟨fun hlow b hb => ⟨fun hen => ?_, fun hdis hlarge => ?_, fun hdis hfits due y hy => ⟨fun h0 h3 hdue => ?_,
    fun hnest hdue => ?_⟩⟩, prmWindowEnable_high hs v, fun ha => ⟨fun hheld => ?_, fun hop hheld hbad => ?_,
    fun hop hheld hgood => ?_⟩, fun hw8 hop hsusp hgood => ?_⟩
  · rw [prmWindowEnable_low hs hlow, windowBase_enabled (s := atPort s) hen]
  · rw [prmWindowEnable_low hs hlow, ← hb, windowBase_large (s := atPort s) hdis hlarge]
  · have hstay : startDue (armWindow b true (atPort s)) = armWindow b true (atPort s) := startDue_busy h0 h3
    rw [prmWindowEnable_low hs hlow, ← hb, windowBase_fits (s := atPort s) hdis hfits, hstay, hy, hdue]
    rfl
  · have hy' : y = armWindow b false (atPort s) := by rw [hy, hdue]; rfl
    have hstart : exec (.prmWindowEnable a v) s = wrote (if s.prm.tripped then awaits (windowOp 0 b) y
        else (tryJob (windowOp 0 b) y).getD y) := by
      rw [prmWindowEnable_low hs hlow, ← hb, windowBase_fits (s := atPort s) hdis hfits,
        startDue_free (s := armWindow b true (atPort s)) rfl hnest rfl, hy']
      rfl
    rw [hstart]
    refine ⟨fun htrip => ?_, fun htrip => by rw [if_pos htrip]; rfl⟩
    rw [htrip]
    exact recorded_of_tryJob rfl (fun z hz => by rw [show tryJob (windowOp 0 b) y = some z from hz]; rfl)
      fun hz => by rw [show tryJob (windowOp 0 b) y = none from hz]; rfl
  · have hcond : (atPort s).prm.op.isSome = true ∨ prmHeld (atPort s) w.toNat = true :=
      hheld.imp Option.isSome_iff_ne_none.mpr id
    rw [primerWindowRead_word hs ha, windowRead_held hcond]
    rfl
  · rw [primerWindowRead_word hs ha, windowRead_bad (s := atPort s) hop hheld hbad]
    refine answer_eq_fails ?_
    rw [logPrimer_port]
    · rfl
    · exact hs.wait
  · have hread : windowRead w.toNat 1 (coveredBytes a) (atPort s) = (some [rawData (prmRaw s w.toNat)], atPort s) :=
      windowRead_good (n := 1) hop (fun i hi => by rwa [Nat.lt_one_iff.mp hi]) fun i hi => by rwa [Nat.lt_one_iff.mp hi]
    rw [primerWindowRead_word hs ha, hread]
    rfl
  · have hread := windowRead_good (w := w.toNat) (n := 8) (m := 0xFF) (s := atPort s) hop
      (fun i _ => by simp [prmHeld, show (atPort s).prm.susp = [] from hsusp]) fun i hi => by
        have h := hgood i hi
        change rawBad (prmRaw s (w.toNat + i)) &&& 0xFF = 0
        rw [h]
        rfl
    rw [primerWindowRead_burst hs hw8, hread]
    rfl

end Sys2Proof.Machine
end

section
/-! SUPPORT. The commands of PRM_CMD: which are refused, and what each of the others begins (R454-R467). -/

namespace Sys2Proof.Machine

open Sys2Proof Sys2Proof.Spec

/-! ## A write of PRM_CMD -/

/-- A write that covers the low half gives its command. -/
theorem prmCmdWrite_low {a : Acc} {s : State} (hs : PortFree s) (ha : a = .full ∨ a = .low) (v : W64) :
    putReg 0x500000 a v s = wrote (prmCommand (fld v 0 4) (atPort s)) := by
  have hlow : low a = true := by rcases ha with rfl | rfl <;> rfl
  have hmask : fld (covered a) 0 4 ≠ 0 := by rcases ha with rfl | rfl <;> decide
  refine (registerWrite_prm (x := 0x500000) (o := 0) hs (ha.imp_right .inl) rfl (by decide) rfl v).trans ?_
  change wrote (if fld (covered a) 0 4 ≠ 0 then _ else _) = _
  rw [if_pos hmask, fld_given (ha.imp_right .inl) hlow v (by decide)]

/-- One of the high half gives none. -/
theorem prmCmdWrite_high {s : State} (hs : PortFree s) (v : W64) : putReg 0x500000 .high v s = wrote (atPort s) :=
  registerWrite_prm (x := 0x500000) (o := 0) hs (.inr (.inr rfl)) rfl (by decide) rfl v

theorem fld_at_code (code : BitVec 4) : fld (at_ 0 code) 0 4 = code := by
  revert code
  decide

theorem prmCommand_reserved {code : BitVec 4} (h : 9 ≤ code.toNat) (s : State) :
    prmCommand code s = prmCmd [0, 1, 2, 3, 4, 5, 6] (setResult 13) s := by
  unfold prmCommand
  split
  all_goals first | rfl | omega

/-! ## NEST -/

theorem prmNest_of_none {s : State} (h : s.prm.op = none) :
    prmNest s = 0 ∨ prmNest s = 3 ∨ prmNest s = 5 ∨ prmNest s = 6 := by
  simp only [prmNest, h]
  split
  · exact .inl rfl
  · split
    · exact .inr (.inr (.inl rfl))
    · exact .inr (.inl rfl)
  · exact .inr (.inr (.inr rfl))

/-- With no operation suspended either, NEST is 0. -/
theorem prmNest_of_susp {s : State} (h : s.prm.op = none) (hne : s.prm.susp ≠ []) :
    prmNest s = 3 ∨ prmNest s = 5 ∨ prmNest s = 6 := by
  simp only [prmNest, h]
  split
  · next he => exact absurd he hne
  · split
    · exact .inr (.inl rfl)
    · exact .inl rfl
  · exact .inr (.inr rfl)

/-- NEST 0 and 3 say that no operation runs. -/
theorem op_none_of_prmNest {s : State} (h : prmNest s = 0 ∨ prmNest s = 3) : s.prm.op = none := by
  cases hop : s.prm.op with
  | none => rfl
  | some o =>
    simp only [prmNest, hop] at h
    split at h
    · split at h <;> omega
    · omega

/-- A command that the nesting accepts acts. -/
theorem prmCmd_accepted {nests : List Nat} {s : State} (f : State → State) (hop : s.prm.op = none)
    (h : prmNest s ∈ nests) : prmCmd nests f s = f s := by
  unfold prmCmd
  rw [hop, if_neg nofun, if_pos (List.elem_eq_true_of_mem h)]

theorem prmCmd_busy {nests : List Nat} {s : State} (f : State → State) (hop : s.prm.op ≠ none) :
    prmCmd nests f s = withPrm (fun p => { p with refused := true }) s := if_pos (Option.isSome_iff_ne_none.mpr hop)

theorem prmCmd_badState {nests : List Nat} {s : State} (f : State → State) (hop : s.prm.op = none)
    (h : prmNest s ∉ nests) : prmCmd nests f s = withPrm (fun p => { p with result := 11 }) s := by
  unfold prmCmd
  rw [hop, if_neg nofun, if_neg (by simpa using h)]
  rfl

/-- READ_FACTORY. -/
def readFactory (s : State) : State :=
  withPrm (fun p => { p with data := factoryWord s (fld p.word 0 8).toNat, result := 1 }) s

/-- ERASE_VERIFY. -/
def eraseVerify (s : State) : State :=
  match prmTarget s with
  | none => setResult 12 s
  | some w => withPrm (fun p => { p with data := BitVec.ofNat 64 (zeroCount s (w / 256)), result := 1 }) s

section
variable {a : Acc} {s : State} (hs : PortFree s) (ha : a = .full ∨ a = .low)
include hs ha

theorem prmRead_exec : exec (.prmRead a) s = wrote (prmCmd [0, 3, 5, 6] prmReadCmd (atPort s)) :=
  prmCmdWrite_low hs ha 1

theorem prmProgram_exec : exec (.prmProgram a) s = wrote (prmCmd [0, 3] prmProgram (atPort s)) :=
  prmCmdWrite_low hs ha 2

theorem prmErase_exec : exec (.prmErase a) s = wrote (prmCmd [0] prmErase (atPort s)) := prmCmdWrite_low hs ha 3

theorem prmSuspend_exec : exec (.prmSuspend a) s = wrote (prmSuspend (atPort s)) := prmCmdWrite_low hs ha 4

theorem prmResume_exec : exec (.prmResume a) s = wrote (prmCmd [3, 5, 6] prmResume (atPort s)) :=
  prmCmdWrite_low hs ha 5

theorem prmReadFactory_exec : exec (.prmReadFactory a) s = wrote (prmCmd [0, 3, 5, 6] readFactory (atPort s)) :=
  prmCmdWrite_low hs ha 6

theorem prmRotate_exec : exec (.prmRotate a) s = wrote (prmCmd [0, 3] prmRotate (atPort s)) := prmCmdWrite_low hs ha 7

theorem prmEraseVerify_exec : exec (.prmEraseVerify a) s = wrote (prmCmd [0, 3, 5, 6] eraseVerify (atPort s)) := by
  refine (prmCmdWrite_low hs ha 8).trans
    (congrArg (fun f => wrote (prmCmd [0, 3, 5, 6] f (atPort s))) (funext fun x => ?_))
  unfold eraseVerify
  cases prmTarget x <;> rfl

theorem prmReservedCmd_exec {code : BitVec 4} (hc : 9 ≤ code.toNat) : exec (.prmReservedCmd code a) s =
    wrote (prmCmd [0, 1, 2, 3, 4, 5, 6] (setResult 13) (atPort s)) := by
  refine (prmCmdWrite_low hs ha (at_ 0 code)).trans ?_
  rw [fld_at_code, prmCommand_reserved hc]

/-- Each command of the table is a `prmCmd` with its NEST states. -/
theorem prmTable_exec {code : BitVec 4} (hc : 9 ≤ code.toNat) :
    ∀ e ∈ prmTable code a, ∃ f, exec e.1 s = wrote (prmCmd e.2 f (atPort s)) := by
  simp only [prmTable, List.forall_mem_cons]
  exact ⟨⟨_, prmRead_exec hs ha⟩, ⟨_, prmProgram_exec hs ha⟩, ⟨_, prmErase_exec hs ha⟩, ⟨_, prmResume_exec hs ha⟩,
    ⟨_, prmReadFactory_exec hs ha⟩, ⟨_, prmRotate_exec hs ha⟩, ⟨_, prmEraseVerify_exec hs ha⟩,
    ⟨_, prmReservedCmd_exec hs ha hc⟩, nofun⟩

end

theorem prmTable_high {code : BitVec 4} {s : State} (hs : PortFree s) :
    ∀ e ∈ (.prmNop .high, []) :: (.prmSuspend .high, []) :: prmTable code .high, exec e.1 s = wrote (atPort s) := by
  simp only [prmTable, List.forall_mem_cons]
  exact ⟨prmCmdWrite_high hs 0, prmCmdWrite_high hs 4, prmCmdWrite_high hs 1, prmCmdWrite_high hs 2,
    prmCmdWrite_high hs 3, prmCmdWrite_high hs 5, prmCmdWrite_high hs 6, prmCmdWrite_high hs 7, prmCmdWrite_high hs 8,
    prmCmdWrite_high hs _, nofun⟩

theorem primerRefusals : PrimerRefusals := by
  rintro a code s x hs ha rfl hc
  refine ⟨prmTable_high hs, prmCmdWrite_low hs ha 0, fun e he hop => ?_, fun e he hop hnest => ?_, fun hop => ?_,
    fun hop => ?_, fun hop => ?_, fun htarget hnest => ?_⟩
  · obtain ⟨f, hf⟩ := prmTable_exec hs ha hc e he
    rw [hf, prmCmd_busy (s := atPort s) f hop]
  · obtain ⟨f, hf⟩ := prmTable_exec hs ha hc e he
    rw [hf, prmCmd_badState (s := atPort s) f hop hnest]
  · exact (prmSuspend_exec hs ha).trans (congrArg wrote (if_pos (Option.isSome_iff_ne_none.mpr hop)))
  · refine (prmSuspend_exec hs ha).trans (congrArg wrote (if_neg ?_))
    simp [show (atPort s).prm.op = none from hop]
  · have hin : prmNest (atPort s) ∈ [0, 1, 2, 3, 4, 5, 6] := by
      rcases prmNest_of_none (s := atPort s) hop with h | h | h | h <;> simp [h]
    rw [prmReservedCmd_exec hs ha hc, prmCmd_accepted (s := atPort s) _ hop hin]
    rfl
  · have hop : (atPort s).prm.op = none := op_none_of_prmNest (s := s) (.inl hnest)
    have htarget : prmTarget (atPort s) = none := htarget
    have hin {nests : List Nat} (h : 0 ∈ nests) : prmNest (atPort s) ∈ nests := by
      rwa [show prmNest (atPort s) = 0 from hnest]
    simp only [List.forall_mem_cons]
    refine ⟨?_, ?_, ?_, ?_, nofun⟩
    · rw [prmRead_exec hs ha, prmCmd_accepted _ hop (hin (by decide)), prmReadCmd, htarget]
      rfl
    · rw [prmProgram_exec hs ha, prmCmd_accepted _ hop (hin (by decide)), prmProgram, htarget]
      rfl
    · rw [prmErase_exec hs ha, prmCmd_accepted _ hop (hin (by decide)), prmErase, htarget]
      rfl
    · rw [prmEraseVerify_exec hs ha, prmCmd_accepted _ hop (hin (by decide)), eraseVerify, htarget]
      rfl

/-! ## The commands -/

/-- With no operation running, the commands that NEST 0, 3, 5 and 6 accept act. -/
theorem prmCmd_idle {s : State} (f : State → State) (hop : s.prm.op = none) : prmCmd [0, 3, 5, 6] f s = f s :=
  prmCmd_accepted f hop (by rcases prmNest_of_none hop with h | h | h | h <;> simp [h])

theorem prmCmd_zero_three {s : State} (f : State → State) (h : prmNest s = 0 ∨ prmNest s = 3) :
    prmCmd [0, 3] f s = f s :=
  prmCmd_accepted f (op_none_of_prmNest h) (by simpa using h)

/-- A command refused with its RESULT, or the operation it begins. -/
def refusedOr (r : Option (BitVec 4)) (o : POp) (s : State) : State :=
  match r with
  | some q => setResult q s
  | none => beginJob o s

theorem prmProgram_eq {w : Nat} {s : State} (h : prmTarget s = some w) : prmProgram s = refusedOr
      (if prmProtected s (w / 256) then some 3 else if prmSuspect s (w / 256) then some 4
      else if prmRaw s w ≠ BitVec.allOnes 72 then some 2
      else if s.prm.data = BitVec.allOnes 64 then some 1 else none)
      { kind := .program, jobs := [.word w (withParity s.prm.data)] } s := by
  simp only [refusedOr, prmProgram, h, blank, Bool.not_eq_true', decide_eq_false_iff_not]
  (repeat' split) <;> simp_all

theorem prmErase_eq {w k : Nat} {s : State} (h : prmTarget s = some w) (hk : k = w / 256) : prmErase s = refusedOr
      (if prmProtected s k then some 3 else if s.pfail then some 9
      else if 16 ≤ s.prm.jOpen.length ∧ ∀ e ∈ s.prm.jOpen, e.1 ≠ k then some 10 else none)
      { kind := .erase k, jobs := [.record 1 0 (BitVec.ofNat 12 k) false, .erase k,
        .record 2 0 (BitVec.ofNat 12 k) false] } s := by
  subst hk
  have hfull : (decide (16 ≤ s.prm.jOpen.length) && !s.prm.jOpen.any (·.1 = w / 256)) = true ↔
      16 ≤ s.prm.jOpen.length ∧ ∀ e ∈ s.prm.jOpen, e.1 ≠ w / 256 := by simp
  simp only [refusedOr, prmErase, h, hfull]
  (repeat' split) <;> simp_all

theorem prmRotate_eq {k : Nat} {h : BitVec 7} {s : State} (hk : k = windowSector s 64)
    (hh : h = BitVec.ofNat 7 ((s.prm.winHead.toNat + 1) % 72)) : prmRotate s = refusedOr
      (if s.prm.winEn = false then some 12 else if prmProtected s k then some 3 else if prmSuspect s k then some 4
      else if zeroCount s k ≠ 0 then some 2 else none)
      { kind := .rotate h, jobs := [.record 3 (h.setWidth 12) s.prm.winBase false] } s := by
  subst hk hh
  simp only [refusedOr, prmRotate]
  (repeat' split) <;> simp_all

/-- An operation that is a command ends with its RESULT, no record of a window being due. -/
theorem endOp_of_command {s : State} (r : BitVec 4) (hkind : ∀ o, s.prm.op = some o → o.kind ≠ .window)
    (hdue : s.prm.winDue = false) : endOp r s = prmEnds r s := by
  have hany : s.prm.op.any (·.kind = .window) = false := by
    cases hop : s.prm.op with
    | none => rfl
    | some o => simpa using hkind o hop
  simp only [endOp, hany]
  exact startDue_not_due hdue

/-- The state with operation `o` at its start. -/
def withOp (o : POp) (s : State) : State := withPrm (fun p => { p with op := some o }) s

theorem endOp_withOp {o : POp} {s : State} (r : BitVec 4) (hkind : o.kind ≠ .window) (hdue : s.prm.winDue = false) :
    endOp r (withOp o s) = prmEnds r s :=
  endOp_of_command r (by rintro _ ⟨⟩; exact hkind) hdue

theorem failOp_progLike {o : POp} (h : progLike o.kind = true) (s : State) : failOp o s = endOp 6 s := by
  unfold failOp
  split
  · next he => simp [he, progLike] at h
  · rfl

theorem failOp_erase {o : POp} {k : Nat} (h : o.kind = .erase k) (s : State) :
    failOp o s = endOp 7 (if sectState s k = 1 then setSect k 2 s else s) := by
  unfold failOp
  rw [h]

theorem primerCommands_program {a : Acc} {w : Nat} {s : State} {r : Option (BitVec 4)} (hs : PortFree s)
    (ha : a = .full ∨ a = .low) (hnest : prmNest s = 0 ∨ prmNest s = 3) (htarget : prmTarget s = some w)
    (hr : r = (if prmProtected s (w / 256) then some 3 else if prmSuspect s (w / 256) then some 4
      else if prmRaw s w ≠ BitVec.allOnes 72 then some 2
      else if s.prm.data = BitVec.allOnes 64 then some 1 else none : Option (BitVec 4))) :
    exec (.prmProgram a) s = wrote
      (refusedOr r { kind := .program, jobs := [.word w (withParity s.prm.data)] } (atPort s)) := by
  rw [prmProgram_exec hs ha, prmCmd_zero_three (s := atPort s) _ hnest, prmProgram_eq (s := atPort s) htarget, hr]
  rfl

theorem primerCommands_erase {a : Acc} {w k : Nat} {s : State} {r : Option (BitVec 4)} (hs : PortFree s)
    (ha : a = .full ∨ a = .low) (hnest : prmNest s = 0) (htarget : prmTarget s = some w) (hk : k = w / 256)
    (hr : r = (if prmProtected s k then some 3 else if s.pfail then some 9
      else if 16 ≤ s.prm.jOpen.length ∧ ∀ e ∈ s.prm.jOpen, e.1 ≠ k then some 10 else none : Option (BitVec 4))) :
    exec (.prmErase a) s = wrote (refusedOr r { kind := .erase k, jobs :=
      [.record 1 0 (BitVec.ofNat 12 k) false, .erase k, .record 2 0 (BitVec.ofNat 12 k) false] } (atPort s)) := by
  have hin : prmNest (atPort s) ∈ [0] := List.mem_singleton.mpr hnest
  rw [prmErase_exec hs ha, prmCmd_accepted (s := atPort s) _ (op_none_of_prmNest (s := s) (.inl hnest)) hin,
    prmErase_eq (s := atPort s) htarget hk, hr]
  rfl

theorem primerCommands_rotate {a : Acc} {k : Nat} {h : BitVec 7} {s : State} {r : Option (BitVec 4)} (hs : PortFree s)
    (ha : a = .full ∨ a = .low) (hnest : prmNest s = 0 ∨ prmNest s = 3)
    (hk : k = s.prm.winBase.toNat + (s.prm.winHead.toNat + 64) % 72)
    (hh : h = BitVec.ofNat 7 ((s.prm.winHead.toNat + 1) % 72))
    (hr : r = (if s.prm.winEn = false then some 12 else if prmProtected s k then some 3
      else if prmSuspect s k then some 4 else if zeroCount s k ≠ 0 then some 2 else none : Option (BitVec 4))) :
    exec (.prmRotate a) s = wrote
      (refusedOr r { kind := .rotate h, jobs := [.record 3 (h.setWidth 12) s.prm.winBase false] } (atPort s)) := by
  rw [prmRotate_exec hs ha, prmCmd_zero_three (s := atPort s) _ hnest, prmRotate_eq (s := atPort s) hk hh, hr]
  rfl

/-- The number of a factory word is the low byte of PRM_ADDR. -/
theorem factory_number (x : BitVec 20) : (fld x 0 8).toNat = bits x.toNat 0 8 := by
  have hx := x.isLt
  rw [fld_toNat, bits, BitVec.natCast_eq_ofNat, BitVec.toNat_ofNat]
  omega

theorem goOn_started {o : POp} {s : State} (hop : s.prm.op = some o) (h : o.cur ≠ none ∨ o.pulses ≠ 0) :
    goOn s = s := by
  have hcond : ¬ (o.cur.isNone && decide (o.pulses = 0)) = true := by
    rcases h with h | h <;> simp [h]
  simp only [goOn, hop]
  exact if_neg hcond

theorem goOn_due {o : POp} {s : State} (hop : s.prm.op = some o) (hcur : o.cur = none) (hp : o.pulses = 0) :
    goOn s = beginJob o s := by
  simp [goOn, hop, hcur, hp]

theorem primerCommands_spec : PrimerCommands := by
  rintro a w s x hs ha rfl
  refine ⟨fun hop htarget => ⟨?read, ?verify, fun r hnest hr => ?program, fun k r hnest hk hr => ?erase⟩,
    fun hop o rest y hsusp hy => ?resume, fun hop => ?factory, fun hnest k h r hk hh hr => ?rotate⟩
  case read =>
    rw [prmRead_exec hs ha, prmCmd_idle (s := atPort s) _ hop, prmReadCmd,
      show prmTarget (atPort s) = some w from htarget]
    rfl
  case verify =>
    rw [prmEraseVerify_exec hs ha, prmCmd_idle (s := atPort s) _ hop, eraseVerify,
      show prmTarget (atPort s) = some w from htarget]
    rfl
  case program =>
    have hrun := primerCommands_program hs ha hnest htarget hr
    refine ⟨fun k hk => by rw [hrun, hk]; rfl, ?_⟩
    rintro hnone d rfl
    rw [hrun, hnone]
    exact ⟨fun htrip => congrArg wrote (beginJob_some (s := atPort s) htrip (tryJob_word rfl _)),
      fun htrip => congrArg wrote (beginJob_tripped (s := atPort s) htrip _)⟩
  case erase =>
    have hrun := primerCommands_erase hs ha hnest htarget hk hr
    refine ⟨fun q hq => by rw [hrun, hq]; rfl, ?_⟩
    rintro hnone o ho
    rw [hnone, ← ho] at hrun
    rw [hrun]
    refine ⟨fun htrip => recorded_of_tryJob (by rw [ho]) (fun z hz => ?_) fun hz hsect hdue => ?_,
      fun htrip => congrArg wrote (beginJob_tripped (s := atPort s) htrip _)⟩
    · exact congrArg wrote (beginJob_some (s := atPort s) htrip hz)
    · have hkind : o.kind = .erase k := by rw [ho]
      have hne : ¬ sectState (withOp o (atPort s)) k = 1 := hsect
      refine congrArg wrote ((beginJob_none (s := atPort s) htrip hz).trans ((failOp_erase hkind _).trans ?_))
      exact (congrArg _ (if_neg hne)).trans (endOp_withOp 7 (by rw [hkind]; nofun) hdue)
  case resume =>
    have hne : s.prm.susp ≠ [] := by rw [hsusp]; nofun
    have hin : prmNest (atPort s) ∈ [3, 5, 6] := by
      rcases prmNest_of_susp (s := atPort s) hop hne with h | h | h <;> simp [h]
    have hrun : exec (.prmResume a) s = wrote (goOn y) := by
      rw [prmResume_exec hs ha, prmCmd_accepted (s := atPort s) _ hop hin, prmResume,
        show (atPort s).prm.susp = o :: rest from hsusp, hy]
      rfl
    have hyop : y.prm.op = some o := by rw [hy]; rfl
    exact ⟨fun h => by rw [hrun, goOn_started hyop h], fun hcur hp => by rw [hrun, goOn_due hyop hcur hp]⟩
  case factory =>
    rw [prmReadFactory_exec hs ha, prmCmd_idle (s := atPort s) _ hop, readFactory]
    exact congrArg (fun f => wrote (withPrm f (atPort s))) (funext fun p => by rw [factory_number]; rfl)
  case rotate =>
    have hrun := primerCommands_rotate hs ha hnest hk hh hr
    refine ⟨fun q hq => by rw [hrun, hq]; rfl, ?_⟩
    rintro hnone o ho
    rw [hnone, ← ho] at hrun
    rw [hrun]
    refine ⟨fun htrip => recorded_of_tryJob (by rw [ho]) (fun z hz => ?_) fun hz hdue => ?_,
      fun htrip => congrArg wrote (beginJob_tripped (s := atPort s) htrip _)⟩
    · exact congrArg wrote (beginJob_some (s := atPort s) htrip hz)
    · have hprog : progLike o.kind = true := by rw [ho]; rfl
      refine congrArg wrote ((beginJob_none (s := atPort s) htrip hz).trans ((failOp_progLike hprog _).trans ?_))
      exact endOp_withOp 6 (by rw [ho]; nofun) hdue

end Sys2Proof.Machine
end

section
/-! SUPPORT. Pulses of the Primer store: what they leave in the array, the job that follows, and where they stop (R456-
R459, R462). -/

namespace Sys2Proof.Machine

open Sys2Proof Sys2Proof.Spec

/-! ## What changes the array alone -/

/-- `t` differs from `s` in the stored words, the open intents and the count of free values drawn alone. -/
def ArrayOnly (s t : State) : Prop :=
  ∃ f a j, t = { s with free := f, prm := { s.prm with arr := a, jOpen := j } }

theorem ArrayOnly.refl (s : State) : ArrayOnly s s := ⟨_, _, _, rfl⟩

theorem ArrayOnly.trans {s t u : State} (h : ArrayOnly s t) (g : ArrayOnly t u) : ArrayOnly s u := by
  obtain ⟨f, a, j, rfl⟩ := h
  obtain ⟨f', a', j', rfl⟩ := g
  exact ⟨f', a', j', rfl⟩

theorem arrayOnly_setRaw (w : Nat) (v : BitVec 72) (s : State) : ArrayOnly s (setRaw w v s) := ⟨_, _, _, rfl⟩

theorem arrayOnly_draw72 (s : State) : ArrayOnly s (draw72 s).2 := ⟨_, _, _, rfl⟩

theorem arrayOnly_someBit (v : BitVec 72) (s : State) : ArrayOnly s (someBit v s).2 := ⟨_, _, _, rfl⟩

theorem arrayOnly_cutWord (w : Nat) (d : BitVec 72) (s : State) : ArrayOnly s (cutWord w d s) := ⟨_, _, _, rfl⟩

theorem arrayOnly_noteIntent (w : Nat) (s : State) : ArrayOnly s (noteIntent w s) := by
  simp only [noteIntent]
  split
  · exact ⟨_, _, _, rfl⟩
  · exact .refl s

theorem arrayOnly_cutRecord (w : Nat) (d : BitVec 72) (s : State) : ArrayOnly s (cutRecord w d s) := by
  simp only [cutRecord]
  split
  · exact (arrayOnly_cutWord w d s).trans ((arrayOnly_someBit _ _).trans (arrayOnly_setRaw ..))
  · exact arrayOnly_cutWord w d s

theorem arrayOnly_cutJob (j : PJob) (w : Nat) (d : BitVec 72) (s : State) : ArrayOnly s (cutJob j w d s) := by
  unfold cutJob
  split
  · exact arrayOnly_cutRecord w d s
  · exact (arrayOnly_cutWord w d s).trans (arrayOnly_noteIntent w _)

theorem arrayOnly_failWord (j : PJob) (w : Nat) (d : BitVec 72) (s : State) : ArrayOnly s (failWord j w d s) := by
  simp only [failWord]
  split
  · exact (arrayOnly_cutJob j w d s).trans ((arrayOnly_someBit _ _).trans (arrayOnly_setRaw ..))
  · exact arrayOnly_cutJob j w d s

/-- One listed word of a sector after some erase pulses. -/
def cutListed (s : State) (e : Nat × BitVec 72) : State := setRaw e.1 (e.2 ||| (draw72 s).1) (draw72 s).2

theorem cutSector_eq (k : Nat) (s : State) : cutSector k s = (sectorWords s k).foldl cutListed s := rfl

theorem arrayOnly_foldl {α : Type} {f : State → α → State} (h : ∀ s a, ArrayOnly s (f s a)) (l : List α) (s : State) :
    ArrayOnly s (l.foldl f s) := by
  induction l generalizing s with
  | nil => exact .refl s
  | cons a l ih => exact (h s a).trans (ih _)

theorem arrayOnly_cutSector (k : Nat) (s : State) : ArrayOnly s (cutSector k s) :=
  arrayOnly_foldl (fun s _ => (arrayOnly_draw72 s).trans (arrayOnly_setRaw ..)) _ _

/-! ## Stored words -/

theorem prmRaw_setRaw (w u : Nat) (v : BitVec 72) (s : State) :
    prmRaw (setRaw w v s) u = if u = w then v else prmRaw s u := tget_tset ..

theorem prmRaw_cutWord (w : Nat) (d : BitVec 72) (s : State) :
    ∃ r, ∀ u, prmRaw (cutWord w d s) u = if u = w then prmRaw s w &&& (d ||| r) else prmRaw s u :=
  ⟨(draw72 s).1, fun _ => prmRaw_setRaw ..⟩

theorem prmRaw_noteIntent (w u : Nat) (s : State) : prmRaw (noteIntent w s) u = prmRaw s u := by
  simp only [noteIntent]
  split <;> rfl

/-- A word that a PROGRAM's pulses have not verified. -/
theorem prmRaw_cutJob_word (w w' : Nat) (d d' : BitVec 72) (s : State) :
    ∃ r, ∀ u, prmRaw (cutJob (.word w' d') w d s) u = if u = w then prmRaw s w &&& (d ||| r) else prmRaw s u := by
  obtain ⟨r, hr⟩ := prmRaw_cutWord w d s
  exact ⟨r, fun u => (prmRaw_noteIntent w u _).trans (hr u)⟩

/-- The bit taken of those set is one of them. -/
theorem someBit_mem {v : BitVec 72} (hv : v ≠ 0) (s : State) :
    ∃ i < 72, v.getLsbD i = true ∧ (someBit v s).1.getLsbD i = true := by
  have hmem {i : Nat} : i ∈ (List.range 72).filter (bit v) ↔ i < 72 ∧ v.getLsbD i = true := by
    rw [List.mem_filter, List.mem_range]
    rfl
  have hpos : 0 < ((List.range 72).filter (bit v)).length := by
    by_contra hzero
    have hnil : (List.range 72).filter (bit v) = [] := List.eq_nil_of_length_eq_zero (by omega)
    refine hv (BitVec.eq_of_getLsbD_eq fun i hi => ?_)
    have hout : i ∉ (List.range 72).filter (bit v) := by simp [hnil]
    simpa [hmem, hi] using hout
  have hlt := Nat.mod_lt (draw s).1.toNat hpos
  obtain ⟨hi, hbit⟩ := hmem.mp (List.getElem_mem hlt)
  refine ⟨_, hi, hbit, ?_⟩
  simp only [someBit, List.getElem?_eq_getElem hlt]
  exact bit_setBit_self 0 hi true

/-- A word left by PROG_FAIL is not blank. -/
theorem failWord_not_blank (j : PJob) (w : Nat) {d : BitVec 72} (hd : d ≠ BitVec.allOnes 72) (s : State) :
    prmRaw (failWord j w d s) w ≠ BitVec.allOnes 72 := by
  simp only [failWord]
  split
  · have hfree : ~~~d ≠ 0 := fun h => hd (by rw [← BitVec.not_not (b := d), h]; rfl)
    obtain ⟨i, hi, -, hset⟩ := someBit_mem hfree (cutJob j w d s)
    intro hones
    rw [prmRaw_setRaw, if_pos rfl] at hones
    have hbit := congrArg (BitVec.getLsbD · i) hones
    change BitVec.getLsbD _ i = BitVec.getLsbD _ i at hbit
    rw [BitVec.getLsbD_and, BitVec.getLsbD_not, hset, BitVec.getLsbD_allOnes] at hbit
    simp [hi] at hbit
  · next hblank => simpa [blank] using hblank

/-- A bit that each value listed for a word has is a bit of the word. -/
theorem prmRaw_getLsbD {s : State} {w i : Nat} (h : ∀ x, (w, x) ∈ s.prm.arr → x.getLsbD i = true) (hi : i < 72) :
    (prmRaw s w).getLsbD i = true := by
  unfold prmRaw tget
  split
  · next e he =>
    have hkey : e.1 = w := by simpa using List.find?_some (p := fun x : Nat × BitVec 72 => x.1 == w) he
    exact h e.2 (hkey ▸ List.mem_of_find?_eq_some he)
  · exact BitVec.getLsbD_allOnes.trans (decide_eq_true hi)

/-- One listed word of the sector keeps such a sector partly erased. -/
theorem partErased_cutListed {k : Nat} {s t : State} (h : PartErased k s t) {e : Nat × BitVec 72}
    (he : e ∈ sectorWords s k) : PartErased k s (cutListed t e) := by
  obtain ⟨hbits, hothers⟩ := h
  obtain ⟨hin, hsector⟩ := List.mem_filter.mp he
  have hraw (w : Nat) : prmRaw (cutListed t e) w = if w = e.1 then e.2 ||| (draw72 t).1 else prmRaw t w :=
    prmRaw_setRaw ..
  refine ⟨fun w i hlisted hi => ?_, fun w hw => ?_⟩
  · rw [hraw]
    split
    · next hw => simp [hlisted e.2 (hw ▸ hin)]
    · exact hbits w i hlisted hi
  · have hne : w ≠ e.1 := fun heq => hw (heq ▸ of_decide_eq_true hsector)
    rw [hraw, if_neg hne]
    exact hothers w hw

theorem partErased_cutSector (k : Nat) (s : State) : PartErased k s (cutSector k s) := by
  have hfold (l : List (Nat × BitVec 72)) (hl : ∀ e ∈ l, e ∈ sectorWords s k) {t : State} (ht : PartErased k s t) :
      PartErased k s (l.foldl cutListed t) := by
    induction l generalizing t with
    | nil => exact ht
    | cons e l ih =>
      obtain ⟨he, hl⟩ := List.forall_mem_cons.mp hl
      exact ih hl (partErased_cutListed ht he)
  exact hfold _ (fun _ h => h) ⟨fun w i h hi => prmRaw_getLsbD h hi, fun _ _ => rfl⟩

/-! ## The job that follows -/

theorem jobDone_last {o : POp} {j : PJob} (h : o.jobs = [j]) (w : Nat) (s : State) :
    jobDone o j w s = endOp 1 (jobEffect o w j s) := by
  simp [jobDone, h]

/-- The next job is due, with the tries of a record that a move interrupted. -/
theorem jobDone_next {o : POp} {j : PJob} {rest : List PJob} (h : o.jobs = j :: rest) (hne : rest ≠ []) (w : Nat)
    (s : State) : jobDone o j w s = withOp { o with
      jobs := rest, tries := if isHead j then o.held else 0, held := if isHead j then 0 else o.held, cur := none,
      pulses := 0, again := none } (jobEffect o w j s) := by
  have hempty : rest.isEmpty = false := by simpa using hne
  simp only [jobDone, h, List.tail_cons, hempty]
  rfl

theorem afterPulse_ended {s : State} (h : s.prm.op = none) (j : PJob) : afterPulse j s = s := by
  unfold afterPulse
  rw [h]

/-- With no SUSPEND pending, and no power warning for an erase, the operation goes on. -/
theorem afterPulse_goOn {o : POp} {s : State} (hop : s.prm.op = some o)
    (hwarn : s.pfail = false ∨ progLike o.kind = true) (hsusp : s.prm.suspend = false) (j : PJob) :
    afterPulse j s = goOn s := by
  have hpfail : (s.pfail && !progLike o.kind) = false := by rcases hwarn with h | h <;> simp [h]
  simp [afterPulse, hop, hpfail, hsusp]

theorem afterPulse_due {o : POp} {s : State} (hwarn : s.pfail = false ∨ progLike o.kind = true)
    (hsusp : s.prm.suspend = false) (hcur : o.cur = none) (hp : o.pulses = 0) (j : PJob) :
    afterPulse j (withOp o s) = beginJob o (withOp o s) :=
  (afterPulse_goOn (s := withOp o s) rfl hwarn hsusp j).trans (goOn_due rfl hcur hp)

/-- The operation whose pulse did not verify goes on with its job. -/
theorem afterPulse_started {o : POp} {s : State} (hwarn : s.pfail = false ∨ progLike o.kind = true)
    (hsusp : s.prm.suspend = false) (h : o.cur ≠ none ∨ o.pulses ≠ 0) (j : PJob) :
    afterPulse j (withOp o s) = withOp o s :=
  (afterPulse_goOn (s := withOp o s) rfl hwarn hsusp j).trans (goOn_started rfl h)

/-! ## The end of a pulse -/

/-- The operation with one pulse more. -/
def pulsed (o : POp) : POp := { o with pulses := o.pulses + 1 }

theorem pulseEnd_of_erase {o : POp} {k : Nat} {rest : List PJob} {s : State} (hop : s.prm.op = some o)
    (htrip : s.prm.tripped = false) (hjobs : o.jobs = .erase k :: rest) (good : Bool) : pulseEnd good s =
      if good then afterPulse (.erase k) (jobDone o (.erase k) 0 s)
      else if 39 ≤ o.pulses then failOp o (cutSector k s) else afterPulse (.erase k) (withOp (pulsed o) s) := by
  obtain ⟨kind, jobs, cur, pulses, tries, held, again⟩ := o
  cases hjobs
  simp only [pulseEnd, hop, htrip, Nat.reduceLeDiff]
  cases good <;> rfl

theorem pulseEnd_of_word {o : POp} {j : PJob} {rest : List PJob} {w : Nat} {d : BitVec 72} {s : State}
    (hop : s.prm.op = some o) (htrip : s.prm.tripped = false) (hjobs : o.jobs = j :: rest) (hj : ∀ k, j ≠ .erase k)
    (hcur : o.cur = some (w, d)) (good : Bool) : pulseEnd good s =
      if good then afterPulse j (jobDone o j w (setRaw w (prmRaw s w &&& d) s))
      else if 7 ≤ o.pulses then afterPulse j (wordFail o j w d s) else afterPulse j (withOp (pulsed o) s) := by
  obtain ⟨kind, jobs, cur, pulses, tries, held, again⟩ := o
  cases hjobs
  cases hcur
  simp only [pulseEnd, hop, htrip, Nat.reduceLeDiff]
  cases j with
  | erase k => exact absurd rfl (hj k)
  | _ => cases good <;> rfl


end Sys2Proof.Machine
end

section
/-! SUPPORT. The jobs of the journal, and the ends of pulses (R454-R459, R462). -/

namespace Sys2Proof.Machine

open Sys2Proof Sys2Proof.Spec

/-! ## Jobs verified, and a record written again -/

/-- A record that is written again keeps its SEQ while no other has been written since. -/
theorem takeRecord_again {o : POp} {q : BitVec 28} {s : State} (h : o.again = some q) (hq : q + 1 = s.prm.jSeq)
    (typ : BitVec 4) (arg k : BitVec 12) : takeRecord typ arg k o s = withPrm (fun p => { p with
      jPos := p.jPos + 1, op := some { o with
        cur := some (256 * p.jSector + p.jPos, withParity (recWord typ q arg k)), pulses := 0 } }) s := by
  obtain ⟨kind, jobs, cur, pulses, tries, held, again⟩ := o
  cases h
  simp only [takeRecord, recSeq, hq, if_true]
  rfl

theorem wordFail_word {w' : Nat} {d' : BitVec 72} (o : POp) (w : Nat) (d : BitVec 72) (s : State) :
    wordFail o (.word w' d') w d s = failOp o (failWord (.word w' d') w d s) := rfl

/-- Of the three words of a record, one more is due. -/
theorem wordFail_record {o : POp} (h : o.tries < 2) (typ : BitVec 4) (arg k : BitVec 12) (w : Nat) (d : BitVec 72)
    (s : State) : wordFail o (.record typ arg k false) w d s =
      withOp { o with cur := none, pulses := 0, tries := o.tries + 1 } (failWord (.record typ arg k false) w d s) := by
  have hcond : ¬ (decide (3 ≤ o.tries + 1) ||
      (false && decide (255 < (failWord (.record typ arg k false) w d s).prm.jPos))) = true := by
    simp
    omega
  exact if_neg hcond

/-- What the journal sector's jobs leave when they are verified. -/
theorem pulseEnd_next {o : POp} {rest : List PJob} {s : State} (hop : s.prm.op = some o) (htrip : s.prm.tripped = false)
    (hsusp : s.prm.suspend = false) (hwarn : s.pfail = false) (hne : rest ≠ []) :
    (∀ k p, o.jobs = .erase k :: rest →
      p = { o with jobs := rest, tries := 0, cur := none, pulses := 0, again := none } →
      pulseEnd true s = beginJob p (withOp p (eraseSector k s))) ∧
    (∀ j w d p, (∀ k, j ≠ .erase k) → o.jobs = j :: rest → o.cur = some (w, d) →
      p = { o with
        jobs := rest, tries := if isHead j then o.held else 0, held := if isHead j then 0 else o.held, cur := none,
        pulses := 0, again := none } →
      (jobEffect o w j (setRaw w (prmRaw s w &&& d) s)).pfail = s.pfail →
      (jobEffect o w j (setRaw w (prmRaw s w &&& d) s)).prm.suspend = s.prm.suspend →
      pulseEnd true s = beginJob p (withOp p (jobEffect o w j (setRaw w (prmRaw s w &&& d) s)))) := by
  refine ⟨?_, ?_⟩
  · rintro k p hjobs rfl
    rw [pulseEnd_of_erase hop htrip hjobs, if_pos rfl, jobDone_next hjobs hne]
    refine afterPulse_due (s := eraseSector k s) (.inl hwarn) hsusp ?_ ?_ _ <;> rfl
  · rintro j w d p hj hjobs hcur rfl hpfail hsuspend
    rw [pulseEnd_of_word hop htrip hjobs hj hcur, if_pos rfl, jobDone_next hjobs hne]
    refine afterPulse_due (.inl (hpfail.trans hwarn)) (hsuspend.trans hsusp) ?_ ?_ _ <;> rfl

/-- A record whose word failed takes the next word, with its SEQ. -/
theorem record_written_again {o : POp} {typ : BitVec 4} {arg k : BitVec 12} {rest : List PJob} {w : Nat} {d : BitVec 72}
    {q : BitVec 28} {s : State} (hop : s.prm.op = some o) (htrip : s.prm.tripped = false)
    (hsusp : s.prm.suspend = false) (hwarn : s.pfail = false) (hjobs : o.jobs = .record typ arg k false :: rest)
    (hcur : o.cur = some (w, d)) (hpulses : 7 ≤ o.pulses) (htries : o.tries < 2) (hpos : s.prm.jPos ≤ 238)
    (hagain : o.again = some q) (hq : q + 1 = s.prm.jSeq) :
    pulseEnd false s = withPrm (fun p => { p with
      jPos := p.jPos + 1, op := some { o with
        tries := o.tries + 1, pulses := 0,
        cur := some (256 * p.jSector + p.jPos, withParity (recWord typ q arg k)) } })
      (failWord (.record typ arg k false) w d s) := by
  obtain ⟨f, a, j, hF⟩ := arrayOnly_failWord (.record typ arg k false) w d s
  have hend := pulseEnd_of_word hop htrip hjobs (by rintro _ ⟨⟩) hcur false
  rw [if_neg nofun, if_pos hpulses, wordFail_record htries] at hend
  obtain ⟨p, hp⟩ : ∃ p : POp, p = { o with cur := none, pulses := 0, tries := o.tries + 1 } := ⟨_, rfl⟩
  obtain ⟨y, hy⟩ : ∃ y, y = failWord (.record typ arg k false) w d s := ⟨_, rfl⟩
  have hpjobs : p.jobs = .record typ arg k false :: rest := by rw [hp]; exact hjobs
  have hpagain : p.again = some q := by rw [hp]; exact hagain
  rw [← hp, ← hy] at hend
  rw [← hy] at hF ⊢
  have hfree : ¬ 238 < (withOp p y).prm.jPos := by rw [hF]; exact Nat.not_lt.mpr hpos
  have hroom : ¬ 255 < (withOp p y).prm.jPos := fun h => hfree (by omega)
  have hseq : q + 1 = (withOp p y).prm.jSeq := by rw [hF]; exact hq
  have hbegin : afterPulse (.record typ arg k false) (withOp p y) = beginJob p (withOp p y) :=
    afterPulse_due (by rw [hF]; exact .inl hwarn) (by rw [hF]; exact hsusp) (by rw [hp]) (by rw [hp]) _
  rw [hend, hbegin, beginJob_some (y := takeRecord typ arg k p (withOp p y)) (by rw [hF]; exact htrip),
    takeRecord_again hpagain hseq, hp]
  · rfl
  · rw [tryJob_record hpjobs, if_neg hfree, runJob_record hpjobs, if_neg hroom]

theorem journalJobs : JournalJobs := by
  intro o s
  refine ⟨fun h => beginJob_tripped h o, fun htrip hagain => ?fresh,
    fun typ arg k rest htrip hagain hjobs hpos => ?spare,
    fun k rest htrip hjobs => beginJob_some htrip (tryJob_erase hjobs s),
    fun k rest htrip hjobs => beginJob_some htrip (tryJob_jhead hjobs s),
    fun hop htrip hsusp hwarn rest hne p hp => ?verified,
    fun typ arg k rest w d q hop htrip hsusp hwarn hjobs hcur hpulses htries hpos hagain hq => ?again⟩
  case fresh => exact recorded_of_tryJob hagain (fun y hy => beginJob_some htrip hy) fun _ => trivial
  case spare =>
    refine beginJob_some htrip ?_
    rw [tryJob_spare hjobs, runJob_record hjobs, if_neg (by omega), takeRecord_fresh hagain]
  case verified =>
    obtain ⟨herase, hword⟩ := pulseEnd_next hop htrip hsusp hwarn hne
    refine ⟨fun k hjobs => congrArg _ (herase k p hjobs hp), fun k w d hjobs hcur h hh => ?_,
      fun arg k w d hjobs hcur => ?_⟩
    · exact congrArg _ (hword _ w d h (by rintro _ ⟨⟩) hjobs hcur (by rw [hh, hp]; rfl) rfl rfl)
    · exact congrArg _ (hword _ w d p (by rintro _ ⟨⟩) hjobs hcur hp rfl rfl)
  case again => exact congrArg _ (record_written_again hop htrip hsusp hwarn hjobs hcur hpulses htries hpos hagain hq)

/-- Settles O39: `prmCommand` command by command, and the jobs that each begins. -/
theorem primerCommands : Obligations.PrimerCommands := ⟨primerRefusals, primerCommands_spec, journalJobs⟩

end Sys2Proof.Machine
end

section
/-! SUPPORT. Pulses of a program and of an erase, SUSPEND and PFAIL at their ends, and the brown-out detector (R454,
R456-R458, R462). -/

namespace Sys2Proof.Machine

open Sys2Proof Sys2Proof.Spec

/-! ## The detector -/

theorem arrayOnly_unverified (o : POp) (s : State) : ArrayOnly s (unverified o s) := by
  unfold unverified
  split
  · exact arrayOnly_cutSector ..
  · exact arrayOnly_cutJob ..
  · exact .refl s

/-- A cut operation changes neither RESULT nor the detector's state. -/
theorem cutOp_prm (reached : Bool) (o : POp) (s : State) :
    (cutOp reached o s).prm.result = s.prm.result ∧ (cutOp reached o s).prm.tripped = s.prm.tripped := by
  have hleft : (if reached then unverified o s else s).prm.result = s.prm.result ∧
      (if reached then unverified o s else s).prm.tripped = s.prm.tripped := by
    split
    · obtain ⟨f, a, j, h⟩ := arrayOnly_unverified o s
      rw [h]
      exact ⟨rfl, rfl⟩
    · exact ⟨rfl, rfl⟩
  simp only [cutOp]
  split <;> exact hleft

theorem foldl_cutOp_prm (l : List POp) (s : State) :
    (l.foldl (fun s o => cutOp false o s) s).prm.result = s.prm.result ∧
    (l.foldl (fun s o => cutOp false o s) s).prm.tripped = s.prm.tripped := by
  induction l generalizing s with
  | nil => exact ⟨rfl, rfl⟩
  | cons o l ih => exact ⟨(ih _).1.trans (cutOp_prm ..).1, (ih _).2.trans (cutOp_prm ..).2⟩

/-- The trip ends what runs and what is suspended, CUT if a command began any of it. -/
theorem tripDetector_prm (s : State) : (tripDetector s).prm.tripped = true ∧ (tripDetector s).prm.op = none ∧
    (tripDetector s).prm.susp = [] ∧ (tripDetector s).prm.suspend = false ∧ (tripDetector s).prm.result =
      if ∃ o ∈ s.prm.op.toList ++ s.prm.susp, o.kind ≠ .window then 8 else s.prm.result := by
  have hany : ((s.prm.op.toList ++ s.prm.susp).any fun o => decide (o.kind ≠ .window)) = true ↔
      ∃ o ∈ s.prm.op.toList ++ s.prm.susp, o.kind ≠ .window := by
    simp only [List.any_eq_true, decide_eq_true_eq]
  obtain ⟨y, hy, hresult, htrip⟩ : ∃ y, tripDetector s = modPrm (fun p => { p with
      op := none, susp := [], suspend := false,
      result := if (s.prm.op.toList ++ s.prm.susp).any fun o => decide (o.kind ≠ .window) then 8 else p.result }) y ∧
      y.prm.result = s.prm.result ∧ y.prm.tripped = true := by
    refine ⟨_, rfl, (foldl_cutOp_prm _ _).1.trans ?_, (foldl_cutOp_prm _ _).2.trans ?_⟩ <;> split
    · exact (cutOp_prm ..).1
    · rfl
    · exact (cutOp_prm ..).2
    · rfl
  rw [hy]
  refine ⟨htrip, rfl, rfl, rfl, ?_⟩
  change (if _ then (8 : BitVec 4) else y.prm.result) = _
  by_cases h : ∃ o ∈ s.prm.op.toList ++ s.prm.susp, o.kind ≠ .window
  · rw [if_pos h, if_pos (hany.mpr h)]
  · rw [if_neg h, if_neg (mt hany.mp h), hresult]

/-! ## Ends of an operation -/

theorem pulseEnd_idle {s : State} (good : Bool) (h : s.prm.op = none ∨ s.prm.tripped = true) : pulseEnd good s = s := by
  unfold pulseEnd
  rcases h with h | h
  · rw [h]
  · split
    · rfl
    · rw [if_pos h]

/-- A program whose word is verified ends OK, whatever is pending. -/
theorem pulseEnd_program_good {o : POp} {w : Nat} {d : BitVec 72} {s : State} (hop : s.prm.op = some o)
    (htrip : s.prm.tripped = false) (hdue : s.prm.winDue = false) (hkind : o.kind = .program)
    (hjobs : o.jobs = [.word w d]) (hcur : o.cur = some (w, d)) : pulseEnd true s =
      prmEnds 1 (withPrm (fun p => { p with arr := tset (BitVec.allOnes 72) w (prmRaw s w &&& d) p.arr }) s) := by
  have hend : endOp 1 (setRaw w (prmRaw s w &&& d) s) = prmEnds 1 (setRaw w (prmRaw s w &&& d) s) := by
    refine endOp_of_command 1 (fun p hp => ?_) hdue
    obtain rfl : o = p := Option.some.inj (hop.symm.trans hp)
    rw [hkind]
    nofun
  rw [pulseEnd_of_word hop htrip hjobs (by rintro _ ⟨⟩) hcur, if_pos rfl, jobDone_last hjobs]
  change afterPulse _ (endOp 1 (setRaw w (prmRaw s w &&& d) s)) = _
  rw [hend]
  exact afterPulse_ended rfl _

/-- One that is not verified in 8 pulses ends PROG_FAIL. -/
theorem pulseEnd_program_fail {o : POp} {w : Nat} {d : BitVec 72} {s : State} (hop : s.prm.op = some o)
    (htrip : s.prm.tripped = false) (hdue : s.prm.winDue = false) (hkind : o.kind = .program)
    (hjobs : o.jobs = [.word w d]) (hcur : o.cur = some (w, d)) (hpulses : 7 ≤ o.pulses) :
    pulseEnd false s = prmEnds 6 (failWord (.word w d) w d s) := by
  obtain ⟨f, a, j, hF⟩ := arrayOnly_failWord (.word w d) w d s
  have hend : failOp o (failWord (.word w d) w d s) = prmEnds 6 (failWord (.word w d) w d s) := by
    rw [failOp_progLike (by rw [hkind]; rfl)]
    refine endOp_of_command 6 (fun p hp => ?_) (by rw [hF]; exact hdue)
    have hsame : s.prm.op = some p := by rw [hF] at hp; exact hp
    obtain rfl : o = p := Option.some.inj (hop.symm.trans hsame)
    rw [hkind]
    nofun
  rw [pulseEnd_of_word hop htrip hjobs (by rintro _ ⟨⟩) hcur, if_neg nofun, if_pos hpulses, wordFail_word, hend]
  exact afterPulse_ended rfl _

/-- An erase whose pulse is the fortieth ends ERASE_FAIL, its sector SUSPECT. -/
theorem pulseEnd_erase_fail {o : POp} {k : Nat} {rest : List PJob} {s : State} (hop : s.prm.op = some o)
    (htrip : s.prm.tripped = false) (hdue : s.prm.winDue = false) (hkind : o.kind = .erase k)
    (hjobs : o.jobs = .erase k :: rest) (hpulses : 39 ≤ o.pulses) (hsect : sectState s k = 1) :
    pulseEnd false s = prmEnds 7 (withPrm (fun p => { p with sect := tset 0 k 2 p.sect }) (cutSector k s)) := by
  obtain ⟨f, a, j, hF⟩ := arrayOnly_cutSector k s
  have hstill : sectState (cutSector k s) k = 1 := by rw [hF]; exact hsect
  rw [pulseEnd_of_erase hop htrip hjobs, if_neg nofun, if_pos hpulses, failOp_erase hkind, if_pos hstill]
  refine endOp_of_command 7 (fun p hp => ?_) (by rw [hF]; exact hdue)
  have hsame : s.prm.op = some p := by rw [hF] at hp; exact hp
  obtain rfl : o = p := Option.some.inj (hop.symm.trans hsame)
  rw [hkind]
  nofun

theorem pulseEnds : PulseEnds := by
  intro good o s
  refine ⟨fun h => congrArg _ (pulseEnd_idle good h), fun hop htrip hsusp hdue => ⟨fun w d hkind hjobs hcur => ?program,
    fun hwarn k r p hkind hjobs hp => ?erase⟩, ⟨_, rfl, tripDetector_prm s⟩, fun hbrown hboot htrip x hx => ?release,
    fun h => ?held⟩
  case program =>
    refine ⟨congrArg _ (pulseEnd_program_good hop htrip hdue hkind hjobs hcur),
      fun hlt => congrArg Host.Outcome.next (show pulseEnd false s = withOp (pulsed o) s from ?_),
      fun hge => congrArg _ (pulseEnd_program_fail hop htrip hdue hkind hjobs hcur hge),
      fun hd => failWord_not_blank _ w hd s⟩
    have hprog : progLike (pulsed o).kind = true := by rw [pulsed, hkind]; rfl
    rw [pulseEnd_of_word hop htrip hjobs (by rintro _ ⟨⟩) hcur, if_neg nofun, if_neg (by omega)]
    exact afterPulse_started (.inr hprog) hsusp (.inr (Nat.succ_ne_zero _)) _
  case erase =>
    refine ⟨congrArg _ ((pulseEnd_next hop htrip hsusp hwarn (List.cons_ne_nil r [])).1 k p hjobs hp),
      fun hlt => congrArg Host.Outcome.next (show pulseEnd false s = withOp (pulsed o) s from ?_),
      fun hge hsect => congrArg _ (pulseEnd_erase_fail hop htrip hdue hkind hjobs hge hsect)⟩
    rw [pulseEnd_of_erase hop htrip hjobs, if_neg nofun, if_neg (by omega)]
    exact afterPulse_started (.inl hwarn) hsusp (.inr (Nat.succ_ne_zero _)) _
  case release =>
    have hrun : exec .brownOutDetectorRelease s = .next (goOn x) := by
      have hcond : ¬ (s.brownout || decide (s.gctl.boot = .inReset) || !s.prm.tripped) = true := by
        simp [hbrown, hboot, htrip]
      rw [hx]
      exact congrArg _ (if_neg hcond)
    have hxop : x.prm.op = s.prm.op := by rw [hx]; rfl
    refine ⟨fun h => ?_, fun hop hcur hp => by rw [hrun, goOn_due (hxop.trans hop) hcur hp]⟩
    rcases h with hnone | ⟨hop, hstarted⟩
    · rw [hrun, goOn, hxop, hnone]
    · rw [hrun, goOn_started (hxop.trans hop) hstarted]
  case held =>
    have hcond : (s.brownout || decide (s.gctl.boot = .inReset) || !s.prm.tripped) = true := by
      rcases h with h | h | h <;> simp [h]
    exact congrArg _ (if_pos hcond)

/-! ## SUSPEND and PFAIL -/

/-- A pulse at whose end a pending SUSPEND takes effect: what the job's pulses left is in the array. -/
theorem afterPulse_suspend {o : POp} {j : PJob} {s : State} (hwarn : s.pfail = false ∨ progLike o.kind = true)
    (hsusp : s.prm.suspend = true) (hcan : canSuspend o j = true) (hdue : s.prm.winDue = false) :
    afterPulse j (withOp o s) = withPrm (fun p => { p with
      op := none, susp := o :: p.susp, suspend := false, result := 1 })
      (if o.pulses ≠ 0 then unverified o (withOp o s) else withOp o s) := by
  have hpfail : ((withOp o s).pfail && !progLike o.kind) = false := by
    change (s.pfail && !progLike o.kind) = false
    rcases hwarn with h | h <;> simp [h]
  have hsuspend : ((withOp o s).prm.suspend && canSuspend o j) = true := by
    change (s.prm.suspend && canSuspend o j) = true
    rw [hsusp, hcan]
    rfl
  have hop : (withOp o s).prm.op = some o := rfl
  simp only [afterPulse, hop, hpfail, hsuspend, if_true]
  refine startDue_not_due ?_
  split
  · obtain ⟨f, a, j, h⟩ := arrayOnly_unverified o (withOp o s)
    rw [h]
    exact hdue
  · exact hdue

/-- A pulse at whose end PFAIL stops an erase, CUT, with its sector SUSPECT. -/
theorem afterPulse_pfail {o : POp} {k : Nat} {j : PJob} {s : State} (hwarn : s.pfail = true) (hkind : o.kind = .erase k)
    (hdue : s.prm.winDue = false) : afterPulse j (withOp o s) = prmEnds 8 (setSect k 2
      (if o.pulses ≠ 0 then unverified o (withOp o s) else withOp o s)) := by
  have hpfail : ((withOp o s).pfail && !progLike o.kind) = true := by
    change (s.pfail && !progLike o.kind) = true
    rw [hwarn, hkind]
    rfl
  have hop : (withOp o s).prm.op = some o := rfl
  have hcut : cutOp (decide (o.pulses ≠ 0)) o (withOp o s) =
      setSect k 2 (if o.pulses ≠ 0 then unverified o (withOp o s) else withOp o s) := by
    simp only [cutOp, hkind, decide_eq_true_eq]
  simp only [afterPulse, hop, hpfail, if_true]
  rw [hcut]
  have hleft : (if o.pulses ≠ 0 then unverified o (withOp o s) else withOp o s).prm.op = some o ∧
      (if o.pulses ≠ 0 then unverified o (withOp o s) else withOp o s).prm.winDue = false := by
    split
    · obtain ⟨f, a, j, h⟩ := arrayOnly_unverified o (withOp o s)
      rw [h]
      exact ⟨rfl, hdue⟩
    · exact ⟨rfl, hdue⟩
  refine endOp_of_command 8 (fun p hp => ?_) hleft.2
  obtain rfl : o = p := Option.some.inj (hleft.1.symm.trans hp)
  rw [hkind]
  nofun

/-- The operation suspended with what its pulses left in the array. -/
theorem suspended_of_arrayOnly {p : POp} {s y t : State} (h : ArrayOnly (withOp p s) y)
    (ht : t = withPrm (fun q => { q with op := none, susp := p :: q.susp, suspend := false, result := 1 }) y) :
    Suspended p s t := by
  obtain ⟨f, a, j, rfl⟩ := h
  subst ht
  exact ⟨rfl, rfl, rfl, rfl, rfl⟩

theorem unverified_erase {o : POp} {k : Nat} {rest : List PJob} (h : o.jobs = .erase k :: rest) (s : State) :
    unverified o s = cutSector k s := by
  unfold unverified
  rw [h]

theorem unverified_word {o : POp} {w : Nat} {d : BitVec 72} {rest : List PJob} (h : o.jobs = .word w d :: rest)
    (hcur : o.cur = some (w, d)) (s : State) : unverified o s = cutJob (.word w d) w d s := by
  unfold unverified
  rw [h, hcur]

theorem pulsesThatStop : PulsesThatStop := by
  intro o s hop htrip hdue
  refine ⟨fun hsusp w d hkind hjobs hcur => ?program, fun k r p hkind hjobs hp => ⟨fun hsusp hwarn => ?suspended,
    fun hwarn => ?stopped⟩⟩
  case program =>
    refine ⟨congrArg _ (pulseEnd_program_good hop htrip hdue hkind hjobs hcur),
      fun hge => congrArg _ (pulseEnd_program_fail hop htrip hdue hkind hjobs hcur hge), fun hlt => ⟨_, rfl, ?_⟩⟩
    have hprog : progLike (pulsed o).kind = true := by rw [pulsed, hkind]; rfl
    have hcan : canSuspend (pulsed o) (.word w d) = true := by
      simp [canSuspend, pulsed, hkind, hjobs, isHead]
    have hend := pulseEnd_of_word hop htrip hjobs (by rintro _ ⟨⟩) hcur false
    rw [if_neg nofun, if_neg (by omega), afterPulse_suspend (.inr hprog) hsusp hcan hdue,
      if_pos (show (pulsed o).pulses ≠ 0 from Nat.succ_ne_zero _), unverified_word (o := pulsed o) hjobs hcur] at hend
    rw [hend]
    obtain ⟨m, hm⟩ := prmRaw_cutJob_word w w d d (withOp (pulsed o) s)
    have hw := (hm w).trans (if_pos rfl)
    refine ⟨suspended_of_arrayOnly (arrayOnly_cutJob ..) rfl, fun i hi => ?_, fun i hi hd => ?_, fun u hu => ?_⟩
    · change (prmRaw (cutJob (.word w d) w d (withOp (pulsed o) s)) w).getLsbD i = true at hi
      rw [hw, BitVec.getLsbD_and, Bool.and_eq_true] at hi
      exact hi.1
    · change (prmRaw (cutJob (.word w d) w d (withOp (pulsed o) s)) w).getLsbD i = true
      rw [hw, BitVec.getLsbD_and, BitVec.getLsbD_or, hd, Bool.true_or, Bool.and_true]
      exact hi
    · exact (hm u).trans (if_neg hu)
  case suspended =>
    refine ⟨congrArg Host.Outcome.next (show pulseEnd true s = _ from ?_), fun hlt => ⟨_, rfl, ?_⟩⟩
    · have hend := pulseEnd_of_erase hop htrip hjobs true
      rw [if_pos rfl, jobDone_next hjobs (List.cons_ne_nil r [])] at hend
      have hcan : canSuspend p (.erase k) = true := by simp [canSuspend, hp, hkind]
      have hafter := afterPulse_suspend (o := p) (j := .erase k) (s := eraseSector k s) (.inl hwarn) hsusp hcan hdue
      rw [hp] at hafter
      exact hend.trans (hafter.trans (by rw [hp]; rfl))
    · have hend := pulseEnd_of_erase hop htrip hjobs false
      have hcan : canSuspend (pulsed o) (.erase k) = true := by simp [canSuspend, pulsed, hkind]
      rw [if_neg nofun, if_neg (by omega), afterPulse_suspend (.inl hwarn) hsusp hcan hdue,
        if_pos (show (pulsed o).pulses ≠ 0 from Nat.succ_ne_zero _), unverified_erase (o := pulsed o) hjobs] at hend
      rw [hend]
      exact ⟨suspended_of_arrayOnly (arrayOnly_cutSector ..) rfl, partErased_cutSector k (withOp (pulsed o) s)⟩
  case stopped =>
    refine ⟨congrArg Host.Outcome.next (show pulseEnd true s = _ from ?_), fun hlt => ⟨_, rfl, ?_⟩⟩
    · have hend := pulseEnd_of_erase hop htrip hjobs true
      rw [if_pos rfl, jobDone_next hjobs (List.cons_ne_nil r [])] at hend
      have hafter := afterPulse_pfail (o := p) (k := k) (j := .erase k) (s := eraseSector k s) hwarn
        (by rw [hp]; exact hkind) hdue
      rw [hp] at hafter
      exact hend.trans hafter
    · have hend := pulseEnd_of_erase hop htrip hjobs false
      rw [if_neg nofun, if_neg (by omega), afterPulse_pfail (o := pulsed o) hwarn hkind hdue,
        if_pos (show (pulsed o).pulses ≠ 0 from Nat.succ_ne_zero _), unverified_erase (o := pulsed o) hjobs] at hend
      obtain ⟨f, a, j, hcut⟩ := arrayOnly_cutSector k (withOp (pulsed o) s)
      have hpart : PartErased k s (cutSector k (withOp (pulsed o) s)) := partErased_cutSector k (withOp (pulsed o) s)
      rw [hend]
      refine ⟨rfl, ?_, rfl, rfl, ?_, hpart⟩
      · rw [hcut]
        rfl
      · rw [hcut]
        rfl

/-- Settles O40, by the outcome of each pulse: verified, to be followed by another, failed, suspended or stopped. -/
theorem primerPulses : Obligations.PrimerPulses := ⟨pulseEnds, pulsesThatStop⟩

end Sys2Proof.Machine
end

section
/-! SUPPORT. LATH_SELF while an entry of this node holds its slot and is not sent yet (R485, R492). -/

namespace Sys2Proof.Machine

open Sys2Proof Sys2Proof.Spec

/-- The store holds one entry with a slot, whose REQUEST has not been sent: no entry stands in the Lath's table. -/
def slotHeld : State :=
  { State.reset with
    gctl := { State.reset.gctl with boot := .ready }
    qe := { State.reset.qe with store := [{ id := 0, words := [], kind := .host, slot := some 0 }] } }

/-- Whether the command leaves CFG_REJECT set. -/
def rejects (o : Out) : Option Bool :=
  match o with
  | .next t => some t.lath.cfgReject
  | _ => none

theorem portFree_slotHeld : PortFree slotHeld := ⟨rfl, rfl, rfl⟩

/-- The write of NODE is refused. -/
theorem rejects_lathSelfWrite : rejects (exec (.lathSelfWrite .full 0) slotHeld) = some true := by decide +kernel

/-- Refutes O42: `remoteOut` counts the entries that hold their slot and are not sent yet too, so LATH_SELF refuses NODE
while the Lath's table holds no entry and none is held for another node. -/
theorem not_lathRegisters : ¬ Obligations.LathRegisters := by
  intro h
  obtain ⟨hself, -⟩ := h 0 slotHeld (atPort slotHeld) portFree_slotHeld rfl
  have haccepts := congrArg rejects (hself rfl rfl)
  rw [rejects_lathSelfWrite] at haccepts
  exact absurd haccepts (by decide +kernel)

end Sys2Proof.Machine
end

section
/-! SUPPORT. Training, HELLO, LINK and the LINK frames a port owes; the Lath's timers (R474-R479, R486, R498, R499). -/

namespace Sys2Proof.Machine

open Sys2Proof Sys2Proof.Spec

/-! ## Ports -/

theorem lport_withPort (x : BitVec 2) (f : LPort → LPort) (s : State) : lport (withPort x f s) x = f (lport s x) :=
  tget_tput_same ..

/-- The timers of entries that restart are no matter of the ports. -/
theorem lport_restart (n : BitVec 16) (s : State) (x : BitVec 2) : lport (restart n s) x = lport s x := rfl

/-! ## Training (R475) -/

theorem trainStep_training {x : BitVec 2} {s : State} {r : BitVec 2} (h : (lport s x).link = .training r) (b : Bool) :
    trainStep x b s = if (s.time - (lport s x).since).toNat < 20000 then s
      else if b then
        if r.toNat < min 2 (lport s x).maxRate.toNat then
          withPort x (fun p => { p with rate := r, link := .training (r + 1), since := s.time }) s
        else sayHello x r s
      else if r = 0 then withPort x (fun p => { p with link := .down, retry := true, since := s.time }) s
      else sayHello x (r - 1) s := by
  simp only [trainStep, h]
  rfl

/-! ## HELLO and LINK -/

theorem helloIn_bad {x : BitVec 2} {f : Frame} {s : State} (ht : f.typ = 11) (hok : frameOk f = false)
    (hl : (lport s x).link = .hello ∨ (lport s x).link = .up) :
    helloIn x f s = withPort x (fun p => { p with crcErr := satInc p.crcErr }) s := by
  have hcond : ¬ (decide (f.typ ≠ 11) || (decide ((lport s x).link ≠ .hello) && decide ((lport s x).link ≠ .up)))
      = true := by
    rcases hl with h | h <;> simp [ht, h]
  have hbad : (!frameOk f) = true := by rw [hok]; rfl
  exact (if_neg hcond).trans (if_pos hbad)

/-- A HELLO brings the port UP, its peer recorded, and reports a neighbour that is not admitted. -/
theorem helloIn_good {x : BitVec 2} {f : Frame} {s : State} {n e : BitVec 16} {y z : State} (ht : f.typ = 11)
    (hok : frameOk f = true)
    (hl : (lport s x).link = .hello ∨ (lport s x).link = .up)
    (hn : n = BitVec.ofNat 16 (bits (payloadWord f 0) 48 16)) (he : e = BitVec.ofNat 16 (bits (payloadWord f 0) 32 16))
    (hy : y = withPort x (fun p => { p with link := .up, peer := n, peerEp := e }) s)
    (hz : z = heard f.src (fEpoch f) (if (lport s x).link = .hello then lathEvent 1 x 0 y else y)) :
    helloIn x f s = if bits (payloadWord f 0) 48 16 ≠ 0 ∧ admitted z n = none then lathEvent 3 x n z else z := by
  have hcond : ¬ (decide (f.typ ≠ 11) || (decide ((lport s x).link ≠ .hello) && decide ((lport s x).link ≠ .up)))
      = true := by
    rcases hl with h | h <;> simp [ht, h]
  have hbad : ¬ (!frameOk f) = true := by rw [hok]; nofun
  rw [← fld_eq_ofNat_bits] at hn he
  have hreport : (decide (n ≠ 0) && (admitted z n).isNone) = true ↔
      bits (payloadWord f 0) 48 16 ≠ 0 ∧ admitted z n = none := by
    rw [Bool.and_eq_true, decide_eq_true_eq, Option.isNone_iff_eq_none, hn, ne_eq, fld_eq_iff_bits]
    rfl
  subst hn he hy hz
  refine (if_neg hcond).trans ((if_neg hbad).trans ?_)
  exact if_congr hreport rfl rfl

/-- An acknowledged frame leaves the replay buffer; credits come back. -/
def linked (x : BitVec 2) (f : Frame) (left : List Frame) (s : State) : State :=
  restart f.src (withPort x (fun p => { p with
    replay := left, replays := if left.length < p.replay.length then 0 else p.replays,
    cred := p.cred.zipIdx.map fun c => c.1 + bits f.word1 (8 * c.2) 8 }) s)

/-- What becomes of a port depends on the port alone. -/
theorem modLport_congr (x : BitVec 2) {f g : LPort → LPort} (s : State) (h : f (lport s x) = g (lport s x)) :
    modLport x f s = withPort x g s :=
  congrArg (fun p => withLath (fun l => { l with port := tput x.toNat p l.port }) s) h

theorem linkIn_good {x : BitVec 2} {f : Frame} {s : State} (ht : f.typ = 12) (hok : frameOk f = true)
    (hup : (lport s x).link = .up) {left : List Frame}
    (hleft : left = (lport s x).replay.filter
      fun g => decide (32768 ≤ (BitVec.ofNat 16 (bits f.word1 48 16) - g.seq).toNat)) :
    linkIn x f s = lathGo (pumpLath x
      (if bit f.word1 47 then replayAll x (linked x f left s) else linked x f left s)) := by
  have hcond : ¬ (decide (f.typ ≠ 12) || !isUp s x) = true := by simp [ht, isUp, hup]
  have hbad : ¬ (!frameOk f) = true := by rw [hok]; nofun
  subst hleft
  unfold linkIn
  rw [if_neg hcond, if_neg hbad]
  refine congrArg (fun y => lathGo (pumpLath x (if bit f.word1 47 then replayAll x y else y)))
    (congrArg (restart f.src) (modLport_congr x s ?_))
  simp only [unacked, fld_toNat, ← fld_eq_ofNat_bits]
  rfl

theorem linkIn_bad {x : BitVec 2} {f : Frame} {s : State} (ht : f.typ = 12) (hok : frameOk f = false)
    (hup : (lport s x).link = .up) :
    linkIn x f s = lathGo (withPort x (fun p => { p with crcErr := satInc p.crcErr, nak := true }) s) := by
  have hcond : ¬ (decide (f.typ ≠ 12) || !isUp s x) = true := by simp [ht, isUp, hup]
  have hbad : (!frameOk f) = true := by rw [hok]; rfl
  exact (if_neg hcond).trans (if_pos hbad)

theorem replayAll_eq (x : BitVec 2) (f : Frame) (left : List Frame) (s : State) : replayAll x (linked x f left s) =
    if left = [] then linked x f left s
    else if 8 ≤ (lport (linked x f left s) x).replays then linkFail x (linked x f left s)
    else withPort x (fun p => { p with replays := p.replays + 1, sent := p.sent ++ p.replay }) (linked x f left s) := by
  have hreplay : (lport (linked x f left s) x).replay = left := by
    rw [linked, lport_restart, lport_withPort]
  have hempty : left.isEmpty = true ↔ left = [] := List.isEmpty_iff
  simp only [replayAll, hreplay, hempty]
  rfl

/-- A link that has gone DOWN, to train again if it may, sends nothing. -/
theorem isUp_linkFail (x : BitVec 2) (s : State) : isUp (linkFail x s) x = false := by
  have hdown : (lport (linkDown x s) x).link = .down := by
    simp only [linkDown]
    exact congrArg LPort.link (tget_tput_same ..)
  simp only [linkFail, trainStart, isUp]
  split
  · rw [show ∀ f, modLport x f (linkDown x s) = withPort x f (linkDown x s) from fun _ => rfl, lport_withPort]
    rfl
  · rw [hdown]
    rfl

theorem pumpLath_linkFail (x : BitVec 2) (s : State) : pumpLath x (linkFail x s) = linkFail x s := by
  unfold pumpLath
  rw [isUp_linkFail]
  rfl

theorem exec_lathLink (x : BitVec 2) (f : Frame) (s : State) : exec (.lathLink x f) s = .next (linkIn x f s) := rfl

theorem lathLinks_spec : Spec.LathLinks := by
  rintro x f s p rfl
  refine ⟨fun r b hr hlt => ?early, fun r hello hr hdue hhello => ⟨fun hmore => ?climb,
    fun htop => ?top, fun hzero => ?lowest,
    fun hne => ?back⟩, fun hretry hdue => ?retry, fun h => ?noRetry, fun hup => ?noLink, fun hup => ?noLinkDown,
    fun ht hok hl w y hw hy z hz => ?hello, fun ht hok hl => congrArg _ (helloIn_bad ht hok hl),
    fun ht hok hup left y hleft hy => ?link, fun ht hok hup => ?badLink⟩
  case early => exact congrArg _ ((trainStep_training hr b).trans (if_pos hlt))
  case climb =>
    exact congrArg _ ((trainStep_training hr true).trans ((if_neg (by omega)).trans (if_pos hmore)))
  case top =>
    rw [hhello]
    exact congrArg _ ((trainStep_training hr true).trans ((if_neg (by omega)).trans (if_neg (Nat.not_lt.mpr htop))))
  case lowest =>
    exact congrArg _ ((trainStep_training hr false).trans ((if_neg (by omega)).trans (if_pos hzero)))
  case back =>
    rw [hhello]
    exact congrArg _ ((trainStep_training hr false).trans ((if_neg (by omega)).trans (if_neg hne)))
  case retry =>
    have hcond : ((lport s x).retry && decide (1000000 ≤ (s.time - (lport s x).since).toNat)) = true := by
      rw [hretry, decide_eq_true hdue]
      rfl
    exact congrArg _ (if_pos hcond)
  case noRetry =>
    have hcond : ¬ ((lport s x).retry && decide (1000000 ≤ (s.time - (lport s x).since).toNat)) = true := by
      rw [Bool.and_eq_true, decide_eq_true_eq, not_and, Nat.not_le]
      exact fun hretry => h.resolve_left (by simp [hretry])
    exact congrArg _ (if_neg hcond)
  case noLink => exact congrArg _ (if_pos (decide_eq_true hup))
  case noLinkDown => exact congrArg _ (if_neg (by simpa [isUp] using hup))
  case hello =>
    subst hw
    exact congrArg _ (helloIn_good ht hok hl rfl rfl hy hz)
  case link =>
    have hrun := linkIn_good ht hok hup hleft
    have hy' : y = linked x f left s := hy
    rw [replayAll_eq, ← hy'] at hrun
    rw [exec_lathLink, hrun]
    refine ⟨fun hquiet => ?_, fun hnak hne hlt => ?_, fun hnak hne hge => ?_⟩
    · rcases hquiet with h | h
      · rw [h, if_neg Bool.false_ne_true]
      · rw [if_pos h, ite_self]
    · rw [if_pos hnak, if_neg hne, if_neg (Nat.not_le.mpr hlt)]
    · rw [if_pos hnak, if_neg hne, if_pos hge, pumpLath_linkFail]
      rfl
  case badLink => exact congrArg _ (linkIn_bad ht hok hup)

/-! ## The LINK frames that a port owes (R476-R479) -/

/-- The credits of a LINK frame, a byte each. -/
theorem credits_word (a b c d : Nat) : ([a, b, c, d].zipIdx.foldl
    (fun w g => w ||| at_ (8 * g.2) (BitVec.ofNat 8 g.1)) (0 : W64)) =
    at_ 0 (BitVec.ofNat 8 a) ||| at_ 8 (BitVec.ofNat 8 b) |||
      at_ 16 (BitVec.ofNat 8 c) ||| at_ 24 (BitVec.ofNat 8 d) := by
  simp [List.zipIdx]

theorem bits_eq_toNat_fld (v : W64) (lo len : Nat) : bits v lo len = (fld v lo len).toNat := (fld_toNat ..).symm

theorem fld_at_same {len : Nat} (x : BitVec len) {lo : Nat} (h : lo + len ≤ 64) : fld (at_ lo x) lo len = x := by
  ext i hi
  simp [fld, at_, show lo + i < 64 by omega, BitVec.getLsbD_eq_getElem hi]

theorem fld_at_other {m len lo lo' : Nat} (x : BitVec m) (h : lo + m ≤ lo' ∨ lo' + len ≤ lo) :
    fld (at_ lo x) lo' len = 0 := by
  ext i hi
  simp only [fld, at_, BitVec.getElem_extractLsb', BitVec.getLsbD_shiftLeft, BitVec.getLsbD_setWidth]
  rcases h with h | h
  · simp [BitVec.getLsbD_of_ge x (lo' + i - lo) (by omega)]
  · simp [show lo' + i < lo by omega]

theorem flag_eq_at (i : Nat) (b : Bool) : flag i b = at_ i (BitVec.ofBool b) := by
  cases b <;> simp [flag, at_]

/-- The fields of a LINK frame's word 1. -/
theorem linkWord_fields (q : BitVec 16) (n : Bool) (a b c d : Byte) : ∀ w, w = at_ 48 q ||| flag 47 n |||
    (at_ 0 a ||| at_ 8 b ||| at_ 16 c ||| at_ 24 d) →
    fld w 48 16 = q ∧ bit w 47 = n ∧ fld w 0 8 = a ∧ fld w 8 8 = b ∧ fld w 16 8 = c ∧ fld w 24 8 = d := by
  rintro w rfl
  rw [← bit_fld, flag_eq_at]
  simp (disch := omega) only [fld_or, fld_at_same, fld_at_other]
  cases n <;> simp [bit]

theorem lathRun_stuck {s : State} (h : lathStep s = none) (fuel : Nat) : lathRun fuel s = s := by
  cases fuel with
  | zero => rfl
  | succ n => rw [lathRun, h]

theorem lathGo_stuck {s : State} (h : lathStep s = none) : lathGo s = linksSent s :=
  congrArg linksSent (lathRun_stuck h _)

/-- The CRC covers no bits of its own. -/
theorem frameOk_sealFrame (f : Frame) : frameOk (sealFrame f) = true := decide_eq_true rfl

section
variable {x : BitVec 2} {s : State}

theorem linkOut_owes (hup : isUp s x = true)
    (h : (lport s x).ackDue = true ∨ (lport s x).nak = true ∨ (lport s x).give.any (· ≠ 0) = true) :
    linkOut x s = withPort x (fun p => { p with
      sent := p.sent ++ [linkFrame s (lport s x)], ackDue := false, nak := false, give := [0, 0, 0, 0] }) s := by
  have hcond : (isUp s x && ((lport s x).ackDue || (lport s x).nak || (lport s x).give.any (· ≠ 0))) = true := by
    rw [hup, Bool.true_and, Bool.or_eq_true, Bool.or_eq_true, or_assoc]
    exact h
  exact (if_pos hcond).trans (modLport_congr x s rfl)

theorem linkOut_quiet (h : isUp s x = false ∨
    (lport s x).ackDue = false ∧ (lport s x).nak = false ∧ (lport s x).give.any (· ≠ 0) = false) : linkOut x s = s := by
  refine if_neg ?_
  rcases h with hdown | ⟨hack, hnak, hgive⟩
  · rw [hdown]
    exact Bool.false_ne_true
  · rw [hack, hnak, hgive, Bool.or_self, Bool.or_self, Bool.and_false]
    exact Bool.false_ne_true

end

theorem any_ne_zero_iff (a b c d : Nat) : [a, b, c, d].any (· ≠ 0) = true ↔ [a, b, c, d] ≠ [0, 0, 0, 0] := by
  simp only [List.any_cons, List.any_nil, Bool.or_false, Bool.or_eq_true, decide_eq_true_eq, ne_eq, List.cons.injEq,
    and_true]
  omega

theorem linkFrames : LinkFrames := by
  rintro x s p a b c d rfl hgive
  have hany := any_ne_zero_iff a b c d
  rw [← hgive] at hany
  refine ⟨fun hup howes => ⟨linkFrame s (lport s x), linkOut_owes hup ?_, rfl, rfl, rfl, rfl,
    frameOk_sealFrame _, ?_⟩, fun hquiet => linkOut_quiet ?_,
    fun fuel t => ⟨lathGo_stuck, fun hstep => by rw [lathRun, hstep]⟩⟩
  · rwa [hany]
  · have hword : (linkFrame s (lport s x)).word1 = at_ 48 (lport s x).rxSeq ||| flag 47 (lport s x).nak |||
        (at_ 0 (BitVec.ofNat 8 a) ||| at_ 8 (BitVec.ofNat 8 b) ||| at_ 16 (BitVec.ofNat 8 c) |||
          at_ 24 (BitVec.ofNat 8 d)) := by
      rw [← credits_word, ← hgive]
      rfl
    obtain ⟨hseq, hnak, ha, hb, hc, hd⟩ := linkWord_fields _ _ _ _ _ _ _ hword
    simp only [bits_eq_toNat_fld, hseq, hnak, ha, hb, hc, hd, BitVec.toNat_ofNat, Nat.reducePow, and_self]
  · rwa [← Bool.not_eq_true ((lport s x).give.any _), hany, not_ne_iff]

/-! ## The timers -/

theorem lathTimers : LathTimers := by
  intro n tag s
  refine ⟨fun b hb hh hholds hdue => ?_, fun h => ?_, fun r t hr hstart => ⟨fun hlt => ?_, fun hge hdone => ?_⟩,
    fun hbusy hdue => ?_, fun h => ?_⟩
  · change Host.Outcome.next (heartbeat n s) = _
    rw [heartbeat, hb]
    exact congrArg _ (if_neg (by simp [-BitVec.toNat_sub, hh, hholds]; omega))
  · change Host.Outcome.next (heartbeat n s) = _
    unfold heartbeat
    split
    · rfl
    · exact congrArg _ (if_pos (by rcases h with h | h <;> simp [h]))
  · change Host.Outcome.next (remoteTimeout tag s) = _
    rw [remoteTimeout, hr]
    simp only [hstart]
    exact congrArg _ (if_pos hlt)
  · change Host.Outcome.next (remoteTimeout tag s) = _
    rw [remoteTimeout, hr]
    simp only [hstart, hdone]
    exact congrArg _ (if_neg (Nat.not_lt.mpr hge))
  · exact congrArg _ (if_neg (by simp [-BitVec.toNat_sub, hbusy]; omega))
  · exact congrArg _ (if_pos (by rcases h with h | h <;> simp [-BitVec.toNat_sub, h]))

/-- Settles O43: training, NO_LINK, HELLO and LINK at a port, the LINK frames it owes, and the timers. -/
theorem lathLinks : Obligations.LathLinks := ⟨lathLinks_spec, linkFrames, lathTimers⟩

end Sys2Proof.Machine
end

section
/-! SUPPORT. Arrival of a frame: CRC, sequence, the receive buffer, misdelivery, discard and forwarding (R476-R484). -/

namespace Sys2Proof.Machine

open Sys2Proof Sys2Proof.Spec

section
variable {x : BitVec 2} {f : Frame} {s y : State}

/-! ## Arrivals that enter no buffer -/

theorem arrive_down (h : isUp s x = false) : arrive x f s = s := if_pos (by rw [h]; rfl)

theorem arrive_badCrc (hup : isUp s x = true) (hok : frameOk f = false) : arrive x f s =
    lathGo (withPort x (fun p => { p with crcErr := satInc p.crcErr, nak := true }) s) :=
  (if_neg (by rw [hup]; exact Bool.false_ne_true)).trans (if_pos (by rw [hok]; rfl))

theorem arrive_outOfSeq (hup : isUp s x = true) (hok : frameOk f = true) (hseq : f.seq ≠ (lport s x).rxSeq + 1) :
    arrive x f s = s :=
  (if_neg (by rw [hup]; exact Bool.false_ne_true)).trans
    ((if_neg (by rw [hok]; exact Bool.false_ne_true)).trans (if_pos hseq))

/-! ## Arrivals that enter their buffer -/

/-- A frame that is passed on, discarded or misdelivered restarts no timer. -/
theorem arrive_notMine (ha : Accepted x f s)
    (h : (!reservedType f && decide (routeOf s x f = .deliver) && forMe s f) = false) :
    arrive x f s = lathGo (inBuffer x f s) := by
  obtain ⟨hup, hok, hseq⟩ := ha
  have hbuf : (!reservedType f && decide (routeOf (inBuffer x f s) x f = .deliver) && forMe (inBuffer x f s) f) =
      false := h
  unfold arrive
  rw [if_neg (by rw [hup]; exact Bool.false_ne_true), if_neg (by rw [hok]; exact Bool.false_ne_true),
    if_neg (not_not.2 hseq)]
  exact congrArg lathGo (if_neg (Bool.not_eq_true _ ▸ hbuf))

/-! ## What is taken of a buffer -/

theorem rxEffect_misdelivered (hr : reservedType f = false) (hroute : routeOf y x f = .deliver) (hm : ¬ Mine y f) :
    rxEffect x f y = some (drained x f (withLath (fun l => { l with misdel := true }) y)) := by
  have hfor : forMe y f = false := by rwa [← Bool.not_eq_true, forMe_iff]
  simp only [rxEffect, hr, Bool.false_eq_true, if_false, hroute, frameHere, hfor, Option.map_some]
  rfl

theorem rxEffect_discarded (h : reservedType f = true ∨ routeOf y x f = .drop) :
    rxEffect x f y = some (drained x f (withLath (fun l => { l with discarded := true }) y)) := by
  cases hr : reservedType f with
  | true => exact if_pos hr
  | false =>
    have hroute := h.resolve_left (by rw [hr]; exact Bool.false_ne_true)
    simp only [rxEffect, hr, Bool.false_eq_true, if_false, hroute]
    rfl

theorem rxEffect_passedOn {o : BitVec 2} (hr : reservedType f = false) (hroute : routeOf y x f = .out o) :
    rxEffect x f y = some (enqueue o { k := x.toNat, inB := f.laneB, f := { f with
      route := if f.pathMode then f.route else f.route - 1,
      laneB := decide (y.lath.topo = 1) && (f.laneB || y.lath.dateline) } } y) := by
  simp only [rxEffect, hr, Bool.false_eq_true, if_false, hroute]
  rfl

theorem takeHead_first {rest : List Frame}
    (h : takeFirst (fun g => decide (frameBuf g = frameBuf f)) (lport y x).rx = some (f, rest)) :
    takeHead y x (frameBuf f) = rxEffect x f (withPort x (fun p => { p with rx := rest }) y) := by
  rw [takeHead, h]
  rfl

theorem reservedType_iff : reservedType f = true ↔ f.typ = 0 ∨ 13 ≤ f.typ.toNat := by
  simp [reservedType]

/-! ## The statement -/

theorem exec_lathFrameForward (h11 : f.typ ≠ 11) (h12 : f.typ ≠ 12)
    (h : f.typ = 0 ∨ 13 ≤ f.typ.toNat ∨ routeOf s x f ≠ .deliver) :
    exec (.lathFrameForward x f) s = .next (arrive x f s) := by
  have hcond : (!reservedType f && decide (routeOf s x f = .deliver)) = false := by
    rw [Bool.and_eq_false_iff, Bool.not_eq_false', decide_eq_false_iff_not, reservedType_iff, or_assoc]
    exact h
  exact congrArg _ (if_neg (by simpa [hcond] using ⟨h11, h12⟩))

theorem exec_frameCmd_delivered {e : BitVec 4 × Instr} (he : e ∈ frameCmd x f) (ht : f.typ = e.1)
    (hroute : routeOf s x f = .deliver) : exec e.2 s = .next (arrive x f s) := by
  rw [exec_frameCmd he, deliverAs, if_neg (by simp [ht, hroute])]

/-- A frame that no other waits beside is taken at once, and the frame that it may have given is sent. -/
theorem arrive_alone {z : State} (ha : Accepted x f s)
    (h : (!reservedType f && decide (routeOf s x f = .deliver) && forMe s f) = false)
    (halone : Alone x f (inBuffer x f s))
    (hz : rxEffect x f (withPort x (fun p => { p with rx := [] }) (inBuffer x f s)) = some z) :
    arrive x f s = linksSent (lathRun 1 z) :=
  (arrive_notMine ha h).trans (lathGo_alone halone hz)

end

/-- Settles O44: an arrival by its CRC and its SEQ, and what is taken of a buffer by TYPE and route. -/
theorem lathArrival : Obligations.LathArrival := by
  rintro x f s y
  refine ⟨fun e he ht hroute => ?delivered, fun h11 h12 hkind => ?forward, fun rest => takeHead_first⟩
  case delivered =>
    have hr := reservedType_of_frameCmd he ht
    rw [exec_frameCmd_delivered he ht hroute]
    refine ⟨fun hup => by rw [arrive_down hup], fun hup hok => by rw [arrive_badCrc hup hok],
      fun hup hok hseq => by rw [arrive_outOfSeq hup hok hseq],
      fun ha hm => by rw [arrive_mine ha hr hroute hm], fun ha hm => ?misdelivered⟩
    have hother : (!reservedType f && decide (routeOf s x f = .deliver) && forMe s f) = false := by
      have hfor : forMe s f = false := by rwa [← Bool.not_eq_true, forMe_iff]
      rw [hfor, Bool.and_false]
    exact ⟨congrArg _ (arrive_notMine ha hother), fun halone =>
      congrArg _ (arrive_alone ha hother halone (rxEffect_misdelivered hr hroute hm))⟩
  case forward =>
    have hother : (!reservedType f && decide (routeOf s x f = .deliver) && forMe s f) = false := by
      rw [Bool.and_eq_false_iff, Bool.and_eq_false_iff, Bool.not_eq_false', decide_eq_false_iff_not, reservedType_iff]
      exact .inl (or_assoc.2 hkind)
    rw [exec_lathFrameForward h11 h12 hkind]
    refine ⟨fun hup => by rw [arrive_down hup], fun hup hok => by rw [arrive_badCrc hup hok],
      fun hup hok hseq => by rw [arrive_outOfSeq hup hok hseq],
      fun ha => ⟨congrArg _ (arrive_notMine ha hother), fun halone hy => ?_⟩⟩
    subst hy
    refine ⟨fun hdrop => ?discarded, fun o h0 h13 hout => ?passedOn⟩
    case discarded =>
      rw [← or_assoc, ← reservedType_iff] at hdrop
      exact congrArg _ (arrive_alone ha hother halone (rxEffect_discarded hdrop))
    case passedOn =>
      have hr : reservedType f = false := by
        rw [← Bool.not_eq_true, reservedType_iff, not_or, Nat.not_le]
        exact ⟨h0, h13⟩
      exact congrArg _ (arrive_alone ha hother halone (rxEffect_passedOn hr hout))

end Sys2Proof.Machine
end

section
/-! SUPPORT. Where no read waits at the register port, none waits after a thread's MOVE has ended at the pop end of a
stream (R397). One lemma for each function of the model on the way; the lemmas are rewriting rules, so that the proof of
each is its case split and the lemmas of what it calls. -/

namespace Sys2Proof.Machine

open Sys2Proof Sys2Proof.Spec

/-- No read waits at the register port. -/
def NoRead (s : State) : Prop := s.port.wait = none

/-- The port is no matter of what else a built state holds. -/
@[simp] theorem noRead_mk {variant time free pfail brownout gctl pwr tok cal srv ic str hawk eng xfer rnd qe plb soft
    intg stg prm lath quad ch fm pending} {s : State} :
    NoRead (State.mk variant time free pfail brownout gctl pwr tok cal srv ic str hawk eng xfer rnd qe plb soft
      intg stg prm lath quad ch s.port fm pending) ↔ NoRead s := Iff.rfl

/-! ## Choices, pairs and folds -/

section
variable {α : Type} {c : Prop} [Decidable c]

@[simp] theorem noRead_ite (a b : State) :
    NoRead (if c then a else b) ↔ if c then NoRead a else NoRead b := by split <;> rfl

@[simp] theorem noRead_ite_snd (a b : α × State) :
    NoRead (if c then a else b).2 ↔ if c then NoRead a.2 else NoRead b.2 := by split <;> rfl

/-- The form of `noRead_ite` that leaves the condition alone. -/
theorem noRead_if {a b : State} (ha : NoRead a) (hb : NoRead b) : NoRead (if c then a else b) := by
  split <;> assumption

theorem noRead_mk_snd {a : α} {s : State} (h : NoRead s) : NoRead (a, s).2 := h

end

/-- A fold over a list, each of whose steps leaves the port alone. -/
@[simp] theorem noRead_foldl_iff {α : Type} {f : State → α → State} (l : List α) (s)
    (h : ∀ s a, NoRead (f s a) ↔ NoRead s) : NoRead (l.foldl f s) ↔ NoRead s := by
  induction l generalizing s with
  | nil => rfl
  | cons a l ih => exact (ih _).trans (h s a)

/-- A fold over a list, through which no read comes to wait. -/
theorem noRead_foldl {α : Type} {f : State → α → State} (l : List α) (s) (hs : NoRead s)
    (h : ∀ s a, NoRead s → NoRead (f s a)) : NoRead (l.foldl f s) := by
  induction l generalizing s with
  | nil => exact hs
  | cons a l ih => exact ih _ (h s a hs)

/-! ## Parts of the state -/

@[simp] theorem noRead_modChan (c f s) : NoRead (modChan c f s) ↔ NoRead s := Iff.rfl
@[simp] theorem noRead_modThr (c t f s) : NoRead (modThr c t f s) ↔ NoRead s := Iff.rfl
@[simp] theorem noRead_modReg (c f s) : NoRead (modReg c f s) ↔ NoRead s := Iff.rfl
@[simp] theorem noRead_setRam (sp r s) : NoRead (setRam sp r s) ↔ NoRead s := by cases sp <;> rfl
@[simp] theorem noRead_modRam (sp f s) : NoRead (modRam sp f s) ↔ NoRead s := noRead_setRam ..

/-! ## Ops -/

@[simp] theorem noRead_modEng (e f s) : NoRead (modEng e f s) ↔ NoRead s := Iff.rfl
@[simp] theorem noRead_modPool (k f s) : NoRead (modPool k f s) ↔ NoRead s := Iff.rfl
@[simp] theorem noRead_draw (s) : NoRead (draw s).2 ↔ NoRead s := Iff.rfl
@[simp] theorem noRead_setPend (n b s) : NoRead (setPend n b s) ↔ NoRead s := Iff.rfl
@[simp] theorem noRead_post (n s) : NoRead (post n s) ↔ NoRead s := by simp [post]

@[simp] theorem noRead_modStrm (i f s) : NoRead (modStrm i f s) ↔ NoRead s := Iff.rfl
@[simp] theorem noRead_grant (i s) : NoRead (grant i s) ↔ NoRead s := by simp [NoRead]

@[simp] theorem noRead_respond (rs s) : NoRead (respond rs s) ↔ NoRead s := Iff.rfl

@[simp] theorem noRead_acceptWord (i sw s) (hs : NoRead s) : NoRead (acceptWord i sw s) := by
  rw [NoRead, acceptWord_port i sw hs]
  exact hs

@[simp] theorem noRead_logRec (kind intr loc detail s) (hs : NoRead s) : NoRead (logRec kind intr loc detail s) := by
  rw [NoRead, logRec_port kind intr loc detail hs]
  exact hs

@[simp] theorem noRead_hit (k s) : NoRead (hit k s) ↔ NoRead s := Iff.rfl
@[simp] theorem noRead_setMark (sp a b s) : NoRead (setMark sp a b s) ↔ NoRead s := by simp [setMark]

@[simp] theorem noRead_checkGroup (sp a rq s) (hs : NoRead s) :
    NoRead (checkGroup sp a rq s) := by simp [checkGroup, hs]

@[simp] theorem noRead_logParity (sp a m rq s) (hs : NoRead s) : NoRead (logParity sp a m rq s) := by
  unfold logParity; split <;> simp [hs]

@[simp] theorem noRead_readWord (sp w lo n rq s) (hs : NoRead s) :
    NoRead (readWord sp w lo n rq s).2 := by simp [readWord, hs]

@[simp] theorem noRead_readFuel (sp rq) : ∀ fuel a n s, NoRead s → NoRead (readFuel sp rq fuel a n s).2
  | 0, _, _, _, hs => hs
  | fuel + 1, a, n, s, hs => by simp [readFuel, noRead_readFuel sp rq fuel, hs]

@[simp] theorem noRead_readMem (sp a n rq s) (hs : NoRead s) :
    NoRead (readMem sp a n rq s).2 := noRead_readFuel _ _ _ _ _ _ hs

@[simp] theorem noRead_pathCheck (sp a rq s) (hs : NoRead s) :
    NoRead (pathCheck sp a rq s) := by simp [pathCheck, hs]

@[simp] theorem noRead_pathOut (rq r) (hs : NoRead r.2) : NoRead (pathOut rq r).2 := by simp [pathOut, hs]

@[simp] theorem noRead_writeChunk (sp a bs rq s) (hs : NoRead s) :
    NoRead (writeChunk sp a bs rq s) := by simp [writeChunk, hs]

@[simp] theorem noRead_writeFuel (sp rq) : ∀ fuel a bs s, NoRead s → NoRead (writeFuel sp rq fuel a bs s)
  | 0, _, _, _, hs => hs
  | fuel + 1, a, bs, s, hs => by simp [writeFuel, noRead_writeFuel sp rq fuel, hs]

@[simp] theorem noRead_writeMem (sp a bs rq s) (hs : NoRead s) :
    NoRead (writeMem sp a bs rq s) := noRead_writeFuel _ _ _ _ _ _ hs

/-! ## EntryOps -/

@[simp] theorem noRead_modEntry (id f s) : NoRead (modEntry id f s) ↔ NoRead s := Iff.rfl
@[simp] theorem noRead_dropEntry (id s) : NoRead (dropEntry id s) ↔ NoRead s := Iff.rfl

/-! ## Xfer -/

@[simp] theorem noRead_stgRead (a n rq s) (hs : NoRead s) : NoRead (stgRead a n rq s).2 := by
  unfold stgRead; dsimp only
  split
  · exact noRead_readMem _ _ _ _ _ hs
  · exact noRead_mk_snd (noRead_readMem _ _ _ _ _ (noRead_readMem _ _ _ _ _ hs))

@[simp] theorem noRead_bufRead (h off n rq s) (hs : NoRead s) :
    NoRead (bufRead h off n rq s).2 := by simp [bufRead, hs]

@[simp] theorem noRead_modXfer (x f s) : NoRead (modXfer x f s) ↔ NoRead s := Iff.rfl
@[simp] theorem noRead_modDsc (x i f s) : NoRead (modDsc x i f s) ↔ NoRead s := by simp [modDsc]
@[simp] theorem noRead_issueFm (r s) : NoRead (issueFm r s) ↔ NoRead s := Iff.rfl

@[simp] theorem noRead_xferBytes (x off n s) (hs : NoRead s) : NoRead (xferBytes x off n s).2 := by
  unfold xferBytes; split <;> simp [hs]

@[simp] theorem noRead_issueTxn (r i j s) (hs : NoRead s) : NoRead (issueTxn r i j s) := by
  unfold issueTxn
  (repeat' split) <;> simp [hs]

@[simp] theorem noRead_doWork (r w s) (hs : NoRead s) : NoRead (doWork r w s) := by
  unfold doWork
  split
  · exact hs
  · cases w with
    | desc | data => simp [hs]
    | word2 | word3 =>
      dsimp only [modXfer]
      split
      · simp [hs]
      · split <;> simp [hs]

theorem noRead_dmaNext {e s u} (h : dmaNext e s = some u) (hs : NoRead s) : NoRead u := by
  unfold dmaNext at h
  split at h
  · cases h
  · split at h
    · cases h; simp [hs]
    · obtain ⟨w, -, rfl⟩ := Option.map_eq_some_iff.1 h
      simp [hs]

theorem noRead_fmStep {e s u} (h : fmStep e s = some u) (hs : NoRead s) : NoRead u := by
  unfold fmStep at h
  split at h
  · cases h
  · dsimp only at h
    split at h
    · split at h
      · cases h; simp [hs]
      · obtain ⟨w, hw, rfl⟩ := Option.map_eq_some_iff.1 h
        simp [noRead_dmaNext hw, hs]
    · obtain ⟨w, hw, rfl⟩ := Option.map_eq_some_iff.1 h
      simp [noRead_dmaNext hw, hs]

@[simp] theorem noRead_fmGo (e) : ∀ fuel s, NoRead s → NoRead (fmGo e fuel s)
  | 0, _, hs => hs
  | fuel + 1, s, hs => by
    unfold fmGo
    split
    · exact noRead_fmGo e fuel _ (noRead_fmStep ‹_› hs)
    · exact hs

@[simp] theorem noRead_pumpEng (e s) (hs : NoRead s) : NoRead (pumpEng e s) := by simp [pumpEng, hs]
@[simp] theorem noRead_joinEng (e s) : NoRead (joinEng e s) ↔ NoRead s := by simp [joinEng]

@[simp] theorem noRead_startXfer (id sq toBlock dmode daddr dlen frags h s) (hs : NoRead s) :
    NoRead (startXfer id sq toBlock dmode daddr dlen frags h s) := by simp [startXfer, hs]

/-! ## Threads -/

@[simp] theorem noRead_finishWait (c t rd v s) : NoRead (finishWait c t rd v s) ↔ NoRead s := by simp [finishWait]

/-! ## Hawk -/

@[simp] theorem noRead_lowCheck (k before s) : NoRead (lowCheck k before s) ↔ NoRead s := by simp [lowCheck]

@[simp] theorem noRead_popBuffer (k s) : NoRead (popBuffer k s).2 ↔ NoRead s := by
  unfold popBuffer; split <;> simp

/-- The read that was answered waits no more. -/
@[simp] theorem noRead_answered (s : State) : NoRead { s with port := { s.port with wait := none } } := rfl

@[simp] theorem noRead_deliver (w h s) (hs : NoRead s) : NoRead (deliver w h s) := by
  unfold deliver
  (repeat' split) <;> simp [hs]

@[simp] theorem noRead_serve : ∀ rs kept s, NoRead s → NoRead (serve rs kept s)
  | [], _, _, hs => hs
  | r :: rs, kept, s, hs => by
    unfold serve
    split <;> simp [noRead_serve rs, hs]

@[simp] theorem noRead_serveWaiting (s) (hs : NoRead s) : NoRead (serveWaiting s) := by simp [serveWaiting, hs]
@[simp] theorem noRead_badHandle (h s) : NoRead (badHandle h s) ↔ NoRead s := by simp [badHandle]

@[simp] theorem noRead_freeBuffer (h only s) (hs : NoRead s) : NoRead (freeBuffer h only s) := by
  unfold freeBuffer; split <;> simp [hs]

/-! ## Dma -/

@[simp] theorem noRead_finishEntry (id status result s) : NoRead (finishEntry id status result s) ↔ NoRead s := by
  simp [finishEntry]

@[simp] theorem noRead_freeEntryBuffer (h s) (hs : NoRead s) :
    NoRead (freeEntryBuffer h s) := by simp [freeEntryBuffer, hs]

/-! ## LathBase -/

@[simp] theorem noRead_modLport (x f s) : NoRead (modLport x f s) ↔ NoRead s := Iff.rfl

@[simp] theorem noRead_discardFrame (s) : NoRead (discardFrame s) ↔ NoRead s := Iff.rfl
@[simp] theorem noRead_startTimers (tags s) : NoRead (startTimers tags s) ↔ NoRead s := by simp [startTimers]
@[simp] theorem noRead_giveBack (x b n s) : NoRead (giveBack x b n s) ↔ NoRead s := by simp [giveBack]
@[simp] theorem noRead_giveQueued (q s) : NoRead (giveQueued q s) ↔ NoRead s := by simp [giveQueued]
@[simp] theorem noRead_pumpLath (x s) : NoRead (pumpLath x s) ↔ NoRead s := by simp [pumpLath]
@[simp] theorem noRead_enqueue (x q s) : NoRead (enqueue x q s) ↔ NoRead s := by simp [enqueue]

@[simp] theorem noRead_sendRoute (mode port route f s) : NoRead (sendRoute mode port route f s) ↔ NoRead s := by
  unfold sendRoute
  (repeat' split) <;> simp

@[simp] theorem noRead_sendNode (n f s) : NoRead (sendNode n f s) ↔ NoRead s := by
  unfold sendNode; split <;> simp

@[simp] theorem noRead_sendData (n cls tag) : ∀ fuel bs s, NoRead (sendData n cls tag fuel bs s) ↔ NoRead s
  | 0, _, _ => Iff.rfl
  | fuel + 1, bs, s => by simp [sendData, noRead_sendData n cls tag fuel]

@[simp] theorem noRead_sendComplete (src tag status result data s) :
    NoRead (sendComplete src tag status result data s) ↔ NoRead s := by simp [sendComplete]

/-! ## Operands -/

@[simp] theorem noRead_wantCalib (c s) : NoRead (wantCalib c s) ↔ NoRead s := by simp [wantCalib]
@[simp] theorem noRead_toIdle (c t s) : NoRead (toIdle c t s) ↔ NoRead s := by simp [toIdle]

@[simp] theorem noRead_closePacket (c t s) (hs : NoRead s) :
    NoRead (closePacket c t s).2 := by simp [closePacket, hs]

@[simp] theorem noRead_endHost (e h st res s) (hs : NoRead s) :
    NoRead (endHost e h st res s) := by simp [endHost, hs]

@[simp] theorem noRead_endRemote (e src tag port h st res s) (hs : NoRead s) :
    NoRead (endRemote e src tag port h st res s) := by
  simp [endRemote, hs]

@[simp] theorem noRead_endFetch (e h st s) (hs : NoRead s) : NoRead (endFetch e h st s) := by simp [endFetch, hs]

@[simp] theorem noRead_endEntry (c t id st res s) (hs : NoRead s) : NoRead (endEntry c t id st res s) := by
  unfold endEntry
  (repeat' split) <;> simp [hs]

@[simp] theorem noRead_mapLevels (d s) : NoRead (mapLevels d s) ↔ NoRead s := by simp [mapLevels]
@[simp] theorem noRead_fillTable (c j s) : NoRead (fillTable c j s) ↔ NoRead s := by simp [fillTable]
@[simp] theorem noRead_initLeaves (c s) : NoRead (initLeaves c s) ↔ NoRead s := by simp [initLeaves]

@[simp] theorem noRead_libLeaves (op c e st s) : NoRead (libLeaves op c e st s) ↔ NoRead s := by
  unfold libLeaves; split <;> simp

@[simp] theorem noRead_endLeaves (c th st s) : NoRead (endLeaves c th st s) ↔ NoRead s := by
  unfold endLeaves
  (repeat' split) <;> simp

@[simp] theorem noRead_tryEnd (c t s) (hs : NoRead s) : NoRead (tryEnd c t s) := by
  unfold tryEnd; dsimp only
  (repeat' split) <;> simp [hs]

@[simp] theorem noRead_setEnding (c t st res s) :
    NoRead (setEnding c t st res s) ↔ NoRead s := by simp [setEnding]

@[simp] theorem noRead_recordFault (c t code pc s) :
    NoRead (recordFault c t code pc s) ↔ NoRead s := by simp [recordFault]

@[simp] theorem noRead_eventWords (c t code pc detail s) (hs : NoRead s) :
    NoRead (eventWords c t code pc detail s) := by
  simp [eventWords, hs]

@[simp] theorem noRead_endByEvent (c t code pc s) (hs : NoRead s) :
    NoRead (endByEvent c t code pc s) := by simp [endByEvent, hs]

@[simp] theorem noRead_raiseEvent (c t code detail pc s) (hs : NoRead s) :
    NoRead (raiseEvent c t code detail pc s) := by
  unfold raiseEvent; dsimp only
  split <;> simp [hs]

@[simp] theorem noRead_recognise (c t s) (hs : NoRead s) : NoRead (recognise c t s) := by simp [recognise, hs]

/-! ## Move -/

@[simp] theorem noRead_unlockPop (c t i s) (hs : NoRead s) : NoRead (unlockPop c t i s) := by simp [unlockPop, hs]

/-! ## Streams -/

@[simp] theorem noRead_endPops (i s) (hs : NoRead s) : NoRead (endPops i s) := by
  refine noRead_foldl _ _ hs fun s c h => noRead_foldl _ _ h fun s t h => ?_
  dsimp only
  split
  · exact noRead_if (by simp [h]) h
  · exact h

end Sys2Proof.Machine
end

section
/-! SUPPORT. STR_CTRL, reads of a data window, the freeze of S0 and producers' words (R387-R404, R505). -/

namespace Sys2Proof.Machine

open Sys2Proof Sys2Proof.Spec

/-! ## One stream -/

/-- What becomes of a stream depends on the stream alone. -/
theorem modStrm_congr (i : Nat) {f g : Strm → Strm} {s : State} (h : f (strm s i) = g (strm s i)) :
    modStrm i f s = modStrm i g s :=
  congrArg (fun x => { s with str := tput i x s.str }) h

theorem strm_modStrm_other {i k : Nat} (h : k ≠ i) (f : Strm → Strm) (s : State) :
    strm (modStrm i f s) k = strm s k := by rw [strm_modStrm_eq, if_neg h]

theorem grants_iff {s : State} {i : Nat} : grants s i = true ↔
    (strm s i).enable = true ∧ powered s 1 = true ∧ (strm s i).frozen = false := by
  simp [grants, and_assoc]

section
variable {i : Nat} {s : State}

theorem strm_grantPlaces : strm (grantPlaces i s) i =
    if grants s i then { strm s i with credits := 256 - (strm s i).words.length, late := 0 } else strm s i := by
  unfold grantPlaces
  split
  · exact strm_modStrm ..
  · rfl

theorem offer_grantPlaces : (strm (grantPlaces i s) i).offer = (strm s i).offer := by
  rw [strm_grantPlaces]
  split <;> rfl

theorem grants_grantPlaces : grants (grantPlaces i s) i = grants s i := by
  have hpow : powered (grantPlaces i s) 1 = powered s 1 := by
    unfold grantPlaces
    split <;> rfl
  unfold grants
  rw [strm_grantPlaces, hpow]
  split <;> rfl

theorem grant_of_noOffer (h : (strm s i).offer = none) : grant i s = grantPlaces i s := by
  unfold grant
  dsimp only
  rw [offer_grantPlaces, h]

end

/-! ## Words that arrive (R389, R391, R396) -/

/-- The stream with the word taken: an end mark brings the freeze nearer (R400). -/
def takenWord (sw : SW) (x : Strm) : Strm :=
  let y := { x with
    credits := x.credits - 1, words := x.words ++ [sw], partLen := if sw.em then 0 else x.partLen + 1 }
  if sw.em then countDown y else y

/-- The stream with the word dropped. -/
def droppedWord (sw : SW) (x : Strm) : Strm :=
  let y := { x with
    credits := x.credits - 1, discarded := satInc x.discarded, trim := x.trim && !sw.em,
    partLen := if sw.em then 0 else x.partLen + 1 }
  if sw.em && y.freezing && y.left = 0 then freeze y else y

/-- CROSSED apart, a crossing changes nothing of the stream. -/
theorem strm_crossing (i n : Nat) (s : State) :
    strm (crossing i n s) i = { strm s i with crossed := (strm (crossing i n s) i).crossed } := by
  unfold crossing
  dsimp only
  split
  · have hset : strm (post (srcStream i) (modStrm i (fun x => { x with crossed := true }) s)) i =
        { strm s i with crossed := true } := strm_modStrm i (fun x => { x with crossed := true }) s
    rw [hset]
  · rfl

theorem crossing_of_passed {i n : Nat} {s : State} (hpos : 0 < (strm s i).thresh.toNat)
    (hle : (strm s i).thresh.toNat ≤ 256) (hbelow : n < (strm s i).thresh.toNat)
    (hreach : (strm s i).thresh.toNat ≤ level (strm s i)) :
    crossing i n s = post (srcStream i) (modStrm i (fun x => { x with crossed := true }) s) :=
  if_pos ⟨hpos, hle, hbelow, hreach⟩

section
variable {i : Nat} {s : State} (sw : SW)

theorem sendWord_taken (hg : grants s i = true) (ht : (strm s i).trim = false) :
    sendWord i sw s = crossing i (level (strm s i)) (modStrm i (takenWord sw) s) := by
  have hcond : ¬ (!grants s i || (strm s i).trim) = true := by simp [hg, ht]
  exact (if_neg hcond).trans (congrArg (crossing i _) (modStrm_congr i rfl))

theorem sendWord_dropped (h : grants s i = false ∨ (strm s i).trim = true) :
    sendWord i sw s = modStrm i (droppedWord sw) s := by
  have hcond : (!grants s i || (strm s i).trim) = true := by simpa using h
  exact (if_pos hcond).trans (modStrm_congr i rfl)

theorem powered_sendWord : powered (sendWord i sw s) 1 = powered s 1 := by
  by_cases h : grants s i = true ∧ (strm s i).trim = false
  · rw [sendWord_taken sw h.1 h.2, crossing]
    split <;> rfl
  · rw [sendWord_dropped sw (by simpa [imp_iff_or_not, or_comm] using h)]
    rfl

end

/-- A stream that is not about to freeze takes the word and nothing else. -/
theorem takenWord_plain {sw : SW} {x : Strm} (h : sw.em = false ∨ x.freezing = false) : takenWord sw x = { x with
    credits := x.credits - 1, words := x.words ++ [sw], partLen := if sw.em then 0 else x.partLen + 1 } := by
  unfold takenWord countDown
  rcases h with h | h <;> simp [h]

/-! ## STR_CTRL (R394, R397) -/

section
variable {i : BitVec 2} {a : Acc} {s : State}

theorem streamEnableWrite_eq (hs : PortFree s) (ha : Word a) (v : W64) : ∃ old,
    exec (.streamEnableWrite i a v) s =
      wrote (strRegWrite i 0 (covered a) (stored a old v) (given a v) (atPort s)) := by
  have hi := i.isLt
  refine ⟨regRead (0x480000 + 0x20000 * i.toNat) (atPort s),
    (registerWrite_word (o := 0x480000 + 0x20000 * i.toNat) hs ha (by omega) (by omega)).trans ?_⟩
  rw [regWrite_stream (o := 0) (by omega) hi (by decide), BitVec.ofNat_toNat, BitVec.setWidth_eq]
  rfl

theorem streamEnableWrite_high (hs : PortFree s) (v : W64) :
    exec (.streamEnableWrite i .high v) s = wrote (atPort s) := by
  obtain ⟨old, h⟩ := streamEnableWrite_eq (i := i) hs (a := .high) (.inr (.inr rfl)) v
  have hact : bit (given .high v) 1 = false := by simp [bit, given, covered]
  rw [h, strRegWrite, hact]
  rfl

theorem streamEnableWrite_low (hs : PortFree s) (ha : a = .full ∨ a = .low) (v : W64) :
    exec (.streamEnableWrite i a v) s = wrote
      (if bit v 1 then strFlush i (strEnable i.toNat (bit v 0) (atPort s))
        else strEnable i.toNat (bit v 0) (atPort s)) := by
  obtain ⟨old, h⟩ := streamEnableWrite_eq (i := i) hs (ha.imp_right .inl) v
  rw [h, strRegWrite, bit_covered_zero ha, bit_stored ha old v (by decide), bit_given ha v (by decide)]
  rfl

end

theorem exec_flush (i : BitVec 2) (a : Acc) (v : W64) (s : State) :
    exec (.flush i a v) s = exec (.streamEnableWrite i a (v ||| flag 1 true)) s := rfl

theorem strEnable_of_free (i : Nat) (b : Bool) {s : State} (h : s.port.wait = none) :
    strEnable i b s = grant i (modStrm i (fun y => { y with enable := b }) s) := grantServe_of_free i h

set_option maxRecDepth 1000 in
/-- A flush ends the pops of the stream; no read of the window waits to be ended too. -/
theorem strFlush_of_free (i : BitVec 2) {s : State} (h : s.port.wait = none) :
    strFlush i s = endPops i.toNat (grant i.toNat (modStrm i.toNat (fun y => { y with
      words := y.words.take y.reserved, discarded := satAdd y.discarded (y.words.length - y.reserved),
      trim := y.trim || decide (0 < y.partLen), flushTrim := y.flushTrim || decide (0 < y.partLen) }) s)) := by
  unfold strFlush
  extract_lets x n s1 s2
  have hs1 : NoRead s1 := h
  have hs2 : NoRead s2 := noRead_endPops _ _ ((noRead_grant _ _).2 hs1)
  have heq : s2 = endPops i.toNat (grant i.toNat s1) := rfl
  clear_value s2
  rw [hs2]
  exact heq.trans (congrArg (fun t => endPops i.toNat (grant i.toNat t)) (modStrm_congr _ rfl))

/-! ## Reads of a data window (R402) -/

section
variable {i : BitVec 2} {s : State}

theorem dataWindowRead_eq (hs : PortFree s) :
    exec (.streamDataWindowRead i 0 .full) s = .next (dataWindow i 0x10000 .full (atPort s)) := by
  have hi := i.isLt
  have hoff : strBase i + 0x10000 + (0 : BitVec 16).toNat = 0x480000 + 0x20000 * i.toNat + 0x10000 := by
    rw [strBase, show (0 : BitVec 16).toNat = 0 from rfl, Nat.add_zero]
  have hdiv : (0x480000 + 0x20000 * i.toNat + 0x10000 - 0x480000) / 0x20000 = i.toNat := by omega
  have hmod : (0x480000 + 0x20000 * i.toNat + 0x10000 - 0x480000) % 0x20000 = 0x10000 := by omega
  have hread := getReg_word (o := strBase i + 0x10000 + (0 : BitVec 16).toNat) hs.wait hs.held hs.boot (a := .full)
    (.inl rfl) (by omega) (by omega)
  refine hread.trans ?_
  change Host.Outcome.next (portRead _ .full (atPort s)) = _
  rw [hoff]
  unfold portRead
  dsimp only
  rw [if_neg (by decide), if_neg (by omega), if_neg (by omega), if_pos (by omega), hdiv, hmod, BitVec.ofNat_toNat,
    BitVec.setWidth_eq]

theorem dataWindow_there (hp : powered s 1 = true) : dataWindow i 0x10000 .full s =
    if served s i then answer { ok := false } s
    else ((windowPop i.toNat s).map fun r => answer { ok := true, value := r.1 } r.2).getD
      { s with port := { s.port with wait := some (.window i s.time) } } := by
  have hthere : stgThere s = true := hp
  unfold dataWindow
  rw [if_neg (by simp [hthere])]
  cases windowPop i.toNat s <;> rfl

end

theorem windowPop_empty {i : Nat} {s : State} (h : (strm s i).words = []) : windowPop i s = none := by
  simp only [windowPop, popWord, h]

theorem popWord_cons {i : Nat} {s : State} {h : SW} {tl : List SW} (hw : (strm s i).words = h :: tl) :
    popWord i s = some (h, grant i (modStrm i (fun x => { x with words := tl, reserved := x.reserved - 1 }) s)) := by
  simp only [popWord, hw]

theorem windowPop_cons {i : Nat} {s : State} {h : SW} {tl : List SW} (hw : (strm s i).words = h :: tl) :
    windowPop i s = some (h.w, modStrm i (fun x => { x with lastEm := h.em })
      (grant i (modStrm i (fun x => { x with words := tl, reserved := x.reserved - 1 }) s))) := by
  simp only [windowPop, popWord_cons hw]

theorem streamCommands_spec : Spec.StreamCommands := by
  rintro i a v s x q hs rfl rfl
  refine ⟨streamEnableWrite_high hs v, streamEnableWrite_high hs _, fun ha => ⟨fun h1 => ?enable, ?flush⟩,
    fun hp => ⟨fun hserved => ?served, fun hserved hempty => ?waits, fun h tl hserved hw => ?pops⟩⟩
  case enable =>
    rw [streamEnableWrite_low hs ha, bit_eq_false_of_bits h1, if_neg Bool.false_ne_true,
      strEnable_of_free i.toNat (bit v 0) (s := atPort s) hs.wait]
  case flush =>
    have hflush : bit (v ||| flag 1 true) 1 = true := by simp [bit, flag]
    have henable : bit (v ||| flag 1 true) 0 = bit v 0 := by simp [bit, flag]
    rw [exec_flush, streamEnableWrite_low hs ha, hflush, henable, if_pos rfl,
      strEnable_of_free i.toNat (bit v 0) (s := atPort s) hs.wait, strFlush_of_free]
    rw [grant_port]
    exact hs.wait
  case served =>
    rw [dataWindowRead_eq hs, dataWindow_there (s := atPort s) hp]
    exact congrArg _ (if_pos hserved)
  case waits =>
    rw [dataWindowRead_eq hs, dataWindow_there (s := atPort s) hp, windowPop_empty (s := atPort s) hempty]
    exact congrArg _ (if_neg (by rw [show served (atPort s) i = false from hserved]; exact Bool.false_ne_true))
  case pops =>
    rw [dataWindowRead_eq hs, dataWindow_there (s := atPort s) hp, windowPop_cons (s := atPort s) hw]
    exact congrArg _ (if_neg (by rw [show served (atPort s) i = false from hserved]; exact Bool.false_ne_true))

/-! ## Producers' words at an input (R389, R505) -/

/-- No access waits behind another: the port does nothing more. -/
theorem portGo_of_noneHeld {s : State} (h : s.port.held = []) : portGo s = s := by
  unfold portGo
  rw [h]
  rfl

theorem streamWordIn_port (i : BitVec 2) (w : W64) (em : Bool) {s : State} (h : s.port.wait = none) :
    (streamWordIn i w em s).port = s.port := by
  unfold streamWordIn
  split
  · rfl
  · split
    · exact acceptWord_port _ _ h
    · split
      · exact sendWord_port ..
      · rfl

section
variable {i : BitVec 2} {w : W64} {em : Bool} {s : State} (hw : s.port.wait = none) (hh : s.port.held = [])
include hw hh

theorem exec_streamWordIn : exec (.streamWordIn i w em) s = .next (streamWordIn i w em s) :=
  congrArg _ (portGo_of_noneHeld (by rw [streamWordIn_port i w em hw, hh]))

/-- A word sent against a credit. -/
theorem exec_streamWordIn_credit (hi : i.toNat < 2) (hc : 0 < (strm s i.toNat).credits) :
    exec (.streamWordIn i w em) s = .next (grant i.toNat (sendWord i.toNat ⟨w, em, false⟩ s)) := by
  have hne : (strm s i.toNat).credits ≠ 0 := Nat.ne_of_gt hc
  rw [exec_streamWordIn hw hh, streamWordIn, if_neg (Nat.not_le.2 hi), if_pos hne, acceptWord, if_neg hne,
    grantServe_of_free _ (by rwa [sendWord_port])]

end

section
variable {i : Nat} {sw : SW} {s : State} (hg : grants s i = true) (ht : (strm s i).trim = false)
include hg ht

theorem strm_sendWord_taken : strm (sendWord i sw s) i =
    { takenWord sw (strm s i) with crossed := (strm (sendWord i sw s) i).crossed } := by
  have hcross := strm_crossing i (level (strm s i)) (modStrm i (takenWord sw) s)
  rwa [← sendWord_taken sw hg ht, strm_modStrm] at hcross

theorem offer_sendWord_taken : (strm (sendWord i sw s) i).offer = (strm s i).offer := by
  have hkept (x : Strm) : (takenWord sw x).offer = x.offer := by
    unfold takenWord countDown
    dsimp only
    (repeat' split) <;> rfl
  rw [strm_sendWord_taken hg ht]
  exact hkept _

/-- The stream after a word that it takes: a stream that has not frozen grants a credit for each free place. -/
theorem strm_grantPlaces_taken : strm (grantPlaces i (sendWord i sw s)) i =
    if (takenWord sw (strm s i)).frozen = false
    then { takenWord sw (strm s i) with
      crossed := (strm (sendWord i sw s) i).crossed, late := 0
      credits := 256 - (takenWord sw (strm s i)).words.length }
    else { takenWord sw (strm s i) with crossed := (strm (sendWord i sw s) i).crossed } := by
  have henable (x : Strm) : (takenWord sw x).enable = x.enable := by
    unfold takenWord countDown
    dsimp only
    (repeat' split) <;> rfl
  obtain ⟨hen, hpow, -⟩ := grants_iff.1 hg
  have hgrants : grants (sendWord i sw s) i = true ↔ (takenWord sw (strm s i)).frozen = false := by
    rw [grants_iff, powered_sendWord, strm_sendWord_taken hg ht]
    simp [henable, hen, hpow]
  rw [strm_grantPlaces, strm_sendWord_taken hg ht]
  exact if_congr hgrants rfl rfl

theorem grant_taken (ho : (strm s i).offer = none) : grant i (sendWord i sw s) = grantPlaces i (sendWord i sw s) :=
  grant_of_noOffer ((offer_sendWord_taken hg ht).trans ho)

end

/-! ## The freeze of S0 (R400, R404) -/

section
variable {s : State}

theorem traceFreeze_not (h : (strm s 0).freezeEn = false ∨ (strm s 0).freezing = true ∨ (strm s 0).frozen = true) :
    traceFreeze s = s := if_pos (by rcases h with h | h | h <;> simp [h])

variable (hen : (strm s 0).freezeEn = true) (hing : (strm s 0).freezing = false) (hfrozen : (strm s 0).frozen = false)
include hen hing hfrozen

theorem traceFreeze_atOnce (hpost : (strm s 0).post = 0) (hpart : (strm s 0).partLen = 0) :
    traceFreeze s = modStrm 0 (fun x => freeze { x with left := 0 }) s :=
  (if_neg (by simp [hen, hing, hfrozen])).trans (if_pos (by simp [hpost, hpart]))

theorem traceFreeze_starts (h : (strm s 0).post ≠ 0 ∨ (strm s 0).partLen ≠ 0) :
    traceFreeze s = modStrm 0 (fun x => { x with freezing := true, left := x.post }) s :=
  (if_neg (by simp [hen, hing, hfrozen])).trans (if_neg (by simpa [imp_iff_not_or] using h))

end

theorem strm_traceFreeze_other {k : Nat} (hk : k ≠ 0) (s : State) : strm (traceFreeze s) k = strm s k := by
  unfold traceFreeze
  dsimp only
  split
  · rfl
  · split <;> exact strm_modStrm_other hk ..

/-- An end mark before the last that the freeze waits for. -/
theorem takenWord_mark {sw : SW} {x : Strm} (hem : sw.em = true) (hf : x.freezing = true) (hl : 1 < x.left.toNat) :
    takenWord sw x = { x with
      credits := x.credits - 1, words := x.words ++ [sw], partLen := 0, left := x.left - 1 } := by
  have h0 : ¬ x.left = 0#8 := by bv_omega
  have h1 : ¬ x.left - 1#8 = 0#8 := by bv_omega
  simp [takenWord, countDown, hem, hf, h0, h1]

/-- The last end mark that the freeze waits for. -/
theorem takenWord_lastMark {sw : SW} {x : Strm} (hem : sw.em = true) (hf : x.freezing = true)
    (hl : x.left.toNat ≤ 1) : takenWord sw x = { x with
      credits := x.credits - 1, words := x.words ++ [sw], partLen := 0, left := 0, freezing := false,
      frozen := true } := by
  have h : x.left = 0 ∨ x.left = 1 := by bv_omega
  rcases h with h | h <;> simp [takenWord, countDown, freeze, hem, hf, h]

section
variable {i : Nat} {s : State} (h : grants s i = false)
include h

theorem grantPlaces_of_not : grantPlaces i s = s := if_neg (by rw [h]; exact Bool.false_ne_true)

end

theorem frozen_droppedWord {sw : SW} {x : Strm} (h : x.frozen = true) : (droppedWord sw x).frozen = true := by
  unfold droppedWord
  dsimp only
  split
  · rfl
  · exact h

/-- A word that is dropped may complete the freeze; what else it changes is its credit and the counts. -/
theorem droppedWord_eq (sw : SW) (x : Strm) : droppedWord sw x = { x with
    credits := x.credits - 1, discarded := satInc x.discarded, trim := x.trim && !sw.em
    partLen := if sw.em then 0 else x.partLen + 1
    freezing := (droppedWord sw x).freezing, frozen := (droppedWord sw x).frozen } := by
  unfold droppedWord
  dsimp only
  split <;> rfl

theorem credits_droppedWord (sw : SW) (x : Strm) : (droppedWord sw x).credits = x.credits - 1 := by
  rw [droppedWord_eq]

theorem grants_of_frozen {i : Nat} {s : State} (h : (strm s i).frozen = true) : grants s i = false := by
  simp [grants, h]

section
variable {i : Nat} {s : State}

theorem grant_noCredit (h : (strm (grantPlaces i s) i).credits = 0) : grant i s = grantPlaces i s := by
  unfold grant
  dsimp only
  split
  · exact if_pos h
  · rfl

/-- The word at the input is taken once a place is free. -/
theorem grant_of_offer {sw : SW} (ho : (strm s i).offer = some sw) (hc : (strm (grantPlaces i s) i).credits ≠ 0) :
    grant i s = grantPlaces i (sendWord i sw (modStrm i (fun x => { x with offer := none }) (grantPlaces i s))) := by
  unfold grant
  dsimp only
  rw [offer_grantPlaces, ho]
  exact if_neg hc

theorem credits_grant_of_frozen (h : (strm s i).frozen = true) :
    (strm (grant i s) i).credits ≤ (strm s i).credits := by
  have hnone := grantPlaces_of_not (grants_of_frozen h)
  by_cases hc : (strm s i).credits = 0
  · rw [grant_noCredit (by rwa [hnone]), hnone]
  · cases ho : (strm s i).offer with
    | none => rw [grant_of_noOffer ho, hnone]
    | some sw =>
      have hfrozen : (strm (modStrm i (fun x => { x with offer := none }) s) i).frozen = true := by
        rwa [strm_modStrm]
      have hdropped := grants_of_frozen (i := i)
        (s := modStrm i (droppedWord sw) (modStrm i (fun x => { x with offer := none }) s))
        (by rw [strm_modStrm]; exact frozen_droppedWord hfrozen)
      rw [grant_of_offer ho (by rwa [hnone]), hnone, sendWord_dropped sw (.inl (grants_of_frozen hfrozen)),
        grantPlaces_of_not hdropped, strm_modStrm, strm_modStrm, credits_droppedWord]
      exact Nat.sub_le ..

end

theorem words_takenWord (sw : SW) (x : Strm) : (takenWord sw x).words = x.words ++ [sw] := by
  unfold takenWord countDown
  dsimp only
  (repeat' split) <;> rfl

/-! ## FROZEN of STR_STATUS (R404) -/

/-- The flags to which a write has 1. -/
def clearFlags (act : W64) (x : Strm) : Strm :=
  { x with
    dropped := x.dropped && !bit act 6, frozen := x.frozen && !bit act 5, forcedEnd := x.forcedEnd && !bit act 3,
    flushTrim := x.flushTrim && !bit act 2, rdExpired := x.rdExpired && !bit act 1,
    crossed := x.crossed && !bit act 0 }

theorem registerWrite_strStatus {s : State} (hs : PortFree s) (v : W64) : exec (.registerWrite 0x480018 .full v) s =
    wrote (grant 0 (modStrm 0 (clearFlags (given .full v)) (atPort s))) := by
  refine (registerWrite_word (o := 0x480018) hs (.inl rfl) (by decide) (by decide)).trans ?_
  rw [regWrite_stream (k := 0) (o := 0x18) rfl (by decide) (by decide)]
  exact congrArg wrote (grantServe_of_free 0 hs.wait)

theorem exec_servoFaultMsg {m : BitVec 3} {l : BitVec 4} {s : State} (h1 : s.gctl.boot ≠ .inReset)
    (h2 : s.gctl.boot ≠ .init) : ∃ u, (∀ k, strm u k = strm s k) ∧
    exec (.servoFaultMsg m l) s = .next (traceFreeze u) := by
  refine ⟨_, ?_, congrArg _ (if_neg (by simp [h1, h2]))⟩
  exact fun _ => rfl

theorem streamFreeze_spec : Spec.StreamFreeze := by
  rintro s q rfl
  refine ⟨fun m l h1 h2 => ?fault, fun w em hw hh hc ho hg ht hf => ?marks, fun hfrozen =>
    ⟨grants_of_frozen hfrozen, credits_grant_of_frozen hfrozen⟩, fun v hs hfrozen ho h5 => ?release⟩
  case fault =>
    obtain ⟨u, hu, hexec⟩ := exec_servoFaultMsg (m := m) (l := l) h1 h2
    refine ⟨traceFreeze u, hexec, fun k hk => (strm_traceFreeze_other hk u).trans (hu k), fun h => ?_,
      fun hen hing hfrozen => ⟨fun hpost hpart => ?_, fun h => ?_⟩⟩
    all_goals rw [← hu 0] at *
    · rw [traceFreeze_not h]
    · rw [traceFreeze_atOnce hen hing hfrozen hpost hpart, strm_modStrm, freeze, hing]
    · rw [traceFreeze_starts hen hing hfrozen h, strm_modStrm]
  case marks =>
    obtain ⟨-, -, hfrozen⟩ := grants_iff.1 hg
    have hy := strm_grantPlaces_taken (sw := ⟨w, em, false⟩) hg ht
    rw [← grant_taken hg ht ho] at hy
    refine ⟨_, exec_streamWordIn_credit (i := 0) hw hh (by decide) hc, _, rfl, ?_, fun hem => ?_, fun hem hl => ?_,
      fun hem hl => ?_⟩
    all_goals
      change _ = _ at hy
      rw [show (0 : BitVec 2).toNat = 0 from rfl, hy]
    · split <;> exact words_takenWord ..
    · rw [takenWord_plain (.inl hem), if_pos hfrozen]
      exact ⟨hf, rfl, rfl⟩
    · rw [takenWord_mark hem hf hl, if_pos hfrozen]
      exact ⟨hf, rfl, rfl⟩
    · rw [takenWord_lastMark hem hf hl, if_neg (by simp)]
      exact ⟨rfl, rfl, rfl⟩
  case release =>
    have hact : bit (given .full v) 5 = true := by
      rw [bit_given (.inl rfl) v (by decide), bit_eq_true_of_bits h5]
    have hreleased : (clearFlags (given .full v) (strm s 0)).frozen = false := by simp [clearFlags, hact]
    refine ⟨_, registerWrite_strStatus hs v, ?_⟩
    have hstrm : strm (modStrm 0 (clearFlags (given .full v)) (atPort s)) 0 = clearFlags (given .full v) (strm s 0) :=
      strm_modStrm ..
    rw [grant_of_noOffer (by rw [hstrm]; exact ho), strm_grantPlaces, hstrm]
    refine ⟨?_, ?_, fun hen hp => ?_⟩
    · split <;> exact hreleased
    · split <;> rfl
    · rw [if_pos (grants_iff.2 (by rw [hstrm]; exact ⟨hen, hp, hreleased⟩))]
      rfl

section
variable {i : Nat} {sw : SW} {s : State} (hg : grants s i = true) (ht : (strm s i).trim = false)
  (hf : (strm s i).freezing = false)
include hg ht hf

/-- The word that waits at the input takes the place that has become free. -/
theorem strm_grant_offer (ho : (strm s i).offer = some sw) (hlen : (strm s i).words.length < 256) :
    (strm (grant i s) i).words = (strm s i).words ++ [sw] ∧ (strm (grant i s) i).offer = none ∧
    (strm (grant i s) i).credits = 256 - ((strm s i).words.length + 1) := by
  obtain ⟨hen, -, hfrozen⟩ := grants_iff.1 hg
  have hplaces := strm_grantPlaces (i := i) (s := s)
  rw [if_pos hg] at hplaces
  rw [grant_of_offer ho (by rw [hplaces]; exact Nat.sub_ne_zero_of_lt hlen)]
  generalize hz : modStrm i (fun x => { x with offer := none }) (grantPlaces i s) = z
  have hstrm : strm z i = { strm s i with
      credits := 256 - (strm s i).words.length, late := 0, offer := none } := by
    rw [← hz, strm_modStrm, hplaces]
  have hpow : powered z 1 = true := by
    obtain ⟨-, h, -⟩ := grants_iff.1 (grants_grantPlaces.trans hg)
    rw [← hz]
    exact h
  have htaken := strm_grantPlaces_taken (sw := sw) (grants_iff.2 (by rw [hstrm]; exact ⟨hen, hpow, hfrozen⟩))
    (by rw [hstrm]; exact ht)
  rw [takenWord_plain (.inr (by rw [hstrm]; exact hf)), hstrm, if_pos hfrozen] at htaken
  rw [htaken]
  exact ⟨rfl, rfl, by simp⟩

/-- The word with which the level reaches the threshold (R396). -/
theorem sendWord_crosses (hpos : 0 < (strm s i).thresh.toNat) (hmax : (strm s i).thresh.toNat ≤ 256)
    (hunit : (strm s i).unit = false) (hreach : (strm s i).words.length + 1 = (strm s i).thresh.toNat) :
    sendWord i sw s = post (srcStream i) (modStrm i (fun x => { x with crossed := true })
      (modStrm i (takenWord sw) s)) := by
  have hstrm := strm_modStrm i (takenWord sw) s
  rw [takenWord_plain (.inr hf)] at hstrm
  have hbefore : level (strm s i) = (strm s i).words.length := by simp [level, hunit]
  have hafter : level (strm (modStrm i (takenWord sw) s) i) = (strm s i).words.length + 1 := by
    simp [level, hstrm, hunit]
  rw [sendWord_taken sw hg ht]
  exact crossing_of_passed (by rw [hstrm]; exact hpos) (by rw [hstrm]; exact hmax)
    (by rw [hstrm, hbefore]; change _ < (strm s i).thresh.toNat; omega)
    (by rw [hafter, hstrm]; exact hreach.ge)

end

theorem pendOf_grantPlaces (i n : Nat) (s : State) : pendOf (grantPlaces i s) n = pendOf s n := by
  unfold grantPlaces
  split <;> rfl

/-! ## A read of the window that waits ends at RD_WAIT (R402) -/

section
variable {j : BitVec 2} {since : W64} {s u : State}
  (hu : u = { s with port := { s.port with wait := some (.window j since) } })
include hu

theorem rdWaitExpiry_early (h : (strm s j.toNat).rdWait = 0 ∨
    (s.time - since).toNat < (strm s j.toNat).rdWait.toNat * 1000) : exec .rdWaitExpiry u = .next u := by
  have hdue : windowDue u j since = false := by
    subst hu
    refine Bool.eq_false_iff.2 fun hdue => ?_
    obtain ⟨hne, hle⟩ := (Bool.and_eq_true_iff.1 hdue).imp of_decide_eq_true of_decide_eq_true
    rcases h with h | h
    · exact hne (congrArg BitVec.toNat h)
    · exact absurd hle (Nat.not_le.2 h)
  refine congrArg Host.Outcome.next (?_ : rdWaitExpiry u = _)
  rw [rdWaitExpiry, show u.port.wait = some (.window j since) by rw [hu]]
  exact if_neg (by rw [hdue]; exact Bool.false_ne_true)

theorem rdWaitExpiry_due (hw : s.port.wait = none) (hh : s.port.held = []) (hne : (strm s j.toNat).rdWait ≠ 0)
    (hle : (strm s j.toNat).rdWait.toNat * 1000 ≤ (s.time - since).toNat) : exec .rdWaitExpiry u =
      .next { modStrm j.toNat (fun y => { y with rdExpired := true }) s with
        port := { s.port with resp := [{ ok := false }] } } := by
  have hdue : windowDue u j since = true := by
    subst hu
    refine Bool.and_eq_true_iff.2 ⟨decide_eq_true fun h => hne (BitVec.eq_of_toNat_eq h), decide_eq_true hle⟩
  refine congrArg Host.Outcome.next (?_ : rdWaitExpiry u = _)
  rw [rdWaitExpiry, show u.port.wait = some (.window j since) by rw [hu]]
  have hheld : (windowExpire j u).port.held = [] := by
    subst hu
    exact hh
  refine (if_pos hdue).trans ((portGo_of_noneHeld hheld).trans ?_)
  subst hu
  dsimp only
  rw [hw]
  rfl

end

/-! ## The statement -/

theorem streamInput_spec : Spec.StreamInput := by
  rintro i w em s q rfl hw hh
  refine ⟨fun hi => ?none, fun hi hc h => ?waits, fun hi hc hlate hg => ?late, fun sw h tl hc ho hwords hle hg ht hf =>
    ?pop, fun hi hc ho hg ht hf => ?kept, fun hi hc ho h => ?dropped, fun j since u hu =>
    ⟨rdWaitExpiry_due hu hw hh, rdWaitExpiry_early hu⟩⟩
  case none =>
    rw [exec_streamWordIn hw hh, streamWordIn, if_pos hi]
  case waits =>
    have hlate : ¬ (decide ((strm s i.toNat).late ≠ 0) && !grants s i.toNat) = true := by
      rcases h with h | h <;> simp [h]
    rw [exec_streamWordIn hw hh, streamWordIn, if_neg (Nat.not_le.2 hi), if_neg (not_not.2 hc), if_neg hlate]
    refine congrArg _ (modStrm_congr _ ?_)
    cases (strm s i.toNat).offer <;> rfl
  case late =>
    have hcond : (decide ((strm s i.toNat).late ≠ 0) && !grants s i.toNat) = true := by simp [hg]; omega
    have hgrants : grants (modStrm i.toNat (fun x => { x with late := x.late - 1 }) s) i.toNat = false :=
      (grants_modStrm (f := fun x => { x with late := x.late - 1 }) (fun _ => rfl) (fun _ => rfl)).trans hg
    refine ⟨_, exec_streamWordIn hw hh, _, rfl, ?_⟩
    rw [streamWordIn, if_neg (Nat.not_le.2 hi), if_neg (not_not.2 hc), if_pos hcond, sendWord_dropped _ (.inl hgrants),
      strm_modStrm, strm_modStrm, droppedWord_eq]
    exact ⟨rfl, by rw [hc], rfl, rfl, rfl⟩
  case pop =>
    refine ⟨_, popWord_cons hwords, ?_⟩
    obtain ⟨hen, hpow, hfrozen⟩ := grants_iff.1 hg
    have hstrm := strm_modStrm i.toNat (fun x => { x with words := tl, reserved := x.reserved - 1 }) s
    obtain ⟨hwords', hoffer, hcred⟩ := strm_grant_offer (sw := sw)
      (grants_iff.2 (by rw [hstrm]; exact ⟨hen, hpow, hfrozen⟩)) (by rw [hstrm]; exact ht)
      (by rw [hstrm]; exact hf) (by rw [hstrm]; exact ho) (by rw [hstrm]; rw [hwords] at hle; exact hle)
    rw [hstrm] at hwords' hcred
    exact ⟨hwords', hoffer, hcred⟩
  case kept =>
    obtain ⟨-, -, hfrozen⟩ := grants_iff.1 hg
    have htaken := strm_grantPlaces_taken (sw := ⟨w, em, false⟩) hg ht
    rw [takenWord_plain (.inr hf), if_pos hfrozen, ← grant_taken hg ht ho] at htaken
    refine ⟨_, exec_streamWordIn_credit hw hh hi hc, _, rfl, ?_⟩
    rw [htaken]
    refine ⟨rfl, by simp, rfl, fun hpos hmax hunit hreach => ?_⟩
    rw [grant_taken hg ht ho, sendWord_crosses hg ht hf hpos hmax hunit hreach, pendOf_grantPlaces]
    exact ⟨congrArg Strm.crossed (strm_modStrm i.toNat (fun x => { x with crossed := true }) _), pendOf_post_self ..⟩
  case dropped =>
    refine ⟨_, exec_streamWordIn_credit hw hh hi hc, _, rfl, ?_⟩
    have hdropped := strm_modStrm i.toNat (droppedWord ⟨w, em, false⟩) s
    rw [sendWord_dropped _ h, grant_of_noOffer (by rw [hdropped, droppedWord_eq]; exact ho), strm_grantPlaces, hdropped,
      droppedWord_eq]
    split <;> exact ⟨rfl, rfl, rfl⟩

/-- Settles O29: STR_CTRL and the window, the freeze of S0, and producers' words, each branch by its rule. -/
theorem streamCommands : Obligations.StreamCommands := ⟨streamCommands_spec, streamFreeze_spec, streamInput_spec⟩

end Sys2Proof.Machine
end

section
/-! SUPPORT. A descriptor read that fails at a halt, of an entry that two transfers name (R363). -/

namespace Sys2Proof.Machine

open Sys2Proof Sys2Proof.Spec

/-- The descriptor read of an entry's list. -/
def listRequest : FmReq := { port := 0, who := .desc (.entry 0), write := false, addr := 0, len := 32 }

/-- The transfer whose first descriptor is being read. -/
def firstTransfer : Xfer := { ref := .entry 0, eng := 0, toBlock := false, nextAt := some 0 }

/-- A second transfer of the same entry, which has one descriptor. -/
def secondTransfer : Xfer := { firstTransfer with descs := [readDsc 0 0 0 0] }

/-- The state after the halt, once the fabric has answered the read. -/
def readAnswered : State :=
  { State.reset with
    gctl := { State.reset.gctl with halted := true }
    qe := { State.reset.qe with store := [{ id := 0, words := [], kind := .host }] }
    xfer := [firstTransfer, secondTransfer] }

/-- The same with the read outstanding. -/
def readOutstanding : State := { readAnswered with fm := [listRequest] }

/-- What is due to be written back of each transfer. -/
def duesOf (o : Out) : Option (List (List Nat)) :=
  match o with
  | .next t => some (t.xfer.map (·.due))
  | _ => none

theorem answered_readOutstanding : Answered (.desc (.entry 0)) readOutstanding listRequest readAnswered := rfl

/-- The fault is set in every transfer of the entry: the second one has a descriptor 0, which is due then. -/
theorem duesOf_listRead : duesOf (exec (.dmaDescriptorReadDone (.entry 0) .error) readOutstanding) =
    some [[], [0]] := by
  decide +kernel

/-- Refutes O31: an error response to a descriptor read is said to leave nothing due. That holds where one transfer
names the entry, but the statement is about every state: of the two transfers of `readOutstanding`, the model makes the
descriptor of the second due, and at a halt both stay as they are. -/
theorem not_dmaTransfers : ¬ Obligations.DmaTransfers := by
  rintro ⟨-, ⟨-, -, -, hlist⟩, -⟩
  obtain ⟨herror, -⟩ := hlist 0 readOutstanding readAnswered listRequest firstTransfer
    { id := 0, words := [], kind := .host } 0 answered_readOutstanding rfl rfl rfl
  have hdues := congrArg duesOf herror
  rw [duesOf_listRead] at hdues
  exact absurd hdues (by decide +kernel)

end Sys2Proof.Machine
end
